-- ==== Sys2Proof/Word.lean ====
section
/-! DEFINITION. The machine's words and their plainest arithmetic. -/

namespace Sys2Proof

/-- A general register, an address, a control register (01 R16, R18). -/
abbrev Word := BitVec 64

/-- A byte of memory. -/
abbrev Byte := BitVec 8

/-- One instruction word (02 R34). -/
abbrev Half32 := BitVec 32

/-- A vector register: 8 rows of 16 bytes (01 R16). -/
abbrev Tile := BitVec 1024

/-- Bits [h:l] of a natural number (00 R8). -/
def bits (x h l : Nat) : Nat := (x >>> l) % 2 ^ (h + 1 - l)

/-- Bit k of a natural number. -/
def bit (x k : Nat) : Bool := (x >>> k) % 2 == 1

/-- The integer that the low n bits of x hold in two's complement. -/
def toS (x n : Nat) : Int :=
  let y := x % 2 ^ n
  if n = 0 then 0 else if 2 ^ (n - 1) ≤ y then (y : Int) - 2 ^ n else y

/-- An exact integer wrapped to 64 bits. -/
def wrap (x : Int) : Word := BitVec.ofInt 64 x

/-- sext(x, n) of 00 R10: the low n bits of x, sign-extended to 64 bits. -/
def sext64 (x n : Nat) : Word := wrap (toS x n)

/-- A truth value as a number. -/
def b2n (b : Bool) : Nat := if b then 1 else 0

/-- A truth value as a word. -/
def b2w (b : Bool) : Word := if b then 1 else 0

end Sys2Proof
end

