-- ==== Sys2Proof/Syntax.lean ====
section
/-! DEFINITION. The steps of the machine: one constructor of `Instr` for each row of spec/opcode_table.json. A row
with an encoding takes the row's variable fields, in the order of the table. A row without one is a Casement
micro-operation (11 R286, R447) or a step of another agent, and takes what the step is about. -/

namespace Sys2Proof

/-- The fields of a Casement microword beside OP (11 R286). -/
structure Micro where
  d : BitVec 4
  a : BitVec 4
  b : BitVec 4
  x : BitVec 16
  imm : BitVec 32
  deriving DecidableEq, Repr

/-- The engines of a core (10 R243). -/
inductive Engine where
  | matrix | copy | exponent
  deriving DecidableEq, Repr

/-- What comes back for a request: `here` for one that this module performed, and for one sent to another module
what that module answered (23 R437-R440). -/
inductive FabricReply where
  | here
  | data (bytes : BitVec 128)
  | poisoned
  | refused (cause : BitVec 8)
  deriving DecidableEq, Repr

/-- What the scrubber finds in a line of local memory (08 R190). -/
inductive ScrubError where
  | clean
  | correctable
  | uncorrectable (sector : BitVec 2)
  deriving DecidableEq, Repr

/-- Where an error falls in a cluster (13 R323) or in the HBM behind it (21 R424 to R426): `line` is a physical line number,
`sector` a physical address / 128. A corrected error is a single bit that SECDED or on-die ECC has put right; `checkValue` is a
stored check value, found in HBM, that the sector's bytes no longer give. -/
inductive SlicePlace where
  | cleanSector (line : Nat) (sector : BitVec 2)
  | dirtySector (line : Nat) (sector : BitVec 2)
  | tag (line : Nat) (way : BitVec 4)
  | jambBuffer (line : Nat)
  | routerBuffer
  | corrected (line : Nat)
  | checkValue (sector : Nat) (stored : BitVec 32)
  deriving DecidableEq, Repr

/-- What Beline fixes when it creates a partition (21 R411, R412, R417; 15 R333; 13 R311): `level2`, `level3` and `page` are the
physical addresses of the tables and the page of the doorbell, where the page table has none yet. -/
structure PartitionSpec where
  vf : BitVec 4
  px0 : BitVec 8
  py0 : BitVec 7
  wm1 : BitVec 8
  hm1 : BitVec 7
  deadline : BitVec 24
  ptroot : Word
  mask0 : Word
  trapVector : Word
  doorbell : Word
  level2 : Nat
  level3 : Nat
  page : Nat
  deriving DecidableEq, Repr

/-- A write of management state by Beline, or its read of a configuration word (13 R305, R311; 15 R325, R329, R333, R336; 21 R412, R431; 23 R436, R442). -/
inductive ConfigWrite where
  | cluster (x y : Nat) (word : Word)
  | coreMap (x y : Nat) (virtualCore : BitVec 4) (physicalCore : BitVec 5)
  | columnMap (die : Nat) (map : BitVec 192)
  | remap (vf : BitVec 4) (entry : Word)
  | ptroot (vf : BitVec 4) (root : Word)
  | groupMask (vf : BitVec 4) (k : BitVec 3) (mask : Word)
  | pageEntry (vf : BitVec 4) (pa : Nat) (entry : Word)
  | deadline (vf : BitVec 4) (us : BitVec 24)
  | trapVector (vf : BitVec 4) (v : Word)
  | checkpointList (vf : BitVec 4) (regions : List (Nat × Nat))
  | peer (vf : BitVec 4) (module : BitVec 11) (entry : Word)
  | endpoint (vf : BitVec 4) (endpoint : Nat)
  | fabricNumber (n : BitVec 11)
  | powerBudget (vf : BitVec 4) (n : Nat)
  | sleepCeiling (d : BitVec 2)
  | restoreWay (x y : Nat) (way : BitVec 4)
  | readCluster (x y : Nat)
  deriving DecidableEq, Repr

/-- An access of Beline's debug path to a halted hart (06 R179). -/
inductive DebugAccess where
  | read
  | writePc (v : Word)
  | writeMode (supervisor : Bool)
  | writeG (r : BitVec 5) (v : Word)
  | writeM (r : BitVec 4) (v : Word) (full : Bool)
  | writeV (r : BitVec 5) (v : Tile)
  | writeControl (number : BitVec 12) (v : Word)
  | writeSlot (k : BitVec 4) (v : BitVec 192)
  | writeOrscnt (v : Word)
  | writeLog (entries : List (BitVec 256))
  | writeScratch (offset : Nat) (bytes : List Byte)
  | writeOverflow (entries : List (BitVec 4 × Word))
  | writeSequencer (index : BitVec 4) (v : BitVec 32)
  | writeMicroword (index : BitVec 8) (v : Word)
  | writeUpc (v : BitVec 8)
  | writeStarter (h : BitVec 2)
  | writeEngine (e : Engine) (seq : BitVec 32) (faulted : Bool) (record addr : Word)
  | writeQueue (e : Engine) (waiting : Nat) (running : Bool)
  | writeCasst (v : Word)
  | readObject (offset size : Nat)
  deriving DecidableEq, Repr

/-- What a wear report leads Beline to replace (21 R427). -/
inductive SpareKind where
  | core (x y : Nat) (physicalCore : BitVec 5)
  | column (die : Nat) (column : BitVec 5)
  | meshLane (x y : Nat)
  | etherLane (port : Nat)
  deriving DecidableEq, Repr

/-- A firmware image with its version, public key and signature (21 R428). -/
structure FirmwareImage where
  code : List Byte
  version : BitVec 32
  publicKey : BitVec 256
  signature : BitVec 512
  deriving DecidableEq, Repr

/-- The delivery modes of the UET profile; only `rud` is supported (23 R435). -/
inductive Delivery where
  | rud | rod | rudi | uud
  deriving DecidableEq, Repr

/-- The kind of a fabric request (23 R439); `masked` is a posted part of a vector store, with its byte mask (09 R225); `atomic` is an
operation that R435 refuses. -/
inductive FabricKind where
  | load (size : Nat)
  | store (bytes : List Byte) (release : Bool)
  | masked (data : BitVec 128) (mask : BitVec 16)
  | message (payload : Word)
  | atomic (size : Nat)
  deriving DecidableEq, Repr

/-- A request from another module (23 R438): its module number, its partition there, the partition it names here. -/
structure FabricReq where
  module : BitVec 11
  senderVf : BitVec 4
  rvf : BitVec 4
  addr : Word
  kind : FabricKind
  delivery : Delivery := .rud
  deriving DecidableEq, Repr

/-- The memory key and offset of a host RMA operation (23 R442), its delivery mode, and whether it is an atomic (R435). -/
structure HostOp where
  endpoint : Nat
  key : Word
  addr : Word
  delivery : Delivery := .rud
  atomic : Bool := false
  deriving DecidableEq, Repr

/-- A send of a host (23 R435, R443). -/
structure HostSend where
  bytes : List Byte
  delivery : Delivery := .rud
  deriving DecidableEq, Repr

/-- The steps of the machine, one constructor for each row of spec/opcode_table.json. -/
inductive Instr where
  /-- ADD, R99. -/
  | add (d : BitVec 5) (a : BitVec 5) (b : BitVec 5) (m : BitVec 1) (n : BitVec 1)
  /-- SUB, R99. -/
  | sub (d : BitVec 5) (a : BitVec 5) (b : BitVec 5) (m : BitVec 1) (n : BitVec 1)
  /-- AND, R99. -/
  | and (d : BitVec 5) (a : BitVec 5) (b : BitVec 5) (m : BitVec 1) (n : BitVec 1)
  /-- OR, R99. -/
  | or (d : BitVec 5) (a : BitVec 5) (b : BitVec 5) (m : BitVec 1) (n : BitVec 1)
  /-- XOR, R99. -/
  | xor (d : BitVec 5) (a : BitVec 5) (b : BitVec 5) (m : BitVec 1) (n : BitVec 1)
  /-- ANDN, R99. -/
  | andn (d : BitVec 5) (a : BitVec 5) (b : BitVec 5) (m : BitVec 1) (n : BitVec 1)
  /-- SHL, R99. -/
  | shl (d : BitVec 5) (a : BitVec 5) (b : BitVec 5) (m : BitVec 1) (n : BitVec 1)
  /-- SHR, R99. -/
  | shr (d : BitVec 5) (a : BitVec 5) (b : BitVec 5) (m : BitVec 1) (n : BitVec 1)
  /-- SRA, R99. -/
  | sra (d : BitVec 5) (a : BitVec 5) (b : BitVec 5) (m : BitVec 1) (n : BitVec 1)
  /-- MUL, R99. -/
  | mul (d : BitVec 5) (a : BitVec 5) (b : BitVec 5) (m : BitVec 1) (n : BitVec 1)
  /-- MULH, R99. -/
  | mulh (d : BitVec 5) (a : BitVec 5) (b : BitVec 5) (m : BitVec 1) (n : BitVec 1)
  /-- MULHU, R99. -/
  | mulhu (d : BitVec 5) (a : BitVec 5) (b : BitVec 5) (m : BitVec 1) (n : BitVec 1)
  /-- DIV, R100. -/
  | div (d : BitVec 5) (a : BitVec 5) (b : BitVec 5) (m : BitVec 1) (n : BitVec 1) (l : BitVec 4)
  /-- DIVU, R100. -/
  | divu (d : BitVec 5) (a : BitVec 5) (b : BitVec 5) (m : BitVec 1) (n : BitVec 1) (l : BitVec 4)
  /-- REM, R100. -/
  | rem (d : BitVec 5) (a : BitVec 5) (b : BitVec 5) (m : BitVec 1) (n : BitVec 1) (l : BitVec 4)
  /-- REMU, R100. -/
  | remu (d : BitVec 5) (a : BitVec 5) (b : BitVec 5) (m : BitVec 1) (n : BitVec 1) (l : BitVec 4)
  /-- MIN, R99. -/
  | min (d : BitVec 5) (a : BitVec 5) (b : BitVec 5) (m : BitVec 1) (n : BitVec 1)
  /-- MAX, R99. -/
  | max (d : BitVec 5) (a : BitVec 5) (b : BitVec 5) (m : BitVec 1) (n : BitVec 1)
  /-- MINU, R99. -/
  | minu (d : BitVec 5) (a : BitVec 5) (b : BitVec 5) (m : BitVec 1) (n : BitVec 1)
  /-- MAXU, R99. -/
  | maxu (d : BitVec 5) (a : BitVec 5) (b : BitVec 5) (m : BitVec 1) (n : BitVec 1)
  /-- SLT, R99. -/
  | slt (d : BitVec 5) (a : BitVec 5) (b : BitVec 5) (m : BitVec 1) (n : BitVec 1)
  /-- SLTU, R99. -/
  | sltu (d : BitVec 5) (a : BitVec 5) (b : BitVec 5) (m : BitVec 1) (n : BitVec 1)
  /-- SEQ, R99. -/
  | seq (d : BitVec 5) (a : BitVec 5) (b : BitVec 5) (m : BitVec 1) (n : BitVec 1)
  /-- SNE, R99. -/
  | sne (d : BitVec 5) (a : BitVec 5) (b : BitVec 5) (m : BitVec 1) (n : BitVec 1)
  /-- SEL, R101. -/
  | sel (d : BitVec 5) (a : BitVec 5) (b : BitVec 5) (m : BitVec 1) (n : BitVec 1)
  /-- CLZ, R101. -/
  | clz (d : BitVec 5) (a : BitVec 5) (m : BitVec 1)
  /-- CTZ, R101. -/
  | ctz (d : BitVec 5) (a : BitVec 5) (m : BitVec 1)
  /-- POPC, R101. -/
  | popc (d : BitVec 5) (a : BitVec 5) (m : BitVec 1)
  /-- ABS, R101. -/
  | abs (d : BitVec 5) (a : BitVec 5) (m : BitVec 1)
  /-- ADDV, R99. -/
  | addv (d : BitVec 5) (a : BitVec 5) (b : BitVec 5) (m : BitVec 1) (n : BitVec 1)
  /-- ADDI, R103. -/
  | addi (d : BitVec 5) (a : BitVec 5) (i : BitVec 16)
  /-- ANDI, R103. -/
  | andi (d : BitVec 5) (a : BitVec 5) (i : BitVec 16)
  /-- ORI, R103. -/
  | ori (d : BitVec 5) (a : BitVec 5) (i : BitVec 16)
  /-- XORI, R103. -/
  | xori (d : BitVec 5) (a : BitVec 5) (i : BitVec 16)
  /-- SLTI, R103. -/
  | slti (d : BitVec 5) (a : BitVec 5) (i : BitVec 16)
  /-- SLTIU, R103. -/
  | sltiu (d : BitVec 5) (a : BitVec 5) (i : BitVec 16)
  /-- SHLI, R104. -/
  | shli (d : BitVec 5) (a : BitVec 5) (k : BitVec 6)
  /-- SHRI, R104. -/
  | shri (d : BitVec 5) (a : BitVec 5) (k : BitVec 6)
  /-- SRAI, R104. -/
  | srai (d : BitVec 5) (a : BitVec 5) (k : BitVec 6)
  /-- MOVI, R105. -/
  | movi (d : BitVec 5) (i : BitVec 16)
  /-- FADD, R107. -/
  | fadd (d : BitVec 5) (a : BitVec 5) (b : BitVec 5) (m : BitVec 1) (n : BitVec 1) (r : BitVec 3) (p : BitVec 1)
  /-- FSUB, R107. -/
  | fsub (d : BitVec 5) (a : BitVec 5) (b : BitVec 5) (m : BitVec 1) (n : BitVec 1) (r : BitVec 3) (p : BitVec 1)
  /-- FMUL, R107. -/
  | fmul (d : BitVec 5) (a : BitVec 5) (b : BitVec 5) (m : BitVec 1) (n : BitVec 1) (r : BitVec 3) (p : BitVec 1)
  /-- FDIV, R107. -/
  | fdiv (d : BitVec 5) (a : BitVec 5) (b : BitVec 5) (m : BitVec 1) (n : BitVec 1) (r : BitVec 3) (p : BitVec 1)
  /-- FSQRT, R107. -/
  | fsqrt (d : BitVec 5) (a : BitVec 5) (m : BitVec 1) (r : BitVec 3) (p : BitVec 1)
  /-- FMA, R107. -/
  | fma (d : BitVec 5) (a : BitVec 5) (b : BitVec 5) (m : BitVec 1) (n : BitVec 1) (r : BitVec 3) (p : BitVec 1)
  /-- FMS, R107. -/
  | fms (d : BitVec 5) (a : BitVec 5) (b : BitVec 5) (m : BitVec 1) (n : BitVec 1) (r : BitVec 3) (p : BitVec 1)
  /-- FMIN, R108. -/
  | fmin (d : BitVec 5) (a : BitVec 5) (b : BitVec 5) (m : BitVec 1) (n : BitVec 1) (p : BitVec 1)
  /-- FMAX, R108. -/
  | fmax (d : BitVec 5) (a : BitVec 5) (b : BitVec 5) (m : BitVec 1) (n : BitVec 1) (p : BitVec 1)
  /-- FEQ, R108. -/
  | feq (d : BitVec 5) (a : BitVec 5) (b : BitVec 5) (m : BitVec 1) (n : BitVec 1) (p : BitVec 1)
  /-- FLT, R108. -/
  | flt (d : BitVec 5) (a : BitVec 5) (b : BitVec 5) (m : BitVec 1) (n : BitVec 1) (p : BitVec 1)
  /-- FLE, R108. -/
  | fle (d : BitVec 5) (a : BitVec 5) (b : BitVec 5) (m : BitVec 1) (n : BitVec 1) (p : BitVec 1)
  /-- FCLASS, R108. -/
  | fclass (d : BitVec 5) (a : BitVec 5) (m : BitVec 1) (p : BitVec 1)
  /-- FCVT, R109. -/
  | fcvt (d : BitVec 5) (a : BitVec 5) (c : BitVec 4) (m : BitVec 1) (r : BitVec 3)
  /-- LADD, R111. -/
  | ladd (d : BitVec 5) (a : BitVec 5) (b : BitVec 5) (m : BitVec 1) (n : BitVec 1) (l : BitVec 4)
  /-- LSUB, R111. -/
  | lsub (d : BitVec 5) (a : BitVec 5) (b : BitVec 5) (m : BitVec 1) (n : BitVec 1) (l : BitVec 4)
  /-- LMUL, R111. -/
  | lmul (d : BitVec 5) (a : BitVec 5) (b : BitVec 5) (m : BitVec 1) (n : BitVec 1) (l : BitVec 4)
  /-- LDIV, R111. -/
  | ldiv (d : BitVec 5) (a : BitVec 5) (b : BitVec 5) (m : BitVec 1) (n : BitVec 1) (l : BitVec 4)
  /-- LEQ, R111. -/
  | leq (d : BitVec 5) (a : BitVec 5) (b : BitVec 5) (m : BitVec 1) (n : BitVec 1) (l : BitVec 4)
  /-- LLT, R111. -/
  | llt (d : BitVec 5) (a : BitVec 5) (b : BitVec 5) (m : BitVec 1) (n : BitVec 1) (l : BitVec 4)
  /-- LCVT, R113. -/
  | lcvt (d : BitVec 5) (a : BitVec 5) (s : BitVec 1) (c : BitVec 4) (m : BitVec 1) (l : BitVec 4)
  /-- LLEVEL, R112. -/
  | llevel (d : BitVec 5) (a : BitVec 5) (m : BitVec 1) (l : BitVec 4)
  /-- BEQ, R116. -/
  | beq (a : BitVec 5) (b : BitVec 5) (o : BitVec 13)
  /-- BNE, R116. -/
  | bne (a : BitVec 5) (b : BitVec 5) (o : BitVec 13)
  /-- BLT, R116. -/
  | blt (a : BitVec 5) (b : BitVec 5) (o : BitVec 13)
  /-- BGE, R116. -/
  | bge (a : BitVec 5) (b : BitVec 5) (o : BitVec 13)
  /-- BLTU, R116. -/
  | bltu (a : BitVec 5) (b : BitVec 5) (o : BitVec 13)
  /-- BGEU, R116. -/
  | bgeu (a : BitVec 5) (b : BitVec 5) (o : BitVec 13)
  /-- JMP, R116. -/
  | jmp (o : BitVec 26)
  /-- JAL, R117. -/
  | jal (o : BitVec 26)
  /-- JALR, R118. -/
  | jalr (d : BitVec 5) (a : BitVec 5) (i : BitVec 16)
  /-- LD, R122. -/
  | ld (d : BitVec 5) (a : BitVec 5) (l : BitVec 4) (z : BitVec 3) (o : BitVec 9)
  /-- ST, R123. -/
  | st (t : BitVec 5) (a : BitVec 5) (z : BitVec 2) (o : BitVec 9)
  /-- LDA, R127. -/
  | lda (d : BitVec 5) (a : BitVec 5) (l : BitVec 4) (z : BitVec 2) (o : BitVec 9)
  /-- STR, R128. -/
  | str (t : BitVec 5) (a : BitVec 5) (z : BitVec 2) (o : BitVec 9)
  /-- LDP, R129. -/
  | ldp (d : BitVec 5) (a : BitVec 5) (l : BitVec 4) (z : BitVec 1) (o : BitVec 9)
  /-- STP, R129. -/
  | stp (t : BitVec 5) (a : BitVec 5) (z : BitVec 1) (o : BitVec 9)
  /-- AMO, R315. -/
  | amo (d : BitVec 5) (a : BitVec 5) (b : BitVec 5) (l : BitVec 4) (q : BitVec 1) (r : BitVec 1) (z : BitVec 1) (o : BitVec 4)
  /-- CAS, R315. -/
  | cas (d : BitVec 5) (a : BitVec 5) (b : BitVec 5) (l : BitVec 4) (q : BitVec 1) (r : BitVec 1) (z : BitVec 1)
  /-- FENCE, R164. -/
  | fence (c : BitVec 3)
  /-- FENCE_S, R321. -/
  | fenceS (c : BitVec 1)
  /-- ISYNC, R165. -/
  | isync
  /-- TFENCE, R166. -/
  | tfence
  /-- RBIND, R195. -/
  | rbind (e : BitVec 3) (a : BitVec 5) (b : BitVec 5)
  /-- RUNBIND, R195. -/
  | runbind (e : BitVec 3)
  /-- ACQ_X, R196. -/
  | acqX (a : BitVec 5)
  /-- ACQ_S, R196. -/
  | acqS (a : BitVec 5)
  /-- REL_X, R197. -/
  | relX (a : BitVec 5)
  /-- REL_S, R197. -/
  | relS (a : BitVec 5)
  /-- CWB, R198. -/
  | cwb (a : BitVec 5) (b : BitVec 5)
  /-- CINV, R198. -/
  | cinv (a : BitVec 5) (b : BitVec 5)
  /-- BINIT, R201. -/
  | binit (a : BitVec 5) (b : BitVec 5)
  /-- BARR, R201. -/
  | barr (d : BitVec 5) (a : BitVec 5) (l : BitVec 4)
  /-- BEXP, R201. -/
  | bexp (d : BitVec 5) (a : BitVec 5) (b : BitVec 5)
  /-- BWAIT, R202. -/
  | bwait (a : BitVec 5) (b : BitVec 5)
  /-- BTEST, R201. -/
  | btest (d : BitVec 5) (a : BitVec 5)
  /-- RINIT, R205. -/
  | rinit (a : BitVec 5) (b : BitVec 5)
  /-- RPOP, R208. -/
  | rpop (d : BitVec 5) (a : BitVec 5) (b : BitVec 5)
  /-- RPUSH, R207. -/
  | rpush (d : BitVec 5) (a : BitVec 5) (b : BitVec 5)
  /-- RFIX, R209. -/
  | rfix (a : BitVec 5) (b : BitVec 5)
  /-- RSTAT, R209. -/
  | rstat (d : BitVec 5) (a : BitVec 5)
  /-- MSEND, R158. -/
  | msend (a : BitVec 5) (b : BitVec 5)
  /-- MTAKE, R159. -/
  | mtake (d : BitVec 5) (a : BitVec 4)
  /-- MPEEK, R159. -/
  | mpeek (d : BitVec 5) (a : BitVec 4)
  /-- WAIT, R160. -/
  | wait (d : BitVec 5) (a : BitVec 5)
  /-- BIND, R139. -/
  | bind (d : BitVec 5) (n : BitVec 2)
  /-- UNBIND, R149. -/
  | unbind (d : BitVec 5)
  /-- BSTAT, R150. -/
  | bstat (d : BitVec 5) (a : BitVec 5)
  /-- BCLR, R151. -/
  | bclr (a : BitVec 5)
  /-- SHAPE, R214. -/
  | shape (d : BitVec 5) (a : BitVec 5) (b : BitVec 5) (w : BitVec 2)
  /-- WAYSET, R186. -/
  | wayset (d : BitVec 5) (a : BitVec 5)
  /-- VLD, R223. -/
  | vld (d : BitVec 5) (a : BitVec 5) (b : BitVec 5) (e : BitVec 4) (m : BitVec 1) (p : BitVec 1) (t : BitVec 1)
  /-- VST, R223. -/
  | vst (d : BitVec 5) (a : BitVec 5) (b : BitVec 5) (e : BitVec 4) (m : BitVec 1)
  /-- VLDM, R222. -/
  | vldm (d : BitVec 5) (a : BitVec 5) (b : BitVec 5) (e : BitVec 4) (m : BitVec 1) (p : BitVec 1) (t : BitVec 1)
  /-- VSTM, R222. -/
  | vstm (d : BitVec 5) (a : BitVec 5) (b : BitVec 5) (e : BitVec 4) (m : BitVec 1)
  /-- VLDX, R222. -/
  | vldx (d : BitVec 5) (a : BitVec 5) (b : BitVec 5) (e : BitVec 4) (m : BitVec 1) (p : BitVec 1) (t : BitVec 1)
  /-- VSTX, R225. -/
  | vstx (d : BitVec 5) (a : BitVec 5) (b : BitVec 5) (e : BitVec 4) (m : BitVec 1)
  /-- VADD, R229. -/
  | vadd (d : BitVec 5) (a : BitVec 5) (b : BitVec 5) (e : BitVec 4) (m : BitVec 1) (p : BitVec 1) (t : BitVec 1)
  /-- VSUB, R229. -/
  | vsub (d : BitVec 5) (a : BitVec 5) (b : BitVec 5) (e : BitVec 4) (m : BitVec 1) (p : BitVec 1) (t : BitVec 1)
  /-- VMUL, R229. -/
  | vmul (d : BitVec 5) (a : BitVec 5) (b : BitVec 5) (e : BitVec 4) (m : BitVec 1) (p : BitVec 1) (t : BitVec 1)
  /-- VMULH, R229. -/
  | vmulh (d : BitVec 5) (a : BitVec 5) (b : BitVec 5) (e : BitVec 4) (m : BitVec 1) (p : BitVec 1) (t : BitVec 1)
  /-- VDIV, R230. -/
  | vdiv (d : BitVec 5) (a : BitVec 5) (b : BitVec 5) (e : BitVec 4) (m : BitVec 1) (p : BitVec 1) (t : BitVec 1)
  /-- VMIN, R229. -/
  | vmin (d : BitVec 5) (a : BitVec 5) (b : BitVec 5) (e : BitVec 4) (m : BitVec 1) (p : BitVec 1) (t : BitVec 1)
  /-- VMAX, R229. -/
  | vmax (d : BitVec 5) (a : BitVec 5) (b : BitVec 5) (e : BitVec 4) (m : BitVec 1) (p : BitVec 1) (t : BitVec 1)
  /-- VAND, R229. -/
  | vand (d : BitVec 5) (a : BitVec 5) (b : BitVec 5) (e : BitVec 4) (m : BitVec 1) (p : BitVec 1) (t : BitVec 1)
  /-- VOR, R229. -/
  | vor (d : BitVec 5) (a : BitVec 5) (b : BitVec 5) (e : BitVec 4) (m : BitVec 1) (p : BitVec 1) (t : BitVec 1)
  /-- VXOR, R229. -/
  | vxor (d : BitVec 5) (a : BitVec 5) (b : BitVec 5) (e : BitVec 4) (m : BitVec 1) (p : BitVec 1) (t : BitVec 1)
  /-- VSHL, R229. -/
  | vshl (d : BitVec 5) (a : BitVec 5) (b : BitVec 5) (e : BitVec 4) (m : BitVec 1) (p : BitVec 1) (t : BitVec 1)
  /-- VSHR, R229. -/
  | vshr (d : BitVec 5) (a : BitVec 5) (b : BitVec 5) (e : BitVec 4) (m : BitVec 1) (p : BitVec 1) (t : BitVec 1)
  /-- VSRA, R229. -/
  | vsra (d : BitVec 5) (a : BitVec 5) (b : BitVec 5) (e : BitVec 4) (m : BitVec 1) (p : BitVec 1) (t : BitVec 1)
  /-- VFMA, R229. -/
  | vfma (d : BitVec 5) (a : BitVec 5) (b : BitVec 5) (e : BitVec 4) (m : BitVec 1) (p : BitVec 1) (t : BitVec 1)
  /-- VSQRT, R229. -/
  | vsqrt (d : BitVec 5) (a : BitVec 5) (e : BitVec 4) (m : BitVec 1) (p : BitVec 1) (t : BitVec 1)
  /-- VLADD, R232. -/
  | vladd (d : BitVec 5) (a : BitVec 5) (b : BitVec 5) (e : BitVec 4) (m : BitVec 1) (p : BitVec 1) (t : BitVec 1)
  /-- VLMUL, R232. -/
  | vlmul (d : BitVec 5) (a : BitVec 5) (b : BitVec 5) (e : BitVec 4) (m : BitVec 1) (p : BitVec 1) (t : BitVec 1)
  /-- VLDIV, R232. -/
  | vldiv (d : BitVec 5) (a : BitVec 5) (b : BitVec 5) (e : BitVec 4) (m : BitVec 1) (p : BitVec 1) (t : BitVec 1)
  /-- VCMP, R233. -/
  | vcmp (d : BitVec 5) (a : BitVec 5) (b : BitVec 5) (e : BitVec 4) (m : BitVec 1) (p : BitVec 1) (t : BitVec 1) (c : BitVec 2)
  /-- VSEL, R234. -/
  | vsel (d : BitVec 5) (a : BitVec 5) (b : BitVec 5) (e : BitVec 4) (t : BitVec 1)
  /-- VCVT, R235. -/
  | vcvt (d : BitVec 5) (a : BitVec 5) (s : BitVec 1) (c : BitVec 4) (e : BitVec 4) (m : BitVec 1) (p : BitVec 1) (t : BitVec 1)
  /-- VREQ, R237. -/
  | vreq (d : BitVec 5) (a : BitVec 5) (b : BitVec 5) (m : BitVec 1) (p : BitVec 1) (t : BitVec 1)
  /-- VRED, R238. -/
  | vred (d : BitVec 5) (a : BitVec 5) (s : BitVec 1) (o : BitVec 3) (e : BitVec 4) (m : BitVec 1) (t : BitVec 1)
  /-- VPERM, R239. -/
  | vperm (d : BitVec 5) (a : BitVec 5) (b : BitVec 5) (e : BitVec 4) (m : BitVec 1) (p : BitVec 1) (t : BitVec 1)
  /-- VBCAST, R239. -/
  | vbcast (d : BitVec 5) (a : BitVec 5) (e : BitVec 4) (m : BitVec 1) (p : BitVec 1) (t : BitVec 1)
  /-- VEXT, R240. -/
  | vext (d : BitVec 5) (a : BitVec 5) (b : BitVec 5) (e : BitVec 4)
  /-- VIOTA, R241. -/
  | viota (d : BitVec 5) (a : BitVec 5) (e : BitVec 4) (m : BitVec 1) (p : BitVec 1) (t : BitVec 1)
  /-- VPOPC, R241. -/
  | vpopc (d : BitVec 5) (a : BitVec 5) (e : BitVec 4) (m : BitVec 1)
  /-- MCLAIM, R258. -/
  | mclaim (d : BitVec 5) (a : BitVec 5) (l : BitVec 4)
  /-- MREL, R258. -/
  | mrel (a : BitVec 5) (b : BitVec 5) (l : BitVec 4)
  /-- MPUT, R260. -/
  | mput (d : BitVec 5) (a : BitVec 5) (b : BitVec 4) (l : BitVec 4)
  /-- MLOAD, R261. -/
  | mload (d : BitVec 5) (a : BitVec 5) (b : BitVec 5) (l : BitVec 4)
  /-- MMA, R264. -/
  | mma (d : BitVec 5) (a : BitVec 5) (b : BitVec 5) (l : BitVec 4)
  /-- MCBK, R262. -/
  | mcbk (a : BitVec 5) (b : BitVec 5) (l : BitVec 4)
  /-- MWAIT, R252. -/
  | mwait (d : BitVec 5) (l : BitVec 4)
  /-- MSTAT, R253. -/
  | mstat (d : BitVec 5) (l : BitVec 4)
  /-- CPY, R270. -/
  | cpy (d : BitVec 5) (a : BitVec 5) (b : BitVec 5) (l : BitVec 4)
  /-- CPY2, R271. -/
  | cpy2 (d : BitVec 5) (a : BitVec 5) (b : BitVec 5) (l : BitVec 4)
  /-- CXP, R272. -/
  | cxp (d : BitVec 5) (a : BitVec 5) (b : BitVec 5) (l : BitVec 4)
  /-- CPK, R273. -/
  | cpk (d : BitVec 5) (a : BitVec 5) (b : BitVec 5) (l : BitVec 4)
  /-- CGTHB, R274. -/
  | cgthb (d : BitVec 5) (a : BitVec 5) (b : BitVec 5) (l : BitVec 4)
  /-- CPYR, R275. -/
  | cpyr (d : BitVec 5) (a : BitVec 5) (b : BitVec 5) (l : BitVec 4)
  /-- CWAIT, R252. -/
  | cwait (d : BitVec 5) (l : BitVec 4)
  /-- CSTAT, R253. -/
  | cstat (d : BitVec 5) (l : BitVec 4)
  /-- XEXP, R277. -/
  | xexp (d : BitVec 5) (a : BitVec 5) (b : BitVec 5) (l : BitVec 4)
  /-- XROT, R279. -/
  | xrot (d : BitVec 5) (a : BitVec 5) (b : BitVec 5) (l : BitVec 4)
  /-- XWAIT, R252. -/
  | xwait (d : BitVec 5) (l : BitVec 4)
  /-- CASLD, R284. -/
  | casld (a : BitVec 5) (b : BitVec 5) (l : BitVec 4)
  /-- CASWAIT, R285. -/
  | caswait (d : BitVec 5) (l : BitVec 4)
  /-- SSOPEN, R389. -/
  | ssopen (d : BitVec 5) (a : BitVec 5) (b : BitVec 5) (l : BitVec 4)
  /-- SSLOAD, R390. -/
  | ssload (d : BitVec 5) (a : BitVec 5) (b : BitVec 5) (l : BitVec 4)
  /-- SSCOMMIT, R390. -/
  | sscommit (d : BitVec 5) (a : BitVec 5) (b : BitVec 5) (l : BitVec 4)
  /-- SSSNAP, R392. -/
  | sssnap (d : BitVec 5) (a : BitVec 5) (l : BitVec 4)
  /-- SSFIND, R392. -/
  | ssfind (d : BitVec 5) (a : BitVec 5) (b : BitVec 5) (l : BitVec 4)
  /-- SSROLL, R393. -/
  | ssroll (d : BitVec 5) (a : BitVec 5) (b : BitVec 5) (l : BitVec 4)
  /-- SSPIN, R392. -/
  | sspin (d : BitVec 5) (a : BitVec 5) (b : BitVec 5) (l : BitVec 4)
  /-- SSUNPIN, R392. -/
  | ssunpin (d : BitVec 5) (a : BitVec 5) (b : BitVec 5) (l : BitVec 4)
  /-- SSFORK, R394. -/
  | ssfork (d : BitVec 5) (a : BitVec 5) (b : BitVec 5) (l : BitVec 4)
  /-- SSCLOSE, R395. -/
  | ssclose (a : BitVec 5) (l : BitVec 4)
  /-- ENEXT, R406. -/
  | enext (d : BitVec 5) (l : BitVec 4)
  /-- EACC, R407. -/
  | eacc (d : BitVec 5) (a : BitVec 5) (b : BitVec 5) (l : BitVec 4)
  /-- ESTAT, R408. -/
  | estat (d : BitVec 5) (l : BitVec 4)
  /-- LAUNCH, R372. -/
  | launch (d : BitVec 5) (a : BitVec 5) (b : BitVec 5)
  /-- TRIG, R374. -/
  | trig
  /-- EXIT, R374. -/
  | exit (a : BitVec 5)
  /-- DSYNC, R375. -/
  | dsync (v : BitVec 3)
  /-- YIELD, R376. -/
  | yield
  /-- RDC, R168. -/
  | rdc (d : BitVec 5) (c : BitVec 12)
  /-- WRC, R168. -/
  | wrc (a : BitVec 5) (c : BitVec 12)
  /-- TRAP, R169. -/
  | trap (k : BitVec 12)
  /-- ERET, R170. -/
  | eret
  /-- ERET_S, R178. -/
  | eretS
  /-- BRK, R169. -/
  | brk (k : BitVec 12)
  /-- SLEEP, R171. -/
  | sleep (a : BitVec 5)
  /-- IMX, R53. -/
  | imx (x : BitVec 26)
  /-- HINT, R56. -/
  | hint (k : BitVec 6) (p : BitVec 20)
  /-- CASGO, R282. -/
  | casgo (a : BitVec 5)
  /-- UNDEFINED_ENCODING, R43. -/
  | undefinedEncoding (w : BitVec 32)
  /-- MICRO_MOVI, R287. -/
  | microMovi (u : Micro)
  /-- MICRO_ADD, R287. -/
  | microAdd (u : Micro)
  /-- ADDM, R287. -/
  | microAddm (u : Micro)
  /-- DJNZ, R287. -/
  | microDjnz (u : Micro)
  /-- BNZ, R287. -/
  | microBnz (u : Micro)
  /-- MM, R288. -/
  | microMm (u : Micro)
  /-- MM_MLOAD, R288. -/
  | microMmMload (u : Micro)
  /-- XP, R294. -/
  | microXp (u : Micro)
  /-- CP, R288. -/
  | microCp (u : Micro)
  /-- MASK, R292. -/
  | microMask (u : Micro)
  /-- RMAX, R293. -/
  | microRmax (u : Micro)
  /-- RSUM, R295. -/
  | microRsum (u : Micro)
  /-- LCOMB, R296. -/
  | microLcomb (u : Micro)
  /-- NORM, R298. -/
  | microNorm (u : Micro)
  /-- WAITE, R290. -/
  | microWaite (u : Micro)
  /-- SIG, R290. -/
  | microSig (u : Micro)
  /-- SIG_MESSAGE, R290. -/
  | microSigMessage (u : Micro)
  /-- STOP, R290. -/
  | microStop (u : Micro)
  /-- WAITE_RETURN, R290. -/
  | waiteReturn (c : Nat)
  /-- RUN_STOP, R453. -/
  | runStop (c : Nat)
  /-- RUN_FAULT, R299. -/
  | runFault (c : Nat)
  /-- ARRIVAL_PASS, R146. -/
  | arrivalPass (c : Nat) (h : BitVec 2)
  /-- MESSAGE_ARRIVAL, R156. -/
  | messageArrival (id : Nat)
  /-- OVERFLOW_DELIVERY, R156. -/
  | overflowDelivery (c : Nat) (h : BitVec 2) (r : BitVec 4)
  /-- MESSAGE_RETRY, R156. -/
  | messageRetry (id : Nat)
  /-- EVICTED_MESSAGE_HOLD, R162. -/
  | evictedMessageHold (id : Nat)
  /-- EVICTED_ACCESS, R449. -/
  | evictedAccess (id : Nat)
  /-- INTERRUPT_ENTRY, R51. -/
  | interruptEntry (c : Nat) (h : BitVec 2)
  /-- COUNTER_WRAP, R422. -/
  | counterWrap (c : Nat) (h : BitVec 2) (k : BitVec 2)
  /-- CORE_SLEEP_ENTRY, R30. -/
  | coreSleepEntry (c : Nat) (elapsed : BitVec 2)
  /-- CORE_WAKE, R31. -/
  | coreWake (c : Nat)
  /-- WAKE_COMPLETE, R32. -/
  | wakeComplete (c : Nat) (captureOk : Bool)
  /-- SLEEP_PAUSE_END, R171. -/
  | sleepPauseEnd (c : Nat) (h : BitVec 2)
  /-- WAIT_WAKE, R160. -/
  | waitWake (c : Nat) (h : BitVec 2)
  /-- BWAIT_WAKE, R202. -/
  | bwaitWake (c : Nat) (h : BitVec 2)
  /-- RPOP_WAKE, R208. -/
  | rpopWake (c : Nat) (h : BitVec 2)
  /-- REMOTE_SCRATCH_ACCESS, R120. -/
  | remoteScratchAccess (id : Nat)
  /-- GLOBAL_ADMISSION, R361. -/
  | globalAdmission (id : Nat)
  /-- PAGE_WALK, R337. -/
  | pageWalk (id : Nat) (bad : BitVec 2)
  /-- FORWARDED_REQUEST, R331. -/
  | forwardedRequest (id : Nat)
  /-- SECTOR_FILL_RETURN, R362. -/
  | sectorFillReturn (id : Nat)
  /-- ADMISSION_NOTICE, R361. -/
  | admissionNotice (id : Nat)
  /-- LOAD_DATA_RETURN, R45. -/
  | loadDataReturn (id : Nat) (reply : FabricReply)
  /-- STORE_ACK, R318. -/
  | storeAck (id : Nat)
  /-- STORE_REJECTION, R318. -/
  | storeRejection (id : Nat) (cause : BitVec 8)
  /-- CACHE_FILL, R191. -/
  | cacheFill (id : Nat)
  /-- WRITE_BACK_ARRIVAL, R191. -/
  | writeBackArrival (id : Nat)
  /-- ACQ_GRANT, R196. -/
  | acqGrant (id : Nat)
  /-- CODE_LINE_ERROR, R189. -/
  | codeLineError (c line : Nat)
  /-- CODE_REPAIR, R189. -/
  | codeRepair (c line : Nat) (imageOk : Bool)
  /-- SCRUB, R190. -/
  | scrub (c line : Nat) (err : ScrubError)
  /-- SLICE_ERROR, R323. -/
  | sliceError (x y : Nat) (place : SlicePlace)
  /-- LINK_RETRY, R426. -/
  | linkRetry (id : Nat)
  /-- ENGINE_COMMAND_START, R243. -/
  | engineCommandStart (c : Nat) (e : Engine)
  /-- ENGINE_COMMAND_COMPLETE, R249. -/
  | engineCommandComplete (c : Nat) (e : Engine)
  /-- CPYR_PUSH, R275. -/
  | cpyrPush (c : Nat)
  /-- ENGINE_WAIT_RETURN, R252. -/
  | engineWaitReturn (c : Nat) (h : BitVec 2)
  /-- HOST_SUBMISSION, R443. -/
  | hostSubmission (vf : BitVec 4) (endpoint : Nat) (send : HostSend)
  /-- GROUP_PLACEMENT, R368. -/
  | groupPlacement (vf : BitVec 4) (queue : BitVec 3)
  /-- GROUP_END, R374. -/
  | groupEnd (launch group : Nat)
  /-- DOMAIN_PHASE_FLIP, R375. -/
  | domainPhaseFlip (launch : Nat) (level : BitVec 3) (domain : Nat)
  /-- SWEEP, R377. -/
  | sweep
  /-- EVICTION, R379. -/
  | eviction (c : Nat)
  /-- CONTEXT_SAVE, R379. -/
  | contextSave (c : Nat)
  /-- RESUME, R379. -/
  | resume (vf : BitVec 4) (slot : Nat)
  /-- WORLD_SWITCH, R414. -/
  | worldSwitch (a b : BitVec 4)
  /-- SWITCH_DEADLINE, R415. -/
  | switchDeadline (vf : BitVec 4)
  /-- CHECKPOINT_REQUEST, R417. -/
  | checkpointRequest (vf : BitVec 4)
  /-- CHECKPOINT_COMPLETE, R417. -/
  | checkpointComplete (vf : BitVec 4)
  /-- PARTITION_CREATE, R411. -/
  | partitionCreate (p : PartitionSpec)
  /-- PARTITION_DESTROY, R411. -/
  | partitionDestroy (vf : BitVec 4)
  /-- BELINE_CONFIG_WRITE, R305. -/
  | belineConfigWrite (w : ConfigWrite)
  /-- DEBUG_HALT, R178. -/
  | debugHalt (c : Nat) (h : BitVec 2)
  /-- DEBUG_STEP, R178. -/
  | debugStep (c : Nat) (h : BitVec 2)
  /-- DEBUG_ACCESS, R179. -/
  | debugAccess (c : Nat) (h : BitVec 2) (x : DebugAccess)
  /-- CORE_FAILURE, R306. -/
  | coreFailure (c : Nat)
  /-- COLUMN_FAILURE, R326. -/
  | columnFailure (die : Nat)
  /-- SPARE_REMAP, R427. -/
  | spareRemap (k : SpareKind)
  /-- HBM_CHANNEL_COPY, R427. -/
  | hbmChannelCopy (channel : Nat)
  /-- THERMAL_THROTTLE, R430. -/
  | thermalThrottle (die : Nat)
  /-- DIE_OVERTEMP, R430. -/
  | dieOvertemp (die : Nat)
  /-- BOOT, R428. -/
  | boot (img : FirmwareImage)
  /-- FIRMWARE_UPDATE, R428. -/
  | firmwareUpdate (img : FirmwareImage)
  /-- QUOTE_REQUEST, R429. -/
  | quoteRequest (endpoint : Nat) (nonce : List Byte)
  /-- FABRIC_REQUEST, R438. -/
  | fabricRequest (r : FabricReq)
  /-- HOST_RMA_WRITE, R442. -/
  | hostRmaWrite (r : HostOp) (data : List Byte)
  /-- HOST_RMA_READ, R442. -/
  | hostRmaRead (r : HostOp) (len : Nat)
  /-- ROUND_MERGE, R401. -/
  | roundMerge (launch : Nat)
  /-- SASH_ACCEPT, R388. -/
  | sashAccept (id : Nat)
  /-- SASH_RESULT, R388. -/
  | sashResult (id : Nat)
  /-- WRITE_BACK_ACKNOWLEDGEMENT, R196. -/
  | writeBackAcknowledgement (id : Nat)
  /-- SOURCE_ROUTER_REMAP, R330. -/
  | sourceRouterRemap (id : Nat)
  /-- FABRIC_PORT_CHECK, R437. -/
  | fabricPortCheck (id : Nat)
  /-- DEBUG_RESUME, R179. -/
  | debugResume (c : Nat) (h : BitVec 2)
  deriving DecidableEq, Repr

end Sys2Proof
end

