-- ==== Sys2Proof/WellFormed.lean ====
section
/-! DEFINITION. Which terms of `Instr` are defined encodings: the limits that 02 R40, R43 and each instruction's
definition put on its fields beyond the fixed bits of its row. A word whose fields break them is ILLEGAL. -/

namespace Sys2Proof

/-- Rounding-mode codes 0 to 3 and 7 (02 R41). -/
def rmOk (r : BitVec 3) : Bool := decide (r.toNat ≤ 3) || r == 7

/-- A source field that names a message register (MA or MB set) has bit 4 zero (02 R36, R41). -/
def mOk (r : BitVec 5) (m : BitVec 1) : Bool := m == 0 || decide (r.toNat < 16)

/-- The codes of LCVT that take the saturate bit (04 R113). -/
def lcvtSat (c : BitVec 4) : Bool := c == 3 || c == 4 || c == 5 || c == 9

/-- A run of k registers from r stays within register 31 (09 R217, 10 R267). -/
def run (r : BitVec 5) (k : Nat) : Bool := decide (r.toNat + k ≤ 32)

/-- S8 to S64 and N8 to N64 (02 R40, 09 R220). -/
def etInt (e : BitVec 4) : Bool := decide (e.toNat < 8)

/-- BF16, F32, F64. -/
def etIeee (e : BitVec 4) : Bool := e == 0xA || e == 0xB || e == 0xC

/-- L16, L32. -/
def etSli (e : BitVec 4) : Bool := e == 0xD || e == 0xE

/-- S4, N4. -/
def etNibble (e : BitVec 4) : Bool := e == 8 || e == 9

/-- Every code but the reserved one. -/
def etAny (e : BitVec 4) : Bool := e != 0xF

/-- Every type except S4 and N4. -/
def etWhole (e : BitVec 4) : Bool := etAny e && !etNibble e

/-- Width of an element in nibbles (02 R40). -/
def etNibbles (e : BitVec 4) : Nat :=
  match e.toNat with
  | 0 | 4 => 2
  | 1 | 5 | 0xA | 0xD => 4
  | 2 | 6 | 0xB | 0xE => 8
  | 3 | 7 | 0xC => 16
  | _ => 1

/-- Width of an element in bytes; the unit of S4 and N4 is the byte (09 R215). -/
def etBytes (e : BitVec 4) : Nat := if etNibble e then 1 else etNibbles e / 2

/-- mp = 1 with m = 0 is ILLEGAL (02 R40, 09 R221). -/
def polOk (m p : BitVec 1) : Bool := m == 1 || p == 0

/-- Registers of the offset group of VLDX and VSTX (09 R222). -/
def offsetGroup (e : BitVec 4) : Nat := (16 / etBytes e + 3) / 4

/-- The ratio r of the element widths of VCVT (09 R235). -/
def cvtRatio (s t : BitVec 4) : Nat :=
  max (etNibbles s) (etNibbles t) / min (etNibbles s) (etNibbles t)

/-- The register group of VCVT stays within v31 (09 R217, R235). -/
def cvtGroups (d a : BitVec 5) (s t : BitVec 4) : Bool :=
  if etNibbles s < etNibbles t then run d (cvtRatio s t) else run a (cvtRatio s t)

/-- IMM has no bit at or above position k (11 R286). -/
def immHi (u : Micro) (k : Nat) : Bool := decide (u.imm.toNat < 2 ^ k)

/-- The check of every constructor. -/
def Instr.wf : Instr → Bool
  | .add _ a b m n => mOk a m && mOk b n
  | .sub _ a b m n => mOk a m && mOk b n
  | .and _ a b m n => mOk a m && mOk b n
  | .or _ a b m n => mOk a m && mOk b n
  | .xor _ a b m n => mOk a m && mOk b n
  | .andn _ a b m n => mOk a m && mOk b n
  | .shl _ a b m n => mOk a m && mOk b n
  | .shr _ a b m n => mOk a m && mOk b n
  | .sra _ a b m n => mOk a m && mOk b n
  | .mul _ a b m n => mOk a m && mOk b n
  | .mulh _ a b m n => mOk a m && mOk b n
  | .mulhu _ a b m n => mOk a m && mOk b n
  | .div _ a b m n _ => mOk a m && mOk b n
  | .divu _ a b m n _ => mOk a m && mOk b n
  | .rem _ a b m n _ => mOk a m && mOk b n
  | .remu _ a b m n _ => mOk a m && mOk b n
  | .min _ a b m n => mOk a m && mOk b n
  | .max _ a b m n => mOk a m && mOk b n
  | .minu _ a b m n => mOk a m && mOk b n
  | .maxu _ a b m n => mOk a m && mOk b n
  | .slt _ a b m n => mOk a m && mOk b n
  | .sltu _ a b m n => mOk a m && mOk b n
  | .seq _ a b m n => mOk a m && mOk b n
  | .sne _ a b m n => mOk a m && mOk b n
  | .sel _ a b m n => mOk a m && mOk b n
  | .clz _ a m => mOk a m
  | .ctz _ a m => mOk a m
  | .popc _ a m => mOk a m
  | .abs _ a m => mOk a m
  | .addv _ a b m n => mOk a m && mOk b n
  | .addi _ _ _ => true
  | .andi _ _ _ => true
  | .ori _ _ _ => true
  | .xori _ _ _ => true
  | .slti _ _ _ => true
  | .sltiu _ _ _ => true
  | .shli _ _ _ => true
  | .shri _ _ _ => true
  | .srai _ _ _ => true
  | .movi _ _ => true
  | .fadd _ a b m n r _ => mOk a m && mOk b n && rmOk r
  | .fsub _ a b m n r _ => mOk a m && mOk b n && rmOk r
  | .fmul _ a b m n r _ => mOk a m && mOk b n && rmOk r
  | .fdiv _ a b m n r _ => mOk a m && mOk b n && rmOk r
  | .fsqrt _ a m r _ => mOk a m && rmOk r
  | .fma _ a b m n r _ => mOk a m && mOk b n && rmOk r
  | .fms _ a b m n r _ => mOk a m && mOk b n && rmOk r
  | .fmin _ a b m n _ => mOk a m && mOk b n
  | .fmax _ a b m n _ => mOk a m && mOk b n
  | .feq _ a b m n _ => mOk a m && mOk b n
  | .flt _ a b m n _ => mOk a m && mOk b n
  | .fle _ a b m n _ => mOk a m && mOk b n
  | .fclass _ a m _ => mOk a m
  | .fcvt _ a _ m r => mOk a m && rmOk r
  | .ladd _ a b m n _ => mOk a m && mOk b n
  | .lsub _ a b m n _ => mOk a m && mOk b n
  | .lmul _ a b m n _ => mOk a m && mOk b n
  | .ldiv _ a b m n _ => mOk a m && mOk b n
  | .leq _ a b m n _ => mOk a m && mOk b n
  | .llt _ a b m n _ => mOk a m && mOk b n
  | .lcvt _ a s c m _ => mOk a m && decide (c.toNat ≤ 9) && (s == 0 || lcvtSat c)
  | .llevel _ a m _ => mOk a m
  | .beq _ _ _ => true
  | .bne _ _ _ => true
  | .blt _ _ _ => true
  | .bge _ _ _ => true
  | .bltu _ _ _ => true
  | .bgeu _ _ _ => true
  | .jmp _ => true
  | .jal _ => true
  | .jalr _ _ _ => true
  | .ld _ _ _ z _ => z != 7
  | .st _ _ _ _ => true
  | .lda _ _ _ _ _ => true
  | .str _ _ _ _ => true
  | .ldp d _ _ _ _ => d != 31
  | .stp t _ _ _ => t != 31
  | .amo _ _ _ _ _ _ z o => decide (o.toNat ≤ 10) && (z == 0 || decide (o.toNat ≤ 8))
  | .cas _ _ _ _ _ _ _ => true
  | .fence c => decide (1 ≤ c.toNat) && decide (c.toNat ≤ 5)
  | .fenceS _ => true
  | .isync => true
  | .tfence => true
  | .rbind _ _ b => b != 31
  | .runbind _ => true
  | .acqX _ => true
  | .acqS _ => true
  | .relX _ => true
  | .relS _ => true
  | .cwb _ _ => true
  | .cinv _ _ => true
  | .binit _ _ => true
  | .barr _ _ _ => true
  | .bexp _ _ _ => true
  | .bwait _ _ => true
  | .btest _ _ => true
  | .rinit _ b => b != 31
  | .rpop _ _ _ => true
  | .rpush _ _ _ => true
  | .rfix _ _ => true
  | .rstat _ _ => true
  | .msend _ _ => true
  | .mtake _ _ => true
  | .mpeek _ _ => true
  | .wait _ _ => true
  | .bind _ _ => true
  | .unbind _ => true
  | .bstat _ _ => true
  | .bclr _ => true
  | .shape _ _ _ _ => true
  | .wayset _ _ => true
  | .vld _ _ _ e m p _ => etAny e && polOk m p
  | .vst _ _ _ e _ => etAny e
  | .vldm _ _ _ e m p _ => etAny e && polOk m p
  | .vstm _ _ _ e _ => etAny e
  | .vldx _ _ b e m p _ => etWhole e && polOk m p && run b (offsetGroup e)
  | .vstx _ _ b e _ => etWhole e && run b (offsetGroup e)
  | .vadd _ _ _ e m p _ => (etInt e || etIeee e) && polOk m p
  | .vsub _ _ _ e m p _ => (etInt e || etIeee e) && polOk m p
  | .vmul _ _ _ e m p _ => (etInt e || etIeee e) && polOk m p
  | .vmulh _ _ _ e m p _ => etInt e && polOk m p
  | .vdiv _ _ _ e m p _ => (etInt e || etIeee e) && polOk m p
  | .vmin _ _ _ e m p _ => (etInt e || etIeee e) && polOk m p
  | .vmax _ _ _ e m p _ => (etInt e || etIeee e) && polOk m p
  | .vand _ _ _ e m p _ => etAny e && polOk m p
  | .vor _ _ _ e m p _ => etAny e && polOk m p
  | .vxor _ _ _ e m p _ => etAny e && polOk m p
  | .vshl _ _ _ e m p _ => etInt e && polOk m p
  | .vshr _ _ _ e m p _ => etInt e && polOk m p
  | .vsra _ _ _ e m p _ => etInt e && polOk m p
  | .vfma _ _ _ e m p _ => etIeee e && polOk m p
  | .vsqrt _ _ e m p _ => etIeee e && polOk m p
  | .vladd _ _ _ e m p _ => etSli e && polOk m p
  | .vlmul _ _ _ e m p _ => etSli e && polOk m p
  | .vldiv _ _ _ e m p _ => etSli e && polOk m p
  | .vcmp _ _ _ e m p _ _ => (etInt e || etIeee e || etSli e) && polOk m p
  | .vsel _ _ _ e _ => etWhole e
  | .vcvt d a s c e m p _ => etAny e && etAny c && c != e && (s == 0 || (etSli c && etIeee e)) && polOk m p && cvtGroups d a c e
  | .vreq _ _ _ m p _ => polOk m p
  | .vred _ _ _ o e _ _ => (decide (o.toNat ≤ 2) && (etInt e || etIeee e || etSli e)) || (decide (3 ≤ o.toNat) && decide (o.toNat ≤ 5) && etInt e)
  | .vperm _ _ _ e m p _ => etWhole e && polOk m p
  | .vbcast _ _ e m p _ => etWhole e && polOk m p
  | .vext _ _ _ e => etWhole e
  | .viota _ _ e m p _ => etInt e && polOk m p
  | .vpopc _ _ e _ => etWhole e
  | .mclaim _ _ _ => true
  | .mrel _ _ _ => true
  | .mput _ a b _ => decide (a.toNat + b.toNat ≤ 31)
  | .mload _ _ _ _ => true
  | .mma _ _ _ _ => true
  | .mcbk _ _ _ => true
  | .mwait _ _ => true
  | .mstat d _ => d != 0 && run d 2
  | .cpy _ _ b _ => run b 2
  | .cpy2 _ _ b _ => run b 3
  | .cxp _ _ b _ => run b 3
  | .cpk _ _ b _ => run b 2
  | .cgthb d _ _ _ => run d 3
  | .cpyr _ _ _ _ => true
  | .cwait _ _ => true
  | .cstat d _ => d != 0 && run d 2
  | .xexp _ _ _ _ => true
  | .xrot _ _ b _ => run b 2
  | .xwait _ _ => true
  | .casld _ _ _ => true
  | .caswait _ _ => true
  | .ssopen _ _ _ _ => true
  | .ssload _ _ b _ => run b 2
  | .sscommit _ _ b _ => run b 3
  | .sssnap _ _ _ => true
  | .ssfind _ _ _ _ => true
  | .ssroll _ _ _ _ => true
  | .sspin _ _ _ _ => true
  | .ssunpin _ _ _ _ => true
  | .ssfork _ _ b _ => run b 2
  | .ssclose _ _ => true
  | .enext d _ => d != 0 && run d 2
  | .eacc _ _ _ _ => true
  | .estat d _ => d != 0 && run d 4
  | .launch _ _ _ => true
  | .trig => true
  | .exit _ => true
  | .dsync v => decide (1 ≤ v.toNat) && decide (v.toNat ≤ 4)
  | .yield => true
  | .rdc _ _ => true
  | .wrc _ c => c != 0x050
  | .trap _ => true
  | .eret => true
  | .eretS => true
  | .brk _ => true
  | .sleep _ => true
  | .imx _ => true
  | .hint _ _ => true
  | .casgo _ => true
  | .microMovi u => u.a == 0 && u.b == 0 && u.x == 0
  | .microAdd u => decide (u.x.toNat ≤ 1) && (u.x == 1 || u.b == 0)
  | .microAddm u => u.x == 0
  | .microDjnz u => u.a == 0 && u.b == 0 && u.x == 0 && immHi u 8
  | .microBnz u => u.d == 0 && u.b == 0 && u.x == 0 && immHi u 8
  | .microMm u => u.b == 0 && u.x.toNat % 4 == 0 && decide (u.x.toNat < 16) && immHi u 25
  | .microMmMload u => u.b == 0 && u.x == 1 && bits u.imm.toNat 15 5 == 0
  | .microXp u => u.x == 0
  | .microCp u => decide (u.x.toNat ≤ 1) && (u.x == 1 || u.b == 0)
  | .microMask u => decide (u.x.toNat < 64) && decide (u.x.toNat % 32 ≤ 16)
  | .microRmax u => u.b == 0 && u.x == 0
  | .microRsum u => u.b == 0 && u.x == 0 && u.imm == 0
  | .microLcomb u => u.x == 0 && u.imm == 0
  | .microNorm u => u.imm == 0 && decide (u.x.toNat ≤ 1) && (u.x == 1 || u.b == 0)
  | .microWaite u => u.d == 0 && u.a == 0 && u.b == 0 && u.x == 0 && immHi u 3
  | .microSig u => u.d == 0 && u.b == 0 && u.x == 0 && u.imm == 0
  | .microSigMessage u => u.x == 1 && u.d == 0 && u.a == 0 && immHi u 6
  | .microStop u => u.d == 0 && u.a == 0 && u.b == 0 && u.x == 0 && u.imm == 0
  | .waiteReturn _ => true
  | .runStop _ => true
  | .runFault _ => true
  | .arrivalPass _ _ => true
  | .messageArrival _ => true
  | .overflowDelivery _ _ _ => true
  | .messageRetry _ => true
  | .evictedMessageHold _ => true
  | .evictedAccess _ => true
  | .interruptEntry _ _ => true
  | .counterWrap _ _ _ => true
  | .coreSleepEntry _ elapsed => elapsed != 3
  | .coreWake _ => true
  | .wakeComplete _ _ => true
  | .sleepPauseEnd _ _ => true
  | .waitWake _ _ => true
  | .bwaitWake _ _ => true
  | .rpopWake _ _ => true
  | .remoteScratchAccess _ => true
  | .globalAdmission _ => true
  | .pageWalk _ _ => true
  | .forwardedRequest _ => true
  | .sectorFillReturn _ => true
  | .admissionNotice _ => true
  | .loadDataReturn _ _ => true
  | .storeAck _ => true
  | .storeRejection _ _ => true
  | .cacheFill _ => true
  | .writeBackArrival _ => true
  | .acqGrant _ => true
  | .codeLineError _ _ => true
  | .codeRepair _ _ _ => true
  | .scrub _ _ _ => true
  | .sliceError _ _ _ => true
  | .linkRetry _ => true
  | .engineCommandStart _ _ => true
  | .engineCommandComplete _ _ => true
  | .cpyrPush _ => true
  | .engineWaitReturn _ _ => true
  | .hostSubmission _ _ _ => true
  | .groupPlacement _ _ => true
  | .groupEnd _ _ => true
  | .domainPhaseFlip _ _ _ => true
  | .sweep => true
  | .eviction _ => true
  | .contextSave _ => true
  | .resume _ _ => true
  | .worldSwitch _ _ => true
  | .switchDeadline _ => true
  | .checkpointRequest _ => true
  | .checkpointComplete _ => true
  | .partitionCreate _ => true
  | .partitionDestroy _ => true
  | .belineConfigWrite _ => true
  | .debugHalt _ _ => true
  | .debugStep _ _ => true
  | .debugAccess _ _ _ => true
  | .coreFailure _ => true
  | .columnFailure _ => true
  | .spareRemap _ => true
  | .hbmChannelCopy _ => true
  | .thermalThrottle _ => true
  | .dieOvertemp _ => true
  | .boot _ => true
  | .firmwareUpdate _ => true
  | .quoteRequest _ _ => true
  | .fabricRequest _ => true
  | .hostRmaWrite _ _ => true
  | .hostRmaRead _ _ => true
  | .roundMerge _ => true
  | .sashAccept _ => true
  | .sashResult _ => true
  | .undefinedEncoding _ => true
  | .writeBackAcknowledgement _ => true
  | .sourceRouterRemap _ => true
  | .fabricPortCheck _ => true
  | .debugResume _ _ => true

/-- `i` is a defined encoding. -/
def Instr.WellFormed (i : Instr) : Prop := i.wf = true

end Sys2Proof
end

