-- ==== Sys2Proof/Decode.lean ====
section
/-! DEFINITION. From bits to an instruction or none, total on any bytes (02 R34-R43, 24 R445), and from a well-formed
instruction to its word. Casement microwords have a decoder of their own (11 R286, R447). -/

namespace Sys2Proof

/-- Field of k bits at bit `lo` of a number. -/
def fld (n lo k : Nat) : Nat := n / 2 ^ lo % 2 ^ k

/-- The same field as a bit vector. -/
def fv (n lo k : Nat) : BitVec k := BitVec.ofNat k (n / 2 ^ lo)

/-- Major 0x00 (02 R42). -/
def decodeMajor00 (n : Nat) : Option Instr :=
  match fld n 0 5 with
  | 1 => if fld n 5 4 = 0 then some (.add (fv n 21 5) (fv n 16 5) (fv n 11 5) (fv n 10 1) (fv n 9 1)) else none
  | 2 => if fld n 5 4 = 0 then some (.sub (fv n 21 5) (fv n 16 5) (fv n 11 5) (fv n 10 1) (fv n 9 1)) else none
  | 3 => if fld n 5 4 = 0 then some (.and (fv n 21 5) (fv n 16 5) (fv n 11 5) (fv n 10 1) (fv n 9 1)) else none
  | 4 => if fld n 5 4 = 0 then some (.or (fv n 21 5) (fv n 16 5) (fv n 11 5) (fv n 10 1) (fv n 9 1)) else none
  | 5 => if fld n 5 4 = 0 then some (.xor (fv n 21 5) (fv n 16 5) (fv n 11 5) (fv n 10 1) (fv n 9 1)) else none
  | 6 => if fld n 5 4 = 0 then some (.andn (fv n 21 5) (fv n 16 5) (fv n 11 5) (fv n 10 1) (fv n 9 1)) else none
  | 7 => if fld n 5 4 = 0 then some (.shl (fv n 21 5) (fv n 16 5) (fv n 11 5) (fv n 10 1) (fv n 9 1)) else none
  | 8 => if fld n 5 4 = 0 then some (.shr (fv n 21 5) (fv n 16 5) (fv n 11 5) (fv n 10 1) (fv n 9 1)) else none
  | 9 => if fld n 5 4 = 0 then some (.sra (fv n 21 5) (fv n 16 5) (fv n 11 5) (fv n 10 1) (fv n 9 1)) else none
  | 10 => if fld n 5 4 = 0 then some (.mul (fv n 21 5) (fv n 16 5) (fv n 11 5) (fv n 10 1) (fv n 9 1)) else none
  | 11 => if fld n 5 4 = 0 then some (.mulh (fv n 21 5) (fv n 16 5) (fv n 11 5) (fv n 10 1) (fv n 9 1)) else none
  | 12 => if fld n 5 4 = 0 then some (.mulhu (fv n 21 5) (fv n 16 5) (fv n 11 5) (fv n 10 1) (fv n 9 1)) else none
  | 13 => some (.div (fv n 21 5) (fv n 16 5) (fv n 11 5) (fv n 10 1) (fv n 9 1) (fv n 5 4))
  | 14 => some (.divu (fv n 21 5) (fv n 16 5) (fv n 11 5) (fv n 10 1) (fv n 9 1) (fv n 5 4))
  | 15 => some (.rem (fv n 21 5) (fv n 16 5) (fv n 11 5) (fv n 10 1) (fv n 9 1) (fv n 5 4))
  | 16 => some (.remu (fv n 21 5) (fv n 16 5) (fv n 11 5) (fv n 10 1) (fv n 9 1) (fv n 5 4))
  | 17 => if fld n 5 4 = 0 then some (.min (fv n 21 5) (fv n 16 5) (fv n 11 5) (fv n 10 1) (fv n 9 1)) else none
  | 18 => if fld n 5 4 = 0 then some (.max (fv n 21 5) (fv n 16 5) (fv n 11 5) (fv n 10 1) (fv n 9 1)) else none
  | 19 => if fld n 5 4 = 0 then some (.minu (fv n 21 5) (fv n 16 5) (fv n 11 5) (fv n 10 1) (fv n 9 1)) else none
  | 20 => if fld n 5 4 = 0 then some (.maxu (fv n 21 5) (fv n 16 5) (fv n 11 5) (fv n 10 1) (fv n 9 1)) else none
  | 21 => if fld n 5 4 = 0 then some (.slt (fv n 21 5) (fv n 16 5) (fv n 11 5) (fv n 10 1) (fv n 9 1)) else none
  | 22 => if fld n 5 4 = 0 then some (.sltu (fv n 21 5) (fv n 16 5) (fv n 11 5) (fv n 10 1) (fv n 9 1)) else none
  | 23 => if fld n 5 4 = 0 then some (.seq (fv n 21 5) (fv n 16 5) (fv n 11 5) (fv n 10 1) (fv n 9 1)) else none
  | 24 => if fld n 5 4 = 0 then some (.sne (fv n 21 5) (fv n 16 5) (fv n 11 5) (fv n 10 1) (fv n 9 1)) else none
  | 25 => if fld n 5 4 = 0 then some (.sel (fv n 21 5) (fv n 16 5) (fv n 11 5) (fv n 10 1) (fv n 9 1)) else none
  | 26 => if fld n 5 5 = 0 ∧ fld n 11 5 = 0 then some (.clz (fv n 21 5) (fv n 16 5) (fv n 10 1)) else none
  | 27 => if fld n 5 5 = 0 ∧ fld n 11 5 = 0 then some (.ctz (fv n 21 5) (fv n 16 5) (fv n 10 1)) else none
  | 28 => if fld n 5 5 = 0 ∧ fld n 11 5 = 0 then some (.popc (fv n 21 5) (fv n 16 5) (fv n 10 1)) else none
  | 29 => if fld n 5 5 = 0 ∧ fld n 11 5 = 0 then some (.abs (fv n 21 5) (fv n 16 5) (fv n 10 1)) else none
  | 30 => if fld n 5 4 = 0 then some (.addv (fv n 21 5) (fv n 16 5) (fv n 11 5) (fv n 10 1) (fv n 9 1)) else none
  | _ => none

/-- Major 0x01 (02 R42). -/
def decodeMajor01 (n : Nat) : Option Instr :=
  some (.addi (fv n 21 5) (fv n 16 5) (fv n 0 16))

/-- Major 0x02 (02 R42). -/
def decodeMajor02 (n : Nat) : Option Instr :=
  some (.andi (fv n 21 5) (fv n 16 5) (fv n 0 16))

/-- Major 0x03 (02 R42). -/
def decodeMajor03 (n : Nat) : Option Instr :=
  some (.ori (fv n 21 5) (fv n 16 5) (fv n 0 16))

/-- Major 0x04 (02 R42). -/
def decodeMajor04 (n : Nat) : Option Instr :=
  some (.xori (fv n 21 5) (fv n 16 5) (fv n 0 16))

/-- Major 0x05 (02 R42). -/
def decodeMajor05 (n : Nat) : Option Instr :=
  some (.slti (fv n 21 5) (fv n 16 5) (fv n 0 16))

/-- Major 0x06 (02 R42). -/
def decodeMajor06 (n : Nat) : Option Instr :=
  some (.sltiu (fv n 21 5) (fv n 16 5) (fv n 0 16))

/-- Major 0x07 (02 R42). -/
def decodeMajor07 (n : Nat) : Option Instr :=
  match fld n 8 8 with
  | 0 => if fld n 6 2 = 0 then some (.shli (fv n 21 5) (fv n 16 5) (fv n 0 6)) else none
  | 1 => if fld n 6 2 = 0 then some (.shri (fv n 21 5) (fv n 16 5) (fv n 0 6)) else none
  | 2 => if fld n 6 2 = 0 then some (.srai (fv n 21 5) (fv n 16 5) (fv n 0 6)) else none
  | _ => none

/-- Major 0x08 (02 R42). -/
def decodeMajor08 (n : Nat) : Option Instr :=
  if fld n 16 5 = 0 then some (.movi (fv n 21 5) (fv n 0 16)) else none

/-- Major 0x09 (02 R42). -/
def decodeMajor09 (n : Nat) : Option Instr :=
  match fld n 0 5 with
  | 1 => some (.fadd (fv n 21 5) (fv n 16 5) (fv n 11 5) (fv n 10 1) (fv n 9 1) (fv n 6 3) (fv n 5 1))
  | 2 => some (.fsub (fv n 21 5) (fv n 16 5) (fv n 11 5) (fv n 10 1) (fv n 9 1) (fv n 6 3) (fv n 5 1))
  | 3 => some (.fmul (fv n 21 5) (fv n 16 5) (fv n 11 5) (fv n 10 1) (fv n 9 1) (fv n 6 3) (fv n 5 1))
  | 4 => some (.fdiv (fv n 21 5) (fv n 16 5) (fv n 11 5) (fv n 10 1) (fv n 9 1) (fv n 6 3) (fv n 5 1))
  | 5 => if fld n 9 1 = 0 ∧ fld n 11 5 = 0 then some (.fsqrt (fv n 21 5) (fv n 16 5) (fv n 10 1) (fv n 6 3) (fv n 5 1)) else none
  | 6 => some (.fma (fv n 21 5) (fv n 16 5) (fv n 11 5) (fv n 10 1) (fv n 9 1) (fv n 6 3) (fv n 5 1))
  | 7 => some (.fms (fv n 21 5) (fv n 16 5) (fv n 11 5) (fv n 10 1) (fv n 9 1) (fv n 6 3) (fv n 5 1))
  | 8 => if fld n 6 3 = 0 then some (.fmin (fv n 21 5) (fv n 16 5) (fv n 11 5) (fv n 10 1) (fv n 9 1) (fv n 5 1)) else none
  | 9 => if fld n 6 3 = 0 then some (.fmax (fv n 21 5) (fv n 16 5) (fv n 11 5) (fv n 10 1) (fv n 9 1) (fv n 5 1)) else none
  | 10 => if fld n 6 3 = 0 then some (.feq (fv n 21 5) (fv n 16 5) (fv n 11 5) (fv n 10 1) (fv n 9 1) (fv n 5 1)) else none
  | 11 => if fld n 6 3 = 0 then some (.flt (fv n 21 5) (fv n 16 5) (fv n 11 5) (fv n 10 1) (fv n 9 1) (fv n 5 1)) else none
  | 12 => if fld n 6 3 = 0 then some (.fle (fv n 21 5) (fv n 16 5) (fv n 11 5) (fv n 10 1) (fv n 9 1) (fv n 5 1)) else none
  | 13 => if fld n 6 4 = 0 ∧ fld n 11 5 = 0 then some (.fclass (fv n 21 5) (fv n 16 5) (fv n 10 1) (fv n 5 1)) else none
  | 14 => if fld n 5 1 = 0 ∧ fld n 9 1 = 0 ∧ fld n 15 1 = 0 then some (.fcvt (fv n 21 5) (fv n 16 5) (fv n 11 4) (fv n 10 1) (fv n 6 3)) else none
  | _ => none

/-- Major 0x0A (02 R42). -/
def decodeMajor0A (n : Nat) : Option Instr :=
  match fld n 0 5 with
  | 1 => some (.ladd (fv n 21 5) (fv n 16 5) (fv n 11 5) (fv n 10 1) (fv n 9 1) (fv n 5 4))
  | 2 => some (.lsub (fv n 21 5) (fv n 16 5) (fv n 11 5) (fv n 10 1) (fv n 9 1) (fv n 5 4))
  | 3 => some (.lmul (fv n 21 5) (fv n 16 5) (fv n 11 5) (fv n 10 1) (fv n 9 1) (fv n 5 4))
  | 4 => some (.ldiv (fv n 21 5) (fv n 16 5) (fv n 11 5) (fv n 10 1) (fv n 9 1) (fv n 5 4))
  | 5 => some (.leq (fv n 21 5) (fv n 16 5) (fv n 11 5) (fv n 10 1) (fv n 9 1) (fv n 5 4))
  | 6 => some (.llt (fv n 21 5) (fv n 16 5) (fv n 11 5) (fv n 10 1) (fv n 9 1) (fv n 5 4))
  | 7 => if fld n 9 1 = 0 then some (.lcvt (fv n 21 5) (fv n 16 5) (fv n 15 1) (fv n 11 4) (fv n 10 1) (fv n 5 4)) else none
  | 8 => if fld n 9 1 = 0 ∧ fld n 11 5 = 0 then some (.llevel (fv n 21 5) (fv n 16 5) (fv n 10 1) (fv n 5 4)) else none
  | _ => none

/-- Major 0x0B (02 R42). -/
def decodeMajor0B (n : Nat) : Option Instr :=
  match fld n 13 3 with
  | 0 => some (.beq (fv n 21 5) (fv n 16 5) (fv n 0 13))
  | 1 => some (.bne (fv n 21 5) (fv n 16 5) (fv n 0 13))
  | 2 => some (.blt (fv n 21 5) (fv n 16 5) (fv n 0 13))
  | 3 => some (.bge (fv n 21 5) (fv n 16 5) (fv n 0 13))
  | 4 => some (.bltu (fv n 21 5) (fv n 16 5) (fv n 0 13))
  | 5 => some (.bgeu (fv n 21 5) (fv n 16 5) (fv n 0 13))
  | _ => none

/-- Major 0x0C (02 R42). -/
def decodeMajor0C (n : Nat) : Option Instr :=
  some (.jmp (fv n 0 26))

/-- Major 0x0D (02 R42). -/
def decodeMajor0D (n : Nat) : Option Instr :=
  some (.jal (fv n 0 26))

/-- Major 0x0E (02 R42). -/
def decodeMajor0E (n : Nat) : Option Instr :=
  some (.jalr (fv n 21 5) (fv n 16 5) (fv n 0 16))

/-- Major 0x10 (02 R42). -/
def decodeMajor10 (n : Nat) : Option Instr :=
  some (.ld (fv n 21 5) (fv n 16 5) (fv n 12 4) (fv n 9 3) (fv n 0 9))

/-- Major 0x11 (02 R42). -/
def decodeMajor11 (n : Nat) : Option Instr :=
  if fld n 11 5 = 0 then some (.st (fv n 21 5) (fv n 16 5) (fv n 9 2) (fv n 0 9)) else none

/-- Major 0x12 (02 R42). -/
def decodeMajor12 (n : Nat) : Option Instr :=
  match fld n 11 1 with
  | 0 => some (.lda (fv n 21 5) (fv n 16 5) (fv n 12 4) (fv n 9 2) (fv n 0 9))
  | 1 => if fld n 12 4 = 0 then some (.str (fv n 21 5) (fv n 16 5) (fv n 9 2) (fv n 0 9)) else none
  | _ => none

/-- Major 0x13 (02 R42). -/
def decodeMajor13 (n : Nat) : Option Instr :=
  match fld n 10 2 with
  | 1 => some (.ldp (fv n 21 5) (fv n 16 5) (fv n 12 4) (fv n 9 1) (fv n 0 9))
  | 3 => if fld n 12 4 = 0 then some (.stp (fv n 21 5) (fv n 16 5) (fv n 9 1) (fv n 0 9)) else none
  | _ => none

/-- Major 0x14 (02 R42). -/
def decodeMajor14 (n : Nat) : Option Instr :=
  some (.amo (fv n 21 5) (fv n 16 5) (fv n 11 5) (fv n 7 4) (fv n 6 1) (fv n 5 1) (fv n 4 1) (fv n 0 4))

/-- Major 0x15 (02 R42). -/
def decodeMajor15 (n : Nat) : Option Instr :=
  if fld n 0 4 = 0 then some (.cas (fv n 21 5) (fv n 16 5) (fv n 11 5) (fv n 7 4) (fv n 6 1) (fv n 5 1) (fv n 4 1)) else none

/-- Major 0x16 (02 R42). -/
def decodeMajor16 (n : Nat) : Option Instr :=
  match fld n 0 3 with
  | 1 => if fld n 6 20 = 0 then some (.fence (fv n 3 3)) else none
  | 2 => if fld n 4 22 = 2 then some (.fenceS (fv n 3 1)) else none
  | 3 => if fld n 3 23 = 0 then some .isync else none
  | 4 => if fld n 3 23 = 0 then some .tfence else none
  | _ => none

/-- Major 0x17 (02 R42). -/
def decodeMajor17 (n : Nat) : Option Instr :=
  match fld n 0 7 with
  | 1 => if fld n 7 4 = 0 ∧ fld n 24 2 = 0 then some (.rbind (fv n 21 3) (fv n 16 5) (fv n 11 5)) else none
  | 2 => if fld n 7 14 = 0 ∧ fld n 24 2 = 0 then some (.runbind (fv n 21 3)) else none
  | 3 => if fld n 7 9 = 0 ∧ fld n 21 5 = 0 then some (.acqX (fv n 16 5)) else none
  | 4 => if fld n 7 9 = 0 ∧ fld n 21 5 = 0 then some (.acqS (fv n 16 5)) else none
  | 5 => if fld n 7 9 = 0 ∧ fld n 21 5 = 0 then some (.relX (fv n 16 5)) else none
  | 6 => if fld n 7 9 = 0 ∧ fld n 21 5 = 0 then some (.relS (fv n 16 5)) else none
  | 7 => if fld n 7 4 = 0 ∧ fld n 21 5 = 0 then some (.cwb (fv n 16 5) (fv n 11 5)) else none
  | 8 => if fld n 7 4 = 0 ∧ fld n 21 5 = 0 then some (.cinv (fv n 16 5) (fv n 11 5)) else none
  | _ => none

/-- Major 0x18 (02 R42). -/
def decodeMajor18 (n : Nat) : Option Instr :=
  match fld n 0 7 with
  | 1 => if fld n 7 4 = 0 ∧ fld n 21 5 = 0 then some (.binit (fv n 16 5) (fv n 11 5)) else none
  | 2 => if fld n 11 5 = 0 then some (.barr (fv n 21 5) (fv n 16 5) (fv n 7 4)) else none
  | 3 => if fld n 7 4 = 0 then some (.bexp (fv n 21 5) (fv n 16 5) (fv n 11 5)) else none
  | 4 => if fld n 7 4 = 0 ∧ fld n 21 5 = 0 then some (.bwait (fv n 16 5) (fv n 11 5)) else none
  | 5 => if fld n 7 9 = 0 then some (.btest (fv n 21 5) (fv n 16 5)) else none
  | _ => none

/-- Major 0x19 (02 R42). -/
def decodeMajor19 (n : Nat) : Option Instr :=
  match fld n 0 7 with
  | 1 => if fld n 7 4 = 0 ∧ fld n 21 5 = 0 then some (.rinit (fv n 16 5) (fv n 11 5)) else none
  | 2 => if fld n 7 4 = 0 then some (.rpop (fv n 21 5) (fv n 16 5) (fv n 11 5)) else none
  | 3 => if fld n 7 4 = 0 then some (.rpush (fv n 21 5) (fv n 16 5) (fv n 11 5)) else none
  | 4 => if fld n 7 4 = 0 ∧ fld n 21 5 = 0 then some (.rfix (fv n 16 5) (fv n 11 5)) else none
  | 5 => if fld n 7 9 = 0 then some (.rstat (fv n 21 5) (fv n 16 5)) else none
  | _ => none

/-- Major 0x1A (02 R42). -/
def decodeMajor1A (n : Nat) : Option Instr :=
  match fld n 0 7 with
  | 1 => if fld n 7 4 = 0 ∧ fld n 21 5 = 0 then some (.msend (fv n 16 5) (fv n 11 5)) else none
  | 2 => if fld n 7 9 = 0 ∧ fld n 20 1 = 0 then some (.mtake (fv n 21 5) (fv n 16 4)) else none
  | 3 => if fld n 7 9 = 0 ∧ fld n 20 1 = 0 then some (.mpeek (fv n 21 5) (fv n 16 4)) else none
  | 4 => if fld n 7 9 = 0 then some (.wait (fv n 21 5) (fv n 16 5)) else none
  | _ => none

/-- Major 0x1B (02 R42). -/
def decodeMajor1B (n : Nat) : Option Instr :=
  match fld n 0 3 with
  | 1 => if fld n 5 16 = 0 then some (.bind (fv n 21 5) (fv n 3 2)) else none
  | 2 => if fld n 3 18 = 0 then some (.unbind (fv n 21 5)) else none
  | 3 => if fld n 3 13 = 0 then some (.bstat (fv n 21 5) (fv n 16 5)) else none
  | 4 => if fld n 3 13 = 0 ∧ fld n 21 5 = 0 then some (.bclr (fv n 16 5)) else none
  | _ => none

/-- Major 0x1C (02 R42). -/
def decodeMajor1C (n : Nat) : Option Instr :=
  match fld n 0 4 with
  | 1 => if fld n 6 5 = 0 then some (.shape (fv n 21 5) (fv n 16 5) (fv n 11 5) (fv n 4 2)) else none
  | 2 => if fld n 4 12 = 0 then some (.wayset (fv n 21 5) (fv n 16 5)) else none
  | _ => none

/-- Major 0x1D (02 R42). -/
def decodeMajor1D (n : Nat) : Option Instr :=
  match fld n 0 4 with
  | 0 => some (.vld (fv n 21 5) (fv n 16 5) (fv n 11 5) (fv n 7 4) (fv n 6 1) (fv n 5 1) (fv n 4 1))
  | 1 => if fld n 4 2 = 0 then some (.vst (fv n 21 5) (fv n 16 5) (fv n 11 5) (fv n 7 4) (fv n 6 1)) else none
  | 2 => some (.vldm (fv n 21 5) (fv n 16 5) (fv n 11 5) (fv n 7 4) (fv n 6 1) (fv n 5 1) (fv n 4 1))
  | 3 => if fld n 4 2 = 0 then some (.vstm (fv n 21 5) (fv n 16 5) (fv n 11 5) (fv n 7 4) (fv n 6 1)) else none
  | 4 => some (.vldx (fv n 21 5) (fv n 16 5) (fv n 11 5) (fv n 7 4) (fv n 6 1) (fv n 5 1) (fv n 4 1))
  | 5 => if fld n 4 2 = 0 then some (.vstx (fv n 21 5) (fv n 16 5) (fv n 11 5) (fv n 7 4) (fv n 6 1)) else none
  | _ => none

/-- Major 0x1E (02 R42). -/
def decodeMajor1E (n : Nat) : Option Instr :=
  match fld n 0 4 with
  | 0 => some (.vadd (fv n 21 5) (fv n 16 5) (fv n 11 5) (fv n 7 4) (fv n 6 1) (fv n 5 1) (fv n 4 1))
  | 1 => some (.vsub (fv n 21 5) (fv n 16 5) (fv n 11 5) (fv n 7 4) (fv n 6 1) (fv n 5 1) (fv n 4 1))
  | 2 => some (.vmul (fv n 21 5) (fv n 16 5) (fv n 11 5) (fv n 7 4) (fv n 6 1) (fv n 5 1) (fv n 4 1))
  | 3 => some (.vmulh (fv n 21 5) (fv n 16 5) (fv n 11 5) (fv n 7 4) (fv n 6 1) (fv n 5 1) (fv n 4 1))
  | 4 => some (.vdiv (fv n 21 5) (fv n 16 5) (fv n 11 5) (fv n 7 4) (fv n 6 1) (fv n 5 1) (fv n 4 1))
  | 5 => some (.vmin (fv n 21 5) (fv n 16 5) (fv n 11 5) (fv n 7 4) (fv n 6 1) (fv n 5 1) (fv n 4 1))
  | 6 => some (.vmax (fv n 21 5) (fv n 16 5) (fv n 11 5) (fv n 7 4) (fv n 6 1) (fv n 5 1) (fv n 4 1))
  | 7 => some (.vand (fv n 21 5) (fv n 16 5) (fv n 11 5) (fv n 7 4) (fv n 6 1) (fv n 5 1) (fv n 4 1))
  | 8 => some (.vor (fv n 21 5) (fv n 16 5) (fv n 11 5) (fv n 7 4) (fv n 6 1) (fv n 5 1) (fv n 4 1))
  | 9 => some (.vxor (fv n 21 5) (fv n 16 5) (fv n 11 5) (fv n 7 4) (fv n 6 1) (fv n 5 1) (fv n 4 1))
  | 10 => some (.vshl (fv n 21 5) (fv n 16 5) (fv n 11 5) (fv n 7 4) (fv n 6 1) (fv n 5 1) (fv n 4 1))
  | 11 => some (.vshr (fv n 21 5) (fv n 16 5) (fv n 11 5) (fv n 7 4) (fv n 6 1) (fv n 5 1) (fv n 4 1))
  | 12 => some (.vsra (fv n 21 5) (fv n 16 5) (fv n 11 5) (fv n 7 4) (fv n 6 1) (fv n 5 1) (fv n 4 1))
  | 13 => some (.vfma (fv n 21 5) (fv n 16 5) (fv n 11 5) (fv n 7 4) (fv n 6 1) (fv n 5 1) (fv n 4 1))
  | 14 => if fld n 11 5 = 0 then some (.vsqrt (fv n 21 5) (fv n 16 5) (fv n 7 4) (fv n 6 1) (fv n 5 1) (fv n 4 1)) else none
  | _ => none

/-- Major 0x1F (02 R42). -/
def decodeMajor1F (n : Nat) : Option Instr :=
  match fld n 0 4 with
  | 0 => some (.vladd (fv n 21 5) (fv n 16 5) (fv n 11 5) (fv n 7 4) (fv n 6 1) (fv n 5 1) (fv n 4 1))
  | 1 => some (.vlmul (fv n 21 5) (fv n 16 5) (fv n 11 5) (fv n 7 4) (fv n 6 1) (fv n 5 1) (fv n 4 1))
  | 2 => some (.vldiv (fv n 21 5) (fv n 16 5) (fv n 11 5) (fv n 7 4) (fv n 6 1) (fv n 5 1) (fv n 4 1))
  | _ => none

/-- Major 0x20 (02 R42). -/
def decodeMajor20 (n : Nat) : Option Instr :=
  match fld n 0 4 with
  | 0 => some (.vcmp (fv n 21 5) (fv n 16 5) (fv n 11 5) (fv n 7 4) (fv n 6 1) (fv n 5 1) (fv n 4 1) (fv n 0 2))
  | 1 => some (.vcmp (fv n 21 5) (fv n 16 5) (fv n 11 5) (fv n 7 4) (fv n 6 1) (fv n 5 1) (fv n 4 1) (fv n 0 2))
  | 2 => some (.vcmp (fv n 21 5) (fv n 16 5) (fv n 11 5) (fv n 7 4) (fv n 6 1) (fv n 5 1) (fv n 4 1) (fv n 0 2))
  | 3 => some (.vcmp (fv n 21 5) (fv n 16 5) (fv n 11 5) (fv n 7 4) (fv n 6 1) (fv n 5 1) (fv n 4 1) (fv n 0 2))
  | 4 => if fld n 5 2 = 0 then some (.vsel (fv n 21 5) (fv n 16 5) (fv n 11 5) (fv n 7 4) (fv n 4 1)) else none
  | 5 => some (.vcvt (fv n 21 5) (fv n 16 5) (fv n 15 1) (fv n 11 4) (fv n 7 4) (fv n 6 1) (fv n 5 1) (fv n 4 1))
  | 6 => if fld n 7 4 = 2 then some (.vreq (fv n 21 5) (fv n 16 5) (fv n 11 5) (fv n 6 1) (fv n 5 1) (fv n 4 1)) else none
  | _ => none

/-- Major 0x21 (02 R42). -/
def decodeMajor21 (n : Nat) : Option Instr :=
  match fld n 0 4 with
  | 0 => if fld n 5 1 = 0 ∧ fld n 15 1 = 0 then some (.vred (fv n 21 5) (fv n 16 5) (fv n 14 1) (fv n 11 3) (fv n 7 4) (fv n 6 1) (fv n 4 1)) else none
  | 1 => some (.vperm (fv n 21 5) (fv n 16 5) (fv n 11 5) (fv n 7 4) (fv n 6 1) (fv n 5 1) (fv n 4 1))
  | 2 => if fld n 11 5 = 0 then some (.vbcast (fv n 21 5) (fv n 16 5) (fv n 7 4) (fv n 6 1) (fv n 5 1) (fv n 4 1)) else none
  | 3 => if fld n 4 3 = 0 then some (.vext (fv n 21 5) (fv n 16 5) (fv n 11 5) (fv n 7 4)) else none
  | 4 => if fld n 11 5 = 0 then some (.viota (fv n 21 5) (fv n 16 5) (fv n 7 4) (fv n 6 1) (fv n 5 1) (fv n 4 1)) else none
  | 5 => if fld n 4 2 = 0 ∧ fld n 11 5 = 0 then some (.vpopc (fv n 21 5) (fv n 16 5) (fv n 7 4) (fv n 6 1)) else none
  | _ => none

/-- Major 0x24 (02 R42). -/
def decodeMajor24 (n : Nat) : Option Instr :=
  match fld n 0 7 with
  | 1 => if fld n 11 5 = 0 then some (.mclaim (fv n 21 5) (fv n 16 5) (fv n 7 4)) else none
  | 2 => if fld n 21 5 = 0 then some (.mrel (fv n 16 5) (fv n 11 5) (fv n 7 4)) else none
  | 3 => if fld n 15 1 = 0 then some (.mput (fv n 21 5) (fv n 16 5) (fv n 11 4) (fv n 7 4)) else none
  | 4 => some (.mload (fv n 21 5) (fv n 16 5) (fv n 11 5) (fv n 7 4))
  | 5 => some (.mma (fv n 21 5) (fv n 16 5) (fv n 11 5) (fv n 7 4))
  | 6 => if fld n 21 5 = 0 then some (.mcbk (fv n 16 5) (fv n 11 5) (fv n 7 4)) else none
  | 7 => if fld n 11 10 = 0 then some (.mwait (fv n 21 5) (fv n 7 4)) else none
  | 8 => if fld n 11 10 = 0 then some (.mstat (fv n 21 5) (fv n 7 4)) else none
  | _ => none

/-- Major 0x25 (02 R42). -/
def decodeMajor25 (n : Nat) : Option Instr :=
  match fld n 0 7 with
  | 1 => some (.cpy (fv n 21 5) (fv n 16 5) (fv n 11 5) (fv n 7 4))
  | 2 => some (.cpy2 (fv n 21 5) (fv n 16 5) (fv n 11 5) (fv n 7 4))
  | 3 => some (.cxp (fv n 21 5) (fv n 16 5) (fv n 11 5) (fv n 7 4))
  | 4 => some (.cpk (fv n 21 5) (fv n 16 5) (fv n 11 5) (fv n 7 4))
  | 5 => some (.cgthb (fv n 21 5) (fv n 16 5) (fv n 11 5) (fv n 7 4))
  | 6 => some (.cpyr (fv n 21 5) (fv n 16 5) (fv n 11 5) (fv n 7 4))
  | 7 => if fld n 11 10 = 0 then some (.cwait (fv n 21 5) (fv n 7 4)) else none
  | 8 => if fld n 11 10 = 0 then some (.cstat (fv n 21 5) (fv n 7 4)) else none
  | _ => none

/-- Major 0x26 (02 R42). -/
def decodeMajor26 (n : Nat) : Option Instr :=
  match fld n 0 7 with
  | 1 => some (.xexp (fv n 21 5) (fv n 16 5) (fv n 11 5) (fv n 7 4))
  | 2 => some (.xrot (fv n 21 5) (fv n 16 5) (fv n 11 5) (fv n 7 4))
  | 3 => if fld n 11 10 = 0 then some (.xwait (fv n 21 5) (fv n 7 4)) else none
  | 16 => if fld n 21 5 = 0 then some (.casld (fv n 16 5) (fv n 11 5) (fv n 7 4)) else none
  | 17 => if fld n 11 10 = 0 then some (.caswait (fv n 21 5) (fv n 7 4)) else none
  | _ => none

/-- Major 0x27 (02 R42). -/
def decodeMajor27 (n : Nat) : Option Instr :=
  match fld n 0 7 with
  | 1 => some (.ssopen (fv n 21 5) (fv n 16 5) (fv n 11 5) (fv n 7 4))
  | 2 => some (.ssload (fv n 21 5) (fv n 16 5) (fv n 11 5) (fv n 7 4))
  | 3 => some (.sscommit (fv n 21 5) (fv n 16 5) (fv n 11 5) (fv n 7 4))
  | 4 => if fld n 11 5 = 0 then some (.sssnap (fv n 21 5) (fv n 16 5) (fv n 7 4)) else none
  | 5 => some (.ssfind (fv n 21 5) (fv n 16 5) (fv n 11 5) (fv n 7 4))
  | 6 => some (.ssroll (fv n 21 5) (fv n 16 5) (fv n 11 5) (fv n 7 4))
  | 7 => some (.sspin (fv n 21 5) (fv n 16 5) (fv n 11 5) (fv n 7 4))
  | 8 => some (.ssunpin (fv n 21 5) (fv n 16 5) (fv n 11 5) (fv n 7 4))
  | 9 => some (.ssfork (fv n 21 5) (fv n 16 5) (fv n 11 5) (fv n 7 4))
  | 10 => if fld n 11 5 = 0 ∧ fld n 21 5 = 0 then some (.ssclose (fv n 16 5) (fv n 7 4)) else none
  | _ => none

/-- Major 0x28 (02 R42). -/
def decodeMajor28 (n : Nat) : Option Instr :=
  match fld n 0 7 with
  | 1 => if fld n 11 10 = 0 then some (.enext (fv n 21 5) (fv n 7 4)) else none
  | 2 => some (.eacc (fv n 21 5) (fv n 16 5) (fv n 11 5) (fv n 7 4))
  | 3 => if fld n 11 10 = 0 then some (.estat (fv n 21 5) (fv n 7 4)) else none
  | _ => none

/-- Major 0x29 (02 R42). -/
def decodeMajor29 (n : Nat) : Option Instr :=
  match fld n 0 3 with
  | 1 => if fld n 3 8 = 0 then some (.launch (fv n 21 5) (fv n 16 5) (fv n 11 5)) else none
  | 2 => if fld n 3 23 = 0 then some .trig else none
  | 3 => if fld n 3 13 = 0 ∧ fld n 21 5 = 0 then some (.exit (fv n 16 5)) else none
  | 4 => if fld n 6 20 = 0 then some (.dsync (fv n 3 3)) else none
  | 5 => if fld n 3 23 = 0 then some .yield else none
  | _ => none

/-- Major 0x2A (02 R42). -/
def decodeMajor2A (n : Nat) : Option Instr :=
  match fld n 12 4 with
  | 0 => if fld n 16 5 = 0 then some (.rdc (fv n 21 5) (fv n 0 12)) else none
  | 1 => if fld n 21 5 = 0 then if fld n 0 12 = 0x050 then some (.casgo (fv n 16 5)) else some (.wrc (fv n 16 5) (fv n 0 12)) else none
  | 2 => if fld n 16 10 = 0 then some (.trap (fv n 0 12)) else none
  | 3 => if fld n 0 12 = 0 ∧ fld n 16 10 = 0 then some .eret else if fld n 0 12 = 1 ∧ fld n 16 10 = 0 then some .eretS else none
  | 4 => if fld n 16 10 = 0 then some (.brk (fv n 0 12)) else none
  | 5 => if fld n 0 12 = 0 ∧ fld n 21 5 = 0 then some (.sleep (fv n 16 5)) else none
  | _ => none

/-- Major 0x3E (02 R42). -/
def decodeMajor3E (n : Nat) : Option Instr :=
  some (.imx (fv n 0 26))

/-- Major 0x3F (02 R42). -/
def decodeMajor3F (n : Nat) : Option Instr :=
  some (.hint (fv n 20 6) (fv n 0 20))

/-- The instruction that a word's fixed bits select, before the limits of `Instr.wf` (24 R445). -/
def rawDecode (n : Nat) : Option Instr :=
  match fld n 26 6 with
  | 0x00 => decodeMajor00 n
  | 0x01 => decodeMajor01 n
  | 0x02 => decodeMajor02 n
  | 0x03 => decodeMajor03 n
  | 0x04 => decodeMajor04 n
  | 0x05 => decodeMajor05 n
  | 0x06 => decodeMajor06 n
  | 0x07 => decodeMajor07 n
  | 0x08 => decodeMajor08 n
  | 0x09 => decodeMajor09 n
  | 0x0A => decodeMajor0A n
  | 0x0B => decodeMajor0B n
  | 0x0C => decodeMajor0C n
  | 0x0D => decodeMajor0D n
  | 0x0E => decodeMajor0E n
  | 0x10 => decodeMajor10 n
  | 0x11 => decodeMajor11 n
  | 0x12 => decodeMajor12 n
  | 0x13 => decodeMajor13 n
  | 0x14 => decodeMajor14 n
  | 0x15 => decodeMajor15 n
  | 0x16 => decodeMajor16 n
  | 0x17 => decodeMajor17 n
  | 0x18 => decodeMajor18 n
  | 0x19 => decodeMajor19 n
  | 0x1A => decodeMajor1A n
  | 0x1B => decodeMajor1B n
  | 0x1C => decodeMajor1C n
  | 0x1D => decodeMajor1D n
  | 0x1E => decodeMajor1E n
  | 0x1F => decodeMajor1F n
  | 0x20 => decodeMajor20 n
  | 0x21 => decodeMajor21 n
  | 0x24 => decodeMajor24 n
  | 0x25 => decodeMajor25 n
  | 0x26 => decodeMajor26 n
  | 0x27 => decodeMajor27 n
  | 0x28 => decodeMajor28 n
  | 0x29 => decodeMajor29 n
  | 0x2A => decodeMajor2A n
  | 0x3E => decodeMajor3E n
  | 0x3F => decodeMajor3F n
  | _ => none

/-- The instruction that a word is, or none where it is no defined encoding (02 R43). -/
def decodeWord (w : BitVec 32) : Option Instr :=
  match rawDecode w.toNat with
  | some i => if i.wf then some i else none
  | none => none

/-- The four bytes of a word, the lowest address first (00 R8). -/
def wordBytes (w : BitVec 32) : List Byte :=
  [BitVec.ofNat 8 w.toNat, BitVec.ofNat 8 (w.toNat / 2 ^ 8), BitVec.ofNat 8 (w.toNat / 2 ^ 16),
    BitVec.ofNat 8 (w.toNat / 2 ^ 24)]

/-- The instruction in the first four bytes. -/
def decodeBytes : List Byte → Option Instr
  | b0 :: b1 :: b2 :: b3 :: _ =>
    decodeWord (BitVec.ofNat 32 (b0.toNat + b1.toNat * 2 ^ 8 + b2.toNat * 2 ^ 16 + b3.toNat * 2 ^ 24))
  | _ => none

/-- The instruction whose bits are w, numbered as spec/opcode_table.json numbers them; bits from nbits up are 0. -/
def decodeTableWord (nbits w : Nat) : Option Instr :=
  decodeBytes (wordBytes (BitVec.ofNat 32 (w % 2 ^ nbits)))

/-- The immediate of a microword with the fields of 11 R286. -/
def microFields (n : Nat) : Micro :=
  ⟨fv n 56 4, fv n 52 4, fv n 48 4, fv n 32 16, fv n 0 32⟩

/-- The micro-operation that a microword's OP and, for MM and SIG, X select (11 R287, R288, R290). -/
def rawDecodeMicro (n : Nat) : Option Instr :=
  let u := microFields n
  match fld n 60 4 with
  | 0 => some (.microMovi u)
  | 1 => some (.microAdd u)
  | 2 => some (.microAddm u)
  | 3 => some (.microDjnz u)
  | 4 => some (.microBnz u)
  | 5 => match fld n 32 2 with
    | 0 => some (.microMm u)
    | 1 => some (.microMmMload u)
    | _ => none
  | 6 => some (.microXp u)
  | 7 => some (.microCp u)
  | 8 => some (.microMask u)
  | 9 => some (.microRmax u)
  | 10 => some (.microRsum u)
  | 11 => some (.microLcomb u)
  | 12 => some (.microNorm u)
  | 13 => some (.microWaite u)
  | 14 => match fld n 32 1 with
    | 0 => some (.microSig u)
    | _ => some (.microSigMessage u)
  | _ => some (.microStop u)

/-- The micro-operation of a microword, or none where it has a nonzero field that its operation does not use or a
reserved X value (11 R299). -/
def decodeMicro (w : BitVec 64) : Option Instr :=
  match rawDecodeMicro w.toNat with
  | some i => if i.wf then some i else none
  | none => none

/-- The word of an instruction, from the formats of 02 R35 and the rows of the table; rows without an encoding have
none. -/
def encode : Instr → Option (BitVec 32)
  | .add d a b m n => some (BitVec.ofNat 32 (0x00000001 + d.toNat * 2097152 + a.toNat * 65536 + b.toNat * 2048 + m.toNat * 1024 + n.toNat * 512))
  | .sub d a b m n => some (BitVec.ofNat 32 (0x00000002 + d.toNat * 2097152 + a.toNat * 65536 + b.toNat * 2048 + m.toNat * 1024 + n.toNat * 512))
  | .and d a b m n => some (BitVec.ofNat 32 (0x00000003 + d.toNat * 2097152 + a.toNat * 65536 + b.toNat * 2048 + m.toNat * 1024 + n.toNat * 512))
  | .or d a b m n => some (BitVec.ofNat 32 (0x00000004 + d.toNat * 2097152 + a.toNat * 65536 + b.toNat * 2048 + m.toNat * 1024 + n.toNat * 512))
  | .xor d a b m n => some (BitVec.ofNat 32 (0x00000005 + d.toNat * 2097152 + a.toNat * 65536 + b.toNat * 2048 + m.toNat * 1024 + n.toNat * 512))
  | .andn d a b m n => some (BitVec.ofNat 32 (0x00000006 + d.toNat * 2097152 + a.toNat * 65536 + b.toNat * 2048 + m.toNat * 1024 + n.toNat * 512))
  | .shl d a b m n => some (BitVec.ofNat 32 (0x00000007 + d.toNat * 2097152 + a.toNat * 65536 + b.toNat * 2048 + m.toNat * 1024 + n.toNat * 512))
  | .shr d a b m n => some (BitVec.ofNat 32 (0x00000008 + d.toNat * 2097152 + a.toNat * 65536 + b.toNat * 2048 + m.toNat * 1024 + n.toNat * 512))
  | .sra d a b m n => some (BitVec.ofNat 32 (0x00000009 + d.toNat * 2097152 + a.toNat * 65536 + b.toNat * 2048 + m.toNat * 1024 + n.toNat * 512))
  | .mul d a b m n => some (BitVec.ofNat 32 (0x0000000a + d.toNat * 2097152 + a.toNat * 65536 + b.toNat * 2048 + m.toNat * 1024 + n.toNat * 512))
  | .mulh d a b m n => some (BitVec.ofNat 32 (0x0000000b + d.toNat * 2097152 + a.toNat * 65536 + b.toNat * 2048 + m.toNat * 1024 + n.toNat * 512))
  | .mulhu d a b m n => some (BitVec.ofNat 32 (0x0000000c + d.toNat * 2097152 + a.toNat * 65536 + b.toNat * 2048 + m.toNat * 1024 + n.toNat * 512))
  | .div d a b m n l => some (BitVec.ofNat 32 (0x0000000d + d.toNat * 2097152 + a.toNat * 65536 + b.toNat * 2048 + m.toNat * 1024 + n.toNat * 512 + l.toNat * 32))
  | .divu d a b m n l => some (BitVec.ofNat 32 (0x0000000e + d.toNat * 2097152 + a.toNat * 65536 + b.toNat * 2048 + m.toNat * 1024 + n.toNat * 512 + l.toNat * 32))
  | .rem d a b m n l => some (BitVec.ofNat 32 (0x0000000f + d.toNat * 2097152 + a.toNat * 65536 + b.toNat * 2048 + m.toNat * 1024 + n.toNat * 512 + l.toNat * 32))
  | .remu d a b m n l => some (BitVec.ofNat 32 (0x00000010 + d.toNat * 2097152 + a.toNat * 65536 + b.toNat * 2048 + m.toNat * 1024 + n.toNat * 512 + l.toNat * 32))
  | .min d a b m n => some (BitVec.ofNat 32 (0x00000011 + d.toNat * 2097152 + a.toNat * 65536 + b.toNat * 2048 + m.toNat * 1024 + n.toNat * 512))
  | .max d a b m n => some (BitVec.ofNat 32 (0x00000012 + d.toNat * 2097152 + a.toNat * 65536 + b.toNat * 2048 + m.toNat * 1024 + n.toNat * 512))
  | .minu d a b m n => some (BitVec.ofNat 32 (0x00000013 + d.toNat * 2097152 + a.toNat * 65536 + b.toNat * 2048 + m.toNat * 1024 + n.toNat * 512))
  | .maxu d a b m n => some (BitVec.ofNat 32 (0x00000014 + d.toNat * 2097152 + a.toNat * 65536 + b.toNat * 2048 + m.toNat * 1024 + n.toNat * 512))
  | .slt d a b m n => some (BitVec.ofNat 32 (0x00000015 + d.toNat * 2097152 + a.toNat * 65536 + b.toNat * 2048 + m.toNat * 1024 + n.toNat * 512))
  | .sltu d a b m n => some (BitVec.ofNat 32 (0x00000016 + d.toNat * 2097152 + a.toNat * 65536 + b.toNat * 2048 + m.toNat * 1024 + n.toNat * 512))
  | .seq d a b m n => some (BitVec.ofNat 32 (0x00000017 + d.toNat * 2097152 + a.toNat * 65536 + b.toNat * 2048 + m.toNat * 1024 + n.toNat * 512))
  | .sne d a b m n => some (BitVec.ofNat 32 (0x00000018 + d.toNat * 2097152 + a.toNat * 65536 + b.toNat * 2048 + m.toNat * 1024 + n.toNat * 512))
  | .sel d a b m n => some (BitVec.ofNat 32 (0x00000019 + d.toNat * 2097152 + a.toNat * 65536 + b.toNat * 2048 + m.toNat * 1024 + n.toNat * 512))
  | .clz d a m => some (BitVec.ofNat 32 (0x0000001a + d.toNat * 2097152 + a.toNat * 65536 + m.toNat * 1024))
  | .ctz d a m => some (BitVec.ofNat 32 (0x0000001b + d.toNat * 2097152 + a.toNat * 65536 + m.toNat * 1024))
  | .popc d a m => some (BitVec.ofNat 32 (0x0000001c + d.toNat * 2097152 + a.toNat * 65536 + m.toNat * 1024))
  | .abs d a m => some (BitVec.ofNat 32 (0x0000001d + d.toNat * 2097152 + a.toNat * 65536 + m.toNat * 1024))
  | .addv d a b m n => some (BitVec.ofNat 32 (0x0000001e + d.toNat * 2097152 + a.toNat * 65536 + b.toNat * 2048 + m.toNat * 1024 + n.toNat * 512))
  | .addi d a i => some (BitVec.ofNat 32 (0x04000000 + d.toNat * 2097152 + a.toNat * 65536 + i.toNat))
  | .andi d a i => some (BitVec.ofNat 32 (0x08000000 + d.toNat * 2097152 + a.toNat * 65536 + i.toNat))
  | .ori d a i => some (BitVec.ofNat 32 (0x0c000000 + d.toNat * 2097152 + a.toNat * 65536 + i.toNat))
  | .xori d a i => some (BitVec.ofNat 32 (0x10000000 + d.toNat * 2097152 + a.toNat * 65536 + i.toNat))
  | .slti d a i => some (BitVec.ofNat 32 (0x14000000 + d.toNat * 2097152 + a.toNat * 65536 + i.toNat))
  | .sltiu d a i => some (BitVec.ofNat 32 (0x18000000 + d.toNat * 2097152 + a.toNat * 65536 + i.toNat))
  | .shli d a k => some (BitVec.ofNat 32 (0x1c000000 + d.toNat * 2097152 + a.toNat * 65536 + k.toNat))
  | .shri d a k => some (BitVec.ofNat 32 (0x1c000100 + d.toNat * 2097152 + a.toNat * 65536 + k.toNat))
  | .srai d a k => some (BitVec.ofNat 32 (0x1c000200 + d.toNat * 2097152 + a.toNat * 65536 + k.toNat))
  | .movi d i => some (BitVec.ofNat 32 (0x20000000 + d.toNat * 2097152 + i.toNat))
  | .fadd d a b m n r p => some (BitVec.ofNat 32 (0x24000001 + d.toNat * 2097152 + a.toNat * 65536 + b.toNat * 2048 + m.toNat * 1024 + n.toNat * 512 + r.toNat * 64 + p.toNat * 32))
  | .fsub d a b m n r p => some (BitVec.ofNat 32 (0x24000002 + d.toNat * 2097152 + a.toNat * 65536 + b.toNat * 2048 + m.toNat * 1024 + n.toNat * 512 + r.toNat * 64 + p.toNat * 32))
  | .fmul d a b m n r p => some (BitVec.ofNat 32 (0x24000003 + d.toNat * 2097152 + a.toNat * 65536 + b.toNat * 2048 + m.toNat * 1024 + n.toNat * 512 + r.toNat * 64 + p.toNat * 32))
  | .fdiv d a b m n r p => some (BitVec.ofNat 32 (0x24000004 + d.toNat * 2097152 + a.toNat * 65536 + b.toNat * 2048 + m.toNat * 1024 + n.toNat * 512 + r.toNat * 64 + p.toNat * 32))
  | .fsqrt d a m r p => some (BitVec.ofNat 32 (0x24000005 + d.toNat * 2097152 + a.toNat * 65536 + m.toNat * 1024 + r.toNat * 64 + p.toNat * 32))
  | .fma d a b m n r p => some (BitVec.ofNat 32 (0x24000006 + d.toNat * 2097152 + a.toNat * 65536 + b.toNat * 2048 + m.toNat * 1024 + n.toNat * 512 + r.toNat * 64 + p.toNat * 32))
  | .fms d a b m n r p => some (BitVec.ofNat 32 (0x24000007 + d.toNat * 2097152 + a.toNat * 65536 + b.toNat * 2048 + m.toNat * 1024 + n.toNat * 512 + r.toNat * 64 + p.toNat * 32))
  | .fmin d a b m n p => some (BitVec.ofNat 32 (0x24000008 + d.toNat * 2097152 + a.toNat * 65536 + b.toNat * 2048 + m.toNat * 1024 + n.toNat * 512 + p.toNat * 32))
  | .fmax d a b m n p => some (BitVec.ofNat 32 (0x24000009 + d.toNat * 2097152 + a.toNat * 65536 + b.toNat * 2048 + m.toNat * 1024 + n.toNat * 512 + p.toNat * 32))
  | .feq d a b m n p => some (BitVec.ofNat 32 (0x2400000a + d.toNat * 2097152 + a.toNat * 65536 + b.toNat * 2048 + m.toNat * 1024 + n.toNat * 512 + p.toNat * 32))
  | .flt d a b m n p => some (BitVec.ofNat 32 (0x2400000b + d.toNat * 2097152 + a.toNat * 65536 + b.toNat * 2048 + m.toNat * 1024 + n.toNat * 512 + p.toNat * 32))
  | .fle d a b m n p => some (BitVec.ofNat 32 (0x2400000c + d.toNat * 2097152 + a.toNat * 65536 + b.toNat * 2048 + m.toNat * 1024 + n.toNat * 512 + p.toNat * 32))
  | .fclass d a m p => some (BitVec.ofNat 32 (0x2400000d + d.toNat * 2097152 + a.toNat * 65536 + m.toNat * 1024 + p.toNat * 32))
  | .fcvt d a c m r => some (BitVec.ofNat 32 (0x2400000e + d.toNat * 2097152 + a.toNat * 65536 + c.toNat * 2048 + m.toNat * 1024 + r.toNat * 64))
  | .ladd d a b m n l => some (BitVec.ofNat 32 (0x28000001 + d.toNat * 2097152 + a.toNat * 65536 + b.toNat * 2048 + m.toNat * 1024 + n.toNat * 512 + l.toNat * 32))
  | .lsub d a b m n l => some (BitVec.ofNat 32 (0x28000002 + d.toNat * 2097152 + a.toNat * 65536 + b.toNat * 2048 + m.toNat * 1024 + n.toNat * 512 + l.toNat * 32))
  | .lmul d a b m n l => some (BitVec.ofNat 32 (0x28000003 + d.toNat * 2097152 + a.toNat * 65536 + b.toNat * 2048 + m.toNat * 1024 + n.toNat * 512 + l.toNat * 32))
  | .ldiv d a b m n l => some (BitVec.ofNat 32 (0x28000004 + d.toNat * 2097152 + a.toNat * 65536 + b.toNat * 2048 + m.toNat * 1024 + n.toNat * 512 + l.toNat * 32))
  | .leq d a b m n l => some (BitVec.ofNat 32 (0x28000005 + d.toNat * 2097152 + a.toNat * 65536 + b.toNat * 2048 + m.toNat * 1024 + n.toNat * 512 + l.toNat * 32))
  | .llt d a b m n l => some (BitVec.ofNat 32 (0x28000006 + d.toNat * 2097152 + a.toNat * 65536 + b.toNat * 2048 + m.toNat * 1024 + n.toNat * 512 + l.toNat * 32))
  | .lcvt d a s c m l => some (BitVec.ofNat 32 (0x28000007 + d.toNat * 2097152 + a.toNat * 65536 + s.toNat * 32768 + c.toNat * 2048 + m.toNat * 1024 + l.toNat * 32))
  | .llevel d a m l => some (BitVec.ofNat 32 (0x28000008 + d.toNat * 2097152 + a.toNat * 65536 + m.toNat * 1024 + l.toNat * 32))
  | .beq a b o => some (BitVec.ofNat 32 (0x2c000000 + a.toNat * 2097152 + b.toNat * 65536 + o.toNat))
  | .bne a b o => some (BitVec.ofNat 32 (0x2c002000 + a.toNat * 2097152 + b.toNat * 65536 + o.toNat))
  | .blt a b o => some (BitVec.ofNat 32 (0x2c004000 + a.toNat * 2097152 + b.toNat * 65536 + o.toNat))
  | .bge a b o => some (BitVec.ofNat 32 (0x2c006000 + a.toNat * 2097152 + b.toNat * 65536 + o.toNat))
  | .bltu a b o => some (BitVec.ofNat 32 (0x2c008000 + a.toNat * 2097152 + b.toNat * 65536 + o.toNat))
  | .bgeu a b o => some (BitVec.ofNat 32 (0x2c00a000 + a.toNat * 2097152 + b.toNat * 65536 + o.toNat))
  | .jmp o => some (BitVec.ofNat 32 (0x30000000 + o.toNat))
  | .jal o => some (BitVec.ofNat 32 (0x34000000 + o.toNat))
  | .jalr d a i => some (BitVec.ofNat 32 (0x38000000 + d.toNat * 2097152 + a.toNat * 65536 + i.toNat))
  | .ld d a l z o => some (BitVec.ofNat 32 (0x40000000 + d.toNat * 2097152 + a.toNat * 65536 + l.toNat * 4096 + z.toNat * 512 + o.toNat))
  | .st t a z o => some (BitVec.ofNat 32 (0x44000000 + t.toNat * 2097152 + a.toNat * 65536 + z.toNat * 512 + o.toNat))
  | .lda d a l z o => some (BitVec.ofNat 32 (0x48000000 + d.toNat * 2097152 + a.toNat * 65536 + l.toNat * 4096 + z.toNat * 512 + o.toNat))
  | .str t a z o => some (BitVec.ofNat 32 (0x48000800 + t.toNat * 2097152 + a.toNat * 65536 + z.toNat * 512 + o.toNat))
  | .ldp d a l z o => some (BitVec.ofNat 32 (0x4c000400 + d.toNat * 2097152 + a.toNat * 65536 + l.toNat * 4096 + z.toNat * 512 + o.toNat))
  | .stp t a z o => some (BitVec.ofNat 32 (0x4c000c00 + t.toNat * 2097152 + a.toNat * 65536 + z.toNat * 512 + o.toNat))
  | .amo d a b l q r z o => some (BitVec.ofNat 32 (0x50000000 + d.toNat * 2097152 + a.toNat * 65536 + b.toNat * 2048 + l.toNat * 128 + q.toNat * 64 + r.toNat * 32 + z.toNat * 16 + o.toNat))
  | .cas d a b l q r z => some (BitVec.ofNat 32 (0x54000000 + d.toNat * 2097152 + a.toNat * 65536 + b.toNat * 2048 + l.toNat * 128 + q.toNat * 64 + r.toNat * 32 + z.toNat * 16))
  | .fence c => some (BitVec.ofNat 32 (0x58000001 + c.toNat * 8))
  | .fenceS c => some (BitVec.ofNat 32 (0x58000022 + c.toNat * 8))
  | .isync => some (BitVec.ofNat 32 (0x58000003))
  | .tfence => some (BitVec.ofNat 32 (0x58000004))
  | .rbind e a b => some (BitVec.ofNat 32 (0x5c000001 + e.toNat * 2097152 + a.toNat * 65536 + b.toNat * 2048))
  | .runbind e => some (BitVec.ofNat 32 (0x5c000002 + e.toNat * 2097152))
  | .acqX a => some (BitVec.ofNat 32 (0x5c000003 + a.toNat * 65536))
  | .acqS a => some (BitVec.ofNat 32 (0x5c000004 + a.toNat * 65536))
  | .relX a => some (BitVec.ofNat 32 (0x5c000005 + a.toNat * 65536))
  | .relS a => some (BitVec.ofNat 32 (0x5c000006 + a.toNat * 65536))
  | .cwb a b => some (BitVec.ofNat 32 (0x5c000007 + a.toNat * 65536 + b.toNat * 2048))
  | .cinv a b => some (BitVec.ofNat 32 (0x5c000008 + a.toNat * 65536 + b.toNat * 2048))
  | .binit a b => some (BitVec.ofNat 32 (0x60000001 + a.toNat * 65536 + b.toNat * 2048))
  | .barr d a l => some (BitVec.ofNat 32 (0x60000002 + d.toNat * 2097152 + a.toNat * 65536 + l.toNat * 128))
  | .bexp d a b => some (BitVec.ofNat 32 (0x60000003 + d.toNat * 2097152 + a.toNat * 65536 + b.toNat * 2048))
  | .bwait a b => some (BitVec.ofNat 32 (0x60000004 + a.toNat * 65536 + b.toNat * 2048))
  | .btest d a => some (BitVec.ofNat 32 (0x60000005 + d.toNat * 2097152 + a.toNat * 65536))
  | .rinit a b => some (BitVec.ofNat 32 (0x64000001 + a.toNat * 65536 + b.toNat * 2048))
  | .rpop d a b => some (BitVec.ofNat 32 (0x64000002 + d.toNat * 2097152 + a.toNat * 65536 + b.toNat * 2048))
  | .rpush d a b => some (BitVec.ofNat 32 (0x64000003 + d.toNat * 2097152 + a.toNat * 65536 + b.toNat * 2048))
  | .rfix a b => some (BitVec.ofNat 32 (0x64000004 + a.toNat * 65536 + b.toNat * 2048))
  | .rstat d a => some (BitVec.ofNat 32 (0x64000005 + d.toNat * 2097152 + a.toNat * 65536))
  | .msend a b => some (BitVec.ofNat 32 (0x68000001 + a.toNat * 65536 + b.toNat * 2048))
  | .mtake d a => some (BitVec.ofNat 32 (0x68000002 + d.toNat * 2097152 + a.toNat * 65536))
  | .mpeek d a => some (BitVec.ofNat 32 (0x68000003 + d.toNat * 2097152 + a.toNat * 65536))
  | .wait d a => some (BitVec.ofNat 32 (0x68000004 + d.toNat * 2097152 + a.toNat * 65536))
  | .bind d n => some (BitVec.ofNat 32 (0x6c000001 + d.toNat * 2097152 + n.toNat * 8))
  | .unbind d => some (BitVec.ofNat 32 (0x6c000002 + d.toNat * 2097152))
  | .bstat d a => some (BitVec.ofNat 32 (0x6c000003 + d.toNat * 2097152 + a.toNat * 65536))
  | .bclr a => some (BitVec.ofNat 32 (0x6c000004 + a.toNat * 65536))
  | .shape d a b w => some (BitVec.ofNat 32 (0x70000001 + d.toNat * 2097152 + a.toNat * 65536 + b.toNat * 2048 + w.toNat * 16))
  | .wayset d a => some (BitVec.ofNat 32 (0x70000002 + d.toNat * 2097152 + a.toNat * 65536))
  | .vld d a b e m p t => some (BitVec.ofNat 32 (0x74000000 + d.toNat * 2097152 + a.toNat * 65536 + b.toNat * 2048 + e.toNat * 128 + m.toNat * 64 + p.toNat * 32 + t.toNat * 16))
  | .vst d a b e m => some (BitVec.ofNat 32 (0x74000001 + d.toNat * 2097152 + a.toNat * 65536 + b.toNat * 2048 + e.toNat * 128 + m.toNat * 64))
  | .vldm d a b e m p t => some (BitVec.ofNat 32 (0x74000002 + d.toNat * 2097152 + a.toNat * 65536 + b.toNat * 2048 + e.toNat * 128 + m.toNat * 64 + p.toNat * 32 + t.toNat * 16))
  | .vstm d a b e m => some (BitVec.ofNat 32 (0x74000003 + d.toNat * 2097152 + a.toNat * 65536 + b.toNat * 2048 + e.toNat * 128 + m.toNat * 64))
  | .vldx d a b e m p t => some (BitVec.ofNat 32 (0x74000004 + d.toNat * 2097152 + a.toNat * 65536 + b.toNat * 2048 + e.toNat * 128 + m.toNat * 64 + p.toNat * 32 + t.toNat * 16))
  | .vstx d a b e m => some (BitVec.ofNat 32 (0x74000005 + d.toNat * 2097152 + a.toNat * 65536 + b.toNat * 2048 + e.toNat * 128 + m.toNat * 64))
  | .vadd d a b e m p t => some (BitVec.ofNat 32 (0x78000000 + d.toNat * 2097152 + a.toNat * 65536 + b.toNat * 2048 + e.toNat * 128 + m.toNat * 64 + p.toNat * 32 + t.toNat * 16))
  | .vsub d a b e m p t => some (BitVec.ofNat 32 (0x78000001 + d.toNat * 2097152 + a.toNat * 65536 + b.toNat * 2048 + e.toNat * 128 + m.toNat * 64 + p.toNat * 32 + t.toNat * 16))
  | .vmul d a b e m p t => some (BitVec.ofNat 32 (0x78000002 + d.toNat * 2097152 + a.toNat * 65536 + b.toNat * 2048 + e.toNat * 128 + m.toNat * 64 + p.toNat * 32 + t.toNat * 16))
  | .vmulh d a b e m p t => some (BitVec.ofNat 32 (0x78000003 + d.toNat * 2097152 + a.toNat * 65536 + b.toNat * 2048 + e.toNat * 128 + m.toNat * 64 + p.toNat * 32 + t.toNat * 16))
  | .vdiv d a b e m p t => some (BitVec.ofNat 32 (0x78000004 + d.toNat * 2097152 + a.toNat * 65536 + b.toNat * 2048 + e.toNat * 128 + m.toNat * 64 + p.toNat * 32 + t.toNat * 16))
  | .vmin d a b e m p t => some (BitVec.ofNat 32 (0x78000005 + d.toNat * 2097152 + a.toNat * 65536 + b.toNat * 2048 + e.toNat * 128 + m.toNat * 64 + p.toNat * 32 + t.toNat * 16))
  | .vmax d a b e m p t => some (BitVec.ofNat 32 (0x78000006 + d.toNat * 2097152 + a.toNat * 65536 + b.toNat * 2048 + e.toNat * 128 + m.toNat * 64 + p.toNat * 32 + t.toNat * 16))
  | .vand d a b e m p t => some (BitVec.ofNat 32 (0x78000007 + d.toNat * 2097152 + a.toNat * 65536 + b.toNat * 2048 + e.toNat * 128 + m.toNat * 64 + p.toNat * 32 + t.toNat * 16))
  | .vor d a b e m p t => some (BitVec.ofNat 32 (0x78000008 + d.toNat * 2097152 + a.toNat * 65536 + b.toNat * 2048 + e.toNat * 128 + m.toNat * 64 + p.toNat * 32 + t.toNat * 16))
  | .vxor d a b e m p t => some (BitVec.ofNat 32 (0x78000009 + d.toNat * 2097152 + a.toNat * 65536 + b.toNat * 2048 + e.toNat * 128 + m.toNat * 64 + p.toNat * 32 + t.toNat * 16))
  | .vshl d a b e m p t => some (BitVec.ofNat 32 (0x7800000a + d.toNat * 2097152 + a.toNat * 65536 + b.toNat * 2048 + e.toNat * 128 + m.toNat * 64 + p.toNat * 32 + t.toNat * 16))
  | .vshr d a b e m p t => some (BitVec.ofNat 32 (0x7800000b + d.toNat * 2097152 + a.toNat * 65536 + b.toNat * 2048 + e.toNat * 128 + m.toNat * 64 + p.toNat * 32 + t.toNat * 16))
  | .vsra d a b e m p t => some (BitVec.ofNat 32 (0x7800000c + d.toNat * 2097152 + a.toNat * 65536 + b.toNat * 2048 + e.toNat * 128 + m.toNat * 64 + p.toNat * 32 + t.toNat * 16))
  | .vfma d a b e m p t => some (BitVec.ofNat 32 (0x7800000d + d.toNat * 2097152 + a.toNat * 65536 + b.toNat * 2048 + e.toNat * 128 + m.toNat * 64 + p.toNat * 32 + t.toNat * 16))
  | .vsqrt d a e m p t => some (BitVec.ofNat 32 (0x7800000e + d.toNat * 2097152 + a.toNat * 65536 + e.toNat * 128 + m.toNat * 64 + p.toNat * 32 + t.toNat * 16))
  | .vladd d a b e m p t => some (BitVec.ofNat 32 (0x7c000000 + d.toNat * 2097152 + a.toNat * 65536 + b.toNat * 2048 + e.toNat * 128 + m.toNat * 64 + p.toNat * 32 + t.toNat * 16))
  | .vlmul d a b e m p t => some (BitVec.ofNat 32 (0x7c000001 + d.toNat * 2097152 + a.toNat * 65536 + b.toNat * 2048 + e.toNat * 128 + m.toNat * 64 + p.toNat * 32 + t.toNat * 16))
  | .vldiv d a b e m p t => some (BitVec.ofNat 32 (0x7c000002 + d.toNat * 2097152 + a.toNat * 65536 + b.toNat * 2048 + e.toNat * 128 + m.toNat * 64 + p.toNat * 32 + t.toNat * 16))
  | .vcmp d a b e m p t c => some (BitVec.ofNat 32 (0x80000000 + d.toNat * 2097152 + a.toNat * 65536 + b.toNat * 2048 + e.toNat * 128 + m.toNat * 64 + p.toNat * 32 + t.toNat * 16 + c.toNat))
  | .vsel d a b e t => some (BitVec.ofNat 32 (0x80000004 + d.toNat * 2097152 + a.toNat * 65536 + b.toNat * 2048 + e.toNat * 128 + t.toNat * 16))
  | .vcvt d a s c e m p t => some (BitVec.ofNat 32 (0x80000005 + d.toNat * 2097152 + a.toNat * 65536 + s.toNat * 32768 + c.toNat * 2048 + e.toNat * 128 + m.toNat * 64 + p.toNat * 32 + t.toNat * 16))
  | .vreq d a b m p t => some (BitVec.ofNat 32 (0x80000106 + d.toNat * 2097152 + a.toNat * 65536 + b.toNat * 2048 + m.toNat * 64 + p.toNat * 32 + t.toNat * 16))
  | .vred d a s o e m t => some (BitVec.ofNat 32 (0x84000000 + d.toNat * 2097152 + a.toNat * 65536 + s.toNat * 16384 + o.toNat * 2048 + e.toNat * 128 + m.toNat * 64 + t.toNat * 16))
  | .vperm d a b e m p t => some (BitVec.ofNat 32 (0x84000001 + d.toNat * 2097152 + a.toNat * 65536 + b.toNat * 2048 + e.toNat * 128 + m.toNat * 64 + p.toNat * 32 + t.toNat * 16))
  | .vbcast d a e m p t => some (BitVec.ofNat 32 (0x84000002 + d.toNat * 2097152 + a.toNat * 65536 + e.toNat * 128 + m.toNat * 64 + p.toNat * 32 + t.toNat * 16))
  | .vext d a b e => some (BitVec.ofNat 32 (0x84000003 + d.toNat * 2097152 + a.toNat * 65536 + b.toNat * 2048 + e.toNat * 128))
  | .viota d a e m p t => some (BitVec.ofNat 32 (0x84000004 + d.toNat * 2097152 + a.toNat * 65536 + e.toNat * 128 + m.toNat * 64 + p.toNat * 32 + t.toNat * 16))
  | .vpopc d a e m => some (BitVec.ofNat 32 (0x84000005 + d.toNat * 2097152 + a.toNat * 65536 + e.toNat * 128 + m.toNat * 64))
  | .mclaim d a l => some (BitVec.ofNat 32 (0x90000001 + d.toNat * 2097152 + a.toNat * 65536 + l.toNat * 128))
  | .mrel a b l => some (BitVec.ofNat 32 (0x90000002 + a.toNat * 65536 + b.toNat * 2048 + l.toNat * 128))
  | .mput d a b l => some (BitVec.ofNat 32 (0x90000003 + d.toNat * 2097152 + a.toNat * 65536 + b.toNat * 2048 + l.toNat * 128))
  | .mload d a b l => some (BitVec.ofNat 32 (0x90000004 + d.toNat * 2097152 + a.toNat * 65536 + b.toNat * 2048 + l.toNat * 128))
  | .mma d a b l => some (BitVec.ofNat 32 (0x90000005 + d.toNat * 2097152 + a.toNat * 65536 + b.toNat * 2048 + l.toNat * 128))
  | .mcbk a b l => some (BitVec.ofNat 32 (0x90000006 + a.toNat * 65536 + b.toNat * 2048 + l.toNat * 128))
  | .mwait d l => some (BitVec.ofNat 32 (0x90000007 + d.toNat * 2097152 + l.toNat * 128))
  | .mstat d l => some (BitVec.ofNat 32 (0x90000008 + d.toNat * 2097152 + l.toNat * 128))
  | .cpy d a b l => some (BitVec.ofNat 32 (0x94000001 + d.toNat * 2097152 + a.toNat * 65536 + b.toNat * 2048 + l.toNat * 128))
  | .cpy2 d a b l => some (BitVec.ofNat 32 (0x94000002 + d.toNat * 2097152 + a.toNat * 65536 + b.toNat * 2048 + l.toNat * 128))
  | .cxp d a b l => some (BitVec.ofNat 32 (0x94000003 + d.toNat * 2097152 + a.toNat * 65536 + b.toNat * 2048 + l.toNat * 128))
  | .cpk d a b l => some (BitVec.ofNat 32 (0x94000004 + d.toNat * 2097152 + a.toNat * 65536 + b.toNat * 2048 + l.toNat * 128))
  | .cgthb d a b l => some (BitVec.ofNat 32 (0x94000005 + d.toNat * 2097152 + a.toNat * 65536 + b.toNat * 2048 + l.toNat * 128))
  | .cpyr d a b l => some (BitVec.ofNat 32 (0x94000006 + d.toNat * 2097152 + a.toNat * 65536 + b.toNat * 2048 + l.toNat * 128))
  | .cwait d l => some (BitVec.ofNat 32 (0x94000007 + d.toNat * 2097152 + l.toNat * 128))
  | .cstat d l => some (BitVec.ofNat 32 (0x94000008 + d.toNat * 2097152 + l.toNat * 128))
  | .xexp d a b l => some (BitVec.ofNat 32 (0x98000001 + d.toNat * 2097152 + a.toNat * 65536 + b.toNat * 2048 + l.toNat * 128))
  | .xrot d a b l => some (BitVec.ofNat 32 (0x98000002 + d.toNat * 2097152 + a.toNat * 65536 + b.toNat * 2048 + l.toNat * 128))
  | .xwait d l => some (BitVec.ofNat 32 (0x98000003 + d.toNat * 2097152 + l.toNat * 128))
  | .casld a b l => some (BitVec.ofNat 32 (0x98000010 + a.toNat * 65536 + b.toNat * 2048 + l.toNat * 128))
  | .caswait d l => some (BitVec.ofNat 32 (0x98000011 + d.toNat * 2097152 + l.toNat * 128))
  | .ssopen d a b l => some (BitVec.ofNat 32 (0x9c000001 + d.toNat * 2097152 + a.toNat * 65536 + b.toNat * 2048 + l.toNat * 128))
  | .ssload d a b l => some (BitVec.ofNat 32 (0x9c000002 + d.toNat * 2097152 + a.toNat * 65536 + b.toNat * 2048 + l.toNat * 128))
  | .sscommit d a b l => some (BitVec.ofNat 32 (0x9c000003 + d.toNat * 2097152 + a.toNat * 65536 + b.toNat * 2048 + l.toNat * 128))
  | .sssnap d a l => some (BitVec.ofNat 32 (0x9c000004 + d.toNat * 2097152 + a.toNat * 65536 + l.toNat * 128))
  | .ssfind d a b l => some (BitVec.ofNat 32 (0x9c000005 + d.toNat * 2097152 + a.toNat * 65536 + b.toNat * 2048 + l.toNat * 128))
  | .ssroll d a b l => some (BitVec.ofNat 32 (0x9c000006 + d.toNat * 2097152 + a.toNat * 65536 + b.toNat * 2048 + l.toNat * 128))
  | .sspin d a b l => some (BitVec.ofNat 32 (0x9c000007 + d.toNat * 2097152 + a.toNat * 65536 + b.toNat * 2048 + l.toNat * 128))
  | .ssunpin d a b l => some (BitVec.ofNat 32 (0x9c000008 + d.toNat * 2097152 + a.toNat * 65536 + b.toNat * 2048 + l.toNat * 128))
  | .ssfork d a b l => some (BitVec.ofNat 32 (0x9c000009 + d.toNat * 2097152 + a.toNat * 65536 + b.toNat * 2048 + l.toNat * 128))
  | .ssclose a l => some (BitVec.ofNat 32 (0x9c00000a + a.toNat * 65536 + l.toNat * 128))
  | .enext d l => some (BitVec.ofNat 32 (0xa0000001 + d.toNat * 2097152 + l.toNat * 128))
  | .eacc d a b l => some (BitVec.ofNat 32 (0xa0000002 + d.toNat * 2097152 + a.toNat * 65536 + b.toNat * 2048 + l.toNat * 128))
  | .estat d l => some (BitVec.ofNat 32 (0xa0000003 + d.toNat * 2097152 + l.toNat * 128))
  | .launch d a b => some (BitVec.ofNat 32 (0xa4000001 + d.toNat * 2097152 + a.toNat * 65536 + b.toNat * 2048))
  | .trig => some (BitVec.ofNat 32 (0xa4000002))
  | .exit a => some (BitVec.ofNat 32 (0xa4000003 + a.toNat * 65536))
  | .dsync v => some (BitVec.ofNat 32 (0xa4000004 + v.toNat * 8))
  | .yield => some (BitVec.ofNat 32 (0xa4000005))
  | .rdc d c => some (BitVec.ofNat 32 (0xa8000000 + d.toNat * 2097152 + c.toNat))
  | .wrc a c => some (BitVec.ofNat 32 (0xa8001000 + a.toNat * 65536 + c.toNat))
  | .trap k => some (BitVec.ofNat 32 (0xa8002000 + k.toNat))
  | .eret => some (BitVec.ofNat 32 (0xa8003000))
  | .eretS => some (BitVec.ofNat 32 (0xa8003001))
  | .brk k => some (BitVec.ofNat 32 (0xa8004000 + k.toNat))
  | .sleep a => some (BitVec.ofNat 32 (0xa8005000 + a.toNat * 65536))
  | .imx x => some (BitVec.ofNat 32 (0xf8000000 + x.toNat))
  | .hint k p => some (BitVec.ofNat 32 (0xfc000000 + k.toNat * 1048576 + p.toNat))
  | .casgo a => some (BitVec.ofNat 32 (0xa8001050 + a.toNat * 65536))
  | .microMovi _ => none
  | .microAdd _ => none
  | .microAddm _ => none
  | .microDjnz _ => none
  | .microBnz _ => none
  | .microMm _ => none
  | .microMmMload _ => none
  | .microXp _ => none
  | .microCp _ => none
  | .microMask _ => none
  | .microRmax _ => none
  | .microRsum _ => none
  | .microLcomb _ => none
  | .microNorm _ => none
  | .microWaite _ => none
  | .microSig _ => none
  | .microSigMessage _ => none
  | .microStop _ => none
  | .waiteReturn _ => none
  | .runStop _ => none
  | .runFault _ => none
  | .arrivalPass _ _ => none
  | .messageArrival _ => none
  | .overflowDelivery _ _ _ => none
  | .messageRetry _ => none
  | .evictedMessageHold _ => none
  | .evictedAccess _ => none
  | .interruptEntry _ _ => none
  | .counterWrap _ _ _ => none
  | .coreSleepEntry _ _ => none
  | .coreWake _ => none
  | .wakeComplete _ _ => none
  | .sleepPauseEnd _ _ => none
  | .waitWake _ _ => none
  | .bwaitWake _ _ => none
  | .rpopWake _ _ => none
  | .remoteScratchAccess _ => none
  | .globalAdmission _ => none
  | .pageWalk _ _ => none
  | .forwardedRequest _ => none
  | .sectorFillReturn _ => none
  | .admissionNotice _ => none
  | .loadDataReturn _ _ => none
  | .storeAck _ => none
  | .storeRejection _ _ => none
  | .cacheFill _ => none
  | .writeBackArrival _ => none
  | .acqGrant _ => none
  | .codeLineError _ _ => none
  | .codeRepair _ _ _ => none
  | .scrub _ _ _ => none
  | .sliceError _ _ _ => none
  | .linkRetry _ => none
  | .engineCommandStart _ _ => none
  | .engineCommandComplete _ _ => none
  | .cpyrPush _ => none
  | .engineWaitReturn _ _ => none
  | .hostSubmission _ _ _ => none
  | .groupPlacement _ _ => none
  | .groupEnd _ _ => none
  | .domainPhaseFlip _ _ _ => none
  | .sweep => none
  | .eviction _ => none
  | .contextSave _ => none
  | .resume _ _ => none
  | .worldSwitch _ _ => none
  | .switchDeadline _ => none
  | .checkpointRequest _ => none
  | .checkpointComplete _ => none
  | .partitionCreate _ => none
  | .partitionDestroy _ => none
  | .belineConfigWrite _ => none
  | .debugHalt _ _ => none
  | .debugStep _ _ => none
  | .debugAccess _ _ _ => none
  | .coreFailure _ => none
  | .columnFailure _ => none
  | .spareRemap _ => none
  | .hbmChannelCopy _ => none
  | .thermalThrottle _ => none
  | .dieOvertemp _ => none
  | .boot _ => none
  | .firmwareUpdate _ => none
  | .quoteRequest _ _ => none
  | .fabricRequest _ => none
  | .hostRmaWrite _ _ => none
  | .hostRmaRead _ _ => none
  | .roundMerge _ => none
  | .sashAccept _ => none
  | .sashResult _ => none
  | .undefinedEncoding _ => none
  | .writeBackAcknowledgement _ => none
  | .sourceRouterRemap _ => none
  | .fabricPortCheck _ => none
  | .debugResume _ _ => none

/-- OP of a micro-operation (24 R447). -/
def microOp : Instr → Option (Nat × Micro)
  | .microMovi u => some (0, u)
  | .microAdd u => some (1, u)
  | .microAddm u => some (2, u)
  | .microDjnz u => some (3, u)
  | .microBnz u => some (4, u)
  | .microMm u => some (5, u)
  | .microMmMload u => some (5, u)
  | .microXp u => some (6, u)
  | .microCp u => some (7, u)
  | .microMask u => some (8, u)
  | .microRmax u => some (9, u)
  | .microRsum u => some (10, u)
  | .microLcomb u => some (11, u)
  | .microNorm u => some (12, u)
  | .microWaite u => some (13, u)
  | .microSig u => some (14, u)
  | .microSigMessage u => some (14, u)
  | .microStop u => some (15, u)
  | _ => none

/-- The microword of a micro-operation (11 R286). -/
def encodeMicro (i : Instr) : Option (BitVec 64) :=
  match microOp i with
  | some (op, u) => some (BitVec.ofNat 64 (op * 2 ^ 60 + u.d.toNat * 2 ^ 56 + u.a.toNat * 2 ^ 52 + u.b.toNat * 2 ^ 48 +
      u.x.toNat * 2 ^ 32 + u.imm.toNat))
  | none => none

end Sys2Proof
end

