-- ==== Sys2Proof/Config.lean ====
section
/-! DEFINITION. What an implementation fixes, and the free values: constants without a body, of which no proof can
see a value. Each is named in the assumption log. -/

namespace Sys2Proof.Config

/-- Cycles that a cycle counter has gained since it was read last (21 R419, 22 R432); log 11. -/
opaque freeCycles : Nat → Nat

/-- The way that a sector fill takes when every cache way of its set is in use (08 R191 names no choice); log 14. -/
opaque freeVictim : Nat → Nat

/-- The hash of the public key under which firmware is signed, fused at manufacture (21 R428); log 13. -/
opaque bootKeyHash : BitVec 512

/-- The secret half of the identity key, generated at manufacture (21 R429); log 13. -/
opaque identityKey : BitVec 256

/-- The anti-rollback counter fused at manufacture (21 R428); log 13. -/
opaque antiRollback : Nat

/-- FINFO of a launch whose estimate block does not translate: 20 R398 names the first failing field, and there is none;
log 22. -/
opaque freeFinfo : Nat → BitVec 32

/-- Bytes of HBM: 32 stacks of 80 GB (19 R381, 15 R335). -/
def hbmBytes : Nat := 2560 * 10 ^ 9

/-- Entries of the overflow queue (06 R156). -/
def overflowSize : Nat := 8

/-- Messages in the hold of an evicted core, on this device (06 R162). -/
def holdSize : Nat := 256

/-- Outstanding long-latency instructions of a hart, on this device (02 R52). -/
def maxOutstanding : Nat := 8

/-- Entries of each engine's command queue (10 R243). -/
def engineQueue : Nat := 2

end Sys2Proof.Config
end

