-- ==== Sys2Proof/Machine/Float.lean ====
section
/-! DEFINITION. IEEE 754 formats: decoding, rounding and the operations of 03 R69 to R74 and 04 R107 to R109. A finite
value is exact, (-1)^s × m × 2^e; an operation computes exactly and rounds once. -/

namespace Sys2Proof.Machine

/-- Arithmetic flags in the order of AFLAGS [7:0] (03 R75). -/
abbrev Flags := BitVec 8

def fNX : Flags := 0x01
def fUF : Flags := 0x02
def fOF : Flags := 0x04
def fDZ : Flags := 0x08
def fNV : Flags := 0x10
def fLX : Flags := 0x20
def fSAT : Flags := 0x40
def fIOV : Flags := 0x80

/-- A value with the flags that computing it sets. -/
structure Fl (α : Type) where
  val : α
  fl : Flags
  deriving DecidableEq, Repr

/-- Rounding modes (03 R74) without DYN, which is resolved before rounding. -/
inductive Rm where
  | rne | rtz | rdn | rup
  deriving DecidableEq, Repr

/-- The mode of a 2-bit DRM value (03 R75). -/
def Rm.ofDrm (n : Nat) : Rm :=
  match n % 4 with
  | 0 => .rne
  | 1 => .rtz
  | 2 => .rdn
  | _ => .rup

/-- An IEEE format: exponent bits, fraction bits (03 R70). -/
structure Fmt where
  eb : Nat
  fb : Nat
  deriving DecidableEq, Repr

def fmtBF16 : Fmt := ⟨8, 7⟩
def fmtF32 : Fmt := ⟨8, 23⟩
def fmtF64 : Fmt := ⟨11, 52⟩

/-- A decoded operand. -/
inductive FVal where
  | nan (signalling : Bool)
  | inf (s : Bool)
  | fin (s : Bool) (m : Nat) (e : Int)
  deriving DecidableEq, Repr

def Fmt.bias (f : Fmt) : Int := 2 ^ (f.eb - 1) - 1

def Fmt.width (f : Fmt) : Nat := 1 + f.eb + f.fb

/-- The canonical quiet NaN (03 R71). -/
def Fmt.canon (f : Fmt) : Nat := (2 ^ (f.eb + 1) - 1) <<< (f.fb - 1)

/-- The bits of infinity. -/
def Fmt.infBits (f : Fmt) (s : Bool) : Nat := (b2n s <<< (f.eb + f.fb)) + ((2 ^ f.eb - 1) <<< f.fb)

/-- The bits of the largest finite value. -/
def Fmt.maxBits (f : Fmt) (s : Bool) : Nat := f.infBits s - 1

def Fmt.zeroBits (f : Fmt) (s : Bool) : Nat := b2n s <<< (f.eb + f.fb)

/-- Decode the low bits of x (03 R70). -/
def Fmt.decode (f : Fmt) (x : Nat) : FVal :=
  let s := bit x (f.eb + f.fb)
  let ex := bits x (f.eb + f.fb - 1) f.fb
  let fr := x % 2 ^ f.fb
  if ex = 2 ^ f.eb - 1 then
    if fr = 0 then .inf s else .nan (!bit fr (f.fb - 1))
  else if ex = 0 then .fin s fr (1 - f.bias - f.fb)
  else .fin s (2 ^ f.fb + fr) ((ex : Int) - f.bias - f.fb)

/-- Whether a discarded part rounds the magnitude up: `odd` is the parity of what is kept, `half` compares the
discarded part with one half of a unit, `any` says it is not zero (03 R74). -/
def roundsUp (rm : Rm) (s odd : Bool) (half : Ordering) (any : Bool) : Bool :=
  match rm with
  | .rne => half == .gt || (half == .eq && odd)
  | .rtz => false
  | .rdn => s && any
  | .rup => !s && any

/-- m × 2^e (with something strictly between 0 and 1 unit above m when `sticky`) as an integer multiple of 2^q, rounded;
with whether the result is inexact. -/
def roundAt (rm : Rm) (s : Bool) (m : Nat) (e : Int) (sticky : Bool) (q : Int) : Nat × Bool :=
  if q ≤ e then (m <<< (e - q).toNat, sticky)
  else
    let sh := (q - e).toNat
    let k := m >>> sh
    let r := m % 2 ^ sh
    let h := 2 ^ (sh - 1)
    let half := if r < h then Ordering.lt else if r = h ∧ sticky = false then .eq else .gt
    let any := r != 0 || sticky
    (k + b2n (roundsUp rm s (k % 2 == 1) half any), any)

/-- Round (-1)^s × (m + sticky) × 2^e to the format (03 R72: default results, tininess after rounding). -/
def Fmt.round (f : Fmt) (rm : Rm) (s : Bool) (m : Nat) (e : Int) (sticky : Bool := false) : Fl Nat :=
  if m = 0 ∧ sticky = false then ⟨f.zeroBits s, 0⟩
  else
    let top : Int := e + (Nat.log2 m : Nat)
    let emin : Int := 1 - f.bias
    let q := max (top - f.fb) (emin - f.fb)
    let (k, inex) := roundAt rm s m e sticky q
    let tiny := decide (top < emin) &&
      decide ((roundAt rm s m e sticky (top - f.fb)).1 < 2 ^ (emin - top + f.fb).toNat)
    let (k, q) := if 2 ^ (f.fb + 1) ≤ k then (k / 2, q + 1) else (k, q)
    if 2 ^ f.fb ≤ k ∧ f.bias < q + f.fb then
      let toInf := match rm with
        | .rne => true
        | .rtz => false
        | .rdn => s
        | .rup => !s
      ⟨if toInf then f.infBits s else f.maxBits s, fOF ||| fNX⟩
    else
      let enc := if k < 2 ^ f.fb then k else (((q + f.fb + f.bias).toNat) <<< f.fb) + (k - 2 ^ f.fb)
      ⟨f.zeroBits s + enc, (if inex then fNX else 0) ||| (if tiny && inex then fUF else 0)⟩

def FVal.isNan : FVal → Bool
  | .nan _ => true
  | _ => false

def FVal.sig : FVal → Bool
  | .nan true => true
  | _ => false

def FVal.neg : FVal → FVal
  | .nan q => .nan q
  | .inf s => .inf (!s)
  | .fin s m e => .fin (!s) m e

/-- NV for a signalling operand among `l` (03 R71). -/
def sigFlag (l : List FVal) : Flags := if l.any FVal.sig then fNV else 0

/-- A NaN result (03 R71). -/
def Fmt.nanOf (f : Fmt) (l : List FVal) : Fl Nat := ⟨f.canon, sigFlag l⟩

/-- The signed integer of a finite value at exponent e. -/
def sgn (s : Bool) (m : Nat) : Int := if s then -(m : Int) else m

/-- Sum of two finite values, rounded once; an exact zero sum of opposite signs is +0, or -0 under RDN (04 R107). -/
def Fmt.addFin (f : Fmt) (rm : Rm) (s1 : Bool) (m1 : Nat) (e1 : Int) (s2 : Bool) (m2 : Nat) (e2 : Int) : Fl Nat :=
  let e := min e1 e2
  let t : Int := sgn s1 (m1 <<< (e1 - e).toNat) + sgn s2 (m2 <<< (e2 - e).toNat)
  if t = 0 then
    let s := if m1 = 0 ∧ m2 = 0 ∧ s1 = s2 then s1 else decide (rm = .rdn)
    ⟨f.zeroBits s, 0⟩
  else f.round rm (decide (t < 0)) t.natAbs e

/-- Addition of decoded values. -/
def Fmt.addV (f : Fmt) (rm : Rm) (a b : FVal) : Fl Nat :=
  match a, b with
  | .nan _, _ => f.nanOf [a, b]
  | _, .nan _ => f.nanOf [a, b]
  | .inf s, .inf t => if s = t then ⟨f.infBits s, 0⟩ else ⟨f.canon, fNV⟩
  | .inf s, .fin _ _ _ => ⟨f.infBits s, 0⟩
  | .fin _ _ _, .inf t => ⟨f.infBits t, 0⟩
  | .fin s1 m1 e1, .fin s2 m2 e2 => f.addFin rm s1 m1 e1 s2 m2 e2

def Fmt.add (f : Fmt) (rm : Rm) (a b : Nat) : Fl Nat := f.addV rm (f.decode a) (f.decode b)

def Fmt.sub (f : Fmt) (rm : Rm) (a b : Nat) : Fl Nat := f.addV rm (f.decode a) (f.decode b).neg

/-- Multiplication. -/
def Fmt.mulV (f : Fmt) (rm : Rm) (a b : FVal) : Fl Nat :=
  match a, b with
  | .nan _, _ => f.nanOf [a, b]
  | _, .nan _ => f.nanOf [a, b]
  | .inf s, .inf t => ⟨f.infBits (s != t), 0⟩
  | .inf s, .fin t m _ => if m = 0 then ⟨f.canon, fNV⟩ else ⟨f.infBits (s != t), 0⟩
  | .fin s m _, .inf t => if m = 0 then ⟨f.canon, fNV⟩ else ⟨f.infBits (s != t), 0⟩
  | .fin s1 m1 e1, .fin s2 m2 e2 => f.round rm (s1 != s2) (m1 * m2) (e1 + e2)

def Fmt.mul (f : Fmt) (rm : Rm) (a b : Nat) : Fl Nat := f.mulV rm (f.decode a) (f.decode b)

/-- The exact quotient of positive integers n / d × 2^e, rounded. -/
def Fmt.ratio (f : Fmt) (rm : Rm) (s : Bool) (n d : Nat) (e : Int) : Fl Nat :=
  let k := f.fb + 3 + Nat.log2 d
  let n' := n <<< k
  f.round rm s (n' / d) (e - k) (n' % d != 0)

/-- Division (03 R72). -/
def Fmt.divV (f : Fmt) (rm : Rm) (a b : FVal) : Fl Nat :=
  match a, b with
  | .nan _, _ => f.nanOf [a, b]
  | _, .nan _ => f.nanOf [a, b]
  | .inf _, .inf _ => ⟨f.canon, fNV⟩
  | .inf s, .fin t _ _ => ⟨f.infBits (s != t), 0⟩
  | .fin s _ _, .inf t => ⟨f.zeroBits (s != t), 0⟩
  | .fin s1 m1 e1, .fin s2 m2 e2 =>
    if m2 = 0 then
      if m1 = 0 then ⟨f.canon, fNV⟩ else ⟨f.infBits (s1 != s2), fDZ⟩
    else if m1 = 0 then ⟨f.zeroBits (s1 != s2), 0⟩
    else f.ratio rm (s1 != s2) m1 m2 (e1 - e2)

def Fmt.div (f : Fmt) (rm : Rm) (a b : Nat) : Fl Nat := f.divV rm (f.decode a) (f.decode b)

/-- ⌊√n⌋ from its bits, highest first: `k` bits remain. -/
def isqrtBits (n : Nat) : Nat → Nat → Nat
  | 0, r => r
  | k + 1, r =>
    let c := r + 2 ^ k
    isqrtBits n k (if c * c ≤ n then c else r)

/-- ⌊√n⌋. -/
def isqrt (n : Nat) : Nat := isqrtBits n (Nat.log2 n / 2 + 1) 0

/-- Square root (04 R107). -/
def Fmt.sqrt (f : Fmt) (rm : Rm) (a : Nat) : Fl Nat :=
  match f.decode a with
  | .nan q => f.nanOf [.nan q]
  | .inf s => if s then ⟨f.canon, fNV⟩ else ⟨f.infBits false, 0⟩
  | .fin s m e =>
    if m = 0 then ⟨f.zeroBits s, 0⟩
    else if s then ⟨f.canon, fNV⟩
    else
      let k := 2 * (f.fb + 3) + (if (e % 2 : Int) = 0 then 0 else 1)
      let n := m <<< k
      let r := isqrt n
      f.round rm false r ((e - k) / 2) (r * r != n)

/-- A × B + C rounded once; an infinity times a zero sets NV whatever C is (04 R107). -/
def Fmt.fmaV (f : Fmt) (rm : Rm) (a b c : FVal) : Fl Nat :=
  let bad := match a, b with
    | .inf _, .fin _ 0 _ => true
    | .fin _ 0 _, .inf _ => true
    | _, _ => false
  if bad then ⟨f.canon, fNV⟩
  else if a.isNan || b.isNan || c.isNan then f.nanOf [a, b, c]
  else
    let p : FVal := match a, b with
      | .fin s1 m1 e1, .fin s2 m2 e2 => .fin (s1 != s2) (m1 * m2) (e1 + e2)
      | .inf s, .inf t => .inf (s != t)
      | .inf s, .fin t _ _ => .inf (s != t)
      | .fin s _ _, .inf t => .inf (s != t)
      | _, _ => .nan false
    f.addV rm p c

def Fmt.fma (f : Fmt) (rm : Rm) (a b c : Nat) : Fl Nat := f.fmaV rm (f.decode a) (f.decode b) (f.decode c)

def Fmt.fms (f : Fmt) (rm : Rm) (a b c : Nat) : Fl Nat := f.fmaV rm (f.decode a) (f.decode b) (f.decode c).neg

/-- Comparison of values that are not NaN; zeros of both signs are equal. -/
def FVal.cmp (a b : FVal) : Ordering :=
  match a, b with
  | .inf s, .inf t => if s = t then .eq else if s then .lt else .gt
  | .inf s, _ => if s then .lt else .gt
  | _, .inf t => if t then .gt else .lt
  | .fin s1 m1 e1, .fin s2 m2 e2 =>
    let e := min e1 e2
    compare (sgn s1 (m1 <<< (e1 - e).toNat)) (sgn s2 (m2 <<< (e2 - e).toNat))
  | _, _ => .eq

/-- FMIN and FMAX, with -0 below +0 (04 R108). -/
def Fmt.minmax (f : Fmt) (wantMax : Bool) (a b : Nat) : Fl Nat :=
  let x := f.decode a
  let y := f.decode b
  let fl := sigFlag [x, y]
  let a := a % 2 ^ f.width
  let b := b % 2 ^ f.width
  if x.isNan && y.isNan then ⟨f.canon, fl⟩
  else if x.isNan then ⟨b, fl⟩
  else if y.isNan then ⟨a, fl⟩
  else
    let c := match x.cmp y with
      | .eq => compare (b2n (bit b (f.width - 1))) (b2n (bit a (f.width - 1)))
      | o => o
    ⟨if (c == .gt) == wantMax then a else b, fl⟩

/-- FEQ, FLT and FLE (04 R108): whether the relation holds; `quiet` for FEQ. -/
def Fmt.rel (f : Fmt) (test : Ordering → Bool) (quiet : Bool) (a b : Nat) : Fl Bool :=
  let x := f.decode a
  let y := f.decode b
  if x.isNan || y.isNan then ⟨false, if quiet then sigFlag [x, y] else fNV⟩
  else ⟨test (x.cmp y), 0⟩

def Fmt.eq (f : Fmt) (a b : Nat) : Fl Bool := f.rel (· == .eq) true a b
def Fmt.lt (f : Fmt) (a b : Nat) : Fl Bool := f.rel (· == .lt) false a b
def Fmt.le (f : Fmt) (a b : Nat) : Fl Bool := f.rel (· != .gt) false a b

/-- FCLASS (04 R108). -/
def Fmt.classify (f : Fmt) (a : Nat) : Nat :=
  match f.decode a with
  | .nan sg => if sg then 2 ^ 8 else 2 ^ 9
  | .inf s => if s then 1 else 2 ^ 7
  | .fin s m _ =>
    if m = 0 then (if s then 2 ^ 3 else 2 ^ 4)
    else if m < 2 ^ f.fb then (if s then 2 ^ 2 else 2 ^ 5)
    else (if s then 2 else 2 ^ 6)

/-- Conversion from format f to format g (03 R72, R73). -/
def Fmt.cvt (f g : Fmt) (rm : Rm) (a : Nat) : Fl Nat :=
  match f.decode a with
  | .nan sg => g.nanOf [.nan sg]
  | .inf s => ⟨g.infBits s, 0⟩
  | .fin s m e => g.round rm s m e

/-- (-1)^s × (m + sticky) × 2^e rounded to an integer, with whether that is inexact. -/
def roundInt (rm : Rm) (s : Bool) (m : Nat) (e : Int) (sticky : Bool) : Int × Bool :=
  let (k, inex) := roundAt rm s m e sticky 0
  (sgn s k, inex)

/-- Clamp an integer to [lo, hi]; NV outside, else NX when inexact (03 R69). -/
def clampInt (lo hi : Int) (v : Int × Bool) : Fl Int :=
  if v.1 < lo then ⟨lo, fNV⟩
  else if hi < v.1 then ⟨hi, fNV⟩
  else ⟨v.1, if v.2 then fNX else 0⟩

/-- Conversion to an integer type with range [lo, hi] (03 R69). -/
def Fmt.toInt (f : Fmt) (rm : Rm) (lo hi : Int) (a : Nat) : Fl Int :=
  match f.decode a with
  | .nan _ => ⟨0, fNV⟩
  | .inf s => ⟨if s then lo else hi, fNV⟩
  | .fin s m e => clampInt lo hi (roundInt rm s m e false)

/-- Conversion from an integer (03 R69). -/
def Fmt.ofInt (f : Fmt) (rm : Rm) (v : Int) : Fl Nat := f.round rm (decide (v < 0)) v.natAbs 0

end Sys2Proof.Machine
end

