-- ==== Sys2Proof/Machine/Real.lean ====
section
/-! DEFINITION. Bounds on exp, ln, sin and cos, by integer arithmetic with directed rounding: what "correctly rounded"
(03 R83, 10 R277, R279, 11 R294, R298) is decided with. A real is bounded by an interval of multiples of 2^-W; a rounding
that both ends agree on is the rounding of the real. The working precision doubles until they agree; log 12 says what
happens if the last precision does not decide. -/

namespace Sys2Proof.Machine

/-- The interval [lo, hi] / 2^W. -/
structure Iv where
  lo : Int
  hi : Int
  deriving DecidableEq, Repr

/-- Division rounded up. -/
def cdiv (a b : Nat) : Nat := (a + b - 1) / b

/-- a / 2^k rounded down and up. -/
def shrDown (a k : Nat) : Nat := a >>> k
def shrUp (a k : Nat) : Nat := (a + 2 ^ k - 1) >>> k

/-- Sum of n terms of exp(y), y and the result in units of 2^-w, each term rounded down. -/
def expSumLo (w y : Nat) : Nat → Nat → Nat → Nat → Nat
  | 0, _, _, acc => acc
  | n + 1, i, t, acc =>
    let t' := t * y / (2 ^ w * i)
    expSumLo w y n (i + 1) t' (acc + t')

/-- The same rounded up, with the last term once more for the rest of the series (y below 2^-8). -/
def expSumHi (w y : Nat) : Nat → Nat → Nat → Nat → Nat
  | 0, _, t, acc => acc + t + 1
  | n + 1, i, t, acc =>
    let t' := cdiv (t * y) (2 ^ w * i)
    expSumHi w y n (i + 1) t' (acc + t')

def sqLo (w : Nat) : Nat → Nat → Nat
  | 0, x => x
  | k + 1, x => sqLo w k (shrDown (x * x) w)

def sqHi (w : Nat) : Nat → Nat → Nat
  | 0, x => x
  | k + 1, x => sqHi w k (shrUp (x * x) w)

/-- Halvings that bring x / 2^W below 2^-8. -/
def expHalvings (W x : Nat) : Nat := 9 + Nat.log2 ((x >>> W) + 1) + 1

/-- Lower and upper bounds of exp(x / 2^W) for x not negative. -/
def expLo (W x : Nat) : Nat :=
  let k := expHalvings W x
  let w := W + 3 * k + 32
  shrDown (sqLo w k (expSumLo w (shrDown (x <<< (w - W)) k) (w / 8 + 2) 1 (2 ^ w) (2 ^ w))) (w - W)

def expHi (W x : Nat) : Nat :=
  let k := expHalvings W x
  let w := W + 3 * k + 32
  shrUp (sqHi w k (expSumHi w (shrUp (x <<< (w - W)) k) (w / 8 + 2) 1 (2 ^ w) (2 ^ w))) (w - W)

/-- exp of an interval. -/
def expIv (W : Nat) (x : Iv) : Iv :=
  ⟨if 0 ≤ x.lo then (expLo W x.lo.toNat : Nat) else (2 ^ (2 * W) / expHi W (-x.lo).toNat : Nat),
   if 0 ≤ x.hi then (expHi W x.hi.toNat : Nat) else (cdiv (2 ^ (2 * W)) (expLo W (-x.hi).toNat) : Nat)⟩

/-- Sum of n terms z^(2i+1)/(2i+1), rounded down; p is the power, z2 the square. -/
def atanhLo (w z2 : Nat) : Nat → Nat → Nat → Nat → Nat
  | 0, _, _, acc => acc
  | n + 1, i, p, acc => atanhLo w z2 n (i + 2) (shrDown (p * z2) w) (acc + p / i)

/-- The same rounded up, with twice the next power for the rest of the series (z at most 1/3). -/
def atanhHi (w z2 : Nat) : Nat → Nat → Nat → Nat → Nat
  | 0, _, p, acc => acc + 2 * p + 2
  | n + 1, i, p, acc => atanhHi w z2 n (i + 2) (shrUp (p * z2) w) (acc + cdiv p i)

/-- Bounds of ln(n / d) for d ≤ n ≤ 2d, in units of 2^-w. -/
def lnRatio (w n d : Nat) : Iv :=
  let zl := ((n - d) <<< w) / (n + d)
  let zh := cdiv ((n - d) <<< w) (n + d)
  ⟨(2 * atanhLo w (shrDown (zl * zl) w) (w / 3 + 2) 1 zl 0 : Nat),
   (2 * atanhHi w (shrUp (zh * zh) w) (w / 3 + 2) 1 zh 0 : Nat)⟩

/-- k times an interval, k an integer. -/
def Iv.scale (x : Iv) (k : Int) : Iv := if 0 ≤ k then ⟨x.lo * k, x.hi * k⟩ else ⟨x.hi * k, x.lo * k⟩

def Iv.add (x y : Iv) : Iv := ⟨x.lo + y.lo, x.hi + y.hi⟩
def Iv.neg (x : Iv) : Iv := ⟨-x.hi, -x.lo⟩
def Iv.sub (x y : Iv) : Iv := x.add y.neg

def ln2Iv (W : Nat) : Iv := lnRatio W 2 1

/-- Bounds of ln(m × 2^e), m positive. -/
def lnDy (W m : Nat) (e : Int) : Iv :=
  let l := Nat.log2 m
  ((ln2Iv W).scale (e + l)).add (lnRatio W m (2 ^ l))

/-- ln of an interval; no bound below when it reaches 0. -/
def lnIv (W : Nat) (x : Iv) : Iv :=
  ⟨if 0 < x.lo then (lnDy W x.lo.toNat (-W)).lo else -(2 ^ (2 * W) : Nat),
   if 0 < x.hi then (lnDy W x.hi.toNat (-W)).hi else 0⟩

/-- An exact value m × 2^e as an interval. -/
def dyIv (W : Nat) (s : Bool) (m : Nat) (e : Int) : Iv :=
  let sh := e + W
  let v : Iv := if 0 ≤ sh then ⟨(m <<< sh.toNat : Nat), (m <<< sh.toNat : Nat)⟩
    else ⟨(shrDown m (-sh).toNat : Nat), (shrUp m (-sh).toNat : Nat)⟩
  if s then v.neg else v

/-- The first agreed answer over working precisions that begin at W bits after the point and double n times; beyond them the value is
the rounding boundary that the last enclosure holds (log 12). -/
def ziv {α : Type} (try_ : Nat → Option α) (boundary : Nat → α) : Nat → Nat → α
  | 0, W => boundary W
  | n + 1, W =>
    match try_ W with
    | some r => r
    | none => ziv try_ boundary n (2 * W)

/-- The multiple of 2^(-W/2) next to x / 2^W: a boundary between encodings is one. -/
def boundaryAt (W : Nat) (x : Int) : Int := (x + 2 ^ (W / 2 - 1)) / 2 ^ (W / 2) * 2 ^ (W / 2)

/-- Round a value strictly between lo and hi (multiples of 2^e, lo < hi) to a format, if the ends agree. -/
def roundBetween (f : Fmt) (rm : Rm) (s : Bool) (lo hi : Nat) (e : Int) : Option (Fl Nat) :=
  let a := f.round rm s lo e true
  let b := f.round rm s (hi - 1) e true
  if a = b then some a else none

/-- (-1)^s × exp(t), t bounded by `ln` and not zero, rounded RNE to a format: overflow and underflow beyond exp(±1000),
else 2^k × exp(r) with r = t - k ln 2. -/
def roundExp (f : Fmt) (s : Bool) (ln : Nat → Iv) : Fl Nat :=
  let t0 := ln 96
  if (1000 : Int) * 2 ^ 96 < t0.lo then f.round .rne s 1 4000
  else if t0.hi < (-1000 : Int) * 2 ^ 96 then f.round .rne s (2 ^ 64) (-4000) true
  else
    let k : Int := t0.lo / (ln2Iv 96).hi
    ziv (fun W =>
      let r := expIv W ((ln W).sub ((ln2Iv W).scale k))
      roundBetween f .rne s r.lo.toNat r.hi.toNat (k - W))
      (fun W => f.round .rne s (boundaryAt W (expIv W ((ln W).sub ((ln2Iv W).scale k))).lo).toNat (k - W)) 64 96

/-- (-1)^s × exp(t) rounded to an integer, with whether that is inexact; beyond 2^70 the answer is 2^70. -/
def roundExpInt (s : Bool) (ln : Nat → Iv) (rm : Rm := .rne) : Int × Bool :=
  let t0 := ln 96
  if (49 : Int) * 2 ^ 96 < t0.lo then (sgn s (2 ^ 70), true)
  else if t0.hi < (-2 : Int) * 2 ^ 96 then roundInt rm s 1 (-8) true
  else
    ziv (fun W =>
      let r := expIv W (ln W)
      let a := roundInt rm s r.lo.toNat (-W) true
      let b := roundInt rm s (r.hi.toNat - 1) (-W) true
      if a = b then some a else none)
      (fun W => roundInt rm s (boundaryAt W (expIv W (ln W)).lo).toNat (-W) true) 64 96

/-! Trigonometry for XROT (10 R279). -/

/-- Sum of n terms of atan(1/k) in units of 2^-w, alternating; the error is below n + 1 units. -/
def atanInv (w k : Nat) : Nat → Nat → Nat → Int → Int
  | 0, _, _, acc => acc
  | n + 1, i, p, acc =>
    let t : Int := (p / i : Nat)
    atanInv w k n (i + 2) (p / (k * k)) (if i % 4 = 1 then acc + t else acc - t)

/-- Bounds of π / 2 by Machin's formula. -/
def halfPi (W : Nat) : Iv :=
  let w := W + 32
  let n := w / 4 + 2
  let v := 8 * atanInv w 5 n 1 (2 ^ w / 5) 0 - 2 * atanInv w 239 n 1 (2 ^ w / 239) 0
  let err : Int := 32 * (n + 2 : Nat)
  ⟨(v - err) / 2 ^ 32, (v + err) / 2 ^ 32 + 1⟩

/-- Sum of n terms of cos (i = 0) or sin (i = 1) of r in units of 2^-w: terms t, -t r^2/((i+1)(i+2)), …. -/
def trigSum (w : Nat) (r2 : Nat) : Nat → Nat → Nat → Bool → Int → Int
  | 0, _, _, _, acc => acc
  | n + 1, i, t, neg, acc =>
    trigSum w r2 n (i + 2) (shrDown (t * r2) w / ((i + 1) * (i + 2))) (!neg) (if neg then acc - t else acc + t)

/-- Bounds of cos and sin of a reduced angle |r| ≤ 1, r in units of 2^-W with an error of `err` units. -/
def cosSinRed (W : Nat) (r : Int) (err : Int) : Iv × Iv :=
  let a := r.natAbs
  let r2 := shrDown (a * a) W
  let n := W / 4 + 4
  let c := trigSum W r2 n 0 (2 ^ W) false 0
  let s0 := trigSum W r2 n 1 a false 0
  let s := if r < 0 then -s0 else s0
  let e := err + 4 * (n : Int) + 4
  (⟨c - e, c + e⟩, ⟨s - e, s + e⟩)

/-- Bounds of cos θ and sin θ for θ = (-1)^s × m × 2^e. -/
def cosSin (W0 : Nat) (s : Bool) (m : Nat) (e : Int) : Iv × Iv :=
  let W := W0 + 192
  let th := dyIv W false m e
  let hp := halfPi W
  let k := (th.lo + hp.lo / 2) / hp.lo
  let r := th.lo - k * hp.lo
  let err := (th.hi - th.lo) + k * (hp.hi - hp.lo) + 1
  let (c, sn) := cosSinRed W r err
  let (c', s') := match (k % 4).toNat with
    | 0 => (c, sn)
    | 1 => (sn.neg, c)
    | 2 => (c.neg, sn.neg)
    | _ => (sn, c.neg)
  let s'' := if s then s'.neg else s'
  let down := fun (x : Iv) => (⟨x.lo / 2 ^ 192, x.hi / 2 ^ 192 + 1⟩ : Iv)
  (down c', down s'')

/-- Round a nonzero transcendental value that lies in the interval, if its ends agree on sign and rounding. -/
def roundIv (f : Fmt) (W : Nat) (x : Iv) : Option (Fl Nat) :=
  if 0 < x.lo then roundBetween f .rne false x.lo.toNat x.hi.toNat (-W)
  else if x.hi < 0 then roundBetween f .rne true (-x.hi).toNat (-x.lo).toNat (-W)
  else none

/-- The rounding of the boundary that an interval holds. -/
def roundBoundary (f : Fmt) (W : Nat) (x : Iv) : Fl Nat :=
  let v := boundaryAt W x.lo
  f.round .rne (decide (v < 0)) v.natAbs (-W)

/-- cos and sin of an F32 angle, each correctly rounded to F32 (10 R279). -/
def cosSinF32 (th : Nat) : Fl Nat × Fl Nat :=
  match fmtF32.decode th with
  | .nan _ => (⟨fmtF32.canon, fNV⟩, ⟨fmtF32.canon, fNV⟩)
  | .inf _ => (⟨fmtF32.canon, fNV⟩, ⟨fmtF32.canon, fNV⟩)
  | .fin s m e =>
    if m = 0 then (⟨0x3F800000, 0⟩, ⟨fmtF32.zeroBits s, 0⟩)
    else
      let c := ziv (fun W => roundIv fmtF32 W (cosSin W s m e).1) (fun W => roundBoundary fmtF32 W (cosSin W s m e).1) 64 96
      let sn :=
        if e + (Nat.log2 m : Nat) < -12 then
          ⟨th % 2 ^ 32, fNX ||| (if e + (Nat.log2 m : Nat) < -126 then fUF else 0)⟩
        else ziv (fun W => roundIv fmtF32 W (cosSin W s m e).2) (fun W => roundBoundary fmtF32 W (cosSin W s m e).2) 64 96
      (c, sn)

end Sys2Proof.Machine
end

