-- ==== Sys2Proof/Machine/Sli.lean ====
section
/-! DEFINITION. Symmetric level-index arithmetic (03 R79 to R88). A finite encoding is a sign, the bit Q and
c = L × 2^p + F; ln|x| is φ(c / 2^p) when Q = 1 and its negative when Q = 0, so every operation works on logarithms. -/

namespace Sys2Proof.Machine

/-- A decoded SLI value (R80). -/
inductive SVal where
  | zero
  | nar
  | fin (s q : Bool) (c : Nat)
  deriving DecidableEq, Repr

/-- Decode with fraction width p: 27 for SLI32, 11 for SLI16 (R79, R80). -/
def SVal.decode (p x : Nat) : SVal :=
  let s := bit x (p + 4)
  let q := bit x (p + 3)
  let c := x % 2 ^ (p + 3)
  if q = false ∧ c = 0 then (if s then .nar else .zero) else .fin s q c

def SVal.encode (p : Nat) : SVal → Nat
  | .zero => 0
  | .nar => 2 ^ (p + 4)
  | .fin s q c => (b2n s <<< (p + 4)) + (b2n q <<< (p + 3)) + c % 2 ^ (p + 3)

/-- The signed index c or -c: the magnitude index μ is 1 + it / 2^p (R81). -/
def slIdx (q : Bool) (c : Nat) : Int := if q then c else -(c : Int)

/-- The finite value with signed index i, clamped to the largest and smallest encodings (R83). -/
def SVal.ofIdx (p : Nat) (s : Bool) (i : Int) : SVal :=
  let m : Int := 2 ^ (p + 3) - 1
  let i := if m < i then m else if i < -m then -m else i
  .fin s (decide (0 ≤ i)) i.natAbs

/-- φ on an interval: exp applied l times. -/
def phiIv (W : Nat) : Nat → Iv → Iv
  | 0, x => x
  | l + 1, x => expIv W (phiIv W l x)

/-- Bounds of φ(c / 2^p). -/
def phiC (p c W : Nat) : Iv := phiIv W (c / 2 ^ p) (dyIv W false (c % 2 ^ p) (-p))

/-- Bounds of ln|x| for a finite value. -/
def lnSl (p : Nat) (q : Bool) (c W : Nat) : Iv := if q then phiC p c W else (phiC p c W).neg

/-- Lower and upper bounds of the inverse of φ shifted by one level: t below 1 is itself, else 1 + that of ln t. -/
def unphiLo (W : Nat) : Nat → Int → Int
  | 0, x => x
  | k + 1, x => if x < 2 ^ W then x else 2 ^ W + unphiLo W k (lnIv W ⟨x, x⟩).lo

def unphiHi (W : Nat) : Nat → Int → Int
  | 0, x => x
  | k + 1, x => if x < 2 ^ W then x else 2 ^ W + unphiHi W k (lnIv W ⟨x, x⟩).hi

/-- Bounds of the signed index (before scaling by 2^p) from bounds of ln|y|. -/
def idxIv (W : Nat) (t : Iv) : Iv :=
  ⟨if 0 ≤ t.lo then unphiLo W 9 t.lo else -unphiHi W 9 (-t.lo),
   if 0 ≤ t.hi then unphiHi W 9 t.hi else -unphiLo W 9 (-t.hi)⟩

/-- The nearest multiple of 2^-p to x / 2^W. -/
def nearIdx (p W : Nat) (x : Int) : Int := (x + 2 ^ (W - p - 1)) / 2 ^ (W - p)

/-- The signed index nearest to a value given by bounds, if both ends agree. -/
def agreeIdx (p W : Nat) (x : Iv) : Option Int :=
  if nearIdx p W x.lo = nearIdx p W x.hi then some (nearIdx p W x.lo) else none

/-- The signed index nearest to an exact t = ln|y| = n / 2^k with |t| ≤ 1, ties to even F; and whether it is inexact. -/
def roundExactIdx (p : Nat) (n : Int) (k : Nat) : Int × Bool :=
  let (m, inex) := roundAt .rne false n.natAbs (-k) false (-p)
  (if n < 0 then -(m : Int) else m, inex)

/-- The encoding of sign s nearest to exp(t), t bounded by `idx` as a signed index; a value on the midpoint takes the even F (R83). -/
def roundIdx (p : Nat) (s : Bool) (idx : Nat → Iv) : SVal :=
  SVal.ofIdx p s (ziv (fun W => agreeIdx p W (idx W)) (fun W => (roundExactIdx p (boundaryAt W (idx W).lo) W).1) 64 96)

def roundLn (p : Nat) (s : Bool) (ln : Nat → Iv) : SVal := roundIdx p s (fun W => idxIv W (ln W))

/-- Beyond this index φ is above 10^9: another operand no longer moves the result to a neighbour. -/
def farIdx (p : Nat) : Nat := 33 * 2 ^ (p - 3)

/-- exp is far above 1 at 40: the smaller operand no longer moves the result to a neighbour. -/
def farApart (d : Iv) (W : Nat) : Bool := decide ((40 : Int) * 2 ^ W < d.lo)

/-- ln(1 ± exp(-d)), d not negative (not 0 when subtracting). -/
def ln1pm (W : Nat) (minus : Bool) (d : Iv) : Iv :=
  let r := expIv W d.neg
  let one : Iv := ⟨2 ^ W, 2 ^ W⟩
  lnIv W (if minus then one.sub r else one.add r)

/-- LX of an arithmetic result: Q and L of the result against those of the larger operand (R85). -/
def qlOf (p : Nat) : SVal → Bool × Nat
  | .fin _ q c => (q, c / 2 ^ p)
  | _ => (false, 0)

/-- The magnitude as a number that orders finite values and zero. -/
def magKey (p : Nat) : SVal → Int
  | .fin _ q c => slIdx q c
  | _ => -(2 ^ (p + 4))

def lxFlag (p : Nat) (a b r : SVal) : Flags :=
  let big := if magKey p a < magKey p b then b else a
  if r = .nar then 0 else if qlOf p big = qlOf p r then 0 else fLX

def withLx (p : Nat) (a b : SVal) (r : Fl SVal) : Fl SVal := ⟨r.val, r.fl ||| lxFlag p a b r.val⟩

/-- Sum of the magnitudes of two finite values, or their difference: A is the larger. -/
def sumMag (p : Nat) (s : Bool) (minus : Bool) (qa : Bool) (ca : Nat) (qb : Bool) (cb : Nat) : SVal :=
  let a := SVal.fin s qa ca
  if farIdx p ≤ ca ∨ farIdx p ≤ cb then a
  else
    let d := fun W => (lnSl p qa ca W).sub (lnSl p qb cb W)
    if farApart (d 96) 96 then a
    else roundLn p s (fun W => (lnSl p qa ca W).add (ln1pm W minus (d W)))

/-- Addition of decoded values (R83, R84). -/
def SVal.addV (p : Nat) (a b : SVal) : Fl SVal :=
  match a, b with
  | .nar, _ => ⟨.nar, 0⟩
  | _, .nar => ⟨.nar, 0⟩
  | .zero, .zero => ⟨.zero, 0⟩
  | .zero, .fin s q c => ⟨.fin s q c, 0⟩
  | .fin s q c, .zero => ⟨.fin s q c, 0⟩
  | .fin s1 q1 c1, .fin s2 q2 c2 =>
    if slIdx q1 c1 = slIdx q2 c2 ∧ s1 ≠ s2 then ⟨.zero, 0⟩
    else if slIdx q1 c1 < slIdx q2 c2 then ⟨sumMag p s2 (s1 != s2) q2 c2 q1 c1, fNX⟩
    else ⟨sumMag p s1 (s1 != s2) q1 c1 q2 c2, fNX⟩

def SVal.neg : SVal → SVal
  | .fin s q c => .fin (!s) q c
  | x => x

/-- φ(u) as a dyadic number of 2^-p where it is one: level 1, or e^0. -/
def dyadicPhi (p c : Nat) : Option Nat := if c ≤ 2 ^ p then some c else none

/-- The value exp(±φ(ca / 2^p) ± φ(cb / 2^p)) for ca ≥ cb > 0, signs sa and sb (true for minus). -/
def expSum (p : Nat) (s : Bool) (sa : Bool) (ca : Nat) (sb : Bool) (cb : Nat) : Fl SVal :=
  if ca = cb ∧ sa ≠ sb then ⟨.fin s true 0, 0⟩
  else
    match dyadicPhi p ca, dyadicPhi p cb with
    | some x, some y =>
      let t : Int := sgn sa x + sgn sb y
      if t.natAbs ≤ 2 ^ p then ⟨SVal.ofIdx p s t, 0⟩
      else ⟨roundLn p s (fun W => dyIv W (decide (t < 0)) t.natAbs (-p)), fNX⟩
    | _, _ =>
      let a := SVal.ofIdx p s (sgn sa ca)
      if farIdx p + 2 ^ p ≤ ca then ⟨a, fNX⟩
      else if ca < 7 * 2 ^ (p - 1) then
        ⟨roundLn p s (fun W => (lnSl p (!sa) ca W).add (lnSl p (!sb) cb W)), fNX⟩
      else
        let lnA := fun W => phiC p (ca - 2 ^ p) W
        let lnB := fun W => if 2 ^ p ≤ cb then phiC p (cb - 2 ^ p) W else lnDy W cb (-p)
        let d := fun W => (lnA W).sub (lnB W)
        if farApart (d 96) 96 then ⟨a, fNX⟩
        else
          ⟨roundIdx p s (fun W =>
            let u := (lnA W).add (ln1pm W (sa != sb) (d W))
            let g : Iv := ⟨if 0 ≤ u.lo then 2 ^ W + unphiLo W 9 u.lo else (expIv W ⟨u.lo, u.lo⟩).lo,
              if 0 ≤ u.hi then 2 ^ W + unphiHi W 9 u.hi else (expIv W ⟨u.hi, u.hi⟩).hi⟩
            if sa then g.neg else g), fNX⟩

/-- Product of finite values with logarithms' signs given (R83): 1 is exact. -/
def mulFin (p : Nat) (s : Bool) (q1 : Bool) (c1 : Nat) (q2 : Bool) (c2 : Nat) : Fl SVal :=
  if c1 = 0 then ⟨SVal.ofIdx p s (slIdx q2 c2), 0⟩
  else if c2 = 0 then ⟨SVal.ofIdx p s (slIdx q1 c1), 0⟩
  else if c1 < c2 then expSum p s (!q2) c2 (!q1) c1
  else expSum p s (!q1) c1 (!q2) c2

/-- Multiplication (R83, R84). -/
def SVal.mulV (p : Nat) (a b : SVal) : Fl SVal :=
  match a, b with
  | .nar, _ => ⟨.nar, 0⟩
  | _, .nar => ⟨.nar, 0⟩
  | .zero, _ => ⟨.zero, 0⟩
  | _, .zero => ⟨.zero, 0⟩
  | .fin s1 q1 c1, .fin s2 q2 c2 => mulFin p (s1 != s2) q1 c1 q2 c2

/-- Division (R83, R84). -/
def SVal.divV (p : Nat) (a b : SVal) : Fl SVal :=
  match a, b with
  | .nar, _ => ⟨.nar, 0⟩
  | _, .nar => ⟨.nar, 0⟩
  | .zero, .zero => ⟨.nar, fNV⟩
  | .fin _ _ _, .zero => ⟨.nar, fDZ⟩
  | .zero, .fin _ _ _ => ⟨.zero, 0⟩
  | .fin s1 q1 c1, .fin s2 q2 c2 => mulFin p (s1 != s2) q1 c1 (!q2 || c2 == 0) c2

/-- The four operations on encodings, with LX (R85). -/
def sliOp (p : Nat) (op : SVal → SVal → Fl SVal) (x y : Nat) : Fl Nat :=
  let a := SVal.decode p x
  let b := SVal.decode p y
  let r := withLx p a b (op a b)
  ⟨r.val.encode p, r.fl⟩

def sliAdd (p x y : Nat) : Fl Nat := sliOp p (SVal.addV p) x y
def sliSub (p x y : Nat) : Fl Nat := sliOp p (fun a b => SVal.addV p a b.neg) x y
def sliMul (p x y : Nat) : Fl Nat := sliOp p (SVal.mulV p) x y
def sliDiv (p x y : Nat) : Fl Nat := sliOp p (SVal.divV p) x y

/-- A key that orders all values but NaR (R82). -/
def sliKey (p : Nat) : SVal → Int
  | .fin s q c =>
    let k : Int := slIdx q c + 2 ^ (p + 4)
    if s then -k else k
  | _ => 0

/-- The order of SLI values; none with a NaR (R82). -/
def sliCmp (p x y : Nat) : Option Ordering :=
  let a := SVal.decode p x
  let b := SVal.decode p y
  if a = .nar ∨ b = .nar then none else some (compare (sliKey p a) (sliKey p b))

/-- LLEVEL (04 R112). -/
def sliLevel (p x : Nat) : Nat :=
  match SVal.decode p x with
  | .zero => 0
  | .nar => 0x20
  | .fin s q c => (b2n s <<< 5) + (b2n q <<< 4) + (c / 2 ^ p + 1)

/-- An exact real to be rounded, or a special value: what a described block or an exp gives (R83, R93). -/
inductive Real where
  | nan (signalling : Bool)
  | nar
  | inf (s : Bool)
  | dy (s : Bool) (m : Nat) (e : Int)
  /-- The finite SLI value of fraction width p with index c, not 0, times 2^k. -/
  | sl (s q : Bool) (c p : Nat) (k : Int)
  deriving DecidableEq, Repr

def Real.ofFloat (v : FVal) : Real :=
  match v with
  | .nan q => .nan q
  | .inf s => .inf s
  | .fin s m e => .dy s m e

/-- ln of an SLI magnitude times 2^k, clipped where φ is beyond every format's range. -/
def lnClip (p : Nat) (q : Bool) (c : Nat) (W : Nat) : Iv :=
  let far : Iv := ⟨10 ^ 9 * 2 ^ W, 10 ^ 9 * 2 ^ W⟩
  if farIdx p ≤ c then (if q then far else far.neg) else lnSl p q c W

/-- An SLI value times 2^k as a real (R80, R93). -/
def Real.ofSli (v : SVal) (p : Nat) (k : Int := 0) : Real :=
  match v with
  | .zero => .dy false 0 0
  | .nar => .nar
  | .fin s q c =>
    if c = 0 then .dy s 1 k
    else .sl s q c p k

/-- ln of the magnitude of `sl`. -/
def lnScaled (q : Bool) (c p : Nat) (k : Int) (W : Nat) : Iv := (lnClip p q c W).add ((ln2Iv W).scale k)

/-- The signed index of `sl` at fraction width p': exact when k = 0; beyond `farIdx` the scale only breaks ties. -/
def scaledIdx (p' : Nat) (s q : Bool) (c p : Nat) (k : Int) : Fl SVal :=
  if k = 0 then
    let (m, inex) := roundAt .rne false c (-p) false (-p')
    ⟨SVal.ofIdx p' s (slIdx q m), if inex then fNX else 0⟩
  else if farIdx p ≤ c then
    let c' := (c <<< 32) + (if decide (0 < k) = q then 1 else 0) - (if decide (0 < k) = q then 0 else 1)
    ⟨SVal.ofIdx p' s (slIdx q (roundAt .rne false c' (-(p + 32 : Nat)) false (-p')).1), fNX⟩
  else ⟨roundLn p' s (lnScaled q c p k), fNX⟩

/-- Round a real RNE to an IEEE format; `sat` replaces infinity by the largest finite value (R72, R88). DEDUCED (log 55): a
magnitude that lies above the largest finite value and still rounds to it by RNE does not overflow, as R72 gives. -/
def Real.toFloat (f : Fmt) (sat : Bool) (v : Real) : Fl Nat :=
  let fix := fun (s : Bool) (r : Fl Nat) =>
    if sat && r.val == f.infBits s then (⟨f.maxBits s, r.fl⟩ : Fl Nat) else r
  match v with
  | .nan q => f.nanOf [.nan q]
  | .nar => ⟨f.canon, 0⟩
  | .inf s => ⟨f.infBits s, 0⟩
  | .dy s m e => fix s (f.round .rne s m e)
  | .sl s q c p k => fix s (roundExp f s (lnScaled q c p k))

/-- Round a real to SLI (R83, R87). -/
def Real.toSli (p : Nat) (v : Real) : Fl SVal :=
  match v with
  | .nan _ => ⟨.nar, fNV⟩
  | .nar => ⟨.nar, 0⟩
  | .inf _ => ⟨.nar, fNV⟩
  | .dy s m e =>
    if m = 0 then ⟨.zero, 0⟩
    else if m = 2 ^ Nat.log2 m ∧ e + (Nat.log2 m : Nat) = 0 then ⟨.fin s true 0, 0⟩
    else ⟨roundLn p s (fun W => lnDy W m e), fNX⟩
  | .sl s q c p' k => scaledIdx p s q c p' k

/-- Round a real RNE to an integer and saturate it: SAT outside the range (R94), NV for a NaN. -/
def Real.toIntSat (lo hi : Int) (v : Real) : Fl Int :=
  let cl := fun (r : Int × Bool) =>
    if r.1 < lo then (⟨lo, fSAT⟩ : Fl Int)
    else if hi < r.1 then ⟨hi, fSAT⟩
    else ⟨r.1, if r.2 then fNX else 0⟩
  match v with
  | .nan _ => ⟨0, fNV⟩
  | .nar => ⟨0, fNV⟩
  | .inf s => ⟨if s then lo else hi, fSAT⟩
  | .dy s m e => cl (roundInt .rne s m e false)
  | .sl s q c p k => cl (roundExpInt s (lnScaled q c p k))

/-- Round a real by a mode to an integer type: NV outside its range, for an infinity, a NaN and NaR (R69). -/
def Real.toInt (rm : Rm) (lo hi : Int) (v : Real) : Fl Int :=
  match v with
  | .nan _ => ⟨0, fNV⟩
  | .nar => ⟨0, fNV⟩
  | .inf s => ⟨if s then lo else hi, fNV⟩
  | .dy s m e => clampInt lo hi (roundInt rm s m e false)
  | .sl s q c p k => clampInt lo hi (roundExpInt s (lnScaled q c p k) rm)

/-- IEEE to SLI (R87). -/
def sliOfFloat (f : Fmt) (p x : Nat) : Fl Nat :=
  let r := (Real.ofFloat (f.decode x)).toSli p
  ⟨r.val.encode p, r.fl⟩

/-- SLI to IEEE, RNE (R88). -/
def floatOfSli (p : Nat) (f : Fmt) (sat : Bool) (x : Nat) : Fl Nat :=
  (Real.ofSli (SVal.decode p x) p).toFloat f sat

/-- SLI32 to SLI16: the index rounded to 11 fraction bits, ties to even F (R83). -/
def sliNarrow (x : Nat) : Fl Nat :=
  let r := (Real.ofSli (SVal.decode 27 x) 27).toSli 11
  ⟨r.val.encode 11, r.fl⟩

/-- SLI16 to SLI32, exact (R83). -/
def sliWiden (x : Nat) : Nat :=
  match SVal.decode 11 x with
  | .zero => 0
  | .nar => 0x80000000
  | .fin s q c => (SVal.fin s q (c * 2 ^ 16)).encode 27

/-- exp of an exact y = (-1)^s × m × 2^e as SLI (10 R277): ln of the result is y itself. -/
def expToSli (p : Nat) (s : Bool) (m : Nat) (e : Int) : Fl SVal :=
  if m = 0 then ⟨.fin false true 0, 0⟩
  else if e + (Nat.log2 m : Nat) < 0 ∨ (e + (Nat.log2 m : Nat) = 0 ∧ m = 2 ^ Nat.log2 m) then
    let (k, inex) := roundAt .rne false m e false (-p)
    ⟨SVal.ofIdx p false (sgn s k), if inex then fNX else 0⟩
  else ⟨roundLn p false (fun W => dyIv W s m e), fNX⟩

/-- exp of an exact y rounded RNE to an IEEE format. -/
def expToFloat (f : Fmt) (s : Bool) (m : Nat) (e : Int) : Fl Nat :=
  if m = 0 then f.round .rne false 1 0
  else if e + (Nat.log2 m : Nat) < -60 then
    if s then f.round .rne false (2 ^ 60 - 1) (-60) true else f.round .rne false (2 ^ 60) (-60) true
  else roundExp f false (fun W => dyIv W s m e)

/-- w × x rounded once to SLI32: w an SLI32 value, x an F32 value that is finite (11 R296). -/
def mulSliFloat (w : SVal) (s : Bool) (m : Nat) (e : Int) : Fl SVal :=
  match w with
  | .zero => ⟨.zero, 0⟩
  | .nar => ⟨.nar, 0⟩
  | .fin sw q c =>
    if m = 0 then ⟨.zero, 0⟩
    else if c = 0 then (Real.dy (sw != s) m e).toSli 27
    else if m = 2 ^ Nat.log2 m ∧ e + (Nat.log2 m : Nat) = 0 then ⟨.fin (sw != s) q c, 0⟩
    else if farIdx 27 ≤ c then ⟨.fin (sw != s) q c, fNX⟩
    else ⟨roundLn 27 (sw != s) (fun W => (lnSl 27 q c W).add (lnDy W m e)), fNX⟩

/-- a / b rounded once to an IEEE format: both SLI32 values, b finite and not zero (11 R298). -/
def divSliToFloat (f : Fmt) (a b : SVal) : Fl Nat :=
  match a, b with
  | .nar, _ => ⟨f.canon, 0⟩
  | _, .nar => ⟨f.canon, 0⟩
  | .zero, _ => ⟨0, 0⟩
  | .fin s1 _ _, .zero => ⟨f.infBits s1, fDZ⟩
  | .fin s1 q1 c1, .fin s2 q2 c2 =>
    let s := s1 != s2
    if slIdx q1 c1 = slIdx q2 c2 then f.round .rne s 1 0
    else if farIdx 27 ≤ c1 ∨ farIdx 27 ≤ c2 then
      if slIdx q2 c2 < slIdx q1 c1 then f.round .rne s 1 4000 else f.round .rne s (2 ^ 64) (-4000) true
    else roundExp f s (fun W => (lnSl 27 q1 c1 W).sub (lnSl 27 q2 c2 W))

/-- ln of a positive finite SLI32 value rounded RNE to F32 (11 R298). -/
def lnSliToF32 (q : Bool) (c : Nat) : Fl Nat :=
  match dyadicPhi 27 c with
  | some n => fmtF32.round .rne (!q && n != 0) n (-27)
  | none =>
    if 9 * 2 ^ 26 ≤ c then fmtF32.round .rne (!q) 1 4000
    else ziv (fun W => roundIv fmtF32 W (lnSl 27 q c W)) (fun W => roundBoundary fmtF32 W (lnSl 27 q c W)) 64 96

end Sys2Proof.Machine
end

