-- ==== Sys2Proof/Machine/Alu.lean ====
section
/-! DEFINITION. The value and the flags of every operation of majors 0x00 to 0x0A (04 R99 to R113), as functions of the
operands; the instructions and the Hinge (05 R144) share them. -/

namespace Sys2Proof.Machine

/-- A result that sets no flag. -/
def Fl.pure {α : Type} (x : α) : Fl α := ⟨x, 0⟩

def boolFl (b : Bool) : Fl Word := ⟨b2w b, 0⟩

/-- A numeric result as a register value, zero-extended (R95). -/
def natFl (r : Fl Nat) : Fl Word := ⟨BitVec.ofNat 64 r.val, r.fl⟩

def intFl (r : Fl Int) : Fl Word := ⟨wrap r.val, r.fl⟩

namespace Alu

def add (a b : Word) : Fl Word := .pure (a + b)
def sub (a b : Word) : Fl Word := .pure (a - b)
def and (a b : Word) : Fl Word := .pure (a &&& b)
def or (a b : Word) : Fl Word := .pure (a ||| b)
def xor (a b : Word) : Fl Word := .pure (a ^^^ b)
def andn (a b : Word) : Fl Word := .pure (a &&& ~~~b)
def shl (a b : Word) : Fl Word := .pure (a <<< (b.toNat % 64))
def shr (a b : Word) : Fl Word := .pure (a >>> (b.toNat % 64))
def sra (a b : Word) : Fl Word := .pure (a.sshiftRight (b.toNat % 64))
def mul (a b : Word) : Fl Word := .pure (a * b)
def mulh (a b : Word) : Fl Word := .pure (wrap (a.toInt * b.toInt / 2 ^ 64))
def mulhu (a b : Word) : Fl Word := .pure (BitVec.ofNat 64 (a.toNat * b.toNat / 2 ^ 64))

/-- Flags of a division by zero (R100). -/
def divZeroFl (n : Word) : Flags := if n = 0 then fNV else fDZ

def div (a b : Word) : Fl Word :=
  if b = 0 then ⟨BitVec.allOnes 64, divZeroFl a⟩
  else if a = BitVec.intMin 64 ∧ b = BitVec.allOnes 64 then ⟨BitVec.intMin 64, fIOV⟩
  else .pure (wrap (a.toInt.tdiv b.toInt))
def divu (a b : Word) : Fl Word :=
  if b = 0 then ⟨BitVec.allOnes 64, divZeroFl a⟩ else .pure (BitVec.ofNat 64 (a.toNat / b.toNat))
def rem (a b : Word) : Fl Word :=
  if b = 0 then ⟨a, divZeroFl a⟩ else .pure (wrap (a.toInt.tmod b.toInt))
def remu (a b : Word) : Fl Word :=
  if b = 0 then ⟨a, divZeroFl a⟩ else .pure (BitVec.ofNat 64 (a.toNat % b.toNat))

def min (a b : Word) : Fl Word := .pure (if a.sle b then a else b)
def max (a b : Word) : Fl Word := .pure (if b.sle a then a else b)
def minu (a b : Word) : Fl Word := .pure (if a.ule b then a else b)
def maxu (a b : Word) : Fl Word := .pure (if b.ule a then a else b)
def slt (a b : Word) : Fl Word := boolFl (a.slt b)
def sltu (a b : Word) : Fl Word := boolFl (a.ult b)
def seq (a b : Word) : Fl Word := boolFl (a == b)
def sne (a b : Word) : Fl Word := boolFl (a != b)
def sel (a b old : Word) : Fl Word := .pure (if old = 0 then b else a)

def clz (a : Word) : Fl Word := .pure (if a = 0 then 64 else BitVec.ofNat 64 (63 - Nat.log2 a.toNat))

/-- Zero bits below the lowest one bit, looking at k bits. -/
def trailing (n : Nat) : Nat → Nat
  | 0 => 0
  | k + 1 => if n % 2 = 1 then 0 else 1 + trailing (n / 2) k

def ctz (a : Word) : Fl Word := .pure (BitVec.ofNat 64 (trailing a.toNat 64))

/-- One bits among the low k. -/
def ones (n : Nat) : Nat → Nat
  | 0 => 0
  | k + 1 => n % 2 + ones (n / 2) k

def popc (a : Word) : Fl Word := .pure (BitVec.ofNat 64 (ones a.toNat 64))
def abs (a : Word) : Fl Word := .pure (if a.msb then -a else a)
def addv (a b : Word) : Fl Word :=
  let t := a.toInt + b.toInt
  ⟨a + b, if t < -2 ^ 63 ∨ 2 ^ 63 ≤ t then fIOV else 0⟩

/-- The immediate of an RI instruction: imm16, or the 42 bits of an extended pair, sign- or zero-extended (02 R53). -/
def immS (x : Option (BitVec 26)) (i : BitVec 16) : Word :=
  match x with
  | none => i.signExtend 64
  | some x => (x ++ i).signExtend 64

def immZ (x : Option (BitVec 26)) (i : BitVec 16) : Word :=
  match x with
  | none => i.setWidth 64
  | some x => (x ++ i).setWidth 64

/-! Floating point (R106 to R109). P selects F32 or F64. -/

def fmt (p : BitVec 1) : Fmt := if p = 1 then fmtF64 else fmtF32

/-- The rounding mode of an rm field, with the mode of AFLAGS for DYN (02 R41). -/
def rmOf (r : BitVec 3) (drm : Nat) : Rm := if r = 7 then Rm.ofDrm drm else Rm.ofDrm r.toNat

def fadd (p : BitVec 1) (rm : Rm) (a b : Word) : Fl Word := natFl ((fmt p).add rm a.toNat b.toNat)
def fsub (p : BitVec 1) (rm : Rm) (a b : Word) : Fl Word := natFl ((fmt p).sub rm a.toNat b.toNat)
def fmul (p : BitVec 1) (rm : Rm) (a b : Word) : Fl Word := natFl ((fmt p).mul rm a.toNat b.toNat)
def fdiv (p : BitVec 1) (rm : Rm) (a b : Word) : Fl Word := natFl ((fmt p).div rm a.toNat b.toNat)
def fsqrt (p : BitVec 1) (rm : Rm) (a : Word) : Fl Word := natFl ((fmt p).sqrt rm a.toNat)
def fma (p : BitVec 1) (rm : Rm) (a b c : Word) : Fl Word := natFl ((fmt p).fma rm a.toNat b.toNat c.toNat)
def fms (p : BitVec 1) (rm : Rm) (a b c : Word) : Fl Word := natFl ((fmt p).fms rm a.toNat b.toNat c.toNat)
def fmin (p : BitVec 1) (a b : Word) : Fl Word := natFl ((fmt p).minmax false a.toNat b.toNat)
def fmax (p : BitVec 1) (a b : Word) : Fl Word := natFl ((fmt p).minmax true a.toNat b.toNat)
def ofRel (r : Fl Bool) : Fl Word := ⟨b2w r.val, r.fl⟩
def feq (p : BitVec 1) (a b : Word) : Fl Word := ofRel ((fmt p).eq a.toNat b.toNat)
def flt (p : BitVec 1) (a b : Word) : Fl Word := ofRel ((fmt p).lt a.toNat b.toNat)
def fle (p : BitVec 1) (a b : Word) : Fl Word := ofRel ((fmt p).le a.toNat b.toNat)
def fclass (p : BitVec 1) (a : Word) : Fl Word := .pure (BitVec.ofNat 64 ((fmt p).classify a.toNat))

/-- FCVT by conversion code (R109); results in S32 sign-extended, in F32 and BF16 zero-extended (R95). -/
def fcvt (c : BitVec 4) (rm : Rm) (a : Word) : Fl Word :=
  let n := a.toNat
  let s64 := fun (f : Fmt) => intFl (f.toInt rm (-2 ^ 63) (2 ^ 63 - 1) n)
  let n64 := fun (f : Fmt) => intFl (f.toInt rm 0 (2 ^ 64 - 1) n)
  let s32 := fun (f : Fmt) => intFl (f.toInt rm (-2 ^ 31) (2 ^ 31 - 1) n)
  match c.toNat with
  | 0 => natFl (fmtF32.cvt fmtF64 rm n)
  | 1 => natFl (fmtF64.cvt fmtF32 rm n)
  | 2 => natFl (fmtF32.cvt fmtBF16 rm n)
  | 3 => natFl (fmtBF16.cvt fmtF32 rm n)
  | 4 => s64 fmtF32
  | 5 => n64 fmtF32
  | 6 => s64 fmtF64
  | 7 => n64 fmtF64
  | 8 => natFl (fmtF32.ofInt rm a.toInt)
  | 9 => natFl (fmtF32.ofInt rm n)
  | 10 => natFl (fmtF64.ofInt rm a.toInt)
  | 11 => natFl (fmtF64.ofInt rm n)
  | 12 => s32 fmtF32
  | 13 => s32 fmtF64
  | 14 => natFl (fmtF64.cvt fmtBF16 rm n)
  | _ => natFl (fmtBF16.cvt fmtF64 rm n)

/-! SLI (R111 to R113): operands in bits [31:0]. -/

def lo32 (a : Word) : Nat := a.toNat % 2 ^ 32
def ladd (a b : Word) : Fl Word := natFl (sliAdd 27 (lo32 a) (lo32 b))
def lsub (a b : Word) : Fl Word := natFl (sliSub 27 (lo32 a) (lo32 b))
def lmul (a b : Word) : Fl Word := natFl (sliMul 27 (lo32 a) (lo32 b))
def ldiv (a b : Word) : Fl Word := natFl (sliDiv 27 (lo32 a) (lo32 b))
def leq (a b : Word) : Fl Word := boolFl (sliCmp 27 (lo32 a) (lo32 b) == some .eq)
def llt (a b : Word) : Fl Word := boolFl (sliCmp 27 (lo32 a) (lo32 b) == some .lt)
def llevel (a : Word) : Fl Word := .pure (BitVec.ofNat 64 (sliLevel 27 (lo32 a)))

/-- LCVT by conversion code (R113). -/
def lcvt (s : BitVec 1) (c : BitVec 4) (a : Word) : Fl Word :=
  let n := a.toNat
  let sat := s == 1
  match c.toNat with
  | 0 => natFl (sliOfFloat fmtF32 27 n)
  | 1 => natFl (sliOfFloat fmtF64 27 n)
  | 2 => natFl (sliOfFloat fmtBF16 27 n)
  | 3 => natFl (floatOfSli 27 fmtF32 sat (n % 2 ^ 32))
  | 4 => natFl (floatOfSli 27 fmtF64 sat (n % 2 ^ 32))
  | 5 => natFl (floatOfSli 27 fmtBF16 sat (n % 2 ^ 32))
  | 6 => natFl (sliNarrow (n % 2 ^ 32))
  | 7 => .pure (BitVec.ofNat 64 (sliWiden (n % 2 ^ 16)))
  | 8 => natFl (sliOfFloat fmtF32 11 n)
  | _ => natFl (floatOfSli 11 fmtF32 sat (n % 2 ^ 16))

end Alu

/-- A source of an operation of majors 0x00 to 0x0A: a general or a message register (02 R41). -/
inductive Operand where
  | g (r : BitVec 5)
  | m (r : BitVec 4)
  deriving DecidableEq, Repr

/-- The source that a field and its MA or MB bit name. -/
def Operand.of (r : BitVec 5) (m : BitVec 1) : Operand := if m = 1 then .m (r.setWidth 4) else .g r

/-- A capturable operation (05 R137): destination, sources in field order, whether it reads the old destination, la and
DYN, and its function of the operands (A, B, old g[d], DRM). -/
structure Calc where
  d : BitVec 5
  srcs : List Operand
  readsOld : Bool := false
  la : Nat := 0
  dyn : Bool := false
  fn : Word → Word → Word → Nat → Fl Word

/-- The operation that an instruction of majors 0x00 to 0x0A performs; none for any other. -/
def calcOf (x : Option (BitVec 26)) (i : Instr) : Option Calc :=
  let two := fun (d a b : BitVec 5) (m n : BitVec 1) (f : Word → Word → Fl Word) =>
    some ({ d := d, srcs := [.of a m, .of b n], fn := fun p q _ _ => f p q } : Calc)
  let one := fun (d a : BitVec 5) (m : BitVec 1) (f : Word → Fl Word) =>
    some ({ d := d, srcs := [.of a m], fn := fun p _ _ _ => f p } : Calc)
  let dv := fun (d a b : BitVec 5) (m n : BitVec 1) (l : BitVec 4) (f : Word → Word → Fl Word) =>
    some ({ d := d, srcs := [.of a m, .of b n], la := l.toNat, fn := fun p q _ _ => f p q } : Calc)
  let fp := fun (d a b : BitVec 5) (m n : BitVec 1) (r : BitVec 3) (f : Rm → Word → Word → Fl Word) =>
    some ({ d := d, srcs := [.of a m, .of b n], dyn := r == 7, fn := fun p q _ k => f (Alu.rmOf r k) p q } : Calc)
  let fp3 := fun (d a b : BitVec 5) (m n : BitVec 1) (r : BitVec 3) (f : Rm → Word → Word → Word → Fl Word) =>
    some ({ d := d, srcs := [.of a m, .of b n], readsOld := true, dyn := r == 7,
            fn := fun p q o k => f (Alu.rmOf r k) p q o } : Calc)
  let im := fun (d a : BitVec 5) (f : Word → Fl Word) =>
    some ({ d := d, srcs := [.g a], fn := fun p _ _ _ => f p } : Calc)
  match i with
  | .add d a b m n => two d a b m n Alu.add
  | .sub d a b m n => two d a b m n Alu.sub
  | .and d a b m n => two d a b m n Alu.and
  | .or d a b m n => two d a b m n Alu.or
  | .xor d a b m n => two d a b m n Alu.xor
  | .andn d a b m n => two d a b m n Alu.andn
  | .shl d a b m n => two d a b m n Alu.shl
  | .shr d a b m n => two d a b m n Alu.shr
  | .sra d a b m n => two d a b m n Alu.sra
  | .mul d a b m n => two d a b m n Alu.mul
  | .mulh d a b m n => two d a b m n Alu.mulh
  | .mulhu d a b m n => two d a b m n Alu.mulhu
  | .div d a b m n l => dv d a b m n l Alu.div
  | .divu d a b m n l => dv d a b m n l Alu.divu
  | .rem d a b m n l => dv d a b m n l Alu.rem
  | .remu d a b m n l => dv d a b m n l Alu.remu
  | .min d a b m n => two d a b m n Alu.min
  | .max d a b m n => two d a b m n Alu.max
  | .minu d a b m n => two d a b m n Alu.minu
  | .maxu d a b m n => two d a b m n Alu.maxu
  | .slt d a b m n => two d a b m n Alu.slt
  | .sltu d a b m n => two d a b m n Alu.sltu
  | .seq d a b m n => two d a b m n Alu.seq
  | .sne d a b m n => two d a b m n Alu.sne
  | .sel d a b m n => some { d := d, srcs := [.of a m, .of b n], readsOld := true, fn := fun p q o _ => Alu.sel p q o }
  | .clz d a m => one d a m Alu.clz
  | .ctz d a m => one d a m Alu.ctz
  | .popc d a m => one d a m Alu.popc
  | .abs d a m => one d a m Alu.abs
  | .addv d a b m n => two d a b m n Alu.addv
  | .addi d a i => im d a (fun p => Alu.add p (Alu.immS x i))
  | .andi d a i => im d a (fun p => Alu.and p (Alu.immS x i))
  | .ori d a i => im d a (fun p => Alu.or p (Alu.immZ x i))
  | .xori d a i => im d a (fun p => Alu.xor p (Alu.immZ x i))
  | .slti d a i => im d a (fun p => Alu.slt p (Alu.immS x i))
  | .sltiu d a i => im d a (fun p => Alu.sltu p (Alu.immS x i))
  | .shli d a k => im d a (fun p => Alu.shl p (k.setWidth 64))
  | .shri d a k => im d a (fun p => Alu.shr p (k.setWidth 64))
  | .srai d a k => im d a (fun p => Alu.sra p (k.setWidth 64))
  | .movi d i => some { d := d, srcs := [], fn := fun _ _ _ _ => .pure (Alu.immS x i) }
  | .fadd d a b m n r p => fp d a b m n r (Alu.fadd p)
  | .fsub d a b m n r p => fp d a b m n r (Alu.fsub p)
  | .fmul d a b m n r p => fp d a b m n r (Alu.fmul p)
  | .fdiv d a b m n r p => fp d a b m n r (Alu.fdiv p)
  | .fsqrt d a m r p => some { d := d, srcs := [.of a m], dyn := r == 7, fn := fun v _ _ k => Alu.fsqrt p (Alu.rmOf r k) v }
  | .fma d a b m n r p => fp3 d a b m n r (Alu.fma p)
  | .fms d a b m n r p => fp3 d a b m n r (Alu.fms p)
  | .fmin d a b m n p => two d a b m n (Alu.fmin p)
  | .fmax d a b m n p => two d a b m n (Alu.fmax p)
  | .feq d a b m n p => two d a b m n (Alu.feq p)
  | .flt d a b m n p => two d a b m n (Alu.flt p)
  | .fle d a b m n p => two d a b m n (Alu.fle p)
  | .fclass d a m p => one d a m (Alu.fclass p)
  | .fcvt d a c m r => some { d := d, srcs := [.of a m], dyn := r == 7, fn := fun v _ _ k => Alu.fcvt c (Alu.rmOf r k) v }
  | .ladd d a b m n l => dv d a b m n l Alu.ladd
  | .lsub d a b m n l => dv d a b m n l Alu.lsub
  | .lmul d a b m n l => dv d a b m n l Alu.lmul
  | .ldiv d a b m n l => dv d a b m n l Alu.ldiv
  | .leq d a b m n l => dv d a b m n l Alu.leq
  | .llt d a b m n l => dv d a b m n l Alu.llt
  | .lcvt d a s c m l => some { d := d, srcs := [.of a m], la := l.toNat, fn := fun p _ _ _ => Alu.lcvt s c p }
  | .llevel d a m l => some { d := d, srcs := [.of a m], la := l.toNat, fn := fun p _ _ _ => Alu.llevel p }
  | _ => none

end Sys2Proof.Machine
end

