-- ==== Sys2Proof/Machine/State.lean ====
section
/-! DEFINITION. The state of the module as plain data, the reasons a step can stop, and the state after reset. Each
field names the rule that gives it; INVENTORY.md lists them with their reset values. -/

namespace Sys2Proof.Machine

/-- Why the machine stops. -/
inductive Fault where
  /-- Raised by `step` alone, where the agenda names as an event an instruction that only a hart or a sequencer can
  execute. Safe: no behaviour of the hardware is described, so none is claimed. -/
  | agendaNotAnEvent
  deriving DecidableEq, Repr

/-- Why an instruction has no meaning. -/
inductive Refusal where
  /-- Raised by an arm of `exec` for an instruction that has no meaning yet. Safe: nothing is claimed of it. -/
  | notModelled (mnemonic : String)
  deriving DecidableEq, Repr

/-- Sparse data by key, keys strictly rising; what an unlisted key holds is said where the map is read. -/
abbrev SMap (α : Type) := List (Nat × α)

/-- The two modes of a hart (01 R22). -/
inductive Mode where
  | program | supervisor
  deriving DecidableEq, Repr

/-- A slot of the binding table (01 R24): word k is bits [32k+31:32k] of `words`. -/
structure Slot where
  valid : Bool := false
  dest : BitVec 5 := 0
  dirty : Bool := false
  nm1 : BitVec 2 := 0
  level : BitVec 4 := 0
  status : BitVec 8 := 0
  words : BitVec 128 := 0
  deriving DecidableEq, Repr

/-- A valid entry of the rejected-store log (13 R319). -/
structure RejEntry where
  cause : BitVec 8
  mask : BitVec 16
  addr : Word
  data : BitVec 128
  deriving DecidableEq, Repr

/-- An element of a vector load on its way (09 R223, R224): its position and address, the request whose answer it waits for,
what it has received, and the cause with which its access was refused. -/
structure VElem where
  pos : Nat
  ea : Word
  wait : Option Nat := none
  val : Nat := 0
  poison : Bool := false
  fault : Option (BitVec 8) := none
  deriving DecidableEq, Repr

/-- A vector store on its way (09 R224, R225): its element width, whether it is a VSTX, the elements that are not written yet
with position, address and value; the sector fill it waits for, the sectors obtained, those of pages that are not
cacheable-in-core; the first fault; and whether its checks are not yet over. -/
structure VStore where
  eb : Nat
  index : Bool
  xs : List (Nat × Word × Nat)
  wait : List (Nat × Word) := []
  got : List Nat := []
  home : List Nat := []
  fault : Option (Nat × BitVec 8 × Word) := none
  checking : Bool := true
  deriving DecidableEq, Repr

/-- Where a hart is blocked, with the operands that its wake condition needs (18 R378). `woken` of `bwait` is set when the
phase changes, so that a later change does not undo it (18 R379). -/
inductive Block where
  | wait (d : BitVec 5) (mask : BitVec 16)
  | bwait (obj : Nat) (phase : Bool) (woken : Bool)
  | rpop (d : BitVec 5) (obj : Nat) (dst : Nat)
  | engine (e : Engine) (d : BitVec 5)
  | caswait (d : BitVec 5)
  | acq (id : Nat)
  | rel (id : Nat)
  | writeBack (then_ : Option Nat)
  | vload (eb : Nat) (d : BitVec 5) (base : Tile) (xs : List VElem)
  | vstore (v : VStore)
  | enext
  | dsync
  | yield
  deriving DecidableEq, Repr

/-- A fault found after issue: cause, XADDR, XINFO (02 R50). -/
structure LateFault where
  cause : BitVec 8
  addr : Word
  info : Word
  deriving DecidableEq, Repr

/-- An outstanding long-latency instruction (02 R45-R48): its request, code offset, destinations and credit, whether it
has passed its fault point, and whether later memory accesses wait for it (04 R127). -/
structure Outst where
  id : Nat
  pc : Word
  dests : List (BitVec 5)
  credit : Nat
  passed : Bool
  acq : Bool := false
  fault : Option LateFault := none
  deriving DecidableEq, Repr

/-- The group a hart works for: launch ID, group number, index in the group (18 R369). -/
structure GroupRef where
  launch : Nat
  group : Nat
  index : Nat
  deriving DecidableEq, Repr

/-- The six traffic classes (13 R307). -/
inductive Class where
  | request | response | acknowledgement | posted | message | control
  deriving DecidableEq, Repr

/-- Who sent a request: a hart, the cache ways of a core, the copy engine of a core, Beline's dispatcher, another module, a host. -/
inductive Src where
  | hart (c : Nat) (h : BitVec 2)
  | core (c : Nat)
  | engine (c : Nat)
  | dispatcher
  | fabric (module : BitVec 11)
  | host (endpoint : Nat)
  deriving DecidableEq, Repr

/-- Where the answer of a load or atomic goes: LD and its kin, a pair, an atomic (04 R122, R127, R129; 13 R315). -/
inductive LoadDst where
  | one (d : BitVec 5) (size : Nat) (signed : Bool)
  | pair (d : BitVec 5) (size : Nat)
  deriving DecidableEq, Repr

/-- A Sash operation as the unit receives it (19 R387): scratch operands are own-scratch offsets. -/
inductive SashOp where
  | open (storage : Nat) (config : Word) (unit : Nat)
  | load (layer : Word) (dst : Nat)
  | commit (layer p : Word) (src : Nat)
  | snap
  | find (p : Word)
  | roll (p : Word)
  | pin (p : Word)
  | unpin (p : Word)
  | fork (p : Word) (storage : Nat) (unit : Nat)
  | close
  deriving DecidableEq, Repr

/-- What a request asks for. -/
inductive ReqKind where
  | load (size : Nat) (dst : LoadDst)
  | store (size : Nat) (data : BitVec 128) (release : Bool)
  | granule (data : BitVec 128) (mask : BitVec 16) (eb : Nat)
  | amo (op : BitVec 4) (size : Nat) (b : Word) (d : BitVec 5)
  | cas (size : Nat) (expect new : Word) (d : BitVec 5)
  | barr (d : BitVec 5)
  | message (value : Word)
  | fillLoad (size : Nat) (dst : LoadDst)
  | fillStore (size : Nat) (data : BitVec 128)
  | prefetch (core : Bool) (h : BitVec 2)
  | writeBack (data : BitVec 1024) (dirty : BitVec 128) (poison : Bool)
  | acq (exclusive : Bool)
  | rel (exclusive : Bool)
  | velem (size : Nat)
  | vfill (store : Bool) (size : Nat)
  | eread (size : Nat)
  | ewrite (size : Nat) (data : BitVec 1024) (poison : Bool)
  | push (src : Nat)
  | sash (op : SashOp) (handle : Word) (d : BitVec 5)
  deriving DecidableEq, Repr

/-- The context of one hart (01 R13) with the model's record of what it waits for. `pastEnd` says that the hart has run past
the last word, which `pc` names (log 24); `arecOver` names the outstanding instructions that are older than the setter in AREC
(02 R49); `ran` the modes, bit 0 program, bit 1 supervisor, since its cycle counters were last brought up to date, `stalled` those in which
it has been at a blocking point since (21 R419); `ids` the values that the debug path has given HARTID, CORXY and VFID, by number (06 R179);
`arrPend` and `arrVal` hold the arrivals that wait to be applied (05 R146). -/
structure Hart where
  pc : Word := 0
  pastEnd : Bool := false
  mode : Mode := .program
  g : Vector Word 32 := Vector.replicate 32 0
  m : Vector Word 16 := Vector.replicate 16 0
  full : BitVec 16 := 0
  v : Vector Tile 32 := Vector.replicate 32 0
  dmemb : Word := 0
  aflags : Word := 0
  trapen : Word := 0
  arec : Word := 0
  arecOver : List Nat := []
  shape : Word := 0x00080010
  orsLocal : BitVec 16 := 0
  orsFab : BitVec 16 := 0
  xpc : Word := 0
  xcause : Word := 0
  xaddr : Word := 0
  xinfo : Word := 0
  xvec : Word := 0
  sleepd : Word := 0
  rotpart : Word := 0
  cnt : Vector Word 4 := Vector.replicate 4 0
  cntsel : Vector Word 4 := Vector.replicate 4 0
  ran : BitVec 2 := 1
  stalled : BitVec 2 := 0
  ids : SMap Word := []
  ibk : Vector Word 4 := Vector.replicate 4 0
  binds : Vector Slot 16 := Vector.replicate 16 {}
  rejLog : List RejEntry := []
  ibkSuppress : Bool := false
  stepArm : Bool := false
  stepPend : Bool := false
  poisonPend : List (Word × Word) := []
  watchPend : List (Word × Word) := []
  ovf : BitVec 4 := 0
  ovfHeld : Bool := false
  haltPend : Bool := false
  halted : Bool := false
  stepOnce : Bool := false
  held : Bool := false
  arrPend : BitVec 16 := 0
  arrVal : Vector Word 16 := Vector.replicate 16 0
  block : Option Block := none
  outst : List Outst := []
  stale : SMap (BitVec 32) := []
  vposts : List (ReqKind × Word × Bool) := []
  wantsQ : Option Engine := none
  group : Option GroupRef := none
  exited : Bool := false
  triggered : Bool := false
  stopping : Bool := false
  openPos : Option Nat := none
  deriving DecidableEq, Repr

/-- A region-table entry (08 R192): addresses in bytes, `size` in 512-byte lines. -/
structure Region where
  valid : Bool := false
  base : Nat := 0
  size : Nat := 0
  obj : Nat := 0
  deriving DecidableEq, Repr

/-- A sector present in a cache way (08 R191): its global address, bytes, byte-dirty mask and poison. -/
structure Sector where
  way : Nat
  addr : Nat
  data : BitVec 1024
  dirty : BitVec 128
  poison : Bool
  deriving DecidableEq, Repr

/-- What an engine command does, with the operands it read at issue (10 R244). -/
inductive CmdOp where
  | mrel (base count : Nat)
  | mput (slot line n : Nat) (va : BitVec 5) (held : Option (List Tile))
  | mload (slot line count stride src : Nat)
  | mma (tile slotA slotB : Nat) (cb4 ovw : Bool) (kstart k n m : Nat)
  | mcbk (a b : Nat)
  | cpy (dst src : Word) (len : Nat)
  | cpy2 (dst src : Word) (shape strides : Word) (tmap : Option (BitVec 128 × BitVec 128))
  | cxp (dst : Nat) (src : Word) (params : Word) (table : Nat)
  | cpk (dst : Word) (src : Nat) (params : Word)
  | cgthb (dst : Nat) (base : Word) (idx : List Nat) (bsize : Nat)
  | cpyr (ring : Word) (src : Nat)
  | xexp (dst src : Nat) (params : Word)
  | xrot (dst src : Nat) (params tables : Word) (rotpart : Word) (freqs : Nat)
  | xp (slot tile stats : Nat) (scale : BitVec 32)
  deriving DecidableEq, Repr

/-- A command in a queue or in performance: issuer 0-3 a hart, 4 the sequencer; its number, code offset, operands and
completion specification; requests of its issuer numbered below `mark` were made before it (10 R243 to R248). -/
structure Cmd where
  issuer : BitVec 3
  seq : BitVec 32
  off : Word
  op : CmdOp
  cs : Word
  mark : Nat := 0
  deriving DecidableEq, Repr

/-- A fault that a command meets after acceptance (10 R250): its cause, operand, KNEXT and address. -/
structure EngFault where
  cause : BitVec 8
  opnd : Nat
  knext : Nat := 0
  addr : Word := 0
  deriving DecidableEq, Repr

/-- How far a command of the copy engine has come (10 R269, R270): the units done, the bytes written, what the unit under way
has read, the request that it waits for, the flags, the poison read, the fault that ends it, and whether it is over. -/
structure CopyWork where
  unit : Nat := 0
  done : Nat := 0
  got : Option (Nat × Bool) := none
  wait : Option Nat := none
  fl : BitVec 8 := 0
  poison : Option EngFault := none
  stop : Option EngFault := none
  ended : Bool := false
  deriving DecidableEq, Repr

/-- An engine of a core (10 R243): its queue, the command in performance with what it has done, and whether the last contended
entry of the queue went to a hart (11 R289). -/
structure EngineSt where
  queue : List Cmd := []
  run : Option Cmd := none
  work : CopyWork := {}
  lastHart : Bool := false
  deriving DecidableEq, Repr

/-- What an engine keeps for one issuer (10 R247, R250-R254): the number of its last command, the record and address
of its fault with the code offset of the faulting command, and the flags that no wait has covered, oldest first. -/
structure Issuer where
  seq : BitVec 32 := 0
  faulted : Bool := false
  record : Word := 0
  addr : Word := 0
  off : Word := 0
  flags : List (BitVec 8 × Word) := []
  deriving DecidableEq, Repr

/-- STATE of CASST (11 R283). -/
inductive RunState where
  | idle | running | stopped | faulted
  deriving DecidableEq, Repr

/-- The Casement sequencer (11 R281-R283). `waiting` holds the engines a WAITE or STOP waits for (bit 0 matrix, 1 copy,
2 exponent) and whether it is a STOP; `fault` the CAUSE, UPC and FOFF of a fault that waits for its commands (R453). -/
structure Casement where
  store : SMap Word := []
  a : Vector (BitVec 32) 16 := Vector.replicate 16 0
  upc : BitVec 8 := 0
  starter : BitVec 2 := 0
  state : RunState := .idle
  flags : BitVec 6 := 0
  foff : BitVec 24 := 0
  casUpc : BitVec 8 := 0
  cause : BitVec 8 := 0
  mrows : BitVec 16 := 0
  waiting : Option (BitVec 3 × Bool) := none
  fault : Option (BitVec 8 × BitVec 8 × BitVec 24) := none
  wantsQ : Option Engine := none
  deriving DecidableEq, Repr

/-- Register-file sleep of a core (01 R30, R31). -/
inductive Sleep where
  | awake
  | asleep (depth : BitVec 2)
  | waking (depth : BitVec 2)
  deriving DecidableEq, Repr

/-- A message that waits for its register: hart, register, payload, and the launch that counts it. -/
structure Msg where
  hart : BitVec 2
  reg : BitVec 4
  value : Word
  deriving DecidableEq, Repr

/-- A core: four harts, local memory, engines, sequencer (01, 06, 08, 10, 11). `tokens` holds what the core's own engines and
sequencer have sent to its registers while it sleeps (01 R32, R33); `wayWait` the hart whose WAYSET waits, and its mask (08 R187). -/
structure Core where
  harts : Vector Hart 4 := Vector.replicate 4 {}
  last : BitVec 2 := 3
  lmem : List Host.Cell := []
  lpoison : List Nat := []
  waymask : BitVec 12 := 0xFFF
  codesz : BitVec 18 := 0
  regions : Vector Region 8 := Vector.replicate 8 {}
  watchers : Vector (Option Nat) 4 := Vector.replicate 4 none
  cache : List Sector := []
  codeWritten : List Nat := []
  codePoison : List Nat := []
  codeStall : List Nat := []
  opmem : List Host.Cell := []
  opPoison : List Nat := []
  slotOwner : Vector (Option (BitVec 2)) 32 := Vector.replicate 32 none
  matrix : EngineSt := {}
  copy : EngineSt := {}
  exponent : EngineSt := {}
  issuers : Vector (Vector Issuer 3) 5 := Vector.replicate 5 (Vector.replicate 3 {})
  products : Vector (SMap (BitVec 32)) 5 := Vector.replicate 5 []
  cas : Casement := {}
  overflow : List Msg := []
  hold : List Msg := []
  tokens : List Msg := []
  wayWait : Option (BitVec 2 × BitVec 12) := none
  sleep : Sleep := .awake
  vf : Option (BitVec 4) := none
  vx : BitVec 8 := 0
  vy : BitVec 7 := 0
  vc : BitVec 4 := 0
  launch : Nat := 0
  image : Word := 0
  marked : Bool := false
  draining : Bool := false
  deriving DecidableEq, Repr

/-- A leaf of the page table as a translation gives it (15 R334): home mode, home cluster or group mask, owner, rights,
physical base and size of the page. -/
structure Leaf where
  hashed : Bool
  hx : Nat
  hy : Nat
  mask : BitVec 3
  owner : BitVec 4
  code : Bool
  cacheable : Bool
  w : Bool
  r : Bool
  pa : Nat
  size : Nat
  deriving DecidableEq, Repr

/-- Where a request is on its way. Slices are named by exposed cluster coordinates. -/
inductive Stage where
  | sent
  | toCore (c : Nat)
  | toEvicted (vf : BitVec 4) (vcore : Nat)
  | refusedFull (c : Nat)
  | walking (x y : Nat)
  | toHome (x y pa : Nat)
  | atFill (x y pa : Nat)
  | syncQueue (x y pa : Nat)
  | onFabric
  | reply (data : BitVec 1024) (poison : Bool) (flags : BitVec 8) (watch : Option (BitVec 2 × Word))
  | acknowledged (watch : Option (BitVec 2 × Word))
  | rejected (cause : BitVec 8)
  deriving DecidableEq, Repr

/-- A request on its way (13 R307, R308; 17 R361): `ea` is the address after the rewritings of 04 R120, `site` who answers it, `info` the
XINFO of its refusal, `leaf` what its translation gave while it must wait (15 R337), `home` where a fill has been accepted. -/
structure Req where
  id : Nat
  src : Src
  cls : Class
  kind : ReqKind
  ea : Word
  vf : BitVec 4
  launch : Nat
  off : Word
  prog : Bool
  stage : Stage
  notice : Bool := false
  hit : Option Bool := none
  ownVictim : Bool := false
  site : Nat := 0
  info : Word := 0
  leaf : Option Leaf := none
  home : Option (Nat × Nat × Nat) := none
  deriving DecidableEq, Repr

/-- A line of a cache slice (13 R309): physical line number, owner tag, way; which sectors are present, dirty and poisoned; their
bytes. `checks` lists by sector a check value that is not the CRC-32C of the sector's bytes (21 R424). -/
structure SliceLine where
  x : Nat
  y : Nat
  line : Nat
  owner : BitVec 4
  way : Nat := 0
  valid : BitVec 4 := 0
  dirty : BitVec 4 := 0
  poison : BitVec 4 := 0
  data : BitVec 4096 := 0
  checks : SMap (BitVec 32) := []
  deriving DecidableEq, Repr

/-- An entry of a slice translation cache (15 R331, R336), by slice, partition and 64 KiB page. -/
structure TransEntry where
  x : Nat
  y : Nat
  vf : BitVec 4
  page : Nat
  leaf : Leaf
  deriving DecidableEq, Repr

/-- Who submitted a launch, for its answer (18 R373, 23 R443): a hart by virtual core and number, or a host. -/
inductive Submitter where
  | hart (vf : BitVec 4) (vcore : Nat) (h : BitVec 2) (group : GroupRef)
  | host (endpoint : Nat) (key offset : Word)
  deriving DecidableEq, Repr

/-- A placed group (18 R368, R374): its number, virtual core, first hart and hart count, which of its harts have exited and
triggered, and the posted requests that were on their way when one exited. -/
structure GroupSt where
  num : Nat
  vcore : Nat
  base : Nat
  harts : Nat
  exited : BitVec 4 := 0
  triggered : BitVec 4 := 0
  after : List Nat := []
  ended : Bool := false
  deriving DecidableEq, Repr

/-- Status of an estimate (20 R402). -/
inductive EstStatus where
  | running | converged | exhausted
  deriving DecidableEq, Repr

/-- The Louvre and estimator of a launch (20 R397-R404). -/
structure Estimate where
  n : Nat
  seed : Word
  tau : Word
  z : Word
  lw : Nat
  minr : Nat
  next : Nat := 0
  opened : List Nat := []
  values : List (Nat × Word) := []
  count : Nat := 0
  mean : Word := 0
  m2 : Word := 0
  hw : Word := 0
  rounds : Nat := 0
  status : EstStatus := .running
  deriving DecidableEq, Repr

/-- Where a launch is in its life. -/
inductive LaunchState where
  | queued | running | ended
  deriving DecidableEq, Repr

/-- STATUS of a completion record (18 R373). -/
inductive Status where
  | completed | failed | cancelled | refused
  deriving DecidableEq, Repr

/-- A launch (18 R363-R377). `after` names the submitter's requests that the submission releases (R372), `agreed` the sweeps
that have agreed (R377), `phases` the domain phases by level + 8 × domain (R370), `stood` the arrivals recorded by harts that are gone,
with domain and phase (R375). -/
structure Launch where
  id : Nat
  vf : BitVec 4
  record : BitVec 512
  spec : Word
  submitter : Submitter
  image : Word
  order : Nat
  placedAt : Nat := 0
  state : LaunchState := .queued
  status : Status := .completed
  placed : Nat := 0
  groups : List GroupSt := []
  stood : List (Nat × Bool) := []
  failure : Option (BitVec 8 × BitVec 32 × BitVec 32) := none
  after : List Nat := []
  predf : Bool := false
  lost : Nat := 0
  sentCount : Nat := 0
  recvCount : Nat := 0
  agreed : Nat := 0
  phases : List (Nat × Nat) := []
  est : Option Estimate := none
  deriving DecidableEq, Repr

/-- A context in the save area with the messages held for it (06 R162, 08 R212). -/
structure Saved where
  core : Core
  hold : List Msg := []
  deriving DecidableEq, Repr

/-- A completed checkpoint (21 R415, R417). -/
structure Checkpoint where
  seq : BitVec 32
  contexts : List Saved
  launches : List Launch
  queues : Vector (List Nat) 8
  serial : Nat
  regions : List (Nat × List Byte × List Nat)
  areas : SMap Nat := []
  deriving DecidableEq, Repr

/-- A partition (21 R411 to R417): `requested` is a checkpoint under way, `switchTo` a world switch, `rolledBack` a missed
deadline whose harts are being stopped, `restore` a rollback whose contexts come from the checkpoint, `counters` what R423 keeps. -/
structure Partition where
  valid : Bool := false
  resident : Bool := false
  px0 : BitVec 8 := 0
  py0 : BitVec 7 := 0
  wm1 : BitVec 8 := 0
  hm1 : BitVec 7 := 0
  deadline : BitVec 24 := 2000
  ckseq : BitVec 32 := 0
  ptroot : Word := 0
  masks : Vector Word 8 := Vector.replicate 8 0
  remap : Word := 0
  trapVector : Word := 0
  dwt : Vector Word 4 := Vector.replicate 4 0
  queues : Vector (List Nat) 8 := Vector.replicate 8 []
  serial : Nat := 0
  rotDie : Nat := 0
  peers : SMap Word := []
  saved : List Saved := []
  checkpoint : Option Checkpoint := none
  checkpointList : List (Nat × Nat) := []
  doorbell : Option Nat := none
  requested : Option (BitVec 32) := none
  switchTo : Option (BitVec 4) := none
  rolledBack : Bool := false
  restore : Bool := false
  counters : List (Nat × Vector (Vector Word 4 × BitVec 4) 4) := []
  sinceCheckpoint : List Launch := []
  endpoints : List Nat := []
  budget : Nat := 0
  deriving DecidableEq, Repr

/-- A cluster (13 R304 to R306, R323): SPSLOT, HEALTH by physical core, the core map of its router, the slice ways out of use,
and the physical cores that the spare is to replace. -/
structure ClusterSt where
  spslot : BitVec 5 := 16
  health : BitVec 17 := 0x1FFFF
  coreMap : Vector (BitVec 5) 16 := #v[0, 1, 2, 3, 4, 5, 6, 7, 8, 9, 10, 11, 12, 13, 14, 15]
  withdrawn : List Nat := []
  retiring : List Nat := []
  deriving DecidableEq, Repr

/-- A die (15 R325, R326; 21 R430): `colNext` is a column map that Beline has written and that takes effect at the next eviction of
the contexts on the columns that it moves (15 R326; 21 R427). -/
structure DieSt where
  colMap : Option (BitVec 192) := none
  colNext : Option (BitVec 192) := none
  retired : List Nat := []
  stopped : Bool := false
  outOfService : Bool := false
  clockSteps : Nat := 0
  deriving DecidableEq, Repr

/-- What Beline logs or counts (13 R323; 21 R417, R425, R426). -/
inductive BelineEvent where
  | codeError (c line : Nat)
  | poisoned (where_ : Nat)
  | corrected (where_ : Nat)
  | contextError (c : Nat)
  | recordFailed (launch : Nat)
  | messageDiscarded (launch : Nat)
  | doorbellIgnored (vf : BitVec 4)
  | tableError (pa : Nat)
  | laneReplaced (k : SpareKind)
  | channelCopied (channel : Nat)
  | rejectedBoot
  | rejectedUpdate
  | debugRead (c : Nat) (h : BitVec 2) (core : Core) (dwt : Vector Word 4)
  | debugObject (c : Nat) (offset : Nat) (bytes : List Byte)
  | clusterRead (x y : Nat) (word : Word)
  deriving DecidableEq, Repr

/-- What leaves the module to a host (23 R442, R443; 21 R429). -/
inductive HostMsg where
  | answer (endpoint : Nat) (bytes : List Byte)
  | completion (endpoint : Nat) (key offset : Word) (record : BitVec 512)
  | rollback (vf : BitVec 4) (bytes : List Byte)
  | readData (endpoint : Nat) (data : List Byte)
  | done (endpoint : Nat)
  | transportError (endpoint : Nat) (cause : BitVec 8)
  | doorbellAt (vf : BitVec 4) (addr : Word)
  | quote (endpoint : Nat) (signature : BitVec 512) (log : List (BitVec 512))
  deriving DecidableEq, Repr

/-- What leaves the module to another module: answers to its requests (23 R438, R440). -/
inductive FabricMsg where
  | data (module : BitVec 11) (bytes : List Byte)
  | acknowledged (module : BitVec 11)
  | error (module : BitVec 11) (cause : BitVec 8)
  deriving DecidableEq, Repr

/-- Which agent moves next: an event, the issue of a hart, or a microword of a core's sequencer; `cycle n` says that the n moves behind it
fall into one cycle (12 R303). -/
inductive Move where
  | event (i : Instr)
  | hart (c : Nat) (h : BitVec 2)
  | sequencer (c : Nat)
  | cycle (n : Nat)
  deriving DecidableEq, Repr

/-- The hart that executes: core key and hart number. -/
structure Cur where
  core : Nat := 0
  hart : BitVec 2 := 0
  deriving DecidableEq, Repr

/-- The module. `mem` is the HBM, `hbmPoison` its poisoned sectors, `checks` the check values of sectors that are not the CRC-32C
of their bytes (21 R424), `areas` what Sash records have been laid out, by partition and address (log 65). Cores are keyed by 17 × (256 × y + x) + physical core, with (x, y) the exposed cluster; a core that is
not listed is as `Core` gives it, and so for clusters and dies. -/
structure State where
  cores : SMap Core := []
  cur : Cur := {}
  mem : List Host.Cell := []
  hbmPoison : List Nat := []
  checks : SMap (BitVec 32) := []
  slices : List SliceLine := []
  trans : List TransEntry := []
  net : List Req := []
  clusters : SMap ClusterSt := []
  dies : SMap DieSt := []
  partitions : Vector Partition 16 := Vector.replicate 16 {}
  launches : List Launch := []
  fabricNo : BitVec 11 := 0
  booted : Bool := false
  firmware : Nat := 0
  measured : List (BitVec 512) := []
  areas : SMap Nat := []
  sleepCeiling : BitVec 2 := 2
  belineLog : List BelineEvent := []
  hostOut : List HostMsg := []
  fabricOut : List FabricMsg := []
  order : Nat := 0
  nextId : Nat := 0
  freeCtr : Nat := 0
  agenda : List Move := []
  hartTurn : Bool := true
  focus : Nat := 0
  deriving DecidableEq, Repr

/-- The module right after reset: no partition, no launch, every register at its reset value (01 R14, R18; log 1, 2). -/
def State.reset : State := {}

end Sys2Proof.Machine
end

