-- ==== Sys2Proof/Machine/Memory.lean ====
section
/-! DEFINITION. Sparse maps with strictly rising keys, and byte memory in canonical form: a byte that is not listed
reads as 0 (log 3), and no entry holds 0. Multi-byte values are little-endian (00 R8). -/

namespace Sys2Proof.Machine

/-- The value at key k. -/
def mapFind {α : Type} : List (Nat × α) → Nat → Option α
  | [], _ => none
  | (j, v) :: t, k => if j = k then some v else if k < j then none else mapFind t k

def mapGet {α : Type} (m : List (Nat × α)) (k : Nat) (d : α) : α := (mapFind m k).getD d

/-- Write the value at key k, keeping keys strictly rising. -/
def mapSet {α : Type} : List (Nat × α) → Nat → α → List (Nat × α)
  | [], k, v => [(k, v)]
  | (j, w) :: t, k, v =>
    if k < j then (k, v) :: (j, w) :: t else if j = k then (k, v) :: t else (j, w) :: mapSet t k v

/-- Remove key k. -/
def mapErase {α : Type} : List (Nat × α) → Nat → List (Nat × α)
  | [], _ => []
  | (j, w) :: t, k => if k < j then (j, w) :: t else if j = k then t else (j, w) :: mapErase t k

/-- Every element of a vector, changed: `Vector.map` (`vmap_eq`), on lists. -/
def vmap {α β : Type} {n : Nat} (f : α → β) (v : Vector α n) : Vector β n := ⟨⟨v.toList.map f⟩, by simp⟩

/-- The same with the index of the element. -/
def vmapIdx {α β : Type} {n : Nat} (f : Nat → α → β) (v : Vector α n) : Vector β n := ⟨⟨v.toList.mapIdx f⟩, by simp⟩

/-- Keys strictly rising from a lower bound. -/
def risingFrom {α : Type} : Nat → List (Nat × α) → Bool
  | _, [] => true
  | n, (k, _) :: t => decide (n ≤ k) && risingFrom (k + 1) t

/-- The canonical form of a memory: addresses strictly rising, no entry equal to what an unlisted address reads as. -/
def Memory.wf (m : List Host.Cell) : Bool := risingFrom 0 m && m.all (fun c => c.2 != 0)

/-- The byte at an address; 0 where nothing is listed (log 3). -/
def memByte (m : List Host.Cell) (a : Nat) : Byte := mapGet m a 0

/-- Write one byte. -/
def memPut (m : List Host.Cell) (a : Nat) (b : Byte) : List Host.Cell := if b = 0 then mapErase m a else mapSet m a b

/-- n bytes at a as a little-endian number. -/
def memLE (m : List Host.Cell) (a : Nat) : Nat → Nat
  | 0 => 0
  | n + 1 => (memByte m a).toNat + 2 ^ 8 * memLE m (a + 1) n

/-- Write the low n bytes of v at a, little-endian. -/
def memPutLE (m : List Host.Cell) (a : Nat) : Nat → Nat → List Host.Cell
  | 0, _ => m
  | n + 1, v => memPutLE (memPut m a (BitVec.ofNat 8 v)) (a + 1) n (v / 2 ^ 8)

/-- Write byte k of v at a + k for every bit k of the mask below n. -/
def memPutMask (m : List Host.Cell) (a : Nat) : Nat → Nat → Nat → List Host.Cell
  | 0, _, _ => m
  | n + 1, mask, v =>
    memPutMask (if mask % 2 = 1 then memPut m a (BitVec.ofNat 8 v) else m) (a + 1) n (mask / 2) (v / 2 ^ 8)

/-- n bytes at a, the lowest address first. -/
def memBytes (m : List Host.Cell) (a : Nat) : Nat → List Byte
  | 0 => []
  | n + 1 => memByte m a :: memBytes m (a + 1) n

/-- Write a list of bytes. -/
def memPutBytes (m : List Host.Cell) (a : Nat) : List Byte → List Host.Cell
  | [] => m
  | b :: bs => memPutBytes (memPut m a b) (a + 1) bs

/-- Bytes as a little-endian number. -/
def leOfBytes : List Byte → Nat
  | [] => 0
  | b :: bs => b.toNat + 2 ^ 8 * leOfBytes bs

/-- The low n bytes of a number. -/
def bytesOfLE : Nat → Nat → List Byte
  | 0, _ => []
  | n + 1, v => BitVec.ofNat 8 v :: bytesOfLE n (v / 2 ^ 8)

/-- Forget every cell in [a, a + n): those bytes read as 0. -/
def memClear (m : List Host.Cell) (a n : Nat) : List Host.Cell := m.filter (fun c => !(decide (a ≤ c.1) && decide (c.1 < a + n)))

/-- One step of CRC-32C for n bits. -/
def crcBits : Nat → Nat → Nat
  | 0, c => c
  | n + 1, c => crcBits n (if c % 2 = 1 then (c / 2) ^^^ 0x82F63B78 else c / 2)

/-- CRC-32C of a byte sequence (21 R424; 02 R67). -/
def crc32c (bs : List Byte) : Nat := (bs.foldl (fun c b => crcBits 8 (c ^^^ b.toNat)) 0xFFFFFFFF) ^^^ 0xFFFFFFFF

/-- Add a number to a list kept as a set. -/
def setAdd (l : List Nat) (x : Nat) : List Nat := if l.contains x then l else l ++ [x]

def setDel (l : List Nat) (x : Nat) : List Nat := l.filter (· != x)

/-- The numbers from a, n of them. -/
def upFrom (a : Nat) : Nat → List Nat
  | 0 => []
  | n + 1 => a :: upFrom (a + 1) n

/-- Ranges [a, a + n) and [b, b + m) share a byte. -/
def overlaps (a n b m : Nat) : Bool := decide (a < b + m) && decide (b < a + n) && decide (0 < n) && decide (0 < m)

/-- Replace the elements of a list that a test picks. -/
def updWhere {α : Type} (p : α → Bool) (f : α → α) (l : List α) : List α := l.map (fun x => if p x then f x else x)

end Sys2Proof.Machine
end

