-- ==== Sys2Proof/Machine/Operands.lean ====
section
/-! DEFINITION. Access to the registers of a hart, to the harts and cores of the module, and the operand forms of the
scalar instructions. Register g0 reads as 0 and discards writes (01 R16). -/

namespace Sys2Proof.Machine

def Hart.rg (h : Hart) (r : BitVec 5) : Word := if r = 0 then 0 else h.g.get ⟨r.toNat, r.isLt⟩

/-- Write g[r]; a write of g0 is ignored (R16). -/
def Hart.wg (h : Hart) (r : BitVec 5) (v : Word) : Hart :=
  if r = 0 then h else { h with g := h.g.set r.toNat v r.isLt }

def Hart.rm (h : Hart) (r : BitVec 4) : Word := h.m.get ⟨r.toNat, r.isLt⟩
def Hart.wm (h : Hart) (r : BitVec 4) (v : Word) : Hart := { h with m := h.m.set r.toNat v r.isLt }
def Hart.isFull (h : Hart) (r : BitVec 4) : Bool := bit h.full.toNat r.toNat
def Hart.setFull (h : Hart) (r : BitVec 4) (b : Bool) : Hart :=
  { h with full := if b then h.full ||| (1#16 <<< r.toNat) else h.full &&& ~~~(1#16 <<< r.toNat) }

def Hart.rv (h : Hart) (r : BitVec 5) : Tile := h.v.get ⟨r.toNat, r.isLt⟩
def Hart.wv (h : Hart) (r : BitVec 5) (x : Tile) : Hart := { h with v := h.v.set r.toNat x r.isLt }

/-- The value of a source (04 R96): a message register is read without taking it. -/
def Hart.operand (h : Hart) : Operand → Word
  | .g r => h.rg r
  | .m r => h.rm r

/-- Register r + k of a run of registers. -/
def plus (r : BitVec 5) (k : Nat) : BitVec 5 := r + BitVec.ofNat 5 k

def Hart.drm (h : Hart) : Nat := bits h.aflags.toNat 9 8

/-- A message register that takes no message now: FULL, or with an arrival that waits to be applied (05 R146). -/
def Hart.taken (h : Hart) (r : BitVec 4) : Bool := h.isFull r || bit h.arrPend.toNat r.toNat

/-- A slot of the binding table by number. -/
def Hart.slot (h : Hart) (k : BitVec 4) : Slot := h.binds.get ⟨k.toNat, k.isLt⟩
def Hart.setSlot (h : Hart) (k : BitVec 4) (sl : Slot) : Hart := { h with binds := h.binds.set k.toNat sl k.isLt }

/-- The slots 0 to 15. -/
def slotNos : List (BitVec 4) := [0, 1, 2, 3, 4, 5, 6, 7, 8, 9, 10, 11, 12, 13, 14, 15]

/-- The harts 0 to 3. -/
def hartNos : List (BitVec 2) := [0, 1, 2, 3]

/-- The slot that binds register r (05 R134). -/
def Hart.slotOf (h : Hart) (r : BitVec 5) : Option (BitVec 4) :=
  slotNos.find? (fun k => (h.slot k).valid && (h.slot k).dest == r)

def Core.hart (k : Core) (h : BitVec 2) : Hart := k.harts.get ⟨h.toNat, h.isLt⟩
def Core.setHart (k : Core) (h : BitVec 2) (x : Hart) : Core := { k with harts := k.harts.set h.toNat x h.isLt }
def Core.modHart (k : Core) (h : BitVec 2) (f : Hart → Hart) : Core := k.setHart h (f (k.hart h))

def State.core (s : State) (c : Nat) : Core := mapGet s.cores c {}
def State.setCore (s : State) (c : Nat) (k : Core) : State := { s with cores := mapSet s.cores c k }
def State.modCore (s : State) (c : Nat) (f : Core → Core) : State := s.setCore c (f (s.core c))
def State.hartOf (s : State) (c : Nat) (h : BitVec 2) : Hart := (s.core c).hart h
def State.modHart (s : State) (c : Nat) (h : BitVec 2) (f : Hart → Hart) : State := s.modCore c (fun k => k.modHart h f)

/-- The core and the hart that execute. -/
def State.cc (s : State) : Core := s.core s.cur.core
def State.hart (s : State) : Hart := s.cc.hart s.cur.hart
def State.mapCore (s : State) (f : Core → Core) : State := s.modCore s.cur.core f
def State.mapHart (s : State) (f : Hart → Hart) : State := s.modHart s.cur.core s.cur.hart f

/-- A general register of the executing hart. -/
def State.rg (s : State) (r : BitVec 5) : Word := s.hart.rg r

def State.part (s : State) (vf : BitVec 4) : Partition := s.partitions.get ⟨vf.toNat, vf.isLt⟩
def State.setPart (s : State) (vf : BitVec 4) (p : Partition) : State :=
  { s with partitions := s.partitions.set vf.toNat p vf.isLt }
def State.modPart (s : State) (vf : BitVec 4) (f : Partition → Partition) : State := s.setPart vf (f (s.part vf))

/-- The 16 partition numbers. -/
def vfNos : List (BitVec 4) := slotNos

/-- The key of a physical core of an exposed cluster. -/
def coreKey (x y p : Nat) : Nat := 17 * (256 * y + x) + p
def keyX (c : Nat) : Nat := c / 17 % 256
def keyY (c : Nat) : Nat := c / 17 / 256
def keyP (c : Nat) : Nat := c % 17
/-- The key of a cluster. -/
def clusterKey (x y : Nat) : Nat := 256 * y + x
def State.cluster (s : State) (x y : Nat) : ClusterSt := mapGet s.clusters (clusterKey x y) {}
def State.modCluster (s : State) (x y : Nat) (f : ClusterSt → ClusterSt) : State :=
  { s with clusters := mapSet s.clusters (clusterKey x y) (f (s.cluster x y)) }
def State.die (s : State) (d : Nat) : DieSt := mapGet s.dies d {}
def State.modDie (s : State) (d : Nat) (f : DieSt → DieSt) : State := { s with dies := mapSet s.dies d (f (s.die d)) }
/-- The die of an exposed cluster: 8 dies across (15 R325). -/
def dieOf (x y : Nat) : Nat := 8 * (y / 20) + x / 32

/-- CORXY of a core (01 R20). -/
def Core.corxy (k : Core) : Word := BitVec.ofNat 64 (k.vx.toNat * 2 ^ 11 + k.vy.toNat * 2 ^ 4 + k.vc.toNat)

/-- Size of scratch (08 R182). -/
def Core.ways (k : Core) : Nat := Alu.ones k.waymask.toNat 12
def Core.scratchSize (k : Core) : Nat := 32768 * k.ways

/-- The n-th set bit of a way mask, looking at f bits from bit w. -/
def nthWay (mask : Nat) : Nat → Nat → Nat → Nat
  | 0, w, _ => w
  | f + 1, w, n => if mask % 2 = 1 then (if n = 0 then w else nthWay (mask / 2) f (w + 1) (n - 1)) else nthWay (mask / 2) f (w + 1) n

/-- The byte of local memory, way × 32,768 + offset, that a scratch offset names (08 R182). -/
def Core.loc (k : Core) (o : Nat) : Nat := 32768 * nthWay k.waymask.toNat 12 0 (o / 32768) + o % 32768

/-- n bytes of scratch as a number. -/
def Core.sread (k : Core) (o : Nat) : Nat → Nat
  | 0 => 0
  | n + 1 => (memByte k.lmem (k.loc o)).toNat + 2 ^ 8 * k.sread (o + 1) n

/-- Cells of local memory after writing the low n bytes of v at scratch offset o. -/
def swriteCells (k : Core) (m : List Host.Cell) (o : Nat) : Nat → Nat → List Host.Cell
  | 0, _ => m
  | n + 1, v => swriteCells k (memPut m (k.loc o) (BitVec.ofNat 8 v)) (o + 1) n (v / 2 ^ 8)

/-- The sectors, numbers of local memory / 128, that [o, o + n) of scratch touches. -/
def Core.sectors (k : Core) (o n : Nat) : List Nat :=
  if n = 0 then [] else (upFrom (o / 128) ((o + n - 1) / 128 - o / 128 + 1)).map (fun i => k.loc (128 * i) / 128)

/-- A byte of [o, o + n) is poisoned: in a poisoned sector (08 R190) or a poisoned code line (R189). -/
def Core.spoisoned (k : Core) (o n : Nat) : Bool :=
  (k.sectors o n).any (fun x => k.lpoison.contains x) ||
  (n != 0 && (upFrom (o / 512) ((o + n - 1) / 512 - o / 512 + 1)).any (fun l => k.codePoison.contains (512 * l)))

/-- Write scratch. A sector that one write covers whole is no longer poisoned (log 17). -/
def Core.swrite (k : Core) (o n v : Nat) : Core :=
  { k with lmem := swriteCells k k.lmem o n v,
           lpoison := k.lpoison.filter (fun x => !((k.sectors o n).contains x &&
             (upFrom (o / 128) (n / 128 + 1)).any (fun i => k.loc (128 * i) / 128 == x && decide (o ≤ 128 * i) && decide (128 * i + 128 ≤ o + n)))) }

/-- Write the bytes of scratch that the mask names. -/
def Core.swriteMask (k : Core) (o : Nat) : Nat → Nat → Nat → Core
  | 0, _, _ => k
  | n + 1, mask, v =>
    Core.swriteMask (if mask % 2 = 1 then k.swrite o 1 (v % 2 ^ 8) else k) (o + 1) n (mask / 2) (v / 2 ^ 8)

/-- The word at a code offset, as scratch holds it (02 R34). -/
def Core.codeWord (k : Core) (o : Nat) : BitVec 32 := BitVec.ofNat 32 (k.sread o 4)

/-- The word that a hart fetches: its stale copy where it has stored over the word since its last ISYNC (04 R125). -/
def fetchWord (k : Core) (h : Hart) (o : Nat) : BitVec 32 := mapGet h.stale o (k.codeWord o)

end Sys2Proof.Machine
end

