-- ==== Sys2Proof/Machine/Flags.lean ====
section
/-! DEFINITION. How flags reach AFLAGS and AREC (03 R77, 05 R153), and the event counters of a hart (21 R418 to R422). -/

namespace Sys2Proof.Machine

/-- AREC of an instruction at code offset pc (05 R152). -/
def arecInstr (pc : Word) : Word := BitVec.ofNat 64 (pc.toNat % 2 ^ 17)

/-- AREC of an evaluation: slot, and the offset of what triggered the pass; `msg` for an arrival (05 R152). -/
def arecEval (k : BitVec 4) (msg : Bool) (off : Word) : Word :=
  BitVec.ofNat 64 (2 ^ 62 + b2n msg * 2 ^ 61 + k.toNat * 2 ^ 17 + off.toNat % 2 ^ 17)

/-- Set sticky flags; the first setter since the last TFENCE is recorded (05 R153). The instructions that are outstanding
then are older in program order: the flags of one of them take the record (02 R49). -/
def Hart.raiseFlags (h : Hart) (fl : Flags) (record : Word) : Hart :=
  if fl = 0 then h
  else if h.arec.msb then { h with aflags := h.aflags ||| fl.setWidth 64 }
  else { h with aflags := h.aflags ||| fl.setWidth 64,
                arec := (1#64 <<< 63) ||| (fl.setWidth 64 <<< 24) ||| record,
                arecOver := h.outst.map Outst.id }

/-- The bit of a mode, as CNTSEL's MODE has it (21 R418). -/
def modeBit : Mode → BitVec 2
  | .program => 1
  | .supervisor => 2

/-- Whether CNTSELk counts event e in the hart's mode (21 R418). -/
def counts (sel : Word) (mode : Mode) (e : Nat) : Bool :=
  let n := sel.toNat
  bit n 15 && (match mode with
    | .program => bit n 13
    | .supervisor => bit n 14) && n % 2 ^ 8 == e

/-- Add n to one counter; a wrap past 2^48 makes COUNTER_OVF pending (21 R422). -/
def Hart.countIn (h : Hart) (e n : Nat) (k : Nat) (hk : k < 4) : Hart :=
  if counts (h.cntsel.get ⟨k, hk⟩) h.mode e then
    let t := (h.cnt.get ⟨k, hk⟩).toNat + n
    { h with cnt := h.cnt.set k (BitVec.ofNat 64 (t % 2 ^ 48)) hk,
             ovf := if 2 ^ 48 ≤ t then h.ovf ||| (1#4 <<< k) else h.ovf }
  else h

/-- Count n events of code e. -/
def Hart.count (h : Hart) (e n : Nat) : Hart :=
  if n = 0 then h
  else (((h.countIn e n 0 (by decide)).countIn e n 1 (by decide)).countIn e n 2 (by decide)).countIn e n 3 (by decide)

end Sys2Proof.Machine
end

