-- ==== Sys2Proof/Machine/Hinge.lean ====
section
/-! DEFINITION. The Hinge: the steps of a formula, its sources, levels, and the evaluation pass (05 R134 to R149). -/

namespace Sys2Proof.Machine

/-- The steps of a formula: an IMX and the word after it are one step (05 R137). -/
def stepsOf : List (BitVec 32) → List Calc
  | [] => []
  | w :: ws =>
    match decodeWord w with
    | some (.imx x) =>
      match ws with
      | [] => []
      | w2 :: ws2 => ((decodeWord w2).bind (calcOf (some x))).toList ++ stepsOf ws2
    | some i => (calcOf none i).toList ++ stepsOf ws
    | none => stepsOf ws

/-- The captured words of a slot (01 R24). -/
def Slot.formula (sl : Slot) : List (BitVec 32) :=
  ([0, 1, 2, 3].map (fun k => (sl.words >>> (32 * k)).setWidth 32)).take (sl.nm1.toNat + 1)

def Slot.steps (sl : Slot) : List Calc := stepsOf sl.formula

/-- The registers that a formula for d reads, other than d, in step and field order (05 R134). -/
def sourcesOf (d : BitVec 5) (steps : List Calc) : List Operand :=
  (steps.flatMap (fun c => c.srcs)).filter (fun o => o != .g d)

def Slot.sources (sl : Slot) : List Operand := sourcesOf sl.dest sl.steps

/-- Mark every valid slot that reads one of the written registers (05 R142); a write to g0 marks nothing. -/
def Hart.markFor (h : Hart) (ws : List Operand) : Hart :=
  let ws := ws.filter (fun o => o != .g 0)
  if ws.isEmpty then h
  else { h with binds := vmap (fun sl =>
    if sl.valid && sl.sources.any (fun o => ws.contains o) then { sl with dirty := true } else sl) h.binds }

/-- The result of the steps: t is the previous result, which the steps after the first read as gd (05 R143). -/
def evalSteps (h : Hart) (d : BitVec 5) : List Calc → Word → Flags → Fl Word
  | [], t, fl => ⟨t, fl⟩
  | c :: cs, t, fl =>
    let rd := fun (k : Nat) =>
      match c.srcs[k]? with
      | some o => if o = .g d then t else h.operand o
      | none => 0
    let r := c.fn (rd 0) (rd 1) t 0
    evalSteps h d cs r.val (fl ||| r.fl)

/-- Evaluate one slot: write the register, collect the flags, mark its dependants (05 R143). -/
def Hart.evalSlot (h : Hart) (k : BitVec 4) (msg : Bool) (off : Word) : Hart :=
  let sl := h.slot k
  let r := evalSteps h sl.dest sl.steps 0 0
  let h := (h.wg sl.dest r.val).raiseFlags r.fl (arecEval k msg off)
  let h := h.setSlot k { sl with dirty := false, status := sl.status ||| r.fl }
  (h.count 6 sl.steps.length).markFor [.g sl.dest]

/-- The dirty slot of lowest level, among equals of lowest destination (05 R143). -/
def Hart.nextDirty (h : Hart) : Option (BitVec 4) :=
  slotNos.foldl (fun best k =>
    let sl := h.slot k
    if sl.valid && sl.dirty then
      match best with
      | none => some k
      | some b =>
        let t := h.slot b
        if sl.level.toNat * 32 + sl.dest.toNat < t.level.toNat * 32 + t.dest.toNat then some k else best
    else best) none

/-- Evaluate dirty slots, at most n of them. -/
def Hart.drainDirty (msg : Bool) (off : Word) : Nat → Hart → Hart
  | 0, h => h
  | n + 1, h =>
    match h.nextDirty with
    | none => h
    | some k => Hart.drainDirty msg off n (h.evalSlot k msg off)

/-- evaluate_bindings() (00 R10, 05 R143): a pass, if any slot is dirty. Each slot is evaluated at most once, because a
dependant's level exceeds that of its sources (05 R141). -/
def Hart.evaluateBindings (h : Hart) (msg : Bool) (off : Word) : Hart :=
  if h.nextDirty.isNone then h else Hart.drainDirty msg off 16 (h.count 5 1)

/-- The level of a slot from the levels of the slots that bind its sources (05 R141). -/
def levelOf (h : Hart) (lv : BitVec 4 → Nat) (sl : Slot) : Nat :=
  1 + (sl.sources.foldl (fun m o =>
    match o with
    | .g r =>
      match h.slotOf r with
      | some k => max m (lv k)
      | none => m
    | .m _ => m) 0)

/-- The levels of the valid slots as plain data: one table per round, so that a round reads the one before it. -/
def levelTable (h : Hart) : Nat → List Nat
  | 0 => List.replicate 16 0
  | n + 1 =>
    let t := levelTable h n
    slotNos.map (fun k => if (h.slot k).valid then levelOf h (fun j => t.getD j.toNat 0) (h.slot k) else 0)

/-- Recompute every level (05 R141). -/
def Hart.relevel (h : Hart) : Hart :=
  let t := levelTable h 16
  slotNos.foldl (fun h k =>
    let sl := h.slot k
    if sl.valid then h.setSlot k { sl with level := BitVec.ofNat 4 (t.getD k.toNat 0) } else h) h

/-- Registers from which r is computed, through at most n bindings (05 R138, "reaches"). -/
def reaches (h : Hart) (gd : BitVec 5) : Nat → BitVec 5 → Bool
  | 0, r => r == gd
  | n + 1, r => r == gd ||
    (match h.slotOf r with
     | some k => (h.slot k).sources.any (fun o =>
         match o with
         | .g q => reaches h gd n q
         | .m _ => false)
     | none => false)

end Sys2Proof.Machine
end

