-- ==== Sys2Proof/Machine/Phys.lean ====
section
/-! DEFINITION. HBM and the cache slices (13 R309, R312): sectors of 128 bytes with their check values and poison (21 R424,
R425), lines, fills, replacement, and access to physical memory. -/

namespace Sys2Proof.Machine

/-- Take a fresh number for a free value of Config (log 5). -/
def State.fresh (s : State) : State := { s with freeCtr := s.freeCtr + 1 }

def State.logBeline (s : State) (e : BelineEvent) : State := { s with belineLog := s.belineLog ++ [e] }

/-! HBM, by sector number. -/

/-- The 1024 bits of a sector of HBM. -/
def State.hbmSector (s : State) (q : Nat) : Nat := memLE s.mem (128 * q) 128

/-- Write a sector of HBM with its poison and its check value, none where that is the CRC-32C of the bytes. -/
def State.putSector (s : State) (q v : Nat) (poison : Bool) (check : Option (BitVec 32)) : State :=
  { s with
    mem := memPutLE s.mem (128 * q) 128 v,
    hbmPoison := if poison then setAdd s.hbmPoison q else setDel s.hbmPoison q,
    checks := match check with
      | some c => mapSet s.checks q c
      | none => mapErase s.checks q }

/-! Lines of a slice, and their sectors 0 to 3. -/

def SliceLine.isAt (l : SliceLine) (x y line : Nat) : Bool := l.x == x && l.y == y && l.line == line
def SliceLine.has (l : SliceLine) (i : Nat) : Bool := bit l.valid.toNat i
def SliceLine.bad (l : SliceLine) (i : Nat) : Bool := bit l.poison.toNat i
def SliceLine.sector (l : SliceLine) (i : Nat) : Nat := bits l.data.toNat (1024 * i + 1023) (1024 * i)

/-- A bit of the sectors of a line. -/
def sectorBit (i : Nat) : BitVec 4 := 1#4 <<< i

/-- Set or clear a bit of the sectors of a line. -/
def flagSector (m : BitVec 4) (i : Nat) (on : Bool) : BitVec 4 := if on then m ||| sectorBit i else m &&& ~~~(sectorBit i)

/-- Bits [h:l] of x replaced by the low bits of v. -/
def setBits (x h l v : Nat) : Nat :=
  let w := 2 ^ (h + 1 - l)
  x / (2 ^ (h + 1)) * 2 ^ (h + 1) + (v % w) * 2 ^ l + x % 2 ^ l

/-- The line with a sector present. -/
def SliceLine.put (l : SliceLine) (i v : Nat) (poison : Bool) (check : Option (BitVec 32)) : SliceLine :=
  { l with
    valid := flagSector l.valid i true,
    poison := flagSector l.poison i poison,
    data := BitVec.ofNat 4096 (setBits l.data.toNat (1024 * i + 1023) (1024 * i) v),
    checks := match check with
      | some c => mapSet l.checks i c
      | none => mapErase l.checks i }

def State.lineAt (s : State) (x y line : Nat) : Option SliceLine := s.slices.find? (fun l => l.isAt x y line)

def State.modLine (s : State) (x y line : Nat) (f : SliceLine → SliceLine) : State :=
  { s with slices := updWhere (fun l => l.isAt x y line) f s.slices }

/-- The dirty sectors of a line go to HBM (R309). -/
def State.writeOut (s : State) (l : SliceLine) : State :=
  ([0, 1, 2, 3] : List Nat).foldl (fun s i =>
    if l.has i && bit l.dirty.toNat i then s.putSector (4 * l.line + i) (l.sector i) (l.bad i) (mapFind l.checks i) else s) s

/-- Take a line out of its slice. -/
def State.evictLine (s : State) (l : SliceLine) : State :=
  { s.writeOut l with slices := s.slices.filter (fun q => !(q.isAt l.x l.y l.line)) }

/-- Bring sector q from HBM into the line of its slice. -/
def State.fetchSector (s : State) (x y q : Nat) : State :=
  s.modLine x y (q / 4) (fun l => l.put (q % 4) (s.hbmSector q) (s.hbmPoison.contains q) (mapFind s.checks q))

def sliceSet (line : Nat) : Nat := (line % 16) ^^^ (line / 16 % 16)

/-- The sector of pa is present in the slice, in a line that partition vf left there (13 R309; 21 R413). -/
def State.sliceHit (s : State) (x y pa : Nat) (vf : BitVec 4) : Bool :=
  match s.lineAt x y (pa / 512) with
  | some l => l.owner == vf && l.has (pa / 128 % 4)
  | none => false

/-- The lines of a set of a slice. -/
def State.setLines (s : State) (x y set : Nat) : List SliceLine := s.slices.filter (fun l => l.x == x && l.y == y && sliceSet l.line == set)

/-- The lowest way in service that holds no line of a list. -/
def State.freeWay (s : State) (x y : Nat) (ls : List SliceLine) : Option Nat :=
  (List.range 16).find? (fun w => !(s.cluster x y).withdrawn.contains w && !ls.any (fun l => l.way == w))

/-- Bring a sector into a slice: into its line, or into a way of its set that is in service, displacing a line where all are taken; a
line that another partition left is never hit (21 R413). With no way in service no sector is brought: its accesses go to HBM, with the
same results (13 R323). Answers the state and whether the displaced line's owner is vf (21 R421). -/
def State.sliceFill (s : State) (x y pa : Nat) (vf : BitVec 4) : State × Bool :=
  let line := pa / 512
  let q := pa / 128
  let add := fun (s : State) (w : Nat) => ({ s with slices := s.slices ++ [{ x := x, y := y, line := line, owner := vf, way := w }] } : State).fetchSector x y q
  match s.lineAt x y line with
  | some l => if l.owner = vf then (if l.has (q % 4) then s else s.fetchSector x y q, false) else (add (s.evictLine l) l.way, false)
  | none =>
    let inSet := s.setLines x y (sliceSet line)
    match s.freeWay x y inSet with
    | some w => (add s w, false)
    | none =>
      match inSet[Config.freeVictim s.freeCtr % inSet.length]? with
      | none => (s, false)
      | some v => (add (s.fresh.evictLine v) v.way, v.owner == vf)

/-! A sector at its home. -/

/-- Check the stored value of a sector in HBM: a mismatch poisons the sector and is logged. -/
def State.hbmChecked (s : State) (q : Nat) : State :=
  match mapFind s.checks q with
  | none => s
  | some c =>
    let t := { s with checks := mapErase s.checks q }
    if c.toNat = crc32c (bytesOfLE 128 (s.hbmSector q)) then t
    else ({ t with hbmPoison := setAdd t.hbmPoison q }).logBeline (.poisoned (128 * q))

/-- Check the stored value of the sector of pa in its slice, or in HBM where the slice holds no line for it: a mismatch poisons the
sector and is logged (21 R424, R425; log 56). -/
def State.checkedAt (s : State) (x y pa : Nat) : State :=
  let i := pa / 128 % 4
  match s.lineAt x y (pa / 512) with
  | none => s.hbmChecked (pa / 128)
  | some l =>
    match mapFind l.checks i with
    | none => s
    | some c =>
      let t := s.modLine x y (pa / 512) (fun l => { l with checks := mapErase l.checks i })
      if c.toNat = crc32c (bytesOfLE 128 (l.sector i)) then t
      else (t.modLine x y (pa / 512) (fun l => { l with poison := flagSector l.poison i true })).logBeline (.poisoned (pa / 128 * 128))

/-- n bytes at pa in its slice, or in HBM where the slice holds no line for them, and the poison of their sector. -/
def State.homeRead (s : State) (x y pa n : Nat) : Nat × Bool :=
  match s.lineAt x y (pa / 512) with
  | some l => (bits (l.sector (pa / 128 % 4)) (8 * (pa % 128) + 8 * n - 1) (8 * (pa % 128)), l.bad (pa / 128 % 4))
  | none => (bits (s.hbmSector (pa / 128)) (8 * (pa % 128) + 8 * n - 1) (8 * (pa % 128)), s.hbmPoison.contains (pa / 128))

/-- Bytes of a mask as a mask of bits. -/
def maskBits (mask : Nat) : Nat → Nat
  | 0 => 0
  | n + 1 => (if mask % 2 = 1 then 255 else 0) + 2 ^ 8 * maskBits (mask / 2) n

/-- The bytes that the mask names from `new`, the others from `old`. -/
def mergeBytes (old new mask n : Nat) : Nat := old ^^^ ((old ^^^ new) &&& maskBits mask n)

/-- Write the bytes of the sector of pa that a 128-bit mask names, in its slice, or in HBM where the slice holds no line for them: a
partial write first checks the stored value; a write of all 128 bytes leaves no older poison (21 R424, R425). -/
def State.homeMerge (s : State) (x y pa mask v : Nat) (poison : Bool) : State :=
  let i := pa / 128 % 4
  let full := mask % 2 ^ 128 == 2 ^ 128 - 1
  let t := if full then s else s.checkedAt x y pa
  match s.lineAt x y (pa / 512) with
  | some _ => t.modLine x y (pa / 512) (fun l =>
      { l.put i (mergeBytes (l.sector i) v mask 128) (poison || (!full && l.bad i)) none with dirty := flagSector l.dirty i true })
  | none =>
    let q := pa / 128
    t.putSector q (mergeBytes (t.hbmSector q) v mask 128) (poison || (!full && t.hbmPoison.contains q)) none

/-- Write n bytes at pa in its slice. -/
def State.homeWrite (s : State) (x y pa n v : Nat) (poison : Bool := false) : State :=
  s.homeMerge x y pa ((2 ^ n - 1) * 2 ^ (pa % 128)) (v % 2 ^ (8 * n) * 2 ^ (8 * (pa % 128))) poison

/-! Physical memory as Beline, its walkers and its units see it: the slice that holds a sector, else HBM. -/

/-- The slice line that holds the sector of pa. -/
def State.holder (s : State) (pa : Nat) : Option SliceLine := s.slices.find? (fun l => l.line == pa / 512 && l.has (pa / 128 % 4))

def State.physByte (s : State) (pa : Nat) : Byte :=
  match s.holder pa with
  | some l => BitVec.ofNat 8 (bits (l.sector (pa / 128 % 4)) (8 * (pa % 128) + 7) (8 * (pa % 128)))
  | none => memByte s.mem pa

/-- n bytes at pa, little-endian. -/
def State.physLE (s : State) (pa : Nat) : Nat → Nat
  | 0 => 0
  | n + 1 => (s.physByte pa).toNat + 2 ^ 8 * s.physLE (pa + 1) n

def State.physBytes (s : State) (pa : Nat) : Nat → List Byte
  | 0 => []
  | n + 1 => s.physByte pa :: s.physBytes (pa + 1) n

/-- The sector of pa is poisoned, or its check value does not fit its bytes. -/
def State.physPoison (s : State) (pa : Nat) : Bool :=
  match s.holder pa with
  | some l =>
    l.bad (pa / 128 % 4) || (match mapFind l.checks (pa / 128 % 4) with
      | some c => c.toNat != crc32c (bytesOfLE 128 (l.sector (pa / 128 % 4)))
      | none => false)
  | none =>
    s.hbmPoison.contains (pa / 128) || (match mapFind s.checks (pa / 128) with
      | some c => c.toNat != crc32c (bytesOfLE 128 (s.hbmSector (pa / 128)))
      | none => false)

/-- Write one byte of physical memory. -/
def State.physPut (s : State) (pa : Nat) (b : Byte) : State :=
  match s.holder pa with
  | some l => s.homeWrite l.x l.y pa 1 b.toNat
  | none => { s with mem := memPut s.mem pa b, checks := mapErase s.checks (pa / 128) }

def State.physPutBytes (s : State) (pa : Nat) : List Byte → State
  | [] => s
  | b :: bs => (s.physPut pa b).physPutBytes (pa + 1) bs

/-- Poison or heal the sector of pa. -/
def State.physMark (s : State) (pa : Nat) (on : Bool) : State :=
  match s.holder pa with
  | some l => s.modLine l.x l.y l.line (fun l => { l with poison := flagSector l.poison (pa / 128 % 4) on })
  | none => { s with hbmPoison := if on then setAdd s.hbmPoison (pa / 128) else setDel s.hbmPoison (pa / 128) }

end Sys2Proof.Machine
end

