-- ==== Sys2Proof/Machine/Ops.lean ====
section
/-! DEFINITION. The named operations that the meanings share: retiring an instruction, taking a trap or an interrupt and
returning from one, failing a launch, delivering a message, sending a request. -/

namespace Sys2Proof.Machine

/-! Cause codes (06 R174). -/

def cILLEGAL : BitVec 8 := 0x01
def cPRIV : BitVec 8 := 0x02
def cALIGN : BitVec 8 := 0x03
def cBOUNDS : BitVec 8 := 0x04
def cXLATE : BitVec 8 := 0x05
def cPROT : BitVec 8 := 0x06
def cPOISON : BitVec 8 := 0x07
def cSTOREREJECT : BitVec 8 := 0x08
def cARITH : BitVec 8 := 0x09
def cBINDFORM : BitVec 8 := 0x0A
def cBINDCYCLE : BitVec 8 := 0x0B
def cBINDDEPTH : BitVec 8 := 0x0C
def cBINDFULL : BitVec 8 := 0x0D
def cBOUNDWRITE : BitVec 8 := 0x0E
def cRINGTYPE : BitVec 8 := 0x0F
def cRINGERROR : BitVec 8 := 0x10
def cBARRIER : BitVec 8 := 0x11
def cENGINE : BitVec 8 := 0x12
def cGATHERBOUND : BitVec 8 := 0x13
def cDBLOCK : BitVec 8 := 0x14
def cBREAK : BitVec 8 := 0x15
def cSTEP : BitVec 8 := 0x16
def cWATCH : BitVec 8 := 0x17
def cSYSCALL : BitVec 8 := 0x18
def cCOUNTEROVF : BitVec 8 := 0x19
def cSTATESTORE : BitVec 8 := 0x1A
def cESTIMATE : BitVec 8 := 0x1B
def cLAUNCH : BitVec 8 := 0x1C

/-- A trap to be taken: cause, XADDR, XINFO (00 R10, raise). -/
structure Trap where
  cause : BitVec 8
  addr : Word
  info : Word
  deriving DecidableEq, Repr

/-! Launches and groups (18 R373, R374). -/

def State.launchOf (s : State) (id : Nat) : Option Launch := s.launches.find? (fun l => l.id == id)
def State.modLaunch (s : State) (id : Nat) (f : Launch → Launch) : State :=
  { s with launches := updWhere (fun l => l.id == id) f s.launches }

/-- Fields of a launch record (18 R363). -/
def Launch.groupsTotal (l : Launch) : Nat := bits l.record.toNat 191 160
def Launch.hartsPer (l : Launch) : Nat := bits l.record.toNat 95 93
def Launch.preds (l : Launch) : List Nat :=
  ([bits l.record.toNat 415 384, bits l.record.toNat 447 416, bits l.record.toNat 479 448, bits l.record.toNat 511 480]).filter (· != 0)

/-- Mark the harts of a launch to stop at their next boundary (18 R374). -/
def Core.stopLaunch (k : Core) (id : Nat) : Core :=
  { k with harts := vmap (fun h =>
      match h.group with
      | some g => if g.launch = id ∧ h.exited = false then { h with stopping := true } else h
      | none => h) k.harts }

/-- A fatal fault of group `g` (18 R374): the first failure is recorded, every group stops, unplaced groups are not
started, and dependants that have started get PREDF (R367). -/
def State.failLaunch (s : State) (id g : Nat) (cause : BitVec 8) (finfo : BitVec 32) : State :=
  let s := s.modLaunch id (fun l =>
    { l with failure := if l.failure.isNone then some (cause, finfo, BitVec.ofNat 32 g) else l.failure,
             status := if l.status = .completed then .failed else l.status,
             placed := l.groupsTotal, state := if l.state = .queued then .running else l.state })
  { s with
    cores := s.cores.map (fun e => (e.1, e.2.stopLaunch id)),
    partitions := vmap (fun p =>
      { p with queues := vmap (fun q => q.filter (· != id)) p.queues,
               saved := p.saved.map (fun x => { x with core := x.core.stopLaunch id }) }) s.partitions,
    launches := updWhere (fun l => l.preds.contains id && l.state == .running) (fun l => { l with predf := true }) s.launches }

/-- The group of a hart ends with a fatal fault. -/
def State.fatal (s : State) (c : Nat) (h : BitVec 2) (cause : BitVec 8) (finfo : BitVec 32) : State :=
  match (s.hartOf c h).group with
  | some g => s.failLaunch g.launch g.group cause finfo
  | none => s

/-- A context error of a core (01 R32, 13 R306): Beline is informed, every group on it ends with a fatal fault. The spec gives the
completion record no CAUSE and no FINFO here; the model records 0 in both (DESIGN CHOICE, log 57). -/
def State.contextError (s : State) (c : Nat) : State :=
  hartNos.foldl (fun s h => s.fatal c h 0 0) (s.logBeline (.contextError c))

/-! Taking a trap or an interrupt (06 R173). -/

/-- The code offset of the instruction that has not issued: `pc`, or the end of the code region behind its last word (log 24). -/
def Hart.at (h : Hart) : Word := if h.pastEnd then h.pc + 4 else h.pc

/-- The registers of a hart that enters its handler: PM, INT and CAUSE in XCAUSE, the mode, the pc at XVEC; XPC holds bits [16:2]
(00 R6). A trap ends a step of the debug path. An interrupt that is pending when such a step begins is taken first, and the step then
covers the first instruction of the handler: R178 does not say (DESIGN CHOICE, log 69). -/
def Hart.enter (h : Hart) (int : Bool) (cause : BitVec 8) (xpc addr info : Word) : Hart :=
  { h with
    xcause := BitVec.ofNat 64 (b2n (h.mode == .supervisor) * 2 ^ 63 + b2n int * 2 ^ 62 + cause.toNat),
    xpc := xpc &&& 0x1FFFC, xaddr := addr, xinfo := info, mode := .supervisor, ran := h.ran ||| 2, pc := h.xvec, pastEnd := false,
    block := none, wantsQ := none, stepArm := false, ibkSuppress := false,
    halted := h.halted || (h.stepOnce && !int), stepOnce := h.stepOnce && int }

/-- Enter the handler, or end the group with a fatal fault where XVEC lies outside the code region. A hart that stops takes no
trap: it stays where it is (18 R374). -/
def State.enterTrap (s : State) (c : Nat) (h : BitVec 2) (int : Bool) (t : Trap) (xpc : Word) : State :=
  if (s.hartOf c h).stopping then s.modHart c h (fun x => { x with block := none })
  else if (s.core c).codesz.toNat ≤ (s.hartOf c h).xvec.toNat then
    ((s.logBeline (.contextError c)).modHart c h (fun x => { x with block := none })).fatal c h t.cause (xpc.setWidth 32)
  else s.modHart c h (fun x => x.enter int t.cause xpc t.addr t.info)

/-- raise (00 R10): the trap of the executing instruction. It waits until every older outstanding instruction has
completed (02 R50); until then the hart does not advance. -/
def State.raise (s : State) (t : Trap) : State :=
  if s.hart.outst.isEmpty then s.enterTrap s.cur.core s.cur.hart false t s.hart.at else s

/-- Run a continuation unless a check raises; the first check that fails is the trap. -/
def State.guarded (s : State) (checks : List (Option Trap)) (k : State → State) : State :=
  match checks.findSome? id with
  | some t => s.raise t
  | none => k s

/-- BOUND_WRITE for a register that is a bound destination (05 R148). -/
def State.boundCheck (s : State) (d : BitVec 5) : Option Trap :=
  if d = 0 then none
  else match s.hart.slotOf d with
    | some k => some ⟨cBOUNDWRITE, 0, BitVec.ofNat 64 (d.toNat + 2 ^ 8 * k.toNat)⟩
    | none => none

/-- The word at the pc, and the word after it behind an IMX (02 R43). An IMX that is the last word of the code region has no
word after it: the spec does not say what XINFO[63:32] holds then, and the model gives 0 (DESIGN CHOICE, log 58). -/
def State.illegalInfo (s : State) : Word :=
  if s.hart.pastEnd then 0
  else
  let w := fetchWord s.cc s.hart s.hart.pc.toNat
  let w2 := if w.toNat / 2 ^ 26 = 0x3E ∧ s.hart.pc.toNat + 4 < s.cc.codesz.toNat then fetchWord s.cc s.hart (s.hart.pc.toNat + 4) else 0
  w2 ++ w

def State.illegal (s : State) : Trap := ⟨cILLEGAL, 0, s.illegalInfo⟩
def State.priv (s : State) : Trap := ⟨cPRIV, 0, (fetchWord s.cc s.hart s.hart.pc.toNat).setWidth 64⟩

/-! Retiring. -/

/-- What follows the instruction of a single step (06 R178). -/
def Hart.stepDone (h : Hart) : Hart :=
  { h with stepPend := h.stepPend || h.stepArm, stepArm := false,
           halted := h.halted || h.stepOnce, stepOnce := false }

/-- Take one unit of credit from every outstanding instruction (02 R45). -/
def Hart.spend (h : Hart) : Hart := { h with outst := h.outst.map (fun o => { o with credit := o.credit - 1 }) }

/-- Go on at the next pc behind an instruction that has retired. -/
def Hart.goOn (h : Hart) (next : Word) : Hart := { h.spend with pc := next, ibkSuppress := false, block := none, wantsQ := none }.stepDone

/-- Retire the instruction at the pc: its flags, its count, the pass over the dependants of the registers it wrote, then
the next pc (05 R142, R153; 21 R433). -/
def Hart.retireTo (h : Hart) (next : Word) (ws : List Operand) (fl : Flags) : Hart :=
  let off := h.pc
  let h := (h.raiseFlags fl (arecInstr off)).count 2 1
  ((h.markFor ws).evaluateBindings false off).goOn next

def Hart.retire (h : Hart) (len : Nat) (ws : List Operand) (fl : Flags) : Hart :=
  h.retireTo (h.pc + BitVec.ofNat 64 len) ws fl

/-- A taken control transfer takes one unit and then ends the credit of every outstanding instruction (02 R45). -/
def Hart.endCredit (h : Hart) : Hart := { h with outst := h.outst.map (fun o => { o with credit := 0 }) }

/-- Write g[d] of the executing hart and retire. -/
def State.writeRetire (s : State) (d : BitVec 5) (v : Word) (fl : Flags := 0) (len : Nat := 4) : State :=
  s.mapHart (fun h => (h.wg d v).retire len [.g d] fl)

/-- Retire without a register write. -/
def State.retire (s : State) (len : Nat := 4) : State := s.mapHart (fun h => h.retire len [] 0)

/-- An instruction that writes one general register and may set flags (04 R97): BOUND_WRITE first. -/
def State.compute (s : State) (d : BitVec 5) (r : Fl Word) (len : Nat := 4) : State :=
  s.guarded [s.boundCheck d] (fun s => s.writeRetire d r.val r.fl len)

/-- Wait at a blocking point: the pc stays, the wake condition is kept (18 R378). -/
def State.blockOn (s : State) (b : Block) : State := s.mapHart (fun h => { h with block := some b })

/-! Returning from a trap (06 R170). -/

/-- ERET: the recorded mode, the pc from XPC, no breakpoint match on the next instruction, and with `step` a STEP
interrupt armed. -/
def Hart.eret (h : Hart) (step : Bool) : Hart :=
  let h := (h.count 2 1).stepDone
  let m : Mode := if h.xcause.msb then .supervisor else .program
  { h with mode := m, ran := h.ran ||| modeBit m, pc := h.xpc, ibkSuppress := true, block := none, stepArm := step }

/-! Messages (06 R156). -/

/-- An arrival writes a register whose FULL bit is 0; one that changes the VALUE of a source waits to be applied, with a pass,
at an instruction boundary (05 R146; log 59). -/
def Hart.arrive (h : Hart) (r : BitVec 4) (v : Word) : Hart :=
  if h.rm r != v && slotNos.any (fun k => (h.slot k).valid && (h.slot k).sources.contains (.m r)) then
    { h with arrPend := h.arrPend ||| (1#16 <<< r.toNat), arrVal := h.arrVal.set r.toNat v r.isLt }
  else (h.wm r v).setFull r true

/-- The arrivals that wait are applied: VALUE and FULL of each register, then one pass over their dependants (R146). At the boundary behind
the last word of the code region there is no next instruction whose offset AREC.OFFSET could name (R152): the spec leaves that state open
(01 R15), and the pass names the last word, as the pc does, while XPC there is the address behind it (DESIGN CHOICE, log 24). -/
def Hart.arrivalPass (h : Hart) : Hart :=
  let rs := slotNos.filter (fun r => bit h.arrPend.toNat r.toNat)
  let h := rs.foldl (fun h r => (h.wm r (h.arrVal.get ⟨r.toNat, r.isLt⟩)).setFull r true) h
  ({ h with arrPend := 0 }.markFor (rs.map .m)).evaluateBindings true h.pc

/-- A hart that leaves a blocking point runs the pass of its arrivals first (R146). -/
def Hart.settled (h : Hart) : Hart := if h.arrPend = 0 then h else h.arrivalPass

def Msg.same (a b : Msg) : Bool := a.hart == b.hart && a.reg == b.reg

/-- A message reaches its core: register, overflow queue or hold (06 R156, R162); none where it is refused. -/
def Core.deliver (k : Core) (m : Msg) : Option Core :=
  if !k.hold.isEmpty then
    if k.hold.length < Config.holdSize then some { k with hold := k.hold ++ [m] } else none
  else if !(k.hart m.hart).taken m.reg && !(k.overflow.any m.same) then
    some (k.modHart m.hart (fun h => h.arrive m.reg m.value))
  else if k.overflow.length < Config.overflowSize then some { k with overflow := k.overflow ++ [m] }
  else none

/-- Move held messages on in their order as registers empty and queue entries free (06 R162). -/
def promote (k : Core) : List Msg → List Msg → Core
  | [], kept => { k with hold := kept }
  | m :: ms, kept =>
    if kept.any m.same then promote k ms (kept ++ [m])
    else if !(k.hart m.hart).taken m.reg && !(k.overflow.any m.same) then
      promote (k.modHart m.hart (fun h => h.arrive m.reg m.value)) ms kept
    else if k.overflow.length < Config.overflowSize then promote { k with overflow := k.overflow ++ [m] } ms kept
    else promote k ms (kept ++ [m])

/-- A register of hart h that is empty though a message for it waits: it is written in the next cycle (06 R156, R162). -/
def Core.overdue (k : Core) (h : BitVec 2) : Option (BitVec 4) :=
  ((k.overflow ++ k.hold ++ (if k.hold.isEmpty then k.tokens else [])).find? (fun m => m.hart == h && !(k.hart h).taken m.reg)).map Msg.reg

/-- Queued messages are written into the registers that are empty. -/
def Core.giveOverflow (k : Core) : Core :=
  k.overflow.foldl (fun k m =>
    if (k.hart m.hart).taken m.reg || k.overflow.any m.same then { k with overflow := k.overflow ++ [m] }
    else k.modHart m.hart (fun h => h.arrive m.reg m.value)) { k with overflow := [] }

def Core.promoteHold (k : Core) : Core := promote k k.hold []

/-- What the core's own engines have sent while it slept, and what still waits for a full queue, is delivered in its order. -/
def Core.giveTokens (k : Core) : Core :=
  k.tokens.foldl (fun k m => ((if k.tokens.any m.same then none else k.deliver m)).getD { k with tokens := k.tokens ++ [m] }) { k with tokens := [] }

/-- A hart of this core hosts a group of the partition (13 R448). -/
def Hart.hosts (h : Hart) : Bool := h.group.isSome
def Core.hostsPart (k : Core) (vf : BitVec 4) : Bool := k.vf == some vf && hartNos.any (fun h => (k.hart h).hosts)

/-! Requests. -/

/-- Put a request on its way. -/
def State.send (s : State) (r : Req) : State :=
  { s with net := s.net ++ [{ r with id := s.nextId }], nextId := s.nextId + 1 }

/-- A request of the executing hart. -/
def State.reqOf (s : State) (cls : Class) (kind : ReqKind) (ea : Word) : Req :=
  { id := 0, src := .hart s.cur.core s.cur.hart, cls := cls, kind := kind, ea := ea, vf := (s.cc.vf).getD 0,
    launch := match s.hart.group with
      | some g => g.launch
      | none => 0,
    off := s.hart.pc, prog := s.hart.mode == .program, stage := .sent }

/-- Room for one more posted access (13 R320). -/
def Hart.postRoom (h : Hart) : Bool := decide (h.orsLocal.toNat + h.orsFab.toNat + h.rejLog.length < 8)

/-- Send a posted access: ORSCNT, the counter event and the launch's sent count rise (13 R317; 18 R377). -/
def State.post (s : State) (cls : Class) (kind : ReqKind) (ea : Word) (fab : Bool) : State :=
  let r := s.reqOf cls kind ea
  let s := s.mapHart (fun h =>
    { h.count 7 1 with orsLocal := if fab then h.orsLocal else h.orsLocal + 1, orsFab := if fab then h.orsFab + 1 else h.orsFab })
  (s.modLaunch r.launch (fun l => { l with sentCount := l.sentCount + 1 })).send r

/-- Nothing outstanding: no long-latency instruction (02 R47). -/
def Hart.quiet (h : Hart) : Bool := h.outst.isEmpty

/-- Both fields of ORSCNT are zero (13 R317). -/
def Hart.orsZero (h : Hart) : Bool := h.orsLocal == 0 && h.orsFab == 0

end Sys2Proof.Machine
end

