-- ==== Sys2Proof/Machine/Address.lean ====
section
/-! DEFINITION. Address forms and classes (04 R120, R121; 15 R327, R328), remap of virtual coordinates (15 R330),
translation and protection (15 R331 to R335), homes (13 R310), watchpoints (06 R177). -/

namespace Sys2Proof.Machine

/-- The address after the rewritings of R120: the own-core form and this module's own fabric number. -/
def resolveAddr (fabricNo : BitVec 11) (corxy : Word) (ea : Word) : Word :=
  let n := ea.toNat
  if !bit n 63 then ea
  else if bits n 62 24 = 2 ^ 39 - 1 then
    BitVec.ofNat 64 (2 ^ 63 + 2047 * 2 ^ 52 + (corxy.toNat % 2 ^ 19) * 2 ^ 33 + n % 2 ^ 24)
  else if bits n 62 52 = fabricNo.toNat then BitVec.ofNat 64 (n - fabricNo.toNat * 2 ^ 52 + 2047 * 2 ^ 52)
  else ea

def State.resolve (s : State) (ea : Word) : Word := resolveAddr s.fabricNo s.cc.corxy ea

def addrX (ea : Word) : Nat := bits ea.toNat 51 44
def addrY (ea : Word) : Nat := bits ea.toNat 43 37
def addrCore (ea : Word) : Nat := bits ea.toNat 36 33
def addrOff (ea : Word) : Nat := ea.toNat % 2 ^ 24
def addrMod (ea : Word) : Nat := bits ea.toNat 62 52

/-- The hart and the message register of a window offset (15 R328). -/
def winHart (off : Nat) : BitVec 2 := BitVec.ofNat 2 ((off - 0x800000) / 0x80)
def winReg (off : Nat) : BitVec 4 := BitVec.ofNat 4 (off / 8)

/-- The classes of an address (04 R120). -/
inductive Place where
  | own (off : Nat)
  | remote
  | window
  | global
  | fabric
  deriving DecidableEq, Repr

/-- Classify a resolved address, or name the form check that it fails (04 R121): `al` is the alignment, `n` the bytes,
`win` whether the access may name a message window. Where several checks fail, the spec orders them only for engine commands
(10 R451) and MSEND (06 R158); the model tests ALIGN first everywhere (DESIGN CHOICE, log 60). -/
def classifyAt (corxy : Word) (scratch : Nat) (ea : Word) (al n : Nat) (win : Bool) : Except Trap Place :=
  let e := ea.toNat
  let bounds : Trap := ⟨cBOUNDS, ea, 0⟩
  if e % al ≠ 0 then .error ⟨cALIGN, ea, 0⟩
  else if !bit e 63 then (if bits e 62 48 ≠ 0 then .error ⟨cXLATE, ea, 0⟩ else .ok .global)
  else if bits e 32 24 ≠ 0 ∨ 99 < addrY ea then .error bounds
  else
    let off := addrOff ea
    let isWin := decide (0x800000 ≤ off) && decide (off ≤ 0x8001FF)
    if isWin = false ∧ 0x05FFFF < off then .error bounds
    else if isWin = true ∧ win = false then .error bounds
    else if addrMod ea ≠ 2047 then .ok .fabric
    else if isWin then .ok .window
    else if bits e 51 33 = corxy.toNat % 2 ^ 19 then
      (if off + n ≤ scratch then .ok (.own off) else .error bounds)
    else .ok .remote

def State.classify (s : State) (ea : Word) (al n : Nat) (win : Bool) : Except Trap Place :=
  classifyAt s.cc.corxy s.cc.scratchSize ea al n win

/-- The valid region that covers a global address, while the core has cache ways (08 R191). -/
def Core.regionAt (k : Core) (a : Nat) : Option Nat :=
  if k.waymask = 0xFFF then none
  else ([0, 1, 2, 3, 4, 5, 6, 7] : List (Fin 8)).findSome? (fun i =>
    let r := k.regions.get i
    if r.valid && decide (r.base ≤ a) && decide (a < r.base + 512 * r.size) then some i.val else none)

/-- The address of a byte of the core's own scratch (10 R248). -/
def Core.ownAddr (k : Core) (off : Nat) : Word := BitVec.ofNat 64 (2 ^ 63 + 2047 * 2 ^ 52 + k.corxy.toNat % 2 ^ 19 * 2 ^ 33 + off)

/-! Remap (15 R329, R330). -/

/-- The exposed cluster of a virtual one, through the partition's remap entry. -/
def remapXY (entry : Word) (x y : Nat) : Option (Nat × Nat) :=
  let e := entry.toNat
  if bit e 63 && decide (x ≤ bits e 22 15) && decide (y ≤ bits e 29 23) then some (bits e 7 0 + x, bits e 14 8 + y) else none

/-- The core key of a virtual core, through the remap entry and the cluster's core map. -/
def State.physCore (s : State) (vf : BitVec 4) (x y c : Nat) : Option Nat :=
  (remapXY (s.part vf).remap x y).map (fun e =>
    let m := (s.cluster e.1 e.2).coreMap
    coreKey e.1 e.2 (m.get ⟨c % 16, Nat.mod_lt _ (by decide)⟩).toNat)

/-- The number of a virtual core: 16 × (256 × y + x) + core. -/
def vcoreNo (x y c : Nat) : Nat := 16 * (256 * y + x) + c
def addrVcore (ea : Word) : Nat := vcoreNo (addrX ea) (addrY ea) (addrCore ea)
def Core.vcore (k : Core) : Nat := vcoreNo k.vx.toNat k.vy.toNat k.vc.toNat
def vcX (v : Nat) : Nat := v / 16 % 256
def vcY (v : Nat) : Nat := v / 16 / 256
def vcC (v : Nat) : Nat := v % 16

/-- The physical core on which a virtual core's context is resident. -/
def State.locate (s : State) (vf : BitVec 4) (v : Nat) : Option Nat :=
  (s.cores.find? (fun e => e.2.vf == some vf && e.2.vcore == v)).map (·.1)

/-- The place of a virtual core's context in the save area. -/
def Partition.savedAt (p : Partition) (v : Nat) : Option Nat := p.saved.findIdx? (fun x => x.core.vcore == v)

/-- Where the scratch of a virtual core is: on a core, or in the save area of its partition. -/
inductive Spot where
  | core (c : Nat)
  | saved (i : Nat)
  deriving DecidableEq, Repr

/-- The scratch of a virtual core that hosts a group of the partition (13 R448; 08 R449). -/
def State.spot (s : State) (vf : BitVec 4) (v : Nat) : Option Spot :=
  match s.locate vf v with
  | some c => if (s.core c).hostsPart vf then some (.core c) else none
  | none => ((s.part vf).savedAt v).map .saved

def State.spotCore (s : State) (vf : BitVec 4) : Spot → Core
  | .core c => s.core c
  | .saved i => (((s.part vf).saved[i]?).map Saved.core).getD {}

def State.putSpot (s : State) (vf : BitVec 4) (p : Spot) (k : Core) : State :=
  match p with
  | .core c => s.setCore c k
  | .saved i => s.modPart vf (fun q => { q with saved := q.saved.mapIdx (fun j x => if j = i then { x with core := k } else x) })

/-! Translation (15 R331 to R335). -/

/-- Why a walk gives no leaf: a case of R335, or an entry that cannot be read, at its physical address. -/
inductive WalkFail where
  | invalid
  | unreadable (pa : Nat)
  deriving DecidableEq, Repr

/-- An 8-byte table entry: `bad` says that the walker finds it uncorrectable, as a poisoned one is (R335; 21 R425). -/
def State.tableEntry (s : State) (pa : Nat) (bad : Bool) : Except WalkFail Nat :=
  if bad || s.physPoison pa then .error (.unreadable pa) else .ok (s.physLE pa 8)

/-- Decode a leaf at a level whose pages have `size` bytes; none where R335 fails it with XLATE. -/
def leafOf (p : Partition) (e size : Nat) : Option Leaf :=
  let l : Leaf :=
    ⟨bit e 44, bits e 63 56, bits e 55 52 * 8 + bits e 51 49, BitVec.ofNat 3 (bits e 51 49), BitVec.ofNat 4 (bits e 48 45),
     bit e 43, bit e 42, bit e 5, bit e 4, bits e 41 16 * 2 ^ 16, size⟩
  let homeOk := if l.hashed then (p.masks.get ⟨l.mask.toNat, l.mask.isLt⟩).msb
    else decide (l.hx ≤ p.wm1.toNat) && decide (l.hy ≤ p.hm1.toNat)
  if bits e 15 6 = 0 ∧ bits e 3 2 = 0 ∧ l.pa % size = 0 ∧ l.pa + size ≤ Config.hbmBytes ∧ homeOk = true then some l else none

/-- The next table of a pointer entry; none where it is not one. -/
def pointerOf (e : Nat) : Option Nat :=
  if bit e 0 && !bit e 1 && bits e 63 42 == 0 && bits e 7 2 == 0 then some (bits e 41 8 * 2 ^ 8) else none

/-- The leaf that an entry of a level gives, or the next table. -/
def leafOr (p : Partition) (e size : Nat) (next : Nat → Except WalkFail Leaf) : Except WalkFail Leaf :=
  if bit e 0 && bit e 1 then
    match leafOf p e size with
    | some l => .ok l
    | none => .error .invalid
  else match pointerOf e with
    | some t => next t
    | none => .error .invalid

/-- Walk the three levels (R333). `bad` names a level, 1 to 3, whose entry the walker cannot read; 0 names none. -/
def State.walk (s : State) (vf : BitVec 4) (va : Nat) (bad : BitVec 2) : Except WalkFail Leaf :=
  let p := s.part vf
  let level := fun (k : BitVec 2) (pa size : Nat) (next : Nat → Except WalkFail Leaf) =>
    match s.tableEntry pa (bad == k) with
    | .error f => .error f
    | .ok e => leafOr p e size next
  level 1 (bits p.ptroot.toNat 41 21 * 2 ^ 21 + 8 * bits va 47 30) (2 ^ 30) (fun t2 =>
    level 2 (t2 + 8 * bits va 29 21) (2 ^ 21) (fun t3 =>
      level 3 (t3 + 8 * bits va 20 16) (2 ^ 16) (fun _ => .error .invalid)))

/-- What an access needs (R335): read, write. -/
structure Need where
  r : Bool
  w : Bool
  deriving DecidableEq, Repr

/-- Whether the leaf permits the access (R335). -/
def Leaf.permits (l : Leaf) (vf : BitVec 4) (n : Need) : Bool :=
  l.owner == vf && (!n.r || l.r) && (!n.w || (l.w && !l.code))

def Leaf.phys (l : Leaf) (va : Nat) : Nat := l.pa + va % l.size

/-- The cluster of a group mask for a hash h (13 R310). -/
def maskHome (mask : Word) (h : Nat) : Nat × Nat :=
  let m := mask.toNat
  let w := bits m 22 15 + 1
  let k := h % (w * (bits m 29 23 + 1))
  (bits m 7 0 + k % w, bits m 14 8 + k / w)

/-- The translating slice of a global address, as an exposed cluster (15 R331); none where the routers' remap refuses its
coordinates with BOUNDS (R330). -/
def State.translatingSlice (s : State) (vf : BitVec 4) (va : Nat) : Option (Nat × Nat) :=
  let p := s.part vf
  let g := bits va 47 16
  let v := maskHome (p.masks.get 0) ((g % 2 ^ 16) ^^^ (g / 2 ^ 16))
  remapXY p.remap v.1 v.2

/-- The home slice of a physical address under a leaf, as an exposed cluster (13 R310); none as for the translating slice. -/
def State.homeSlice (s : State) (vf : BitVec 4) (l : Leaf) (pa : Nat) : Option (Nat × Nat) :=
  let p := s.part vf
  let n := bits pa 41 9
  let v := if l.hashed then
      maskHome (p.masks.get ⟨l.mask.toNat, l.mask.isLt⟩) ((bits n 15 0) ^^^ (bits n 31 16) ^^^ (bits n 32 32))
    else (l.hx, l.hy)
  remapXY p.remap v.1 v.2

/-- The leaf that a slice translation cache holds for the page of va. -/
def State.cachedLeaf (s : State) (x y : Nat) (vf : BitVec 4) (va : Nat) : Option Leaf :=
  (s.trans.find? (fun e => e.x == x && e.y == y && e.vf == vf && e.page == va / 2 ^ 16)).map TransEntry.leaf

/-- The leaf for va at a translating slice: from its cache, else by a walk. -/
def State.leafAt (s : State) (x y : Nat) (vf : BitVec 4) (va : Nat) : Except WalkFail Leaf :=
  match s.cachedLeaf x y vf va with
  | some l => .ok l
  | none => s.walk vf va 0

/-- Translate and check at once, by the translating slice's cache or a walk: a physical address and the leaf, or the cause. -/
def State.translate (s : State) (vf : BitVec 4) (va : Nat) (n : Need) : Except (BitVec 8) (Nat × Leaf) :=
  if 2 ^ 48 ≤ va then .error cXLATE
  else match s.translatingSlice vf va with
    | none => .error cBOUNDS
    | some t =>
      match s.leafAt t.1 t.2 vf va with
      | .error _ => .error cXLATE
      | .ok l => if l.permits vf n then .ok (l.phys va, l) else .error cPROT

/-- The home of an address and its physical address, where the access is permitted. -/
def State.homeOf (s : State) (vf : BitVec 4) (va : Nat) (n : Need) : Except (BitVec 8) (Nat × Nat × Nat) :=
  match s.translate vf va n with
  | .error cause => .error cause
  | .ok (pa, l) =>
    match s.homeSlice vf l pa with
    | none => .error cBOUNDS
    | some t => .ok (t.1, t.2, pa)

/-- The table entry that a translation of va cannot read, by its physical address. -/
def State.badEntry (s : State) (vf : BitVec 4) (va : Nat) : Option Nat :=
  if 2 ^ 48 ≤ va then none
  else (s.translatingSlice vf va).bind (fun t =>
    match s.leafAt t.1 t.2 vf va with
    | .error (.unreadable pa) => some pa
    | _ => none)

/-- A translation of va has been made: Beline logs a table entry that it could not read (R335). -/
def State.walked (s : State) (vf : BitVec 4) (va : Nat) : State :=
  match s.badEntry vf va with
  | some pa => s.logBeline (.tableError pa)
  | none => s

/-! Watchpoints (06 R177). -/

/-- The key of an address in the space of a watchpoint: global or partitioned, 48 bits. -/
def watchKey (ea : Word) : Bool × Nat :=
  if ea.msb then (true, bits ea.toNat 51 33 * 2 ^ 24 + addrOff ea) else (false, bits ea.toNat 47 0)

/-- Whether one watchpoint matches n bytes at a resolved address. -/
def dwtMatches (w : Word) (ea : Word) (n : Nat) (ld st : Bool) : Bool :=
  let k := watchKey ea
  let len := 2 ^ (max 3 (bits w.toNat 59 56))
  let base := bits w.toNat 47 0 / len * len
  w.msb && ((st && bit w.toNat 60) || (ld && bit w.toNat 61)) && (bit w.toNat 55 == k.1) && overlaps base len k.2 n

/-- The lowest matching watchpoint of a partition for a program-mode access: R177 does not say which one of several that match is
reported, and whose ACT applies (DESIGN CHOICE, log 76). -/
def watchOf (p : Partition) (prog : Bool) (ea : Word) (n : Nat) (ld st : Bool) : Option (BitVec 2) :=
  if prog then hartNos.find? (fun k => dwtMatches (p.dwt.get ⟨k.toNat, k.isLt⟩) ea n ld st) else none

/-- A match comes back to the accessing hart: WATCH pending, or a halt (06 R177). -/
def Hart.watched (h : Hart) (p : Partition) (w : Option (BitVec 2)) (ea off : Word) (st : Bool) : Hart :=
  match w with
  | none => h
  | some k =>
    if bit (p.dwt.get ⟨k.toNat, k.isLt⟩).toNat 62 then { h with haltPend := true }
    else { h with watchPend := h.watchPend ++ [(ea, BitVec.ofNat 64 (off.toNat % 2 ^ 32 + k.toNat * 2 ^ 32 + b2n st * 2 ^ 34))] }

end Sys2Proof.Machine
end

