-- ==== Sys2Proof/Machine/Objects.lean ====
section
/-! DEFINITION. Barrier objects (08 R199 to R202), ring objects (08 R203 to R209) and tensor address maps (08 R211) as
values of scratch. Each operation is one access of the owning core's local-memory controller (08 R200, R204). Reserved
fields are written as zero (00 R6). -/

namespace Sys2Proof.Machine

/-! The code region under stores of its own core (04 R125). -/

/-- Words [o, o + n) of the code region that a store touches. -/
def codeWordsOf (k : Core) (o n : Nat) : List Nat :=
  if n = 0 then [] else
  ((upFrom (o / 4) ((o + n - 1) / 4 - o / 4 + 1)).map (fun i => 4 * i)).filter (fun a => decide (a < k.codesz.toNat))

/-- Remember, for every hart that has no older copy, the words as they were fetched (log 15). -/
def Core.noteCodeStore (k : Core) (o n : Nat) : Core :=
  let ws := codeWordsOf k o n
  if ws.isEmpty then k
  else
    let old := ws.map (fun a => (a, k.codeWord a))
    { k with
      harts := vmap (fun h =>
        { h with stale := old.foldl (fun m e => if (mapFind m e.1).isSome then m else mapSet m e.1 e.2) h.stale }) k.harts,
      codeWritten := ws.foldl (fun l a => setAdd l (a / 512 * 512)) k.codeWritten }

/-! Barriers. -/

def barPENDING (b : Nat) : Nat := bits b 35 0
def barEXPECTED (b : Nat) : Nat := bits b 79 64
def barARRIVED (b : Nat) : Nat := bits b 95 80
def barPHASE (b : Nat) : Bool := bit b 100
/-- OVF, UNF and ARR as the kind of XINFO[2:0]. -/
def barFaults (b : Nat) : Nat := bits b 103 101

/-- The object with its reserved fields zero. -/
def barMk (pending expected arrived : Nat) (phase : Bool) (faults : Nat) : Nat :=
  pending + expected * 2 ^ 64 + arrived % 2 ^ 16 * 2 ^ 80 + b2n phase * 2 ^ 100 + faults * 2 ^ 101

/-- complete() of R201. -/
def barComplete (b : Nat) : Nat :=
  if barARRIVED b = barEXPECTED b ∧ barPENDING b = 0 ∧ barFaults b = 0 then
    barMk 0 (barEXPECTED b) 0 (!barPHASE b) 0
  else barMk (barPENDING b) (barEXPECTED b) (barARRIVED b) (barPHASE b) (barFaults b)

/-- The outcome of a barrier operation: the object after it and a result, or the kind of a fault. -/
structure BarRes where
  obj : Nat
  res : Except Nat Nat
  deriving Repr

/-- BARR (R201). -/
def barArrive (b : Nat) : BarRes :=
  if barFaults b ≠ 0 then ⟨b, .error (barFaults b)⟩
  else if barARRIVED b = barEXPECTED b then
    ⟨barMk (barPENDING b) (barEXPECTED b) (barARRIVED b) (barPHASE b) 4, .error 4⟩
  else
    let b' := barComplete (barMk (barPENDING b) (barEXPECTED b) (barARRIVED b + 1) (barPHASE b) 0)
    ⟨b', .ok (b2n (barPHASE b) + 2 * b2n (barPHASE b' != barPHASE b))⟩

/-- BEXP (R201): n is the whole register. -/
def barExpect (b n : Nat) : BarRes :=
  if 2 ^ 36 - 1 < barPENDING b + n then
    ⟨barMk (barPENDING b) (barEXPECTED b) (barARRIVED b) (barPHASE b) (barFaults b ||| 1), .error 1⟩
  else ⟨barMk (barPENDING b + n) (barEXPECTED b) (barARRIVED b) (barPHASE b) (barFaults b), .ok (b2n (barPHASE b))⟩

/-- The subtraction of n bytes at the completion of a copy (R201). -/
def barSubtract (b n : Nat) : Nat :=
  if barPENDING b < n then barMk (barPENDING b) (barEXPECTED b) (barARRIVED b) (barPHASE b) (barFaults b ||| 2)
  else barComplete (barMk (barPENDING b - n) (barEXPECTED b) (barARRIVED b) (barPHASE b) (barFaults b))

/-- A barrier object. One in a poisoned sector is used as its bytes stand: R201 and R202 name no poison (DESIGN CHOICE, log 88). -/
def Core.bar (k : Core) (o : Nat) : Nat := k.sread o 16

/-- A BWAIT that waits at this object for another phase than the object now has is to wake (R202; 18 R379). -/
def Hart.barFlip (o v : Nat) (h : Hart) : Hart :=
  match h.block with
  | some (.bwait q phase _) => if q = o ∧ barPHASE v ≠ phase then { h with block := some (.bwait q phase true) } else h
  | _ => h

/-- Write a barrier object. -/
def Core.putBar (k : Core) (o v : Nat) : Core :=
  let k := k.swrite o 16 v
  { k with harts := vmap (Hart.barFlip o v) k.harts }

/-! Rings. -/

def ringRIDX (r : Nat) : Nat := bits r 31 0
def ringWIDX (r : Nat) : Nat := bits r 63 32
def ringSTATE (r : Nat) : Bool := bit r 64
def ringLSSZ (r : Nat) : Nat := bits r 90 87
def ringLSCNT (r : Nat) : Nat := bits r 95 91
def ringMODE (r : Nat) : Bool := bit r 96
def ringTPOS (r : Nat) : Nat := bits r 102 97
def ringHOFF (r : Nat) : Nat := bits r 111 103
def ringVMASK (r : Nat) : Nat := bits r 127 112
def ringBASE (r : Nat) : Nat := bits r 151 128
def ringFILLED (r : Nat) : Nat := bits r 176 160
def ringPUBMAP (r : Nat) : Nat := bits r 255 192
def ringCOUNT (r : Nat) : Nat := 2 ^ ringLSCNT r
def ringSSIZE (r : Nat) : Nat := 2 ^ ringLSSZ r

/-- The object with its reserved fields zero. -/
def ringNorm (r : Nat) : Nat :=
  bits r 64 0 + bits r 127 87 * 2 ^ 87 + bits r 151 128 * 2 ^ 128 + bits r 176 160 * 2 ^ 160 + bits r 255 192 * 2 ^ 192

/-- The field checks of R205 for the bits c = [127:64] and a base. -/
def ringFieldsOk (scratch : Nat) (c base : Nat) : Bool :=
  let r := c * 2 ^ 64
  decide (4 ≤ ringLSSZ r) && decide (ringLSSZ r ≤ 12) && decide (1 ≤ ringLSCNT r) &&
  decide (ringLSCNT r ≤ (if ringMODE r then 6 else 16)) && decide (ringTPOS r ≤ 60) &&
  decide (ringHOFF r * 8 + 8 ≤ ringSSIZE r) && base % ringSSIZE r == 0 &&
  decide (base + ringCOUNT r * ringSSIZE r ≤ scratch)

/-- A ring object. A ring instruction uses one in a poisoned sector as its bytes stand: R204 to R210 name no poison (DESIGN CHOICE, log 88).
A CPYR, an engine command, records POISON for it (`pushRing`). -/
def Core.ring (k : Core) (o : Nat) : Nat := k.sread o 32

/-- Whether the object is set up (R205). -/
def Core.ringUp (k : Core) (r : Nat) : Bool := ringFieldsOk k.scratchSize (bits r 127 64) (ringBASE r)

/-- Write a ring object; one in the code region is remembered as a store (04 R125; 08 R189). -/
def Core.putRing (k : Core) (o r : Nat) : Core := (k.noteCodeStore o 32).swrite o 32 (ringNorm r)

/-- The scratch offset of the slot of position p. -/
def ringSlot (r p : Nat) : Nat := ringBASE r + p % ringCOUNT r * ringSSIZE r

/-- Advance WIDX and FILLED by one. -/
def ringAdvance (r : Nat) : Nat := setBits (setBits r 63 32 (ringWIDX r + 1)) 176 160 (ringFILLED r + 1)

/-- Copy a slot's bytes from a source value into the slot of WIDX and advance (R207, 10 R275). -/
def Core.ringPut (k : Core) (o : Nat) (v : Nat) : Core :=
  let r := k.ring o
  let slot := ringSlot r (ringWIDX r)
  ((k.noteCodeStore slot (ringSSIZE r)).swrite slot (ringSSIZE r) v).putRing o (ringAdvance r)

/-- The ring that a watcher holds and the slot whose header word lies at this offset (R206). Where two watched rings put a header
word at one offset the spec names none of them; the lowest-numbered watcher takes it (DESIGN CHOICE, log 61). -/
def Core.header (k : Core) (off : Nat) : Option (Nat × Nat) :=
  ([0, 1, 2, 3] : List (Fin 4)).findSome? (fun w =>
    match k.watchers.get w with
    | none => none
    | some o =>
      let r := k.ring o
      let d := off - ringBASE r
      if k.ringUp r && ringMODE r && decide (ringBASE r ≤ off) && d % ringSSIZE r == 8 * ringHOFF r &&
          decide (d / ringSSIZE r < ringCOUNT r) then some (o, d / ringSSIZE r) else none)

/-- Fill published slots in slot order (R206). -/
def ringFill : Nat → Nat → Nat
  | 0, r => r
  | n + 1, r =>
    let s := ringWIDX r % ringCOUNT r
    if bit (ringPUBMAP r) s then ringFill n (ringAdvance (setBits r (192 + s) (192 + s) 0)) else r

/-- Publish slot s by a store whose bytes are already decided; none where the slot is filled and not yet popped (R206). -/
def ringPublish (r s : Nat) : Option Nat :=
  let n := ringCOUNT r
  let d := (s + n - ringWIDX r % n) % n
  if n ≤ (ringWIDX r + 2 ^ 32 - ringRIDX r) % 2 ^ 32 + d then none
  else some (ringFill 64 (setBits r (192 + s) (192 + s) 1))

/-- A store of n bytes into scratch as its controller performs it: an STR.D to a header word publishes its slot; none
where the publication is refused (R206). -/
def Core.storeScratch (k : Core) (off n v : Nat) (release : Bool) : Option Core :=
  if release && n == 8 then
    match k.header off with
    | none => some (k.swrite off n v)
    | some (o, s) =>
      match ringPublish (k.ring o) s with
      | none => none
      | some r => some ((k.swrite off n v).putRing o r)
  else some (k.swrite off n v)

/-- Release the watcher that holds an object. -/
def Core.freeWatcher (k : Core) (o : Nat) : Core :=
  { k with watchers := vmap (fun w => if w = some o then none else w) k.watchers }

/-- Whether a watcher holds the object or one is free. -/
def Core.watcherFor (k : Core) (o : Nat) : Option (Fin 4) :=
  match ([0, 1, 2, 3] : List (Fin 4)).find? (fun w => k.watchers.get w == some o) with
  | some w => some w
  | none => ([0, 1, 2, 3] : List (Fin 4)).find? (fun w => (k.watchers.get w).isNone)

/-! Tensor address maps (R211). -/

/-- The address of row i of the map whose 128 bits are t. -/
def tmapRow (t i : Nat) : Word :=
  let row := bits t 127 96 + i
  let wrap := bits t 95 80
  let row := if wrap = 0 then row else row % wrap
  BitVec.ofNat 64 (bits t 63 0 + row * (bits t 79 64 * 16))

/-- Write a barrier object of the core's own harts, engines and sequencer. -/
def Core.putOwnBar (k : Core) (o v : Nat) : Core := (k.noteCodeStore o 16).putBar o v

/-- A store of the core's own harts. -/
def Core.storeOwn (k : Core) (off n v : Nat) (release : Bool := false) : Option Core :=
  (k.noteCodeStore off n).storeScratch off n v release

end Sys2Proof.Machine
end

