-- ==== Sys2Proof/Machine/Net.lean ====
section
/-! DEFINITION. Requests and what they do where they are performed: outstanding instructions (02 R45 to R51), atomics
(13 R314), a core's local-memory controller (08 R200, 15 R328), a core's cache ways (08 R191), a home slice (13 R309 to
R313), and how results, faults and rejections come back. -/

namespace Sys2Proof.Machine

/-- What a step answers. -/
abbrev Out := Host.Outcome State Fault Refusal

/-! Loaded values (04 R122, R129). -/

def LoadDst.dests : LoadDst → List (BitVec 5)
  | .one d _ _ => [d]
  | .pair d _ => [d, d + 1]

/-- The register writes that the bytes v make. -/
def LoadDst.writes : LoadDst → Nat → List (BitVec 5 × Word)
  | .one d n sg, v => [(d, if sg then sext64 v (8 * n) else BitVec.ofNat 64 (v % 2 ^ (8 * n)))]
  | .pair d n, v => [(d, BitVec.ofNat 64 (v % 2 ^ (8 * n))), (d + 1, BitVec.ofNat 64 (v / 2 ^ (8 * n) % 2 ^ (8 * n)))]

def Hart.writeAll (h : Hart) (ws : List (BitVec 5 × Word)) : Hart := ws.foldl (fun h w => h.wg w.1 w.2) h

/-- POISON becomes pending (04 R130). -/
def Hart.poisoned (h : Hart) (ea off : Word) : Hart :=
  { h with poisonPend := h.poisonPend ++ [(ea, (1#64 <<< 63) ||| BitVec.ofNat 64 (off.toNat % 2 ^ 32))] }

/-! Long-latency instructions. -/

/-- Issue a long-latency instruction whose result comes back later: it takes its credit, the pc goes on (02 R45). A
stepped instruction runs as with la = 0 (R51). -/
def State.issueLong (s : State) (r : Req) (dests : List (BitVec 5)) (la : Nat) (acq : Bool) (len : Nat) : State :=
  let id := s.nextId
  (s.send r).mapHart (fun h =>
    let o : Outst := { id := id, pc := h.pc, dests := dests, credit := if h.stepArm || h.stepOnce then 0 else la, passed := false, acq := acq }
    { h.spend with outst := h.spend.outst ++ [o], pc := h.pc + BitVec.ofNat 64 len, ibkSuppress := false, block := none })

/-- The trap of the only outstanding instruction that is left and has faulted (02 R50). -/
def State.settle (s : State) (c : Nat) (h : BitVec 2) : State :=
  match (s.hartOf c h).outst with
  | [o] =>
    match o.fault with
    | some f => (s.modHart c h (fun x => { x with outst := [] })).enterTrap c h false ⟨f.cause, f.addr, f.info⟩ o.pc
    | none => s
  | _ => s

def Hart.modOutst (h : Hart) (id : Nat) (f : Outst → Outst) : Hart :=
  { h with outst := updWhere (fun o => o.id == id) f h.outst }

/-- An outstanding instruction faults: what is younger and has not retired is discarded (R50), which is nothing but behind an access
that another module refuses after its port has accepted it (23 R437, R438; log 39). -/
def State.lateFault (s : State) (c : Nat) (h : BitVec 2) (id : Nat) (f : LateFault) : State :=
  let young := ((s.hartOf c h).outst.map (fun o => o.id)).filter (fun n => decide (id < n))
  ({ s with net := s.net.filter (fun r => !young.contains r.id) }.modHart c h (fun x =>
    { x with outst := x.outst.filter (fun o => decide (o.id ≤ id)) }.modOutst id (fun o => { o with fault := some f, passed := false }))).settle c h

/-- An outstanding instruction completes: its registers are written and it retires, with its flags, its count and its
pass (02 R45, R49; 05 R142); with poison it writes nothing (04 R130). Its flags stand where program order has them: behind those
of the older instructions that are outstanding, and before a record that a younger one has taken (R49; 05 R153). -/
def Hart.complete (h : Hart) (id : Nat) (ea : Word) (ws : List (BitVec 5 × Word)) (poison : Bool) (fl : Flags) : Hart :=
  match h.outst.find? (fun o => o.id == id) with
  | none => h
  | some o =>
    let rest := h.outst.filter (fun o => o.id != id)
    if poison then (({ h with outst := rest }.poisoned ea o.pc).count 2 1).stepDone
    else
      let first := h.arecOver.contains id
      let t := { h with outst := h.outst.takeWhile (fun o => o.id != id), arec := if first then 0 else h.arec }
      let t := ((t.writeAll ws).raiseFlags fl (arecInstr o.pc)).count 2 1
      let t := ((t.markFor (ws.map (fun w => .g w.1))).evaluateBindings false o.pc).stepDone
      if first && !t.arec.msb then { t with outst := rest, arec := h.arec, arecOver := setDel h.arecOver id } else { t with outst := rest }

/-! Atomics (13 R314, R315). -/

/-- The new value of an AMO on n bytes, and its flags. -/
def amoNew (op : BitVec 4) (n old b : Nat) : Fl Nat :=
  let m := 2 ^ (8 * n)
  let lt := decide (toS old (8 * n) ≤ toS b (8 * n))
  match op.toNat with
  | 0 => ⟨(old + b) % m, 0⟩
  | 1 => ⟨old &&& b, 0⟩
  | 2 => ⟨old ||| b, 0⟩
  | 3 => ⟨old ^^^ b, 0⟩
  | 4 => ⟨if lt then old else b, 0⟩
  | 5 => ⟨if lt then b else old, 0⟩
  | 6 => ⟨if old ≤ b then old else b, 0⟩
  | 7 => ⟨if old ≤ b then b else old, 0⟩
  | 8 => ⟨b, 0⟩
  | 9 => fmtF32.add .rne old b
  | _ => sliAdd 27 old b

/-- The stored value of an atomic request from the old bytes, or none for a CAS that fails, with its flags. -/
def ReqKind.atomic (k : ReqKind) (old : Nat) : Option Nat × Flags :=
  match k with
  | .amo op n b _ => let r := amoNew op n old (b.toNat % 2 ^ (8 * n)); (some r.val, r.fl)
  | .cas n e v _ => (if old = e.toNat % 2 ^ (8 * n) then some (v.toNat % 2 ^ (8 * n)) else none, 0)
  | _ => (none, 0)

/-- Bytes that a request touches. -/
def ReqKind.size : ReqKind → Nat
  | .load n _ => n
  | .store n _ _ => n
  | .granule _ _ _ => 16
  | .amo _ n _ _ => n
  | .cas n _ _ _ => n
  | .barr _ => 16
  | .message _ => 8
  | .fillLoad n _ => n
  | .fillStore n _ => n
  | .writeBack _ _ _ => 128
  | .acq _ => 8
  | .rel _ => 8
  | .prefetch _ _ => 1
  | .velem n => n
  | .vfill _ n => n
  | .eread n => n
  | .ewrite n _ _ => n
  | .push _ => 32
  | .sash _ _ _ => 0

/-- What an access needs of a page (15 R335); ACQ needs both, as an atomic does (log 29). A store into a bound region fills its
sector, which needs R too, unless the page is not cacheable-in-core (08 R191). -/
def ReqKind.need (k : ReqKind) (cacheable : Bool) : Need :=
  match k with
  | .load _ _ | .fillLoad _ _ | .prefetch _ _ | .velem _ | .vfill false _ | .eread _ => ⟨true, false⟩
  | .fillStore _ _ | .vfill true _ => ⟨cacheable, true⟩
  | .amo _ _ _ _ | .cas _ _ _ _ | .acq _ => ⟨true, true⟩
  | .store _ _ _ | .granule _ _ _ | .writeBack _ _ _ | .rel _ | .ewrite _ _ _ => ⟨false, true⟩
  | _ => ⟨false, false⟩

/-- Whether a watchpoint sees the access as a load and as a store (06 R177); cache traffic is not the program's. -/
def ReqKind.isLoad : ReqKind → Bool
  | .load _ _ | .fillLoad _ _ | .amo _ _ _ _ | .cas _ _ _ _ => true
  | _ => false
def ReqKind.isStore : ReqKind → Bool
  | .store _ _ _ | .granule _ _ _ | .fillStore _ _ | .amo _ _ _ _ | .cas _ _ _ _ | .message _ => true
  | _ => false

/-- A posted access of a hart (13 R317). -/
def ReqKind.posted : ReqKind → Bool
  | .store _ _ _ | .granule _ _ _ | .message _ => true
  | _ => false

/-- Where the result of a load or an atomic goes. -/
def ReqKind.writes (k : ReqKind) (v : Nat) : List (BitVec 5 × Word) :=
  match k with
  | .load _ dst => dst.writes v
  | .fillLoad _ dst => dst.writes v
  | .amo _ n _ d => [(d, BitVec.ofNat 64 (v % 2 ^ (8 * n)))]
  | .cas n _ _ d => [(d, BitVec.ofNat 64 (v % 2 ^ (8 * n)))]
  | .barr d => [(d, BitVec.ofNat 64 v)]
  | .sash _ _ d => [(d, BitVec.ofNat 64 v)]
  | _ => []

/-- The elements of `eb` bytes that a granule's mask names, by offset. -/
def granuleElems (mask : BitVec 16) (eb : Nat) : List Nat :=
  ((List.range (16 / eb)).map (fun j => eb * j)).filter (fun o => bit mask.toNat o)

/-- The first watchpoint that an access matches, with the address of the matching element. -/
def State.reqWatch (s : State) (r : Req) : Option (BitVec 2 × Word) :=
  let p := s.part r.vf
  let at_ := fun (o n : Nat) (ld st : Bool) =>
    let a := r.ea + BitVec.ofNat 64 o
    (watchOf p r.prog a n ld st).map (fun k => (k, a))
  match r.kind with
  | .granule _ mask eb => (granuleElems mask eb).findSome? (fun o => at_ o eb false true)
  | k => at_ 0 k.size k.isLoad k.isStore

/-! Scratch accesses from outside the core (15 R328, 13 R313, 08 R201, R206). -/

/-- The answer of a controller: bytes with poison and flags, or a refusal. -/
inductive Answer where
  | data (v : Nat) (poison : Bool) (fl : Flags)
  | refuse (cause : BitVec 8) (info : Word)
  deriving DecidableEq, Repr

/-- Perform a scratch access of another observer. A range failure comes before the code region (R121, R188). -/
def Core.perform (k : Core) (r : Req) : Core × Answer :=
  let o := addrOff r.ea
  let n := r.kind.size
  let ok : Answer := .data 0 false 0
  let inCode := decide (o < k.codesz.toNat)
  if k.scratchSize < o + n then (k, .refuse cBOUNDS 0)
  else match r.kind with
    | .load n _ | .velem n | .eread n => (k, .data (k.sread o n) (k.spoisoned o n) 0)
    | .ewrite n v poison =>
      if inCode then (k, .refuse cPROT 0)
      else
        let k' := k.swrite o n v.toNat
        (if poison then { k' with lpoison := (k'.sectors o n).foldl setAdd k'.lpoison } else k', ok)
    | .store n v rel =>
      if inCode then (k, .refuse cPROT 0)
      else match k.storeScratch o n v.toNat rel with
        | some k' => (k', ok)
        | none => (k, .refuse cRINGERROR 0)
    | .granule v mask _ =>
      if inCode then (k, .refuse cPROT 0) else (k.swriteMask o 16 mask.toNat v.toNat, ok)
    | .amo _ _ _ _ | .cas _ _ _ _ =>
      if inCode then (k, .refuse cPROT 0)
      else if k.spoisoned o n then (k, .data 0 true 0)
      else
        let old := k.sread o n
        let w := r.kind.atomic old
        ((match w.1 with
          | some v => k.swrite o n v
          | none => k), .data old false w.2)
    | .barr _ =>
      if inCode then (k, .refuse cPROT 0)
      else
        let b := barArrive (k.bar o)
        (k.putBar o b.obj, match b.res with
          | .ok v => .data v false 0
          | .error f => .refuse cBARRIER (BitVec.ofNat 64 f))
    | _ => (k, .refuse cPROT 0)

/-! Cache ways (08 R191). -/

def sectorAddr (a : Nat) : Nat := a / 128 * 128

def Core.sectorAt (k : Core) (a : Nat) : Option Sector := k.cache.find? (fun x => x.addr == sectorAddr a)

def Sector.read (x : Sector) (a n : Nat) : Nat := bits x.data.toNat (8 * (a % 128) + 8 * n - 1) (8 * (a % 128))

def Sector.write (x : Sector) (a n v : Nat) : Sector :=
  { x with data := BitVec.ofNat 1024 (setBits x.data.toNat (8 * (a % 128) + 8 * n - 1) (8 * (a % 128)) v),
           dirty := x.dirty ||| BitVec.ofNat 128 ((2 ^ n - 1) * 2 ^ (a % 128)) }

/-- A store of the core into a sector that is present. -/
def Core.cacheStore (k : Core) (a n v : Nat) : Core :=
  { k with cache := updWhere (fun x => x.addr == sectorAddr a) (fun x => x.write a n v) k.cache }

/-- Sectors of a range [a, a + n). -/
def Sector.within (x : Sector) (a n : Nat) : Bool := overlaps x.addr 128 a n

/-- The request that writes a sector back: its dirty bytes alone. -/
def wbReq (c : Nat) (k : Core) (x : Sector) : Req :=
  { id := 0, src := .core c, cls := .posted, kind := .writeBack x.data x.dirty x.poison, ea := BitVec.ofNat 64 x.addr,
    vf := k.vf.getD 0, launch := k.launch, off := 0, prog := false, stage := .sent }

/-- A request of core c that fills the sector at a. -/
def Req.fillsFor (r : Req) (c a : Nat) : Bool :=
  (match r.src with
   | .hart k _ => k == c
   | .core k => k == c
   | _ => false) && (match r.kind with
   | .fillLoad _ _ | .fillStore _ _ | .vfill _ _ | .prefetch true _ => sectorAddr r.ea.toNat == a
   | _ => false)

/-- Fill data that is on its way back to a core takes the bytes that the core has just written back, so that the core's
accesses to a byte stay in program order (04 R126; log 18). -/
def patchFill (c : Nat) (x : Sector) (r : Req) : Req :=
  match r.stage with
  | .reply d p f w =>
    if r.fillsFor c x.addr then { r with stage := .reply (BitVec.ofNat 1024 (mergeBytes d.toNat x.data.toNat x.dirty.toNat 128)) (p || x.poison) f w } else r
  | _ => r

/-- Send the write-backs of a list of sectors that have dirty bytes; each counts for the launch's sweep (18 R377). -/
def State.sendBacks (s : State) (c : Nat) (xs : List Sector) : State :=
  xs.foldl (fun s x =>
    if x.dirty = 0 then s
    else
      let t := (s.modLaunch (s.core c).launch (fun l => { l with sentCount := l.sentCount + 1 })).send (wbReq c (s.core c) x)
      { t with net := t.net.map (patchFill c x) }) s

/-- Write back what a test picks; the sectors stay, clean, or go. -/
def State.flush (s : State) (c : Nat) (p : Sector → Bool) (drop : Bool) : State :=
  let k := s.core c
  let s := s.sendBacks c (k.cache.filter p)
  s.modCore c (fun k =>
    { k with cache := if drop then k.cache.filter (fun x => !p x) else updWhere p (fun x => { x with dirty := 0 }) k.cache })

/-- A write-back of the core is on its way. -/
def State.backsPending (s : State) (c : Nat) : Bool :=
  s.net.any (fun r => r.src == .core c && (match r.kind with
    | .writeBack _ _ _ => true
    | _ => false))

/-- Some picked sector has dirty bytes. -/
def Core.anyDirty (k : Core) (p : Sector → Bool) : Bool := k.cache.any (fun x => p x && x.dirty != 0)

/-- The cache ways of a core. -/
def Core.cacheWays (k : Core) : List Nat := (List.range 12).filter (fun w => !bit k.waymask.toNat w)

/-- The way that a new sector takes: the way that holds its line, else a way with no sector of its set, else a victim
whose choice is free (log 14). -/
def Core.wayFor (k : Core) (a free : Nat) : Nat :=
  let line := a / 512
  let same := fun (x : Sector) => x.addr / 512 % 64 == line % 64
  match k.cache.find? (fun x => x.addr / 512 == line) with
  | some x => x.way
  | none =>
    let ws := k.cacheWays
    match ws.find? (fun w => !k.cache.any (fun x => x.way == w && same x)) with
    | some w => w
    | none => ws.getD (free % ws.length) 0

/-- A filled sector enters the cache ways; the sectors of the line it displaces are written back (R191). A sector that is
already present stays as it is. -/
def State.install (s : State) (c a : Nat) (data : BitVec 1024) (poison : Bool) : State :=
  let k := s.core c
  if (k.sectorAt a).isSome || k.cacheWays.isEmpty then s
  else
    let w := k.wayFor a (Config.freeVictim s.freeCtr)
    let out := fun (x : Sector) => x.way == w && x.addr / 512 % 64 == a / 512 % 64 && x.addr / 512 != a / 512
    let s := s.fresh.flush c out true
    s.modCore c (fun k => { k with cache := k.cache ++ [{ way := w, addr := sectorAddr a, data := data, dirty := 0, poison := poison }] })

/-! In-class order (13 R308, 15 R332): one class, one source, one destination. -/

/-- How far a request has come. -/
def Stage.kind : Stage → Nat
  | .sent => 0
  | .toCore _ => 1
  | .toEvicted _ _ => 1
  | .refusedFull _ => 1
  | .walking _ _ => 2
  | .toHome _ _ _ => 3
  | .atFill _ _ _ => 4
  | .syncQueue _ _ _ => 5
  | .onFabric => 6
  | .reply _ _ _ _ => 7
  | .acknowledged _ => 8
  | .rejected _ => 8

/-- The place in the mesh that sends: a core, Beline's dispatcher, another module, a host. -/
def Src.node : Src → Nat × Nat
  | .hart c _ | .core c | .engine c => (0, c)
  | .dispatcher => (1, 0)
  | .fabric m => (2, m.toNat)
  | .host e => (3, e)

/-- The places that answer: a slice, a core, Beline. -/
def siteSlice (x y : Nat) : Nat := clusterKey x y
def siteCore (c : Nat) : Nat := 2 ^ 16 + c
def siteBeline : Nat := 2 ^ 20

/-- The destination of a request: a virtual core, another module, or a 64 KiB granule. -/
def Req.dest (r : Req) : Nat × Nat :=
  if !r.ea.msb then (0, bits r.ea.toNat 47 16) else if addrMod r.ea = 2047 then (1, addrVcore r.ea) else (2, r.id)

def Stage.isRefused : Stage → Bool
  | .refusedFull _ => true
  | _ => false

def ReqKind.isPush : ReqKind → Bool
  | .push _ => true
  | _ => false

/-- Request x was sent before r on the path of r, and has not come further: r does not overtake it. A message that a full queue
refused waits at its router and holds only its own sender's (06 R156); a push that waits for room has arrived at its ring and holds
no other access (10 R275). -/
def Req.ahead (r x : Req) : Bool :=
  decide (x.id < r.id) && x.src.node == r.src.node && x.cls == r.cls && x.dest == r.dest && decide (x.stage.kind ≤ r.stage.kind) &&
    decide (r.stage.kind < 4) && (!x.stage.isRefused || x.src == r.src) && !(x.kind.isPush && x.stage.kind == 1)

/-- Answers of one class from one place to one core. -/
def Req.sameReturn (a b : Req) : Bool :=
  decide (7 ≤ a.stage.kind) && decide (7 ≤ b.stage.kind) && a.site == b.site && a.cls == b.cls && a.src.node == b.src.node

def State.reqAt (s : State) (id : Nat) : Option Req := s.net.find? (fun r => r.id == id)

def ReqKind.isFill : ReqKind → Bool
  | .fillLoad _ _ | .fillStore _ _ | .vfill _ _ | .prefetch true _ => true
  | _ => false

/-- The access has not been performed, and a load has not bound: one that a fill serves binds in the cache way (16 R340, R342). -/
def Req.pending (r : Req) : Bool := decide (r.stage.kind < 7) || r.kind.isFill

/-- The byte ranges of a request. -/
def Req.spans (r : Req) : List (Nat × Nat) :=
  match r.kind with
  | .fillLoad _ _ | .fillStore _ _ | .vfill _ _ | .prefetch _ _ | .writeBack _ _ _ => [(sectorAddr r.ea.toNat, 128)]
  | .sash _ _ _ => []
  | k => [(r.ea.toNat, k.size)]

def Req.meets (a b : Req) : Bool := a.spans.any (fun x => b.spans.any (fun y => overlaps x.1 x.2 y.1 y.2))

def ReqKind.isMessage : ReqKind → Bool
  | .message _ => true
  | _ => false

/-- What must be performed before this request: an earlier message of its source that a full queue refused, before a later
one (06 R156); an earlier access of its source that shares a byte with it (04 R126); an earlier write-back of its core that shares
a byte with it, and before a fill any write-back of its sector; a store or atomic of its core, before a fill of its sector (13 R315; 16
R340). -/
def Req.after (r x : Req) : Bool :=
  let earlier := decide (x.id < r.id)
  let near := x.src.node == r.src.node
  decide (x.stage.kind < 7) && x.id != r.id && (match x.kind with
    | .message _ => x.src == r.src && earlier && ((r.kind.isMessage && x.stage.isRefused) || r.meets x)
    | .writeBack _ _ _ => near && (earlier || r.kind.isFill) && r.meets x
    | .amo _ _ _ _ | .cas _ _ _ _ | .store _ _ _ | .granule _ _ _ =>
      near && (if r.kind.isFill then earlier || x.src != r.src else earlier && x.src == r.src) && r.meets x
    | _ => x.src == r.src && earlier && r.meets x)

/-- No other request stands before this one. -/
def State.inOrder (s : State) (r : Req) : Bool :=
  !(s.net.any (fun x => r.after x || r.ahead x)) && (match s.net.find? (fun x => x.sameReturn r) with
  | some x => x.id == r.id
  | none => true)

/-- An access of the executing hart to n bytes at ea waits for one of its accesses that is outstanding and shares a byte
with it (02 R46). -/
def State.overlapping (s : State) (ea : Word) (n : Nat) : Bool :=
  s.net.any (fun r => r.src == .hart s.cur.core s.cur.hart && r.spans.any (fun x => overlaps x.1 x.2 ea.toNat n))

/-- A write-back or a fill of the executing core's sector at ea is under way (13 R315; 16 R340). -/
def State.sectorMoving (s : State) (ea : Word) : Bool :=
  s.net.any (fun r => r.fillsFor s.cur.core (sectorAddr ea.toNat) ||
    (r.src == .core s.cur.core && decide (r.stage.kind < 7) && (match r.kind with
    | .writeBack _ _ _ => sectorAddr r.ea.toNat == sectorAddr ea.toNat
    | _ => false)))

/-- The request for an event: on its way, at a stage, and next in its class. -/
def State.reqNext (s : State) (id : Nat) : Option Req := (s.reqAt id).bind (fun r => if s.inOrder r then some r else none)

def State.dropReq (s : State) (id : Nat) : State := { s with net := s.net.filter (fun r => r.id != id) }

/-! A WAYSET that waits (08 R187). -/

/-- A way whose bit the waiting WAYSET changes. -/
def Core.wayChanges (k : Core) (w : Nat) : Bool :=
  match k.wayWait with
  | some (_, new) => bit (k.waymask ^^^ new).toNat w
  | none => false

/-- An access to [o, o + n) of scratch targets a way that the waiting WAYSET changes. -/
def Core.affected (k : Core) (o n : Nat) : Bool :=
  k.wayWait.isSome && n != 0 &&
    (upFrom (o / 32768) ((o + n - 1) / 32768 - o / 32768 + 1)).any (fun i => k.wayChanges (nthWay k.waymask.toNat 12 0 i))

/-- An access to the sector of a global address targets such a way: the way that holds it, or one that a fill may take. -/
def Core.cacheAffected (k : Core) (a : Nat) : Bool :=
  match k.sectorAt a with
  | some x => k.wayChanges x.way
  | none => k.cacheWays.any k.wayChanges

/-- A WAYSET of another hart than the executing one changes the way of a sector that a test picks. -/
def State.flushHeld (s : State) (p : Sector → Bool) : Bool :=
  s.cc.wayWait.any (fun w => w.1 != s.cur.hart) && s.cc.cache.any (fun x => p x && s.cc.wayChanges x.way)

/-- The executing hart's access waits for another hart's WAYSET. -/
def State.wayHeld (s : State) (p : Place) (ea : Word) (n : Nat) : Bool :=
  match s.cc.wayWait with
  | none => false
  | some (h, _) => h != s.cur.hart && (match p with
    | .own off => s.cc.affected off n
    | .global => (s.cc.regionAt ea.toNat).isSome && s.cc.cacheAffected ea.toNat
    | _ => false)

/-- An access of the executing hart that its form checks have passed waits: for an overlapping one, or for a WAYSET. -/
def State.waitsFor (s : State) (p : Place) (ea : Word) (n : Nat) : Bool := s.overlapping ea n || s.wayHeld p ea n

/-- Put a changed request last. -/
def State.moveReq (s : State) (r : Req) : State := { s.dropReq r.id with net := (s.dropReq r.id).net ++ [r] }

def State.stageTo (s : State) (r : Req) (g : Stage) : State := s.moveReq { r with stage := g }

/-- A posted access of a hart, an engine or a core's cache ways: it is answered by an acknowledgement or a rejection (13 R307). -/
def ReqKind.acked : ReqKind → Bool
  | .writeBack _ _ _ | .ewrite _ _ _ | .push _ => true
  | k => k.posted

/-- An answer goes on its way, in its class, from the place that gives it (13 R307). -/
def State.answer (s : State) (r : Req) (site : Nat) (g : Stage) : State :=
  s.moveReq { r with stage := g, site := site, cls := if r.kind.acked then .acknowledgement else .response }

/-- The fills of core c that their home has accepted and that have not reached the core go to it again; a prefetch is dropped. So after
an acquire, an invalidation or a binding no older copy enters the cache ways (16 R340, R345, R346). -/
def State.refetch (s : State) (c : Nat) (p : Sector → Bool) : State :=
  let hit := fun (r : Req) => decide (4 ≤ r.stage.kind) && r.fillsFor c (sectorAddr r.ea.toNat) &&
    p { way := 0, addr := sectorAddr r.ea.toNat, data := 0, dirty := 0, poison := false }
  { s with net := (s.net.filter (fun r => !(hit r && (match r.kind with
    | .prefetch true _ => true
    | _ => false)))).map (fun r =>
      if hit r then (match r.stage, r.home with
        | .reply _ _ 0 _, some (x, y, pa) | .atFill x y pa, _ => { r with stage := .toHome x y pa, cls := .request }
        | _, _ => r)
      else r) }

/-! Refusals on the way to the home. -/

/-- A request is refused with a cause, by the place `site`. A posted access, a write-back and what a hart or an engine waits for
carry the rejection back; a long-latency access of a hart faults at once where `now` and its core is awake, else when its notice is
taken, which a sleeping core does not do (01 R32); a prefetch is dropped (02 R48; 13 R318). -/
def State.refuse (s : State) (r : Req) (cause : BitVec 8) (info : Word) (now : Bool) (site : Nat) : State :=
  match r.kind with
  | .prefetch _ _ => s.dropReq r.id
  | .acq _ | .rel _ | .velem _ | .vfill _ _ | .eread _ | .ewrite _ _ _ | .push _ | .writeBack _ _ _ => s.answer r site (.rejected cause)
  | k =>
    if k.posted then s.answer r site (.rejected cause)
    else match r.src with
      | .hart c h =>
        if now && (s.core c).sleep == .awake then (s.dropReq r.id).lateFault c h r.id ⟨cause, r.ea, info⟩
        else s.moveReq { r with stage := .rejected cause, notice := true, info := info, site := site, cls := .response }
      | .fabric _ => s.answer r site (.rejected cause)
      | _ => s.dropReq r.id

/-- The request of a hart passes its fault point (R48). -/
def State.passed (s : State) (r : Req) : State :=
  match r.src with
  | .hart c h => s.modHart c h (fun x => x.modOutst r.id (fun o => { o with passed := true }))
  | _ => s

/-! At the home slice. -/

/-- Whether a synchronisation object may be granted: none for a PROT (08 R196). `ahead` says whether an ACQ.X waits
before this request. -/
def syncGrant (obj : Nat) (x ahead : Bool) : Option (Option Nat) :=
  if bits obj 62 32 ≠ 0 ∨ (x = false ∧ bits obj 31 0 = 2 ^ 32 - 1) then none
  else if x then some (if bit obj 63 = false ∧ bits obj 31 0 = 0 then some (obj + 2 ^ 63) else none)
  else some (if bit obj 63 = false ∧ ahead = false then some (obj + 1) else none)

/-- A release of a synchronisation object, its reserved bits written as zero (00 R6); none for a PROT (08 R197). -/
def syncRelease (obj : Nat) (x : Bool) : Option Nat :=
  if x then (if bit obj 63 then some (bits obj 31 0) else none)
  else (if 0 < bits obj 31 0 then some (bits obj 31 0 - 1 + b2n (bit obj 63) * 2 ^ 63) else none)

/-- The queued requests for the object at pa, in arrival order. -/
def State.syncWaiters (s : State) (pa : Nat) : List Req :=
  s.net.filter (fun r => match r.stage with
    | .syncQueue _ _ p => p == pa
    | _ => false)

def ReqKind.isAcqX : ReqKind → Bool
  | .acq e => e
  | _ => false

/-- The first queued request that the home would answer now, with its answer: none for a PROT, else the object's new
value (08 R196). `ahead` says whether an ACQ.X stands before. -/
def syncNext (obj : Nat) : Bool → List Req → Option (Req × Option Nat)
  | _, [] => none
  | ahead, r :: rs =>
    match syncGrant obj r.kind.isAcqX ahead with
    | none => some (r, none)
    | some (some v) => some (r, some v)
    | some none => syncNext obj (ahead || r.kind.isAcqX) rs

/-- Requests queued at a slice for synchronisation objects (08 R196). -/
def State.syncQueued (s : State) (x y : Nat) : Nat :=
  (s.net.filter (fun r => match r.stage with
    | .syncQueue a b _ => a == x && b == y
    | _ => false)).length

/-- An 8-byte store to offset 0 of its partition's doorbell page requests a checkpoint, or is ignored and logged, as one of a
partition that is rolled back is (21 R417). -/
def State.doorbell (s : State) (vf : BitVec 4) (a n v : Nat) : State :=
  let p := s.part vf
  if n = 8 ∧ p.doorbell = some a then
    if v = p.ckseq.toNat + 1 ∧ p.rolledBack = false ∧ p.restore = false then s.modPart vf (fun p => { p with requested := some (BitVec.ofNat 32 v) }) else s.logBeline (.doorbellIgnored vf)
  else s

def ReqKind.writesHome : ReqKind → Bool
  | .store _ _ _ | .granule _ _ _ | .amo _ _ _ _ | .cas _ _ _ _ | .writeBack _ _ _ | .ewrite _ _ _ | .acq _ | .rel _ => true
  | _ => false

/-- Read n bytes for a consumer: their sector's check value is checked first (21 R424). -/
def State.served (s : State) (r : Req) (x y pa n : Nat) (w : Option (BitVec 2 × Word)) : State :=
  let s := s.checkedAt x y pa
  let v := s.homeRead x y pa n
  s.answer r (siteSlice x y) (.reply (BitVec.ofNat 1024 v.1) v.2 0 w)

/-- An atomic at its home (13 R314 to R316). -/
def State.atomicHome (s : State) (r : Req) (x y pa : Nat) (w : Option (BitVec 2 × Word)) : State :=
  let n := r.kind.size
  let s := s.checkedAt x y pa
  let v := s.homeRead x y pa n
  let a := r.kind.atomic v.1
  if v.2 then s.answer r (siteSlice x y) (.reply 0 true 0 w)
  else
    (match a.1 with
     | some new => s.homeWrite x y pa n new
     | none => s).answer r (siteSlice x y) (.reply (BitVec.ofNat 1024 v.1) false a.2 w)

/-- Perform a request at its home, at physical address pa of a sector that is present: the sector is written, the answer goes on its
way (13 R312). -/
def State.performHome (s : State) (r : Req) (x y pa : Nat) : State :=
  let w := s.reqWatch r
  let n := r.kind.size
  let ack := fun (s : State) => s.answer r (siteSlice x y) (.acknowledged w)
  match r.kind with
  | .load _ _ | .velem _ | .eread _ => s.served r x y pa n w
  | .store _ v _ => ack ((s.homeWrite x y pa n v.toNat).doorbell r.vf r.ea.toNat n v.toNat)
  | .granule v mask _ => ack (s.homeMerge x y pa (mask.toNat * 2 ^ (pa % 128)) (v.toNat * 2 ^ (8 * (pa % 128))) false)
  | .ewrite _ v poison => ack (s.homeWrite x y pa n v.toNat poison)
  | .amo _ _ _ _ | .cas _ _ _ _ => s.atomicHome r x y pa w
  | .fillLoad _ _ | .fillStore _ _ | .vfill _ _ | .prefetch true _ => s.served { r with home := some (x, y, pa) } x y (sectorAddr pa) 128 w
  | .writeBack data dirty poison =>
    (s.homeMerge x y pa dirty.toNat data.toNat poison).answer r (siteSlice x y) (.acknowledged none)
  | .acq _ => if s.syncQueued x y < 32 then s.stageTo r (.syncQueue x y pa) else s.stageTo r (.toHome x y pa)
  | .rel e =>
    match syncRelease (s.homeRead x y pa 8).1 e with
    | none => s.answer r (siteSlice x y) (.rejected cPROT)
    | some v => (s.homeWrite x y pa 8 v).answer r (siteSlice x y) (.reply 0 false 0 none)
  | _ => s.dropReq r.id

/-- Perform at the home with the slice's own record of the sector. -/
def State.performAt (s : State) (r : Req) (x y pa : Nat) (hit : Bool) : State :=
  s.performHome { r with hit := some (r.hit.getD hit) } x y pa

/-- The requests that wait at slice (x, y) for the sector of pa. -/
def State.fillWaiters (s : State) (x y pa : Nat) : List Req :=
  s.net.filter (fun r => match r.stage with
    | .atFill a b p => a == x && b == y && p / 128 == pa / 128
    | _ => false)

/-- An earlier posted access of the same hart to the same granule is not performed, and does not wait for the fill that this one
waits for: this one is not accepted yet (16 R342). -/
def State.postedAhead (s : State) (r : Req) (x y pa : Nat) : Bool :=
  r.kind.posted && s.net.any (fun q =>
    q.src == r.src && q.cls == r.cls && q.dest == r.dest && decide (q.id < r.id) && decide (q.stage.kind < 7) &&
      !((s.fillWaiters x y pa).any (fun f => f.id == q.id)))

/-- The home accepts a request: a present sector serves it, else it waits for the fill (13 R309, 17 R362). -/
def State.acceptHome (s : State) (r : Req) (x y pa : Nat) : State :=
  if s.sliceHit x y pa r.vf && (s.fillWaiters x y pa).isEmpty then s.performAt r x y pa true
  else s.moveReq { r with stage := .atFill x y pa, hit := some false }

/-! Rejections reach the hart (13 R319). -/

/-- The log entry of a rejected posted access. -/
def rejEntry (r : Req) (cause : BitVec 8) : RejEntry :=
  let g := BitVec.ofNat 64 (r.ea.toNat / 16 * 16)
  let k := r.ea.toNat % 16
  match r.kind with
  | .granule v mask _ => ⟨cause, mask, g, v⟩
  | .message v => ⟨cause, BitVec.ofNat 16 (0xFF * 2 ^ k), g, BitVec.ofNat 128 (v.toNat * 2 ^ (8 * k))⟩
  | .store n v _ => ⟨cause, BitVec.ofNat 16 ((2 ^ n - 1) * 2 ^ k), g, BitVec.ofNat 128 (v.toNat % 2 ^ (8 * n) * 2 ^ (8 * k))⟩
  | _ => ⟨cause, 0, g, 0⟩

/-- Count a posted access down (R317). -/
def Hart.countDown (h : Hart) (ea : Word) : Hart :=
  if ea.msb && addrMod ea != 2047 then { h with orsFab := h.orsFab - 1 } else { h with orsLocal := h.orsLocal - 1 }

/-- An access on its way has been received or refused: the launch's received count rises (18 R377). -/
def State.received (s : State) (launch : Nat) : State := s.modLaunch launch (fun l => { l with recvCount := l.recvCount + 1 })

end Sys2Proof.Machine
end

