-- ==== Sys2Proof/Machine/Integer.lean ====
section
/-! DEFINITION. The integer register operations, major 0x00 (04 R95 to R102). Division and remainder carry a lookahead
field; they pass their fault point at issue (02 R48), and the model writes their result at issue (log 6). -/

namespace Sys2Proof.Machine

/-- An operation of two operands: BOUND_WRITE first (R97), then g[d], its flags and its pass. -/
def State.two (s : State) (d a b : BitVec 5) (m n : BitVec 1) (f : Word → Word → Fl Word) : State :=
  s.compute d (f (s.hart.operand (.of a m)) (s.hart.operand (.of b n)))

/-- An operation of one operand. -/
def State.one (s : State) (d a : BitVec 5) (m : BitVec 1) (f : Word → Fl Word) : State :=
  s.compute d (f (s.hart.operand (.of a m)))

/-- ADD (R99): g[d] := A + B, wrapping. -/
def execAdd (d a b : BitVec 5) (m n : BitVec 1) (s : State) : Out := .next (s.two d a b m n Alu.add)

/-- SUB (R99): g[d] := A - B, wrapping. -/
def execSub (d a b : BitVec 5) (m n : BitVec 1) (s : State) : Out := .next (s.two d a b m n Alu.sub)

/-- AND (R99): g[d] := A and B. -/
def execAnd (d a b : BitVec 5) (m n : BitVec 1) (s : State) : Out := .next (s.two d a b m n Alu.and)

/-- OR (R99): g[d] := A or B. -/
def execOr (d a b : BitVec 5) (m n : BitVec 1) (s : State) : Out := .next (s.two d a b m n Alu.or)

/-- XOR (R99): g[d] := A xor B. -/
def execXor (d a b : BitVec 5) (m n : BitVec 1) (s : State) : Out := .next (s.two d a b m n Alu.xor)

/-- ANDN (R99): g[d] := A and (not B). -/
def execAndn (d a b : BitVec 5) (m n : BitVec 1) (s : State) : Out := .next (s.two d a b m n Alu.andn)

/-- SHL (R99): g[d] := A shl B[5:0]. -/
def execShl (d a b : BitVec 5) (m n : BitVec 1) (s : State) : Out := .next (s.two d a b m n Alu.shl)

/-- SHR (R99): g[d] := A shr B[5:0]. -/
def execShr (d a b : BitVec 5) (m n : BitVec 1) (s : State) : Out := .next (s.two d a b m n Alu.shr)

/-- SRA (R99): arithmetic shift right by B[5:0]. -/
def execSra (d a b : BitVec 5) (m n : BitVec 1) (s : State) : Out := .next (s.two d a b m n Alu.sra)

/-- MUL (R99): bits [63:0] of the product. -/
def execMul (d a b : BitVec 5) (m n : BitVec 1) (s : State) : Out := .next (s.two d a b m n Alu.mul)

/-- MULH (R99): bits [127:64] of the signed product. -/
def execMulh (d a b : BitVec 5) (m n : BitVec 1) (s : State) : Out := .next (s.two d a b m n Alu.mulh)

/-- MULHU (R99): bits [127:64] of the unsigned product. -/
def execMulhu (d a b : BitVec 5) (m n : BitVec 1) (s : State) : Out := .next (s.two d a b m n Alu.mulhu)

/-- MIN (R99): the signed smaller. -/
def execMin (d a b : BitVec 5) (m n : BitVec 1) (s : State) : Out := .next (s.two d a b m n Alu.min)

/-- MAX (R99): the signed larger. -/
def execMax (d a b : BitVec 5) (m n : BitVec 1) (s : State) : Out := .next (s.two d a b m n Alu.max)

/-- MINU (R99): the unsigned smaller. -/
def execMinu (d a b : BitVec 5) (m n : BitVec 1) (s : State) : Out := .next (s.two d a b m n Alu.minu)

/-- MAXU (R99): the unsigned larger. -/
def execMaxu (d a b : BitVec 5) (m n : BitVec 1) (s : State) : Out := .next (s.two d a b m n Alu.maxu)

/-- SLT (R99): 1 if A < B signed. -/
def execSlt (d a b : BitVec 5) (m n : BitVec 1) (s : State) : Out := .next (s.two d a b m n Alu.slt)

/-- SLTU (R99): 1 if A < B unsigned. -/
def execSltu (d a b : BitVec 5) (m n : BitVec 1) (s : State) : Out := .next (s.two d a b m n Alu.sltu)

/-- SEQ (R99): 1 if A = B. -/
def execSeq (d a b : BitVec 5) (m n : BitVec 1) (s : State) : Out := .next (s.two d a b m n Alu.seq)

/-- SNE (R99): 1 if A and B differ. -/
def execSne (d a b : BitVec 5) (m n : BitVec 1) (s : State) : Out := .next (s.two d a b m n Alu.sne)

/-- ADDV (R99): A + B, IOV on signed overflow. -/
def execAddv (d a b : BitVec 5) (m n : BitVec 1) (s : State) : Out := .next (s.two d a b m n Alu.addv)

/-- DIV (R100): signed quotient; by zero it sets DZ or NV. -/
def execDiv (d a b : BitVec 5) (m n : BitVec 1) (_l : BitVec 4) (s : State) : Out := .next (s.two d a b m n Alu.div)

/-- DIVU (R100): unsigned quotient; by zero it sets DZ or NV. -/
def execDivu (d a b : BitVec 5) (m n : BitVec 1) (_l : BitVec 4) (s : State) : Out := .next (s.two d a b m n Alu.divu)

/-- REM (R100): signed remainder; by zero it sets DZ or NV. -/
def execRem (d a b : BitVec 5) (m n : BitVec 1) (_l : BitVec 4) (s : State) : Out := .next (s.two d a b m n Alu.rem)

/-- REMU (R100): unsigned remainder; by zero it sets DZ or NV. -/
def execRemu (d a b : BitVec 5) (m n : BitVec 1) (_l : BitVec 4) (s : State) : Out := .next (s.two d a b m n Alu.remu)

/-- SEL (R99, R101): A if the old g[d] is not 0, else B. -/
def execSel (d a b : BitVec 5) (m n : BitVec 1) (s : State) : Out := .next (s.two d a b m n (fun p q => Alu.sel p q (s.rg d)))

/-- CLZ (R101): leading zeros of A. -/
def execClz (d a : BitVec 5) (m : BitVec 1) (s : State) : Out := .next (s.one d a m Alu.clz)

/-- CTZ (R101): trailing zeros of A. -/
def execCtz (d a : BitVec 5) (m : BitVec 1) (s : State) : Out := .next (s.one d a m Alu.ctz)

/-- POPC (R101): one bits of A. -/
def execPopc (d a : BitVec 5) (m : BitVec 1) (s : State) : Out := .next (s.one d a m Alu.popc)

/-- ABS (R101): absolute value of A. -/
def execAbs (d a : BitVec 5) (m : BitVec 1) (s : State) : Out := .next (s.one d a m Alu.abs)

end Sys2Proof.Machine
end

