-- ==== Sys2Proof/Machine/Immediate.lean ====
section
/-! DEFINITION. The immediate operations, majors 0x01 to 0x08 (04 R103 to R105). Each is written over the extension of an
IMX before it (02 R53): `none` for the instruction alone. -/

namespace Sys2Proof.Machine

/-- Bytes of an instruction, with its IMX where it has one. -/
def pairLen (x : Option (BitVec 26)) : Nat := if x.isSome then 8 else 4

/-- An operation of g[a] and an immediate. -/
def State.immOp (s : State) (x : Option (BitVec 26)) (d a : BitVec 5) (f : Word → Fl Word) : State :=
  s.compute d (f (s.rg a)) (pairLen x)

/-- ADDI (R103). -/
def State.doAddi (s : State) (x : Option (BitVec 26)) (d a : BitVec 5) (i : BitVec 16) : State :=
  s.immOp x d a (fun p => Alu.add p (Alu.immS x i))

/-- ADDI (R103). -/
def execAddi (d a : BitVec 5) (i : BitVec 16) (s : State) : Out := .next (s.doAddi none d a i)

/-- ANDI (R103). -/
def State.doAndi (s : State) (x : Option (BitVec 26)) (d a : BitVec 5) (i : BitVec 16) : State :=
  s.immOp x d a (fun p => Alu.and p (Alu.immS x i))

/-- ANDI (R103). -/
def execAndi (d a : BitVec 5) (i : BitVec 16) (s : State) : Out := .next (s.doAndi none d a i)

/-- ORI (R103). -/
def State.doOri (s : State) (x : Option (BitVec 26)) (d a : BitVec 5) (i : BitVec 16) : State :=
  s.immOp x d a (fun p => Alu.or p (Alu.immZ x i))

/-- ORI (R103). -/
def execOri (d a : BitVec 5) (i : BitVec 16) (s : State) : Out := .next (s.doOri none d a i)

/-- XORI (R103). -/
def State.doXori (s : State) (x : Option (BitVec 26)) (d a : BitVec 5) (i : BitVec 16) : State :=
  s.immOp x d a (fun p => Alu.xor p (Alu.immZ x i))

/-- XORI (R103). -/
def execXori (d a : BitVec 5) (i : BitVec 16) (s : State) : Out := .next (s.doXori none d a i)

/-- SLTI (R103). -/
def State.doSlti (s : State) (x : Option (BitVec 26)) (d a : BitVec 5) (i : BitVec 16) : State :=
  s.immOp x d a (fun p => Alu.slt p (Alu.immS x i))

/-- SLTI (R103). -/
def execSlti (d a : BitVec 5) (i : BitVec 16) (s : State) : Out := .next (s.doSlti none d a i)

/-- SLTIU (R103). -/
def State.doSltiu (s : State) (x : Option (BitVec 26)) (d a : BitVec 5) (i : BitVec 16) : State :=
  s.immOp x d a (fun p => Alu.sltu p (Alu.immS x i))

/-- SLTIU (R103). -/
def execSltiu (d a : BitVec 5) (i : BitVec 16) (s : State) : Out := .next (s.doSltiu none d a i)

/-- SHLI (R104). -/
def execShli (d a : BitVec 5) (k : BitVec 6) (s : State) : Out :=
  .next (s.immOp none d a (fun p => Alu.shl p (k.setWidth 64)))

/-- SHRI (R104). -/
def execShri (d a : BitVec 5) (k : BitVec 6) (s : State) : Out :=
  .next (s.immOp none d a (fun p => Alu.shr p (k.setWidth 64)))

/-- SRAI (R104). -/
def execSrai (d a : BitVec 5) (k : BitVec 6) (s : State) : Out :=
  .next (s.immOp none d a (fun p => Alu.sra p (k.setWidth 64)))

/-- MOVI (R105). -/
def State.doMovi (s : State) (x : Option (BitVec 26)) (d : BitVec 5) (i : BitVec 16) : State :=
  s.compute d (.pure (Alu.immS x i)) (pairLen x)

/-- MOVI (R105). -/
def execMovi (d : BitVec 5) (i : BitVec 16) (s : State) : Out := .next (s.doMovi none d i)

end Sys2Proof.Machine
end

