-- ==== Sys2Proof/Machine/LoadStore.lean ====
section
/-! DEFINITION. Scalar loads and stores, majors 0x10 to 0x13 (04 R120 to R131). Each is written over the extension of an
IMX before it (02 R53). An access to the core's own scratch, or to a sector present in its cache ways, passes its fault
point at issue, and the model completes it there (log 6). -/

namespace Sys2Proof.Machine

/-- The signed offset in access-size units (02 R37, R53). -/
def memOff (x : Option (BitVec 26)) (o : BitVec 9) : Int :=
  match x with
  | none => o.toInt
  | some x => (x ++ o).toInt

/-- The effective address (R120). -/
def State.memEA (s : State) (x : Option (BitVec 26)) (a : BitVec 5) (o : BitVec 9) (n : Nat) : Word :=
  s.resolve (s.rg a + wrap (memOff x o * n))

/-- The partition of the executing core. -/
def State.cvf (s : State) : BitVec 4 := s.cc.vf.getD 0

/-- A watchpoint that an access performed at issue matches. -/
def State.watchNow (s : State) (ea : Word) (n : Nat) (ld st : Bool) : Option (BitVec 2) :=
  watchOf (s.part s.cvf) (s.hart.mode == .program) ea n ld st

/-- Complete a load at issue with its bytes (04 R122, R130). The code offset that a poisoned load under an IMX reports is the IMX's:
R130 names the load's, and R54 gives the pair one offset only where it traps (DESIGN CHOICE, log 62). -/
def State.loadNow (s : State) (ea : Word) (n : Nat) (dst : LoadDst) (v : Nat) (poison : Bool) (event len : Nat) : State :=
  let w := s.watchNow ea n true false
  let p := s.part s.cvf
  s.mapHart (fun h =>
    let h := (h.count event 1).watched p w ea h.pc false
    if poison then (h.poisoned ea h.pc).retire len [] 0 else (h.writeAll (dst.writes v)).retire len (dst.dests.map .g) 0)

/-- A load of n bytes with alignment al: BOUND_WRITE, the form checks, then by the class of its address (R120, R121). -/
def State.loadAt (s : State) (ea : Word) (al n : Nat) (dst : LoadDst) (la : Nat) (acq : Bool) (len : Nat) : State :=
  s.guarded (dst.dests.map s.boundCheck) (fun s =>
    match s.classify ea al n false with
    | .error t => s.raise t
    | .ok p => if s.waitsFor p ea n then s else match p with
    | .own off => s.loadNow ea n dst (s.cc.sread off n) (s.cc.spoisoned off n) 9 len
    | .global =>
      if (s.cc.regionAt ea.toNat).isSome then
        match s.cc.sectorAt ea.toNat with
        | some x => s.loadNow ea n dst (x.read ea.toNat n) x.poison 10 len
        | none => s.issueLong (s.reqOf .request (.fillLoad n dst) ea) dst.dests la acq len
      else s.issueLong (s.reqOf .request (.load n dst) ea) dst.dests la acq len
    | _ => s.issueLong (s.reqOf .request (.load n dst) ea) dst.dests la acq len)

/-- Retire a store that was performed at issue. -/
def State.storedNow (s : State) (ea : Word) (n len : Nat) : State :=
  let w := s.watchNow ea n false true
  let p := s.part s.cvf
  s.mapHart (fun h => (h.watched p w ea h.pc true).retire len [] 0)

/-- A posted access retires at issue; without room it waits (13 R317, R320). -/
def State.postNow (s : State) (cls : Class) (kind : ReqKind) (ea : Word) (fab : Bool) (len : Nat) : State :=
  if s.hart.postRoom then (s.post cls kind ea fab).retire len else s

/-- A window offset: the message registers (15 R328). -/
def inWindow (ea : Word) : Bool := decide (0x800000 ≤ addrOff ea)

/-- A store of n bytes with alignment al, by the class of its address (R123, R124); `win` where it may name a message
window, `release` for STR. A store into a bound region whose sector is absent becomes a posted one where its page proves not
cacheable-in-core (08 R191), and R320 does not say how it gets its room then: it is held at issue until there is room (DESIGN CHOICE, log
94). -/
def State.storeAt (s : State) (ea : Word) (al n v : Nat) (win release : Bool) (len : Nat) : State :=
  let kind : ReqKind := .store n (BitVec.ofNat 128 v) release
  match s.classify ea al n win with
  | .error t => s.raise t
  | .ok p => if s.waitsFor p ea n then s else match p with
  | .own off =>
    match s.cc.storeOwn off n v release with
    | some k => (s.mapCore (fun _ => k)).storedNow ea n len
    | none => s.raise ⟨cRINGERROR, ea, 4⟩
  | .global =>
    if (s.cc.regionAt ea.toNat).isSome then
      if (s.cc.sectorAt ea.toNat).isSome then (s.mapCore (fun k => k.cacheStore ea.toNat n v)).storedNow ea n len
      else if s.hart.postRoom then s.issueLong (s.reqOf .request (.fillStore n (BitVec.ofNat 128 v)) ea) [] 0 false len
      else s
    else s.postNow .posted kind ea false len
  | .window => s.postNow .message (.message (BitVec.ofNat 64 v)) ea false len
  | .fabric => if inWindow ea then s.postNow .message (.message (BitVec.ofNat 64 v)) ea true len else s.postNow .posted kind ea true len
  | .remote => s.postNow .posted kind ea false len

/-- A release may be performed: every earlier load is bound, every earlier store performed (04 R128). -/
def Hart.released (h : Hart) : Bool := h.quiet && h.orsZero

/-- The low 8n bits of a register. -/
def State.low (s : State) (r : BitVec 5) (n : Nat) : Nat := (s.rg r).toNat % 2 ^ (8 * n)

/-- The bytes of a pair (R129). -/
def State.lowPair (s : State) (r : BitVec 5) (n : Nat) : Nat := s.low r n + s.low (r + 1) n * 2 ^ (8 * n)

/-- LD (R122). -/
def State.doLd (s : State) (x : Option (BitVec 26)) (d a : BitVec 5) (l : BitVec 4) (z : BitVec 3) (o : BitVec 9) : State :=
  let n := 2 ^ (z.toNat % 4)
  s.loadAt (s.memEA x a o n) n n (.one d n (!z.msb)) l.toNat false (pairLen x)

/-- ST (R123). -/
def State.doSt (s : State) (x : Option (BitVec 26)) (t a : BitVec 5) (z : BitVec 2) (o : BitVec 9) : State :=
  let n := 2 ^ z.toNat
  s.storeAt (s.memEA x a o n) n n (s.low t n) (n == 8) false (pairLen x)

/-- LDA (R127): zero-extending, and later accesses wait. -/
def State.doLda (s : State) (x : Option (BitVec 26)) (d a : BitVec 5) (l : BitVec 4) (z : BitVec 2) (o : BitVec 9) : State :=
  let n := 2 ^ z.toNat
  s.loadAt (s.memEA x a o n) n n (.one d n false) l.toNat true (pairLen x)

/-- STR (R128): it issues only where the hart's earlier accesses are performed. -/
def State.doStr (s : State) (x : Option (BitVec 26)) (t a : BitVec 5) (z : BitVec 2) (o : BitVec 9) : State :=
  let n := 2 ^ z.toNat
  if s.hart.released then s.storeAt (s.memEA x a o n) n n (s.low t n) (n == 8) true (pairLen x) else s

/-- The element size of a pair (R129): sz[1:0] is 2 or 3. -/
def pairSize (z : BitVec 1) : Nat := if z = 1 then 8 else 4

/-- LDP (R129). -/
def State.doLdp (s : State) (x : Option (BitVec 26)) (d a : BitVec 5) (l : BitVec 4) (z : BitVec 1) (o : BitVec 9) : State :=
  let n := pairSize z
  s.loadAt (s.memEA x a o n) (2 * n) (2 * n) (.pair d n) l.toNat false (pairLen x)

/-- STP (R129). -/
def State.doStp (s : State) (x : Option (BitVec 26)) (t a : BitVec 5) (z : BitVec 1) (o : BitVec 9) : State :=
  let n := pairSize z
  s.storeAt (s.memEA x a o n) (2 * n) (2 * n) (s.lowPair t n) false false (pairLen x)

/-- LD (R122). -/
def execLd (d a : BitVec 5) (l : BitVec 4) (z : BitVec 3) (o : BitVec 9) (s : State) : Out := .next (s.doLd none d a l z o)

/-- ST (R123). -/
def execSt (t a : BitVec 5) (z : BitVec 2) (o : BitVec 9) (s : State) : Out := .next (s.doSt none t a z o)

/-- LDA (R127). -/
def execLda (d a : BitVec 5) (l : BitVec 4) (z : BitVec 2) (o : BitVec 9) (s : State) : Out := .next (s.doLda none d a l z o)

/-- STR (R128). -/
def execStr (t a : BitVec 5) (z : BitVec 2) (o : BitVec 9) (s : State) : Out := .next (s.doStr none t a z o)

/-- LDP (R129). -/
def execLdp (d a : BitVec 5) (l : BitVec 4) (z : BitVec 1) (o : BitVec 9) (s : State) : Out := .next (s.doLdp none d a l z o)

/-- STP (R129). -/
def execStp (t a : BitVec 5) (z : BitVec 1) (o : BitVec 9) (s : State) : Out := .next (s.doStp none t a z o)

end Sys2Proof.Machine
end

