-- ==== Sys2Proof/Machine/Atomic.lean ====
section
/-! DEFINITION. Atomics, majors 0x14 and 0x15 (13 R314 to R316). -/

namespace Sys2Proof.Machine

/-- Complete an atomic of the core's own scratch at issue. -/
def State.atomicOwn (s : State) (kind : ReqKind) (ea : Word) (off : Nat) (d : BitVec 5) : State :=
  let n := kind.size
  let w := s.watchNow ea n true true
  let p := s.part s.cvf
  if off < s.cc.codesz.toNat then s.raise ⟨cPROT, ea, 0⟩
  else if s.cc.spoisoned off n then
    s.mapHart (fun h => ((h.watched p w ea h.pc true).poisoned ea h.pc).retire 4 [] 0)
  else
    let old := s.cc.sread off n
    let a := kind.atomic old
    let s := match a.1 with
      | some v => s.mapCore (fun k => (k.noteCodeStore off n).swrite off n v)
      | none => s
    s.mapHart (fun h => ((h.watched p w ea h.pc true).wg d (BitVec.ofNat 64 old)).retire 4 [.g d] a.2)

/-- Write back what a test picks of the executing core's cache and, where dirty bytes left, wait for the acknowledgements:
the instruction then runs again (08 R194 to R198). It is held while another hart's WAYSET changes the way of a sector that it would act
on (08 R187). -/
def State.flushed (s : State) (p : Sector → Bool) (drop : Bool) (k : State → State) : State :=
  if s.flushHeld p then s else
  let dirty := s.cc.anyDirty p
  let t := s.flush s.cur.core p drop
  if dirty || t.backsPending s.cur.core then t.blockOn (.writeBack none) else k t

/-- The part of an atomic that follows BOUND_WRITE and the release condition (R315). It waits while its sector is on its way to or
from the cache ways. -/
def State.atomicAt (s : State) (kind : ReqKind) (ea : Word) (d : BitVec 5) (la : Nat) (acq : Bool) : State :=
  let n := kind.size
  let far := fun (s : State) => s.issueLong (s.reqOf .request kind ea) [d] la acq 4
  match s.classify ea n n false with
  | .error t => s.raise t
  | .ok .fabric => s.raise ⟨cPROT, ea, 0⟩
  | .ok p => if s.waitsFor p ea n then s else match p with
  | .own off => s.atomicOwn kind ea off d
  | .global =>
    if s.sectorMoving ea then s
    else if (s.cc.regionAt ea.toNat).isSome ∧ (s.cc.sectorAt ea.toNat).isSome then
      s.flushed (fun x => x.addr == sectorAddr ea.toNat) true far
    else far s
  | _ => far s

/-- An atomic of n bytes: BOUND_WRITE, the release condition, the rest (R315, R316). -/
def State.atomic (s : State) (kind : ReqKind) (a d : BitVec 5) (l : BitVec 4) (acq rel : Bool) : State :=
  if rel && !s.hart.released then s
  else s.guarded [s.boundCheck d] (fun s => s.atomicAt kind (s.resolve (s.rg a)) d l.toNat acq)

/-- Bytes of an atomic (R314). -/
def amoSize (z : BitVec 1) : Nat := if z = 1 then 8 else 4

/-- AMO (R315). -/
def execAmo (d a b : BitVec 5) (l : BitVec 4) (q r z : BitVec 1) (o : BitVec 4) (s : State) : Out :=
  .next (s.atomic (.amo o (amoSize z) (s.rg b) d) a d l (q == 1) (r == 1))

/-- CAS (R315): the expected value is g[d], the new value g[b]. -/
def execCas (d a b : BitVec 5) (l : BitVec 4) (q r z : BitVec 1) (s : State) : Out :=
  .next (s.atomic (.cas (amoSize z) (s.rg d) (s.rg b) d) a d l (q == 1) (r == 1))

end Sys2Proof.Machine
end

