-- ==== Sys2Proof/Machine/Fence.lean ====
section
/-! DEFINITION. Fences, ISYNC and TFENCE, major 0x16 (06 R163 to R166; 13 R321, R322). Each issues only with nothing
outstanding (02 R47); until its wait ends the hart does not advance. -/

namespace Sys2Proof.Machine

/-- Run an instruction of R47: it waits while the hart has a long-latency instruction outstanding. -/
def State.quietly (s : State) (k : State → State) : State := if s.hart.quiet then k s else s

/-- FENCE (R164): every scope waits for the same conditions on this device. -/
def execFence (_c : BitVec 3) (s : State) : Out := .next (if s.hart.released then s.retire else s)

/-- Offset of the first byte of a mask. -/
def pieceAt (mask : BitVec 16) : Nat := Alu.trailing mask.toNat 16

/-- The size of the reported piece: the largest of 4, 2, 1 that is aligned and set throughout (R321). -/
def pieceSize (mask : BitVec 16) : Nat :=
  let o := pieceAt mask
  let all := fun z => o % z == 0 && (upFrom o z).all (fun k => bit mask.toNat k)
  if all 4 then 4 else if all 2 then 2 else 1

/-- The log entry without the reported piece. -/
def RejEntry.rest (e : RejEntry) : RejEntry :=
  { e with mask := e.mask &&& ~~~(BitVec.ofNat 16 ((2 ^ pieceSize e.mask - 1) * 2 ^ pieceAt e.mask)) }

/-- The log after its oldest entry has given one piece. -/
def logRest : List RejEntry → List RejEntry
  | [] => []
  | e :: es => if e.rest.mask = 0 then es else e.rest :: es

/-- XADDR and XINFO of STORE_REJECT (R321). -/
def rejectTrap (e : RejEntry) (count : Nat) : Trap :=
  let o := pieceAt e.mask
  let z := pieceSize e.mask
  ⟨cSTOREREJECT, e.addr + BitVec.ofNat 64 o,
   BitVec.ofNat 64 (count * 2 ^ 48 + e.cause.toNat * 2 ^ 40 + Nat.log2 z * 2 ^ 32 + bits e.data.toNat (8 * (o + z) - 1) (8 * o))⟩

/-- FENCE.S (R321): scope MOD waits for LOCAL, scope FAB for both counts; the oldest logged piece is then reported. -/
def execFenceS (c : BitVec 1) (s : State) : Out :=
  let ready := s.hart.quiet && (if c = 0 then s.hart.orsLocal == 0 else s.hart.orsZero)
  .next (if ready then
      match s.hart.rejLog with
      | [] => s.retire
      | e :: es =>
        let rest := logRest (e :: es)
        (s.mapHart (fun h => { h with rejLog := rest })).raise (rejectTrap e rest.length)
    else s)

/-- ISYNC (R165): the hart's next fetches read the code region as it is. -/
def execIsync (s : State) : Out := .next (s.quietly (fun s => (s.mapHart (fun h => { h with stale := [] })).retire))

/-- TFENCE (R166): it retires with AREC cleared, and then takes ARITH where an enabled flag is set. -/
def execTfence (s : State) : Out :=
  .next (s.quietly (fun s =>
    let h := s.hart
    let next := h.pc + 4
    let t := (s.mapHart (fun h => { h with arec := 0 })).retire
    if h.aflags.setWidth 8 &&& h.trapen.setWidth 8 = 0 then t
    else t.enterTrap t.cur.core t.cur.hart false ⟨cARITH, 0, h.arec⟩ next))

end Sys2Proof.Machine
end

