-- ==== Sys2Proof/Machine/BindOps.lean ====
section
/-! DEFINITION. BIND, UNBIND, BSTAT and BCLR, major 0x1B (05 R135 to R151). -/

namespace Sys2Proof.Machine

/-- Instructions that accept an IMX (04 R132). -/
def takesExt : Instr → Bool
  | .addi _ _ _ | .andi _ _ _ | .ori _ _ _ | .xori _ _ _ | .slti _ _ _ | .sltiu _ _ _ | .movi _ _ => true
  | .ld _ _ _ _ _ | .st _ _ _ _ | .lda _ _ _ _ _ | .str _ _ _ _ | .ldp _ _ _ _ _ | .stp _ _ _ _ => true
  | _ => false

/-- A major opcode that accepts an IMX (02 R42). -/
def majorTakesExt (w : BitVec 32) : Bool :=
  let m := w.toNat / 2 ^ 26
  (decide (1 ≤ m) && decide (m ≤ 6)) || m == 8 || (decide (0x10 ≤ m) && decide (m ≤ 0x13))

/-- The words n after a code offset, as this hart fetches them. -/
def wordsFrom (k : Core) (h : Hart) (o : Nat) : Nat → List (BitVec 32)
  | 0 => []
  | n + 1 => fetchWord k h o :: wordsFrom k h (o + 4) n

/-- The first condition of R137 that a step breaks, as a BIND_FORM reason; the reasons are tried in their order of
number (log 16). -/
def stepFault (d : BitVec 5) (first : Bool) (c : Option Calc) : Option Nat :=
  match c with
  | none => some 1
  | some c =>
    if c.d ≠ d then some 2
    else if first && (c.readsOld || c.srcs.contains (.g d)) then some 3
    else if c.la ≠ 0 || c.dyn then some 4 else none

/-- The first offending word of a formula: reason and index (R138). -/
def formFault (d : BitVec 5) : Nat → Bool → List (BitVec 32) → Option (Nat × Nat)
  | _, _, [] => none
  | i, first, w :: ws =>
    match decodeWord w with
    | some (.imx x) =>
      match ws with
      | [] => some (5, i)
      | w2 :: ws2 =>
        if !majorTakesExt w2 then some (5, i)
        else match stepFault d first ((decodeWord w2).bind (calcOf (some x))) with
          | some r => some (r, i + 1)
          | none => formFault d (i + 2) false ws2
    | i2 =>
      match stepFault d first (i2.bind (calcOf none)) with
      | some r => some (r, i)
      | none => formFault d (i + 1) false ws

/-- The words of a formula in a slot. -/
def packWords (ws : List (BitVec 32)) : BitVec 128 :=
  BitVec.ofNat 128 (ws.foldr (fun w acc => w.toNat + 2 ^ 32 * acc) 0)

/-- The lowest free slot. -/
def Hart.freeSlot (h : Hart) : Option (BitVec 4) := slotNos.find? (fun k => !(h.slot k).valid)

/-- A line of the code region that a word lies in. -/
def codeLine (o : Nat) : Nat := o / 512 * 512

/-- Greatest level and the lowest destination that would hold it (R138). -/
def Hart.greatestLevel (h : Hart) : Nat × Nat :=
  let t := levelTable h 16
  let ls := (slotNos.filter (fun k => (h.slot k).valid)).map (fun k => (t.getD k.toNat 0, (h.slot k).dest.toNat))
  let top := ls.foldl (fun m e => max m e.1) 0
  (top, (ls.filter (fun e => e.1 == top)).foldl (fun m e => min m e.2) 31)

/-- The checks 2 to 8 of R138 that stand before the slot is taken, in order. -/
def State.bindChecks (s : State) (d : BitVec 5) (n : Nat) (ws : List (BitVec 32)) : List (Option Trap) :=
  let h := s.hart
  let pc := h.pc.toNat
  let form : Nat × Nat → Trap := fun r => ⟨cBINDFORM, 0, BitVec.ofNat 64 (r.1 * 2 ^ 8 + r.2)⟩
  [if s.cc.codesz.toNat < pc + 4 + 4 * n then some ⟨cBOUNDS, s.cc.codesz.setWidth 64, 0⟩ else none,
   ((List.range n).find? (fun i => s.cc.codePoison.contains (codeLine (pc + 4 + 4 * i)))).map (fun i =>
     ⟨cPOISON, BitVec.ofNat 64 (pc + 4 + 4 * i), BitVec.ofNat 64 i⟩),
   (if d = 0 then none else h.slotOf d).map (fun k => ⟨cBINDFULL, 0, (1#64 <<< 56) ||| k.setWidth 64⟩),
   if d = 0 then some (form (0, 0)) else (formFault d 0 true ws).map form,
   ((sourcesOf d (stepsOf ws)).findSome? (fun o =>
     match o with
     | .g r => if reaches h d 16 r then some r else none
     | .m _ => none)).map (fun r => ⟨cBINDCYCLE, 0, r.setWidth 64⟩),
   if h.freeSlot.isNone then some ⟨cBINDFULL, 0, 0⟩ else none]

/-- The hart with the new binding, its levels recomputed (R139). -/
def Hart.withBinding (h : Hart) (k : BitVec 4) (d : BitVec 5) (n : BitVec 2) (ws : List (BitVec 32)) : Hart :=
  h.setSlot k { valid := true, dest := d, dirty := true, nm1 := n, level := 0, status := 0, words := packWords ws }

/-- BIND (R138, R139): the checks in order, then the slot, the levels, one pass; the captured words are skipped. -/
def execBind (d : BitVec 5) (n : BitVec 2) (s : State) : Out :=
  .next (s.quietly (fun s =>
    let h := s.hart
    let cnt := n.toNat + 1
    let pc := h.pc.toNat
    if (List.range cnt).any (fun i => s.cc.codeStall.contains (codeLine (pc + 4 + 4 * i))) then s
    else
      let ws := wordsFrom s.cc h (pc + 4) cnt
      s.guarded (s.bindChecks d cnt ws) (fun s =>
        let k := h.freeSlot.getD 0
        let b := h.withBinding k d n ws
        let g := b.greatestLevel
        if 8 < g.1 then s.raise ⟨cBINDDEPTH, 0, BitVec.ofNat 64 (g.1 + g.2 * 2 ^ 8)⟩
        else s.mapHart (fun _ => b.relevel.retireTo (BitVec.ofNat 64 (pc + 4 + 4 * cnt)) [] 0))))

/-- UNBIND (R149): it triggers no evaluation. -/
def execUnbind (d : BitVec 5) (s : State) : Out :=
  .next (s.quietly (fun s => s.mapHart (fun h =>
    (((match (if d = 0 then none else h.slotOf d) with
      | some k => (h.setSlot k {}).relevel
      | none => h) : Hart).count 2 1).goOn (h.pc + 4))))

/-- The status word of one binding (R150). -/
def bindStatus (k : BitVec 4) (sl : Slot) : Word :=
  BitVec.ofNat 64 (2 ^ 18 + k.toNat * 2 ^ 14 + sl.level.toNat * 2 ^ 10 + sl.nm1.toNat * 2 ^ 8 + sl.status.toNat)

/-- The summary word (R150). -/
def Hart.bindSummary (h : Hart) : Word :=
  let used := slotNos.filter (fun k => (h.slot k).valid)
  BitVec.ofNat 64 ((16 - used.length) * 2 ^ 24 + (used.foldl (fun m k => m ||| (h.slot k).status) 0).toNat * 2 ^ 16 +
    used.foldl (fun m k => m + 2 ^ k.toNat) 0)

/-- BSTAT (R150): an ordinary register write. -/
def execBstat (d a : BitVec 5) (s : State) : Out :=
  .next (s.quietly (fun s =>
    let h := s.hart
    let v := if a = 0 then h.bindSummary
      else match h.slotOf a with
        | some k => bindStatus k (h.slot k)
        | none => 0
    s.compute d (.pure v)))

/-- BCLR (R151). -/
def execBclr (a : BitVec 5) (s : State) : Out :=
  .next (s.quietly (fun s => (s.mapHart (fun h =>
    { h with binds := vmap (fun sl => if a = 0 || (sl.valid && sl.dest == a) then { sl with status := 0 } else sl) h.binds })).retire))

end Sys2Proof.Machine
end

