-- ==== Sys2Proof/Machine/Message.lean ====
section
/-! DEFINITION. MSEND, MTAKE, MPEEK and WAIT, major 0x1A (06 R156 to R161). -/

namespace Sys2Proof.Machine

/-- Form checks of a message-register address (R158). -/
def windowCheck (t : Word) : Option Trap :=
  if t.toNat % 8 ≠ 0 then some ⟨cALIGN, t, 0⟩
  else if t.msb = false ∨ bits t.toNat 32 24 ≠ 0 ∨ addrOff t < 0x800000 ∨ 0x8001FF < addrOff t ∨ 99 < addrY t then some ⟨cBOUNDS, t, 0⟩
  else none

/-- MSEND (R158). -/
def execMsend (a b : BitVec 5) (s : State) : Out :=
  let t := s.resolve (s.rg a)
  .next (s.guarded [windowCheck t] (fun s => if s.overlapping t 8 then s else s.postNow .message (.message (s.rg b)) t (addrMod t != 2047) 4))

/-- MTAKE (R159): the full bit falls, VALUE stays. -/
def execMtake (d : BitVec 5) (a : BitVec 4) (s : State) : Out :=
  .next (s.guarded [s.boundCheck d] (fun s =>
    let v := s.hart.rm a
    (s.mapHart (fun h => h.setFull a false)).writeRetire d v))

/-- MPEEK (R159). -/
def execMpeek (d : BitVec 5) (a : BitVec 4) (s : State) : Out := .next (s.compute d (.pure (s.hart.rm a)))

/-- The WAIT of a mask is satisfied (R160). -/
def Hart.waitDone (h : Hart) (mask : BitVec 16) : Bool := mask == 0 || h.full &&& mask != 0

/-- WAIT (R160): a blocking point, unless a selected full bit is set or none is selected. -/
def execWait (d a : BitVec 5) (s : State) : Out :=
  .next (s.quietly (fun s => s.guarded [s.boundCheck d] (fun s =>
    let mask := (s.rg a).setWidth 16
    if s.hart.waitDone mask then s.writeRetire d (s.hart.full.setWidth 64) else s.blockOn (.wait d mask))))

end Sys2Proof.Machine
end

