-- ==== Sys2Proof/Machine/System.lean ====
section
/-! DEFINITION. Control registers and system instructions, major 0x2A (01 R18 to R23; 06 R167 to R171), IMX and HINT (02
R53 to R57), and what an undefined word does (02 R43). -/

namespace Sys2Proof.Machine

/-! Control registers (01 R18). -/

/-- What a mode may do with a register. -/
structure Access where
  read : Bool
  write : Bool
  deriving DecidableEq, Repr

/-- The table of R18: the accesses of program mode and of supervisor mode; none for a number that is not in it. -/
def ctlAccess (n : Nat) : Option (Access × Access) :=
  let r : Access := ⟨true, false⟩
  let rw : Access := ⟨true, true⟩
  let no : Access := ⟨false, false⟩
  let w : Access := ⟨false, true⟩
  if n ≤ 3 then some (r, r)
  else if n = 0x010 ∨ n = 0x011 then some (rw, rw)
  else if n = 0x012 then some (r, rw)
  else if n = 0x018 ∨ n = 0x019 then some (r, r)
  else if 0x020 ≤ n ∧ n ≤ 0x024 then some (no, rw)
  else if n = 0x028 ∨ n = 0x029 then some (rw, rw)
  else if 0x030 ≤ n ∧ n ≤ 0x037 then some (r, rw)
  else if 0x040 ≤ n ∧ n ≤ 0x047 then some (no, rw)
  else if n = 0x050 then some (w, w)
  else if n = 0x051 then some (r, r)
  else none

/-- The check of an access (R18, R168). -/
def State.ctlCheck (s : State) (n : Nat) (write : Bool) : Option Trap :=
  match ctlAccess n with
  | none => some s.illegal
  | some (p, v) =>
    let here := match s.hart.mode with
      | .program => p
      | .supervisor => v
    if write then (if here.write then none else if v.write then some s.priv else some s.illegal)
    else if here.read then none
    else if here.write then some s.illegal
    else if v.read || v.write then some s.priv else some s.illegal

/-- CASST (11 R283). -/
def Casement.casst (c : Casement) : Word :=
  let st : Nat := match c.state with
    | .idle => 0
    | .running => 1
    | .stopped => 2
    | .faulted => 3
  let upc := if c.state = .running then c.upc.toNat else c.casUpc.toNat
  BitVec.ofNat 64 (c.mrows.toNat * 2 ^ 48 + c.cause.toNat * 2 ^ 40 + upc * 2 ^ 32 + c.foff.toNat * 2 ^ 8 + c.flags.toNat * 4 + st)

/-- ORSCNT (13 R317). -/
def Hart.orscnt (h : Hart) : Word := BitVec.ofNat 64 (h.orsFab.toNat * 2 ^ 16 + h.orsLocal.toNat)

/-- What an RDC of CNTk returns: 0 where its EVENT is a port event, 0x20 to 0x27 (21 R421). -/
def Hart.counter (h : Hart) (k : Fin 4) : Word :=
  let e := (h.cntsel.get k).toNat % 2 ^ 8
  if 0x20 ≤ e ∧ e ≤ 0x27 then 0 else h.cnt.get k

/-- The value of a control register. -/
def State.ctlRead (s : State) (n : Nat) : Word :=
  let h := s.hart
  let k := s.cc
  match n with
  | 0x000 => mapGet h.ids 0 (s.cur.hart.setWidth 64)
  | 0x001 => mapGet h.ids 1 k.corxy
  | 0x002 => mapGet h.ids 2 ((k.vf.getD 0).setWidth 64)
  | 0x003 => h.dmemb
  | 0x010 => h.aflags
  | 0x011 => h.trapen
  | 0x012 => h.arec
  | 0x018 => h.shape
  | 0x019 => h.orscnt
  | 0x020 => h.xpc
  | 0x021 => h.xcause
  | 0x022 => h.xaddr
  | 0x023 => h.xinfo
  | 0x024 => h.xvec
  | 0x028 => h.sleepd
  | 0x029 => h.rotpart
  | 0x030 => h.counter 0
  | 0x031 => h.counter 1
  | 0x032 => h.counter 2
  | 0x033 => h.counter 3
  | 0x034 => h.cntsel.get 0
  | 0x035 => h.cntsel.get 1
  | 0x036 => h.cntsel.get 2
  | 0x037 => h.cntsel.get 3
  | 0x040 => h.ibk.get 0
  | 0x041 => h.ibk.get 1
  | 0x042 => h.ibk.get 2
  | 0x043 => h.ibk.get 3
  | 0x044 => (s.part (k.vf.getD 0)).dwt.get 0
  | 0x045 => (s.part (k.vf.getD 0)).dwt.get 1
  | 0x046 => (s.part (k.vf.getD 0)).dwt.get 2
  | 0x047 => (s.part (k.vf.getD 0)).dwt.get 3
  | 0x051 => k.cas.casst
  | _ => 0

/-- The bits of a control register that are not reserved (00 R6). -/
def ctlMask (n : Nat) : Word :=
  match n with
  | 0x000 => 3
  | 0x001 => 0x7FFFF
  | 0x002 => 0xF
  | 0x003 => 0xFF0F
  | 0x010 => 0x3FF
  | 0x011 => 0xFF
  | 0x018 => 0xF001F
  | 0x012 => 0xE0000000FF1FFFFF
  | 0x020 | 0x024 => 0x1FFFC
  | 0x021 => 0xC0000000000000FF
  | 0x028 => 3
  | 0x029 => 0xFFFF
  | 0x030 | 0x031 | 0x032 | 0x033 => 0xFFFFFFFFFFFF
  | 0x034 | 0x035 | 0x036 | 0x037 => 0xE0FF
  | 0x040 | 0x041 | 0x042 | 0x043 => 0xC00000000001FFFC
  | 0x044 | 0x045 | 0x046 | 0x047 => 0xFF80FFFFFFFFFFFF
  | _ => 0xFFFFFFFFFFFFFFFF

/-- A hart with a control register written; the value is already without its reserved bits. -/
def Hart.ctlSet (h : Hart) (n : Nat) (v : Word) : Hart :=
  match n with
  | 0x000 => { h with ids := mapSet h.ids 0 v }
  | 0x001 => { h with ids := mapSet h.ids 1 v }
  | 0x002 => { h with ids := mapSet h.ids 2 v }
  | 0x003 => { h with dmemb := v }
  | 0x010 => { h with aflags := v }
  | 0x011 => { h with trapen := v }
  | 0x012 => { h with arec := v }
  | 0x018 => { h with shape := v }
  | 0x020 => { h with xpc := v }
  | 0x021 => { h with xcause := v }
  | 0x022 => { h with xaddr := v }
  | 0x023 => { h with xinfo := v }
  | 0x024 => { h with xvec := v }
  | 0x028 => { h with sleepd := v }
  | 0x029 => { h with rotpart := v }
  | 0x030 => { h with cnt := h.cnt.set 0 v }
  | 0x031 => { h with cnt := h.cnt.set 1 v }
  | 0x032 => { h with cnt := h.cnt.set 2 v }
  | 0x033 => { h with cnt := h.cnt.set 3 v }
  | 0x034 => { h with cntsel := h.cntsel.set 0 v }
  | 0x035 => { h with cntsel := h.cntsel.set 1 v }
  | 0x036 => { h with cntsel := h.cntsel.set 2 v }
  | 0x037 => { h with cntsel := h.cntsel.set 3 v }
  | 0x040 => { h with ibk := h.ibk.set 0 v }
  | 0x041 => { h with ibk := h.ibk.set 1 v }
  | 0x042 => { h with ibk := h.ibk.set 2 v }
  | 0x043 => { h with ibk := h.ibk.set 3 v }
  | _ => h

/-- A partition with a watchpoint written (06 R177: context scope). -/
def Partition.dwtSet (p : Partition) (n : Nat) (v : Word) : Partition :=
  match n with
  | 0x044 => { p with dwt := p.dwt.set 0 v }
  | 0x045 => { p with dwt := p.dwt.set 1 v }
  | 0x046 => { p with dwt := p.dwt.set 2 v }
  | 0x047 => { p with dwt := p.dwt.set 3 v }
  | _ => p

/-- A control register of the executing hart, written. -/
def State.ctlWrite (s : State) (n : Nat) (v : Word) : State :=
  let v := v &&& ctlMask n
  if 0x044 ≤ n ∧ n ≤ 0x047 then s.modPart (s.cc.vf.getD 0) (fun p => p.dwtSet n v)
  else s.mapHart (fun h => h.ctlSet n v)

/-- A counter that counts a cycle event (21 R419): its count is free between two reads (log 11). -/
def cycleEvent (sel : Word) : Bool :=
  let n := sel.toNat
  bit n 15 && bits n 14 13 != 0 && (n % 2 ^ 8 == 1 || n % 2 ^ 8 == 3 || n % 2 ^ 8 == 4)

/-- A selection that counts a cycle event in one of these modes: cycle events use the mode in their cycle (R419). -/
def cyclesIn (sel : Word) (modes : BitVec 2) : Bool := cycleEvent sel && BitVec.ofNat 2 (bits sel.toNat 14 13) &&& modes != 0

/-- The modes in which the event of a selection may have happened to the hart since its counters were brought up to date (R419): event
0x04 only at a blocking point. -/
def Hart.modesOf (h : Hart) (sel : Word) : BitVec 2 := if sel.toNat % 2 ^ 8 = 4 then h.stalled else h.ran

def Hart.accrueOne (h : Hart) (f : Nat) (k : Nat) (hk : k < 4) : Hart :=
  if cyclesIn (h.cntsel.get ⟨k, hk⟩) (h.modesOf (h.cntsel.get ⟨k, hk⟩)) then
    let t := (h.cnt.get ⟨k, hk⟩).toNat + f
    { h with cnt := h.cnt.set k (BitVec.ofNat 64 (t % 2 ^ 48)) hk, ovf := if 2 ^ 48 ≤ t then h.ovf ||| (1#4 <<< k) else h.ovf }
  else h

/-- A hart with its cycle counters brought up to date: each whose event may have happened takes the count f gives it. -/
def Hart.accrued (h : Hart) (f : Nat → Nat) : Hart :=
  { (((h.accrueOne (f 0) 0 (by decide)).accrueOne (f 1) 1 (by decide)).accrueOne (f 2) 2 (by decide)).accrueOne (f 3) 3 (by decide) with
    ran := modeBit h.mode, stalled := 0 }

/-- Bring the cycle counters of hart h of core c up to date, with free counts (log 11). -/
def State.accrueAt (s : State) (c : Nat) (h : BitVec 2) : State :=
  s.fresh.modHart c h (fun x => x.accrued (fun k => Config.freeCycles (4 * s.freeCtr + k)))

/-- Those of the executing hart. -/
def State.accrue (s : State) : State := s.accrueAt s.cur.core s.cur.hart

/-- Those of every hart of core c. -/
def State.accrueCore (s : State) (c : Nat) : State := hartNos.foldl (fun s h => s.accrueAt c h) s

/-- RDC (06 R168). -/
def execRdc (d : BitVec 5) (c : BitVec 12) (s : State) : Out :=
  let n := c.toNat
  .next (s.quietly (fun s => s.guarded [s.ctlCheck n false, s.boundCheck d] (fun s =>
    let s := if 0x030 ≤ n ∧ n ≤ 0x033 then s.accrue else s
    s.writeRetire d (s.ctlRead n))))

/-- WRC (06 R168): writing 3 to SLEEPD is ILLEGAL (01 R29); what the WRC counts is counted before a counter is written
(21 R420). -/
def execWrc (a : BitVec 5) (c : BitVec 12) (s : State) : Out :=
  let n := c.toNat
  .next (s.quietly (fun s =>
    s.guarded [s.ctlCheck n true, if n = 0x028 ∧ (s.rg a).toNat % 4 = 3 then some s.illegal else none] (fun s =>
      let v := s.rg a
      let s := if 0x030 ≤ n ∧ n ≤ 0x037 then s.accrue else s
      s.retire.ctlWrite n v)))

/-! CASGO (11 R282, R300). -/

/-- The parameter block: a0 to a15 from 64 bytes of scratch. -/
def Core.casParams (k : Core) (o : Nat) : Vector (BitVec 32) 16 := Vector.ofFn (fun i => BitVec.ofNat 32 (k.sread (o + 4 * i.val) 4))

/-- The sequencer right after CASGO. -/
def Casement.start (c : Casement) (entry : BitVec 8) (hart : BitVec 2) : Casement :=
  { c with state := .running, upc := entry, casUpc := entry, starter := hart, flags := 0, foff := 0, cause := 0, mrows := 0,
           waiting := none, fault := none, wantsQ := none }

/-- CASGO (R282): a release, so it waits for the hart's earlier accesses (R300). -/
def execCasgo (a : BitVec 5) (s : State) : Out :=
  .next (if s.hart.released then
      let v := (s.rg a).toNat
      let p := bits v 55 32
      s.guarded
        [if s.cc.cas.state = .running then some ⟨cENGINE, 0, 8⟩ else none,
         if bit v 63 ∧ p % 64 ≠ 0 then some ⟨cALIGN, BitVec.ofNat 64 p, 0⟩ else none,
         if bit v 63 ∧ s.cc.scratchSize < p + 64 then some ⟨cBOUNDS, BitVec.ofNat 64 p, 0⟩ else none]
        (fun s => if bit v 63 && s.wayHeld (.own p) 0 64 then s else (s.mapCore (fun k =>
          { k with cas := { k.cas.start (BitVec.ofNat 8 v) s.cur.hart with a := if bit v 63 then k.casParams p else k.cas.a },
                   issuers := k.issuers.set 4 (Vector.replicate 3 {}) })).retire)
    else s)

/-! TRAP, ERET, BRK, SLEEP. -/

/-- TRAP (06 R169): it retires, then SYSCALL is taken with XPC at the next instruction. -/
def execTrap (k : BitVec 12) (s : State) : Out :=
  .next (s.quietly (fun s =>
    let next := s.hart.pc + 4
    let t := s.retire
    t.enterTrap t.cur.core t.cur.hart false ⟨cSYSCALL, 0, k.setWidth 64⟩ next))

/-- The return of R170. -/
def State.doEret (s : State) (step : Bool) : State :=
  s.quietly (fun s => s.guarded
    [if s.hart.mode = .program then some s.priv else none,
     if s.cc.codesz.toNat ≤ s.hart.xpc.toNat then some ⟨cBOUNDS, s.hart.xpc, 0⟩ else none]
    (fun s => s.mapHart (fun h => h.eret step)))

/-- ERET (R170). -/
def execEret (s : State) : Out := .next (s.doEret false)

/-- ERET.S (R170, R178): STEP is armed. -/
def execEretS (s : State) : Out := .next (s.doEret true)

/-- BRK (R169). -/
def execBrk (k : BitVec 12) (s : State) : Out := .next (s.quietly (fun s => s.raise ⟨cBREAK, 0, k.setWidth 64⟩))

/-- SLEEP (R171): no effect on visible state. -/
def execSleep (_a : BitVec 5) (s : State) : Out := .next (s.quietly (fun s => s.retire))

/-! IMX, HINT and undefined words. -/

/-- The word after an IMX; none where the IMX is the last word of the code region (02 R54). -/
def State.successor (s : State) : Option (BitVec 32) :=
  let o := s.hart.pc.toNat + 4
  if o < s.cc.codesz.toNat then some (fetchWord s.cc s.hart o) else none

/-- IMX (R53 to R55): the pair issues as one; a successor that takes no extension makes the IMX ILLEGAL. -/
def execImx (x : BitVec 26) (s : State) : Out :=
  let e := some x
  .next (match s.successor.bind decodeWord with
    | some (.addi d a i) => s.doAddi e d a i
    | some (.andi d a i) => s.doAndi e d a i
    | some (.ori d a i) => s.doOri e d a i
    | some (.xori d a i) => s.doXori e d a i
    | some (.slti d a i) => s.doSlti e d a i
    | some (.sltiu d a i) => s.doSltiu e d a i
    | some (.movi d i) => s.doMovi e d i
    | some (.ld d a l z o) => s.doLd e d a l z o
    | some (.st t a z o) => s.doSt e t a z o
    | some (.lda d a l z o) => s.doLda e d a l z o
    | some (.str t a z o) => s.doStr e t a z o
    | some (.ldp d a l z o) => s.doLdp e d a l z o
    | some (.stp t a z o) => s.doStp e t a z o
    | _ => s.raise s.illegal)

/-- A register with an outstanding write (02 R46). -/
def Hart.pendingWrite (h : Hart) (r : BitVec 5) : Bool := r != 0 && h.outst.any (fun o => o.dests.contains r)

/-- The fill that a prefetch hint asks for (R57). -/
def State.prefetch (s : State) (core : Bool) (a : Word) : State :=
  let go := !a.msb && bits a.toNat 62 48 == 0 && (!core || ((s.cc.regionAt a.toNat).isSome && (s.cc.sectorAt a.toNat).isNone && !s.cc.cacheAffected a.toNat))
  if go then s.send { s.reqOf .request (.prefetch core s.cur.hart) a with src := .core s.cur.core } else s

/-- HINT (R56, R57): a no-op; kinds 1 and 2 ask for a sector fill, which changes no result that a conforming program can
observe. -/
def execHint (k : BitVec 6) (p : BitVec 20) (s : State) : Out :=
  let r : BitVec 5 := BitVec.ofNat 5 (p.toNat / 2 ^ 15)
  let a := s.rg r + wrap (toS p.toNat 15 * 128)
  .next ((if k = 1 ∧ s.hart.pendingWrite r = false then s.prefetch true a
    else if k = 2 ∧ s.hart.pendingWrite r = false then s.prefetch false a else s).retire)

/-- A word that is no defined encoding (R43). -/
def execUndefinedEncoding (w : BitVec 32) (s : State) : Out := .next (s.raise ⟨cILLEGAL, 0, w.setWidth 64⟩)

end Sys2Proof.Machine
end

