-- ==== Sys2Proof/Machine/Region.lean ====
section
/-! DEFINITION. Regions, synchronisation objects and cache operations, major 0x17 (08 R191 to R198), and WAYSET (08 R185 to
R187). An instruction that writes back waits for the acknowledgements, and then runs on (08 R194). -/

namespace Sys2Proof.Machine

def Core.region (k : Core) (e : BitVec 3) : Region := k.regions.get ⟨e.toNat, e.isLt⟩
def Core.setRegion (k : Core) (e : BitVec 3) (r : Region) : Core := { k with regions := k.regions.set e.toNat r e.isLt }

/-- The check of a synchronisation object's address (R195, R196). -/
def objCheck (obj : Word) : List (Option Trap) :=
  [if obj.toNat % 8 ≠ 0 then some ⟨cALIGN, obj, 0⟩ else none,
   if obj.toNat / 2 ^ 48 ≠ 0 then some ⟨cXLATE, obj, 0⟩ else none]

/-- The checks of RBIND, in order (R195). The addresses are reported after the rewritings of 04 R120. -/
def State.rbindChecks (s : State) (e : BitVec 3) (base size obj : Word) : List (Option Trap) :=
  let b := base.toNat
  let z := size.toNat
  [if b % 512 ≠ 0 ∨ z % 512 ≠ 0 ∨ z = 0 then some ⟨cALIGN, base, 0⟩ else none,
   if obj.toNat % 8 ≠ 0 then some ⟨cALIGN, obj, 0⟩ else none,
   if b / 2 ^ 48 ≠ 0 ∨ obj.toNat / 2 ^ 48 ≠ 0 ∨ 2 ^ 48 < b + z then some ⟨cXLATE, base, 0⟩ else none,
   if ([0, 1, 2, 3, 4, 5, 6, 7] : List (BitVec 3)).any (fun i =>
      let r := s.cc.region i
      i != e && r.valid && overlaps r.base (512 * r.size) b z) then some ⟨cBOUNDS, base, 0⟩ else none]

/-- The sectors of an entry's range. -/
def Region.covers (r : Region) (x : Sector) : Bool := r.valid && x.within r.base (512 * r.size)

/-- RBIND (R195). No fill of the new range that is older than a store of the core enters the ways (16 R340; log 25). -/
def execRbind (e : BitVec 3) (a b : BitVec 5) (s : State) : Out :=
  let base := s.resolve (s.rg a)
  let size := s.rg b
  let obj := s.resolve (s.rg (b + 1))
  .next (s.guarded (s.rbindChecks e base size obj) (fun s =>
    let old := s.cc.region e
    s.flushed old.covers true (fun s =>
      ((s.refetch s.cur.core (fun x => old.covers x || x.within base.toNat size.toNat)).mapCore (fun k => k.setRegion e ⟨true, base.toNat, size.toNat / 512, obj.toNat⟩)).retire)))

/-- RUNBIND (R195); an invalid entry is left as it is. -/
def execRunbind (e : BitVec 3) (s : State) : Out :=
  let old := s.cc.region e
  .next (if old.valid then s.flushed old.covers true (fun s => ((s.refetch s.cur.core old.covers).mapCore (fun k => k.setRegion e {})).retire) else s.retire)

/-- A sector of a valid region that is bound to an object. -/
def Core.ofObj (k : Core) (obj : Nat) (x : Sector) : Bool :=
  ([0, 1, 2, 3, 4, 5, 6, 7] : List (BitVec 3)).any (fun i => let r := k.region i; r.obj == obj && r.covers x)

/-- Acquire: send the request and wait for its grant, a blocking point (R196); it waits for the hart's own outstanding access to
the object (02 R46). -/
def State.acquire (s : State) (a : BitVec 5) (x : Bool) : State :=
  let obj := s.resolve (s.rg a)
  s.quietly (fun s => s.guarded (objCheck obj) (fun s =>
    if s.overlapping obj 8 then s else
    let id := s.nextId
    (s.send (s.reqOf .request (.acq x) obj)).blockOn (.acq id)))

/-- ACQ.X (R196). -/
def execAcqX (a : BitVec 5) (s : State) : Out := .next (s.acquire a true)

/-- ACQ.S (R196). -/
def execAcqS (a : BitVec 5) (s : State) : Out := .next (s.acquire a false)

/-- Release: after the hart's earlier accesses, write back what the object covers, then ask the home (R197). -/
def State.releaseObj (s : State) (a : BitVec 5) (x : Bool) : State :=
  let obj := s.resolve (s.rg a)
  if s.hart.quiet = false then s
  else s.guarded (objCheck obj) (fun s =>
    if s.hart.orsZero then
      s.flushed (s.cc.ofObj obj.toNat) false (fun s =>
        let id := s.nextId
        (s.send (s.reqOf .request (.rel x) obj)).blockOn (.rel id))
    else s)

/-- REL.X (R197). -/
def execRelX (a : BitVec 5) (s : State) : Out := .next (s.releaseObj a true)

/-- REL.S (R197). -/
def execRelS (a : BitVec 5) (s : State) : Out := .next (s.releaseObj a false)

/-- The checks of CWB and CINV (R198). -/
def rangeChecks (a n : Word) : List (Option Trap) :=
  [if a.msb then some ⟨cBOUNDS, a, 0⟩ else none,
   if bits a.toNat 62 48 ≠ 0 ∨ 2 ^ 48 < a.toNat + n.toNat then some ⟨cXLATE, a, 0⟩ else none]

/-- CWB (R198). -/
def execCwb (a b : BitVec 5) (s : State) : Out :=
  let p := s.resolve (s.rg a)
  let n := s.rg b
  .next (s.guarded (rangeChecks p n) (fun s => s.flushed (fun x => x.within p.toNat n.toNat) false (fun s => s.retire)))

/-- CINV (R198). -/
def execCinv (a b : BitVec 5) (s : State) : Out :=
  let p := s.resolve (s.rg a)
  let n := s.rg b
  .next (s.guarded (rangeChecks p n) (fun s => s.flushed (fun x => x.within p.toNat n.toNat) true (fun s =>
    (s.refetch s.cur.core (fun x => x.within p.toNat n.toNat)).retire)))

/-! WAYSET. -/

/-- The k lowest set bits of a way mask. -/
def lowestWays (mask k : Nat) : Nat :=
  ((List.range 12).foldl (fun (acc : Nat × Nat) w => if bit mask w && decide (acc.2 < k) then (acc.1 + 2 ^ w, acc.2 + 1) else acc) (0, 0)).1

/-- Bytes of local memory that belong to a way. -/
def inWay (w : Nat) (loc : Nat) : Bool := loc / 32768 == w

/-- Local memory under a new way mask: a way whose use changes loses its bytes and sectors (R186). -/
def Core.reway (k : Core) (m : BitVec 12) : Core :=
  let changed := fun (w : Nat) => bit k.waymask.toNat w != bit m.toNat w
  { k with
    waymask := m,
    lmem := k.lmem.filter (fun c => !changed (c.1 / 32768)),
    lpoison := k.lpoison.filter (fun x => !changed (128 * x / 32768)),
    cache := k.cache.filter (fun x => !changed x.way) }

/-- A row address of CPY2: from the map t where there is one, else base + i × stride (10 R271). -/
def rowAddr (base : Word) (field i : Nat) (t : Option Nat) : Word :=
  match t with
  | some t => tmapRow t (field + i)
  | none => base + BitVec.ofNat 64 i * sext64 field 32

/-- The addresses of the rows of a CPY2 (10 R271): `strides` gives a stride or a first row for each end. -/
def cpy2Rows (shape : Word) (end_ : Word) (isMap : Bool) (field : Nat) (map : Nat) : List Word :=
  (List.range (bits shape.toNat 47 32)).map (fun i => rowAddr end_ field i (if isMap then some map else none))

/-- The ring that an address names, as its controller holds it, with the slot's size where it is set up. -/
def State.ringOf (s : State) (vf : BitVec 4) (ring : Word) : Core × Nat × Nat :=
  let t := ((s.spot vf (addrVcore ring)).map (s.spotCore vf)).getD {}
  let r := t.ring (addrOff ring)
  (t, r, if t.ringUp r then ringSSIZE r else 0)

/-- The addresses and sizes that a command of the copy engine of core c names (10 R270 to R275). -/
def State.ranges (s : State) (c : Nat) (op : CmdOp) : List (Word × Nat) :=
  let k := s.core c
  match op with
  | .cpy dst src len => [(dst, len), (src, len)]
  | .cpy2 dst src shape strides maps =>
    let m := maps.getD (0, 0)
    let n := bits shape.toNat 31 0
    (dst, if shape.msb then 16 else 0) :: (src, if bit shape.toNat 62 then 16 else 0) ::
      ((cpy2Rows shape dst shape.msb (bits strides.toNat 63 32) m.2.toNat ++
        cpy2Rows shape src (bit shape.toNat 62) (bits strides.toNat 31 0) m.1.toNat).map (fun a => (a, n)))
  | .cxp dst src params table => [(k.ownAddr dst, 496 * bits params.toNat 15 0), (src, 64 * bits params.toNat 15 0), (k.ownAddr table, 512)]
  | .cpk dst src params => [(dst, 64 * bits params.toNat 15 0), (k.ownAddr src, 992 * bits params.toNat 15 0)]
  | .cgthb dst base idx bsize => (k.ownAddr dst, idx.length * bsize) :: idx.map (fun x => (base + BitVec.ofNat 64 (x * bsize), bsize))
  | .cpyr ring src =>
    let r := s.ringOf (k.vf.getD 0) ring
    (ring, 32) :: (k.ownAddr src, r.2.2) ::
      (if bits ring.toNat 51 33 = k.corxy.toNat % 2 ^ 19 then [(k.ownAddr (ringSlot r.2.1 (ringWIDX r.2.1)), r.2.2)] else [])
  | _ => []

/-- A command of the copy engine of core c targets a way that the waiting WAYSET changes (R186, R187). -/
def State.targets (s : State) (c : Nat) (op : CmdOp) : Bool :=
  let k := s.core c
  (s.ranges c op).any (fun e => e.1.msb && bits e.1.toNat 51 33 == k.corxy.toNat % 2 ^ 19 && k.affected (addrOff e.1) e.2)

/-- A vector store in progress has still to write an element in a way that the waiting WAYSET changes. -/
def Core.storePending (k : Core) (b : Block) : Bool :=
  match b with
  | .vstore v => v.xs.any (fun x =>
      if x.2.1.msb then bits x.2.1.toNat 51 33 == k.corxy.toNat % 2 ^ 19 && k.affected (addrOff x.2.1) v.eb
      else (k.regionAt x.2.1.toNat).isSome && !v.home.contains (sectorAddr x.2.1.toNat) && k.cacheAffected x.2.1.toNat)
  | _ => false

/-- What WAYSET waits for (R186): a copy command in performance that targets an affected way, a fill on its way to one, a vector store of
another hart that has an element to write in one. An MMA may lose its tile part-way (10 R266). -/
def State.wayBusy (s : State) (new : BitVec 12) : Bool :=
  let t := s.mapCore (fun k => { k with wayWait := some (s.cur.hart, new) })
  let k := t.cc
  k.copy.run.any (fun c => t.targets t.cur.core c.op) || k.harts.toList.any (fun h => h.block.any k.storePending) ||
    s.net.any (fun r => r.fillsFor s.cur.core (sectorAddr r.ea.toNat) && k.cacheAffected r.ea.toNat)

/-- WAYSET (R186, R187): BOUNDS where the code ways would change; it waits for accesses in flight, and holds new ones as long as it waits
(`State.keepWait`). -/
def execWayset (d a : BitVec 5) (s : State) : Out :=
  .next (s.quietly (fun s =>
    let new := (s.rg a).toNat
    let old := s.cc.waymask.toNat
    let k := (s.cc.codesz.toNat + 32767) / 32768
    s.guarded
      [s.boundCheck d, if new / 2 ^ 12 ≠ 0 ∨ lowestWays new k ≠ lowestWays old k then some ⟨cBOUNDS, 0, 0⟩ else none]
      (fun s =>
        if s.cc.wayWait.any (fun w => w.1 != s.cur.hart) then s
        else if s.wayBusy (BitVec.ofNat 12 new) then s.mapCore (fun c => { c with wayWait := some (s.cur.hart, BitVec.ofNat 12 new) })
        else (s.mapCore (fun c => { c.reway (BitVec.ofNat 12 new) with wayWait := none })).writeRetire d (BitVec.ofNat 64 old))))

end Sys2Proof.Machine
end

