-- ==== Sys2Proof/Machine/Barrier.lean ====
section
/-! DEFINITION. Barrier instructions, major 0x18 (08 R199 to R202). -/

namespace Sys2Proof.Machine

/-- The own-scratch offset of an object of n bytes (R200, R204): ALIGN, else BOUNDS where it is no own scratch. -/
def State.ownObject (s : State) (ea : Word) (n : Nat) : Except Trap Nat :=
  if ea.toNat % n ≠ 0 then .error ⟨cALIGN, ea, 0⟩
  else match s.classify ea n n false with
    | .ok (.own off) => .ok off
    | _ => .error ⟨cBOUNDS, ea, 0⟩

/-- Run on an own-scratch object whose address is in g[a], after the destination's BOUND_WRITE. -/
def State.onObject (s : State) (d a : BitVec 5) (n : Nat) (k : State → Word → Nat → State) : State :=
  let ea := s.resolve (s.rg a)
  s.guarded [s.boundCheck d] (fun s =>
    match s.ownObject ea n with
    | .error t => s.raise t
    | .ok off => if s.wayHeld (.own off) ea n then s else k s ea off)

/-- Write an object of the core's own scratch. -/
def Core.putObj (k : Core) (o n v : Nat) : Core := (k.noteCodeStore o n).swrite o n v

/-- A trap that keeps an effect on the core: both happen once the hart has nothing outstanding (00 R10). -/
def State.raiseKeeping (s : State) (f : Core → Core) (t : Trap) : State := if s.hart.quiet then (s.mapCore f).raise t else s

/-- BINIT (R201). -/
def execBinit (a b : BitVec 5) (s : State) : Out :=
  let n := (s.rg b).toNat % 2 ^ 16
  .next (s.onObject 0 a 16 (fun s _ off => (s.mapCore (fun k => k.putOwnBar off (barMk 0 n 0 false 0))).retire))

/-- The outcome of a barrier operation at an own object: its result in g[d], or BARRIER with the kept bit (R201). -/
def State.barDone (s : State) (ea : Word) (off : Nat) (d : BitVec 5) (r : BarRes) : State :=
  match r.res with
  | .ok v => (s.mapCore (fun k => k.putOwnBar off r.obj)).writeRetire d (BitVec.ofNat 64 v)
  | .error f => s.raiseKeeping (fun k => k.putOwnBar off r.obj) ⟨cBARRIER, ea, BitVec.ofNat 64 f⟩

/-- BARR (R200, R201): the object may lie in another core of this module. -/
def execBarr (d a : BitVec 5) (l : BitVec 4) (s : State) : Out :=
  let ea := s.resolve (s.rg a)
  .next (s.guarded [s.boundCheck d] (fun s =>
    if ea.toNat % 16 ≠ 0 then s.raise ⟨cALIGN, ea, 0⟩
    else match s.classify ea 16 16 false with
      | .ok (.own off) => if s.wayHeld (.own off) ea 16 then s else s.barDone ea off d (barArrive (s.cc.bar off))
      | .ok .remote => if s.overlapping ea 16 then s else s.issueLong (s.reqOf .request (.barr d) ea) [d] l.toNat false 4
      | _ => s.raise ⟨cBOUNDS, ea, 0⟩))

/-- BEXP (R201). -/
def execBexp (d a b : BitVec 5) (s : State) : Out :=
  let n := (s.rg b).toNat
  .next (s.onObject d a 16 (fun s ea off => s.barDone ea off d (barExpect (s.cc.bar off) n)))

/-- What a BWAIT finds at its object: wait on, a fault kind, or its end (R201, R202). -/
def bwaitSees (obj : Nat) (phase : Bool) : Option (Option Nat) :=
  if barFaults obj ≠ 0 then some (some (barFaults obj)) else if barPHASE obj = phase then none else some none

/-- BWAIT (R201, R202): a blocking point while the phase is g[b][0] and no fault bit is set. -/
def execBwait (a b : BitVec 5) (s : State) : Out :=
  let phase := bit (s.rg b).toNat 0
  .next (s.onObject 0 a 16 (fun s ea off =>
    match bwaitSees (s.cc.bar off) phase with
    | none => s.blockOn (.bwait off phase false)
    | some none => s.retire
    | some (some f) => s.raise ⟨cBARRIER, ea, BitVec.ofNat 64 f⟩))

/-- BTEST (R201). -/
def execBtest (d a : BitVec 5) (s : State) : Out :=
  .next (s.onObject d a 16 (fun s _ off => s.writeRetire d (BitVec.ofNat 64 (bits (s.cc.bar off) 127 64))))

end Sys2Proof.Machine
end

