-- ==== Sys2Proof/Machine/Crypto.lean ====
section
/-! DEFINITION. SHA-512 and Ed25519, which 21 R428 and R429 name, as their standards define them (FIPS 180-4, RFC 8032; PRESUMED,
log 13). Byte strings are lists; a digest, a key or a signature is the little-endian number of its bytes. -/

namespace Sys2Proof.Machine

/-! SHA-512. -/

/-- The 80 round constants. -/
def shaK : List Nat :=
  [0x428A2F98D728AE22, 0x7137449123EF65CD, 0xB5C0FBCFEC4D3B2F, 0xE9B5DBA58189DBBC, 0x3956C25BF348B538,
   0x59F111F1B605D019, 0x923F82A4AF194F9B, 0xAB1C5ED5DA6D8118, 0xD807AA98A3030242, 0x12835B0145706FBE,
   0x243185BE4EE4B28C, 0x550C7DC3D5FFB4E2, 0x72BE5D74F27B896F, 0x80DEB1FE3B1696B1, 0x9BDC06A725C71235,
   0xC19BF174CF692694, 0xE49B69C19EF14AD2, 0xEFBE4786384F25E3, 0xFC19DC68B8CD5B5, 0x240CA1CC77AC9C65] ++
  [0x2DE92C6F592B0275, 0x4A7484AA6EA6E483, 0x5CB0A9DCBD41FBD4, 0x76F988DA831153B5, 0x983E5152EE66DFAB,
   0xA831C66D2DB43210, 0xB00327C898FB213F, 0xBF597FC7BEEF0EE4, 0xC6E00BF33DA88FC2, 0xD5A79147930AA725,
   0x6CA6351E003826F, 0x142929670A0E6E70, 0x27B70A8546D22FFC, 0x2E1B21385C26C926, 0x4D2C6DFC5AC42AED,
   0x53380D139D95B3DF, 0x650A73548BAF63DE, 0x766A0ABB3C77B2A8, 0x81C2C92E47EDAEE6, 0x92722C851482353B] ++
  [0xA2BFE8A14CF10364, 0xA81A664BBC423001, 0xC24B8B70D0F89791, 0xC76C51A30654BE30, 0xD192E819D6EF5218,
   0xD69906245565A910, 0xF40E35855771202A, 0x106AA07032BBD1B8, 0x19A4C116B8D2D0C8, 0x1E376C085141AB53,
   0x2748774CDF8EEB99, 0x34B0BCB5E19B48A8, 0x391C0CB3C5C95A63, 0x4ED8AA4AE3418ACB, 0x5B9CCA4F7763E373,
   0x682E6FF3D6B2B8A3, 0x748F82EE5DEFB2FC, 0x78A5636F43172F60, 0x84C87814A1F0AB72, 0x8CC702081A6439EC] ++
  [0x90BEFFFA23631E28, 0xA4506CEBDE82BDE9, 0xBEF9A3F7B2C67915, 0xC67178F2E372532B, 0xCA273ECEEA26619C,
   0xD186B8C721C0C207, 0xEADA7DD6CDE0EB1E, 0xF57D4F7FEE6ED178, 0x6F067AA72176FBA, 0xA637DC5A2C898A6,
   0x113F9804BEF90DAE, 0x1B710B35131C471B, 0x28DB77F523047D84, 0x32CAAB7B40C72493, 0x3C9EBE0A15C9BEBC,
   0x431D67C49C100D4C, 0x4CC5D4BECB3E42B6, 0x597F299CFC657E2A, 0x5FCB6FAB3AD6FAEC, 0x6C44198C4A475817]

/-- The initial hash value. -/
def shaInit : List Nat :=
  [0x6A09E667F3BCC908, 0xBB67AE8584CAA73B, 0x3C6EF372FE94F82B, 0xA54FF53A5F1D36F1,
   0x510E527FADE682D1, 0x9B05688C2B3E6C1F, 0x1F83D9ABFB41BD6B, 0x5BE0CD19137E2179]

def sha64 : Nat := 2 ^ 64

/-- Rotate a word of 64 bits right. -/
def shaRot (x n : Nat) : Nat := x / 2 ^ n + x % 2 ^ n * 2 ^ (64 - n)

/-- The next word of the schedule from the last sixteen, the oldest first. -/
def shaNext (w : List Nat) : Nat :=
  let a := w.getD 1 0
  let b := w.getD 14 0
  ((shaRot b 19 ^^^ shaRot b 61 ^^^ b / 2 ^ 6) + w.getD 9 0 + (shaRot a 1 ^^^ shaRot a 8 ^^^ a / 2 ^ 7) + w.getD 0 0) % sha64

/-- One round: the eight working words with a constant and a schedule word. -/
def shaRound (st : List Nat) (k w : Nat) : List Nat :=
  match st with
  | [a, b, c, d, e, f, g, h] =>
    let t1 := h + (shaRot e 14 ^^^ shaRot e 18 ^^^ shaRot e 41) + ((e &&& f) ^^^ ((sha64 - 1 - e) &&& g)) + k + w
    let t2 := (shaRot a 28 ^^^ shaRot a 34 ^^^ shaRot a 39) + ((a &&& b) ^^^ (a &&& c) ^^^ (b &&& c))
    [(t1 + t2) % sha64, a, b, c, (d + t1) % sha64, e, f, g]
  | _ => st

/-- The rounds of one block, over the constants that are left. -/
def shaRounds : List Nat → List Nat → List Nat → List Nat
  | [], st, _ => st
  | k :: ks, st, w => shaRounds ks (shaRound st k (w.headD 0)) (w.drop 1 ++ [shaNext w])

/-- A big-endian number of n bytes. -/
def beOf : Nat → List Byte → Nat
  | 0, _ => 0
  | n + 1, bs => (bs.headD 0).toNat * 2 ^ (8 * n) + beOf n (bs.drop 1)

/-- Split a byte string into n pieces of m bytes. -/
def chunksOf (m : Nat) : Nat → List Byte → List (List Byte)
  | 0, _ => []
  | n + 1, bs => bs.take m :: chunksOf m n (bs.drop m)

def shaBlock (h : List Nat) (block : List Byte) : List Nat :=
  List.zipWith (fun a b => (a + b) % sha64) h (shaRounds shaK h ((chunksOf 8 16 block).map (beOf 8)))

/-- The padding of a message of n bytes: a one bit, zeros, and the length in bits as 16 bytes, most significant first. -/
def shaPad (n : Nat) : List Byte := (0x80 :: List.replicate ((239 - n % 128) % 128) 0) ++ (bytesOfLE 16 (8 * n)).reverse

/-- SHA-512. -/
def sha512 (bs : List Byte) : BitVec 512 :=
  let m := bs ++ shaPad bs.length
  let h := (chunksOf 128 (m.length / 128) m).foldl shaBlock shaInit
  BitVec.ofNat 512 (leOfBytes (h.flatMap (fun w => (bytesOfLE 8 w).reverse)))

/-- The bytes of a digest, and of a key of 256 bits. -/
def digestBytes (d : BitVec 512) : List Byte := bytesOfLE 64 d.toNat
def keyBytes (k : BitVec 256) : List Byte := bytesOfLE 32 k.toNat

/-! Ed25519: the field, the curve -x² + y² = 1 + d x² y², points as X, Y, Z, T with x = X/Z, y = Y/Z, x y = T/Z. -/

def edP : Nat := 2 ^ 255 - 19
def edL : Nat := 2 ^ 252 + 27742317777372353535851937790883648493
def edD : Nat := 0x52036CEE2B6FFE738CC740797779E89800700A4D4141D8AB75EB4DCA135978A3

def edSub (a b : Nat) : Nat := (a + edP - b % edP) % edP

/-- a to the power e, from n bits of the exponent. -/
def edPow (a e : Nat) : Nat → Nat
  | 0 => 1
  | n + 1 =>
    let r := edPow (a * a % edP) (e / 2) n
    if e % 2 = 1 then a * r % edP else r

def edInv (a : Nat) : Nat := edPow a (edP - 2) 255

structure EdPoint where
  x : Nat
  y : Nat
  z : Nat
  t : Nat
  deriving DecidableEq, Repr

def EdPoint.add (p q : EdPoint) : EdPoint :=
  let a := edSub p.y p.x * edSub q.y q.x % edP
  let b := (p.y + p.x) * (q.y + q.x) % edP
  let c := p.t * (2 * edD) % edP * q.t % edP
  let d := p.z * 2 * q.z % edP
  let e := edSub b a
  let f := edSub d c
  let g := (d + c) % edP
  let h := (b + a) % edP
  ⟨e * f % edP, g * h % edP, f * g % edP, e * h % edP⟩

/-- k times p, from n bits of k. -/
def EdPoint.mul (p : EdPoint) (k : Nat) : Nat → EdPoint
  | 0 => ⟨0, 1, 1, 0⟩
  | n + 1 =>
    let q := (p.add p).mul (k / 2) n
    if k % 2 = 1 then p.add q else q

def EdPoint.same (p q : EdPoint) : Bool := p.x * q.z % edP == q.x * p.z % edP && p.y * q.z % edP == q.y * p.z % edP

/-- The base point. -/
def edBase : EdPoint :=
  let x := 0x216936D3CD6E53FEC0A4E231FDD6DC5C692CC7609525A7B2C9562D608F25D51A
  let y := 0x6666666666666666666666666666666666666666666666666666666666666658
  ⟨x, y, 1, x * y % edP⟩

/-- The square root of a with the given low bit; none where it has none. -/
def edRoot (a : Nat) (odd : Bool) : Option Nat :=
  let r := edPow a ((edP + 3) / 8) 255
  let r := if r * r % edP = a then r else r * edPow 2 ((edP - 1) / 4) 255 % edP
  if r * r % edP ≠ a ∨ (r = 0 ∧ odd = true) then none else some (if decide (r % 2 = 1) = odd then r else edP - r)

/-- The point of 32 bytes; none where they encode none. -/
def edDecode (n : Nat) : Option EdPoint :=
  let y := n % 2 ^ 255
  if edP ≤ y then none
  else (edRoot (edSub (y * y) 1 * edInv ((edD * (y * y) + 1) % edP) % edP) (n / 2 ^ 255 % 2 == 1)).map (fun x => ⟨x, y, 1, x * y % edP⟩)

/-- The 32 bytes of a point as a number. -/
def EdPoint.encode (p : EdPoint) : Nat :=
  let i := edInv p.z
  p.y * i % edP + p.x * i % edP % 2 * 2 ^ 255

/-- The scalar of a byte string. -/
def edHash (bs : List Byte) : Nat := (sha512 bs).toNat % edL

/-- A signature is valid over a message under a public key. -/
def ed25519Valid (key : BitVec 256) (msg : List Byte) (sig : BitVec 512) : Bool :=
  let r := sig.toNat % 2 ^ 256
  let s := sig.toNat / 2 ^ 256
  match edDecode key.toNat, edDecode r with
  | some a, some p =>
    let k := edHash (bytesOfLE 32 r ++ keyBytes key ++ msg)
    decide (s < edL) && ((edBase.mul s 256).mul 8 4).same ((p.add (a.mul k 256)).mul 8 4)
  | _, _ => false

/-- The signature of a message under a secret key. -/
def ed25519Sign (seed : BitVec 256) (msg : List Byte) : BitVec 512 :=
  let h := (sha512 (keyBytes seed)).toNat
  let a := h % 2 ^ 254 / 8 * 8 + 2 ^ 254
  let key := bytesOfLE 32 (edBase.mul a 256).encode
  let r := edHash (bytesOfLE 32 (h / 2 ^ 256) ++ msg)
  let p := (edBase.mul r 256).encode
  BitVec.ofNat 512 (p + (r + edHash (bytesOfLE 32 p ++ key ++ msg) * a) % edL * 2 ^ 256)

end Sys2Proof.Machine
end

