-- ==== Sys2Proof/Machine/Ring.lean ====
section
/-! DEFINITION. Ring instructions, major 0x19 (08 R203 to R209). -/

namespace Sys2Proof.Machine

/-- RING_ERROR with its code (R209). -/
def ringError (ea : Word) (code : Nat) : Trap := ⟨cRINGERROR, ea, BitVec.ofNat 64 code⟩

/-- Poison of bytes that are copied inside scratch goes with them (21 R425). -/
def Core.poisonFrom (k : Core) (src dst n : Nat) : Core :=
  if k.spoisoned src n then { k with lpoison := (k.sectors dst n).foldl setAdd k.lpoison } else k

/-- Hold an object's offset in a watcher (R206). -/
def Core.watch (k : Core) (o : Nat) : Core :=
  match k.watcherFor o with
  | some w => { k with watchers := k.watchers.set w.val (some o) w.isLt }
  | none => k

/-- RINIT (R205). -/
def execRinit (a b : BitVec 5) (s : State) : Out :=
  let c := (s.rg b).toNat
  let base := (s.rg (b + 1)).toNat % 2 ^ 24
  .next (s.onObject 0 a 32 (fun s ea off =>
    if bits c 31 27 = 0 then (s.mapCore (fun k => (k.freeWatcher off).putObj off 32 0)).retire
    else
      let mode := bit c 32
      if ringFieldsOk s.cc.scratchSize c base = false ∨ bit c 0 = true ∨ (mode = true ∧ (s.cc.watcherFor off).isNone = true) then
        s.raise ⟨cBOUNDS, ea, 0⟩
      else
        (s.mapCore (fun k =>
          (if mode then k.watch off else k.freeWatcher off).putObj off 32 (ringNorm (c * 2 ^ 64 + base * 2 ^ 128)))).retire))

/-- The check of the copy operand of RPUSH and RPOP (R207): its bytes are a slot, or 16 where the ring is not set up. -/
def State.ringBuffer (s : State) (r : Nat) (b : BitVec 5) : Except Trap Nat :=
  let ea := s.resolve (s.rg b)
  let n := if s.cc.ringUp r then ringSSIZE r else 16
  if ea.toNat % 16 ≠ 0 then .error ⟨cALIGN, ea, 0⟩
  else match s.classify ea 16 n false with
    | .ok (.own off) => .ok off
    | _ => .error ⟨cBOUNDS, ea, 0⟩

/-- The slots of the ring r, or the buffer at `o` of a copy, lie in ways that another hart's WAYSET changes (R187). -/
def State.ringHeld (s : State) (r o : Nat) : Bool :=
  if s.cc.ringUp r then s.wayHeld (.own (ringBASE r)) 0 (ringCOUNT r * ringSSIZE r) || s.wayHeld (.own o) 0 (ringSSIZE r)
  else s.wayHeld (.own o) 0 16

/-- RPUSH (R207). -/
def execRpush (d a b : BitVec 5) (s : State) : Out :=
  .next (s.onObject d a 32 (fun s ea off =>
    let r := s.cc.ring off
    match s.ringBuffer r b with
    | .error t => s.raise t
    | .ok src =>
      if s.ringHeld r src then s
      else if s.cc.ringUp r = false then s.writeRetire d 2
      else if ringMODE r then s.raise (ringError ea 2)
      else if ringSTATE r then s.writeRetire d 2
      else if ringFILLED r = ringCOUNT r then s.writeRetire d 1
      else
        let n := ringSSIZE r
        let dst := ringSlot r (ringWIDX r)
        let bytes := s.cc.sread src n
        (s.mapCore (fun k => ((k.noteCodeStore dst n).ringPut off bytes).poisonFrom src dst n)).writeRetire d 0))

/-- The loop of R208 at the object at `off`: it pops, traps, or waits. `ea` and `gb` are the addresses of the object and of
the destination, `dst` the destination's scratch offset. -/
def State.ringPop (s : State) (d : BitVec 5) (ea gb : Word) (off dst : Nat) : State :=
  let k := s.cc
  let r := k.ring off
  if s.ringHeld r dst then s
  else if k.ringUp r = false then s.raise (ringError ea 5)
  else if ringSTATE r then s.raise (ringError ea 1)
  else if ringFILLED r = 0 then s.blockOn (.rpop d off dst)
  else
    let n := ringSSIZE r
    let a := ringSlot r (ringRIDX r)
    let t := bits (k.sread (a + 8 * ringHOFF r) 8) (ringTPOS r + 3) (ringTPOS r)
    if bit (ringVMASK r) t = false then
      s.raiseKeeping (fun k => k.putRing off (setBits r 64 64 1)) ⟨cRINGTYPE, BitVec.ofNat 64 a, BitVec.ofNat 64 (ringRIDX r * 2 ^ 32 + t)⟩
    else if k.scratchSize < dst + n then s.raise ⟨cBOUNDS, gb, 0⟩
    else
      let bytes := k.sread a n
      let r' := setBits (setBits r 31 0 (ringRIDX r + 1)) 176 160 (ringFILLED r - 1)
      (s.mapCore (fun k => (((k.noteCodeStore dst n).swrite dst n bytes).poisonFrom a dst n).putRing off r')).writeRetire d (BitVec.ofNat 64 (ringRIDX r))

/-- RPOP (R208): a blocking point while the ring is empty. -/
def execRpop (d a b : BitVec 5) (s : State) : Out :=
  .next (s.onObject d a 32 (fun s ea off =>
    match s.ringBuffer (s.cc.ring off) b with
    | .error t => s.raise t
    | .ok dst => s.ringPop d ea (s.resolve (s.rg b)) off dst))

/-- PUBMAP without the slots of positions n to n + k - 1. -/
def clearPub (count : Nat) (pub n : Nat) : Nat → Nat
  | 0 => pub
  | k + 1 => clearPub count (setBits pub ((n + k) % count) ((n + k) % count) 0) n k

/-- RFIX (R209). -/
def execRfix (a b : BitVec 5) (s : State) : Out :=
  let n := (s.rg b).toNat % 2 ^ 32
  .next (s.onObject 0 a 32 (fun s ea off =>
    let r := s.cc.ring off
    let k := (ringWIDX r + 2 ^ 32 - n) % 2 ^ 32
    if s.cc.ringUp r = false then s.raise (ringError ea 5)
    else if ringCOUNT r < k then s.raise (ringError ea 3)
    else
      let pub := if ringCOUNT r ≤ 64 then clearPub (ringCOUNT r) (ringPUBMAP r) n k else ringPUBMAP r
      let r' := setBits (setBits (setBits (setBits r 31 0 n) 176 160 k) 64 64 0) 255 192 pub
      (s.mapCore (fun c => c.putRing off r')).retire))

/-- RSTAT (R209). -/
def execRstat (d a : BitVec 5) (s : State) : Out :=
  .next (s.onObject d a 32 (fun s _ off =>
    let r := s.cc.ring off
    s.writeRetire d (BitVec.ofNat 64 (b2n (ringSTATE r) * 2 ^ 63 + ringFILLED r * 2 ^ 32 + ringRIDX r))))

end Sys2Proof.Machine
end

