-- ==== Sys2Proof/Machine/Vector.lean ====
section
/-! DEFINITION. Shapes, masks and vector arithmetic, majors 0x1C and 0x1E to 0x21 (09 R213 to R221, R229 to R241). -/

namespace Sys2Proof.Machine

/-! Elements of a tile (01 R17). -/

/-- Element widths in bits. -/
def etBits (e : BitVec 4) : Nat := 4 * etNibbles e

/-- Element (i, j) of width w bits. -/
def tileEl (t : Tile) (w i j : Nat) : Nat := bits t.toNat (128 * i + w * j + w - 1) (128 * i + w * j)

/-- n elements of width w, the first lowest. -/
def packEls (w : Nat) : List Nat → Nat
  | [] => 0
  | x :: xs => x % 2 ^ w + 2 ^ w * packEls w xs

/-- The element positions of width w in row-major order. -/
def positions (w : Nat) : List (Nat × Nat) := (List.range 8).flatMap (fun i => (List.range (128 / w)).map (fun j => (i, j)))

/-- The tile of a function of the element positions, with the OR of their flags (03 R78). -/
def tileOf (w : Nat) (f : Nat → Nat → Fl Nat) : Fl Tile :=
  let rs := (positions w).map (fun p => f p.1 p.2)
  ⟨BitVec.ofNat 1024 (packEls w (rs.map Fl.val)), rs.foldl (fun a r => a ||| r.fl) 0⟩

/-! Shape and mask (R213 to R216). -/

def Hart.rows (h : Hart) : Nat := bits h.shape.toNat 19 16
def Hart.vlen (h : Hart) : Nat := bits h.shape.toNat 4 0

/-- Elements in a row of 16 bytes, and the index that shape and mask use for element j: the byte for S4 and N4 (R215). -/
def perRow (e : BitVec 4) : Nat := 16 / etBytes e
def maskCol (e : BitVec 4) (j : Nat) : Nat := if etNibble e then j / 2 else j

/-- Element (i, j) is active (R215). -/
def Hart.active (h : Hart) (e : BitVec 4) (i j : Nat) : Bool :=
  decide (i < h.rows) && decide (maskCol e j < min h.vlen (perRow e))

/-- The mask bit of element (i, j) in a register (R17). -/
def maskBit (v : Tile) (e : BitVec 4) (i j : Nat) : Bool := bit v.toNat (16 * i + maskCol e j)

/-- How R216 writes an element. -/
inductive Judge where
  | compute | edge | masked
  deriving DecidableEq, Repr

def Hart.judge (h : Hart) (e : BitVec 4) (m : BitVec 1) (i j : Nat) : Judge :=
  if !h.active e i j then .edge else if m == 1 && !maskBit (h.rv 0) e i j then .masked else .compute

/-- An element that is not computed: undisturbed, or all ones on this device. -/
def keep (pol : BitVec 1) (w old : Nat) : Fl Nat := ⟨if pol = 1 then 2 ^ w - 1 else old, 0⟩

/-- A destination tile by R216: width w, judged per element, policies p for the mask and t for the tail. -/
def writeTile (w : Nat) (old : Tile) (p t : BitVec 1) (judge : Nat → Nat → Judge) (f : Nat → Nat → Fl Nat) : Fl Tile :=
  tileOf w (fun i j =>
    match judge i j with
    | .edge => keep t w (tileEl old w i j)
    | .masked => keep p w (tileEl old w i j)
    | .compute => f i j)

/-- Write vector registers and retire with their flags. -/
def State.vretire (s : State) (ws : List (BitVec 5 × Tile)) (fl : Flags) : State :=
  s.mapHart (fun h => (ws.foldl (fun h w => h.wv w.1 w.2) h).retire 4 [] fl)

/-- An instruction that writes one vector register element by element. -/
def State.velems (s : State) (d : BitVec 5) (e : BitVec 4) (m p t : BitVec 1) (f : Nat → Nat → Fl Nat) : State :=
  let h := s.hart
  let r := writeTile (etBits e) (h.rv d) p t (h.judge e m) f
  s.vretire [(d, r.val)] r.fl

/-! Element operations (R229 to R233). -/

def etSigned (e : BitVec 4) : Bool := decide (e.toNat < 4) || e == 8
def etFmt (e : BitVec 4) : Fmt := if e = 0xA then fmtBF16 else if e = 0xB then fmtF32 else fmtF64
/-- Fraction bits of SLI16 and SLI32 (03 R79). -/
def etP (e : BitVec 4) : Nat := if e = 0xD then 11 else 27

/-- The integer that an element of an integer type holds. -/
def etVal (e : BitVec 4) (x : Nat) : Int := if etSigned e then toS x (etBits e) else x

/-- The bounds of an integer type. -/
def etLo (e : BitVec 4) : Int := if etSigned e then -2 ^ (etBits e - 1) else 0
def etHi (e : BitVec 4) : Int := if etSigned e then 2 ^ (etBits e - 1) - 1 else 2 ^ etBits e - 1

/-- An integer wrapped to w bits. -/
def wrapN (w : Nat) (x : Int) : Nat := (x % 2 ^ w).toNat

/-- Choose by the kind of the type. -/
def byType (e : BitVec 4) (int ieee sli : Fl Nat) : Fl Nat := if etInt e || etNibble e then int else if etIeee e then ieee else sli

def vAdd (e : BitVec 4) (rm : Rm) (x y : Nat) : Fl Nat := byType e ⟨(x + y) % 2 ^ etBits e, 0⟩ ((etFmt e).add rm x y) (sliAdd (etP e) x y)
def vSub (e : BitVec 4) (rm : Rm) (x y : Nat) : Fl Nat := byType e ⟨wrapN (etBits e) (x - y), 0⟩ ((etFmt e).sub rm x y) (sliSub (etP e) x y)
def vMul (e : BitVec 4) (rm : Rm) (x y : Nat) : Fl Nat := byType e ⟨x * y % 2 ^ etBits e, 0⟩ ((etFmt e).mul rm x y) (sliMul (etP e) x y)
def vMulh (e : BitVec 4) (x y : Nat) : Fl Nat := ⟨wrapN (etBits e) (etVal e x * etVal e y / 2 ^ etBits e), 0⟩

/-- Integer VDIV (R230). -/
def vDivInt (e : BitVec 4) (x y : Nat) : Fl Nat :=
  if y = 0 then ⟨2 ^ etBits e - 1, if x = 0 then fNV else fDZ⟩
  else if etSigned e ∧ etVal e x = etLo e ∧ etVal e y = -1 then ⟨x, fIOV⟩
  else ⟨wrapN (etBits e) ((etVal e x).tdiv (etVal e y)), 0⟩
def vDiv (e : BitVec 4) (rm : Rm) (x y : Nat) : Fl Nat := byType e (vDivInt e x y) ((etFmt e).div rm x y) (sliDiv (etP e) x y)

def vMin (e : BitVec 4) (x y : Nat) : Fl Nat := byType e ⟨if etVal e x ≤ etVal e y then x else y, 0⟩ ((etFmt e).minmax false x y) ⟨x, 0⟩
def vMax (e : BitVec 4) (x y : Nat) : Fl Nat := byType e ⟨if etVal e y ≤ etVal e x then x else y, 0⟩ ((etFmt e).minmax true x y) ⟨x, 0⟩
def vAnd (_e : BitVec 4) (x y : Nat) : Fl Nat := ⟨x &&& y, 0⟩
def vOr (_e : BitVec 4) (x y : Nat) : Fl Nat := ⟨x ||| y, 0⟩
def vXor (_e : BitVec 4) (x y : Nat) : Fl Nat := ⟨x ^^^ y, 0⟩
def vShl (e : BitVec 4) (x y : Nat) : Fl Nat := ⟨x * 2 ^ (y % etBits e) % 2 ^ etBits e, 0⟩
def vShr (e : BitVec 4) (x y : Nat) : Fl Nat := ⟨x / 2 ^ (y % etBits e), 0⟩
def vSra (e : BitVec 4) (x y : Nat) : Fl Nat := ⟨wrapN (etBits e) (toS x (etBits e) / 2 ^ (y % etBits e)), 0⟩

/-- A two-operand element instruction. -/
def State.vtwo (s : State) (d a b : BitVec 5) (e : BitVec 4) (m p t : BitVec 1) (f : Nat → Nat → Fl Nat) : State :=
  let x := s.hart.rv a
  let y := s.hart.rv b
  let w := etBits e
  s.velems d e m p t (fun i j => f (tileEl x w i j) (tileEl y w i j))

/-- The dynamic rounding mode (R231). -/
def State.drm (s : State) : Rm := Rm.ofDrm s.hart.drm

/-- VADD (R229). -/
def execVadd (d a b : BitVec 5) (e : BitVec 4) (m p t : BitVec 1) (s : State) : Out := .next (s.vtwo d a b e m p t (vAdd e s.drm))
/-- VSUB (R229). -/
def execVsub (d a b : BitVec 5) (e : BitVec 4) (m p t : BitVec 1) (s : State) : Out := .next (s.vtwo d a b e m p t (vSub e s.drm))
/-- VMUL (R229). -/
def execVmul (d a b : BitVec 5) (e : BitVec 4) (m p t : BitVec 1) (s : State) : Out := .next (s.vtwo d a b e m p t (vMul e s.drm))
/-- VMULH (R229). -/
def execVmulh (d a b : BitVec 5) (e : BitVec 4) (m p t : BitVec 1) (s : State) : Out := .next (s.vtwo d a b e m p t (vMulh e))
/-- VDIV (R229, R230). -/
def execVdiv (d a b : BitVec 5) (e : BitVec 4) (m p t : BitVec 1) (s : State) : Out := .next (s.vtwo d a b e m p t (vDiv e s.drm))
/-- VMIN (R229). -/
def execVmin (d a b : BitVec 5) (e : BitVec 4) (m p t : BitVec 1) (s : State) : Out := .next (s.vtwo d a b e m p t (vMin e))
/-- VMAX (R229). -/
def execVmax (d a b : BitVec 5) (e : BitVec 4) (m p t : BitVec 1) (s : State) : Out := .next (s.vtwo d a b e m p t (vMax e))
/-- VAND (R229). -/
def execVand (d a b : BitVec 5) (e : BitVec 4) (m p t : BitVec 1) (s : State) : Out := .next (s.vtwo d a b e m p t (vAnd e))
/-- VOR (R229). -/
def execVor (d a b : BitVec 5) (e : BitVec 4) (m p t : BitVec 1) (s : State) : Out := .next (s.vtwo d a b e m p t (vOr e))
/-- VXOR (R229). -/
def execVxor (d a b : BitVec 5) (e : BitVec 4) (m p t : BitVec 1) (s : State) : Out := .next (s.vtwo d a b e m p t (vXor e))
/-- VSHL (R229). -/
def execVshl (d a b : BitVec 5) (e : BitVec 4) (m p t : BitVec 1) (s : State) : Out := .next (s.vtwo d a b e m p t (vShl e))
/-- VSHR (R229). -/
def execVshr (d a b : BitVec 5) (e : BitVec 4) (m p t : BitVec 1) (s : State) : Out := .next (s.vtwo d a b e m p t (vShr e))
/-- VSRA (R229). -/
def execVsra (d a b : BitVec 5) (e : BitVec 4) (m p t : BitVec 1) (s : State) : Out := .next (s.vtwo d a b e m p t (vSra e))

/-- VFMA (R229, R231): the addend is the old element. -/
def execVfma (d a b : BitVec 5) (e : BitVec 4) (m p t : BitVec 1) (s : State) : Out :=
  let w := etBits e
  let x := s.hart.rv a
  let y := s.hart.rv b
  let z := s.hart.rv d
  .next (s.velems d e m p t (fun i j => (etFmt e).fma s.drm (tileEl x w i j) (tileEl y w i j) (tileEl z w i j)))

/-- VSQRT (R229). -/
def execVsqrt (d a : BitVec 5) (e : BitVec 4) (m p t : BitVec 1) (s : State) : Out :=
  let x := s.hart.rv a
  .next (s.velems d e m p t (fun i j => (etFmt e).sqrt s.drm (tileEl x (etBits e) i j)))

/-- VLADD (R232). -/
def execVladd (d a b : BitVec 5) (e : BitVec 4) (m p t : BitVec 1) (s : State) : Out := .next (s.vtwo d a b e m p t (sliAdd (etP e)))
/-- VLMUL (R232). -/
def execVlmul (d a b : BitVec 5) (e : BitVec 4) (m p t : BitVec 1) (s : State) : Out := .next (s.vtwo d a b e m p t (sliMul (etP e)))
/-- VLDIV (R232). -/
def execVldiv (d a b : BitVec 5) (e : BitVec 4) (m p t : BitVec 1) (s : State) : Out := .next (s.vtwo d a b e m p t (sliDiv (etP e)))

/-! Compare and select (R233, R234). -/

/-- Whether cc holds for two elements. -/
def vCmp (e : BitVec 4) (c : BitVec 2) (x y : Nat) : Fl Bool :=
  if etInt e then
    let u := etVal e x
    let v := etVal e y
    ⟨match c.toNat with
     | 0 => u == v
     | 1 => u != v
     | 2 => decide (u < v)
     | _ => decide (u ≤ v), 0⟩
  else if etIeee e then
    match c.toNat with
    | 0 => (etFmt e).eq x y
    | 1 => let r := (etFmt e).eq x y; ⟨!r.val, r.fl⟩
    | 2 => (etFmt e).lt x y
    | _ => (etFmt e).le x y
  else
    let o := sliCmp (etP e) x y
    ⟨match c.toNat with
     | 0 => o == some .eq
     | 1 => o != some .eq
     | 2 => o == some .lt
     | _ => o == some .lt || o == some .eq, 0⟩

/-- VCMP (R233): a mask in row 0, rows 1 to 7 zero. -/
def execVcmp (d a b : BitVec 5) (e : BitVec 4) (m p t : BitVec 1) (c : BitVec 2) (s : State) : Out :=
  let h := s.hart
  let w := etBits e
  let x := h.rv a
  let y := h.rv b
  let old := h.rv d
  let rs : List (Fl Nat) := (List.range 128).map (fun k =>
    let i := k / 16
    let j := k % 16
    let prev := b2n (bit old.toNat k)
    if perRow e ≤ j then keep t 1 prev
    else match h.judge e m i j with
      | .edge => keep t 1 prev
      | .masked => keep p 1 prev
      | .compute => let r := vCmp e c (tileEl x w i j) (tileEl y w i j); ⟨b2n r.val, r.fl⟩)
  .next (s.vretire [(d, BitVec.ofNat 1024 (packEls 1 (rs.map Fl.val)))] (rs.foldl (fun f r => f ||| r.fl) 0))

/-- VSEL (R234): by v0, whatever the m bit. -/
def execVsel (d a b : BitVec 5) (e : BitVec 4) (t : BitVec 1) (s : State) : Out :=
  let h := s.hart
  let w := etBits e
  let x := h.rv a
  let y := h.rv b
  .next (s.velems d e 0 0 t (fun i j => ⟨if maskBit (h.rv 0) e i j then tileEl x w i j else tileEl y w i j, 0⟩))

/-! Conversion (R235, R236). -/

/-- Saturate an exact integer to an integer type, SAT where it differs. -/
def satTo (e : BitVec 4) (v : Int) : Fl Nat :=
  let c := max (etLo e) (min (etHi e) v)
  ⟨wrapN (etBits e) c, if c = v then 0 else fSAT⟩

/-- One converted element. -/
def vCvt (src tgt : BitVec 4) (sat : Bool) (rm : Rm) (x : Nat) : Fl Nat :=
  let isInt := fun e => etInt e || etNibble e
  let toInt := fun (r : Fl Int) => (⟨wrapN (etBits tgt) r.val, r.fl⟩ : Fl Nat)
  let toSli := fun (r : Real) => let y := r.toSli (etP tgt); (⟨y.val.encode (etP tgt), y.fl⟩ : Fl Nat)
  if isInt src then
    let v := etVal src x
    if isInt tgt then satTo tgt v
    else if etIeee tgt then (etFmt tgt).ofInt rm v
    else toSli (.dy (decide (v < 0)) v.natAbs 0)
  else if etIeee src then
    if isInt tgt then toInt ((etFmt src).toInt rm (etLo tgt) (etHi tgt) x)
    else if etIeee tgt then (etFmt src).cvt (etFmt tgt) rm x
    else sliOfFloat (etFmt src) (etP tgt) x
  else if isInt tgt then toInt ((Real.ofSli (SVal.decode (etP src) x) (etP src)).toInt rm (etLo tgt) (etHi tgt))
  else if etIeee tgt then floatOfSli (etP src) (etFmt tgt) sat x
  else if tgt = 0xD then sliNarrow x
  else ⟨sliWiden x, 0⟩

/-- VCVT (R235): the narrower type sets the iteration; the wider side is a register group. -/
def execVcvt (d a : BitVec 5) (sb : BitVec 1) (src tgt : BitVec 4) (m p t : BitVec 1) (s : State) : Out :=
  let h := s.hart
  let ws := etBits src
  let wt := etBits tgt
  let rm := s.drm
  let one := vCvt src tgt (sb == 1) rm
  .next (if ws < wt then
      let r := wt / ws
      let per := 128 / wt
      let rs := (List.range r).map (fun k =>
        (plus d k, writeTile wt (h.rv (plus d k)) p t (fun i j => h.judge src m i (k * per + j))
          (fun i j => one (tileEl (h.rv a) ws i (k * per + j)))))
      s.vretire (rs.map (fun x => (x.1, x.2.val))) (rs.foldl (fun f x => f ||| x.2.fl) 0)
    else
      let per := 128 / ws
      let r := writeTile wt (h.rv d) p t (h.judge tgt m) (fun i j => one (tileEl (h.rv (plus a (j / per))) ws i (j % per)))
      s.vretire [(d, r.val)] r.fl)

/-! Requantisation (R237). -/

/-- One requantised element: rounding half up. -/
def vReq (tgt : BitVec 4) (mult zp : Int) (sh : Nat) (x : Nat) : Fl Nat :=
  satTo tgt ((toS x 32 * mult + 2 ^ (30 + sh)) / 2 ^ (31 + sh) + zp)

/-- VREQ (R237): a group that passes v31 is ILLEGAL, by the target that g[b] names. -/
def execVreq (d a b : BitVec 5) (m p t : BitVec 1) (s : State) : Out :=
  let h := s.hart
  let g := (s.rg b).toNat
  let tgt : BitVec 4 := if bit g 48 then 8 else 0
  let group := if bit g 48 then 8 else 4
  .next (if 32 < a.toNat + group then s.raise s.illegal
    else
      let r := writeTile (etBits tgt) (h.rv d) p t (h.judge tgt m) (fun i j =>
        vReq tgt (toS g 32) (toS (g / 2 ^ 40) 8) (bits g 37 32) (tileEl (h.rv (plus a (j / 4))) 32 i (j % 4)))
      s.vretire [(d, r.val)] r.fl)

/-! Reduction and data movement (R238 to R241). -/

/-- The identity of a reduction with no element. -/
def redIdentity (o : BitVec 3) (e : BitVec 4) : Nat :=
  let w := etBits e
  match o.toNat with
  | 0 => 0
  | 1 => if etInt e then wrapN w (etHi e) else if etIeee e then (etFmt e).infBits false else 2 ^ (w - 1) - 1
  | 2 => if etInt e then wrapN w (etLo e) else if etIeee e then (etFmt e).infBits true else 2 ^ w - 1
  | 3 => 2 ^ w - 1
  | _ => 0

/-- SLI MIN and MAX: R82 order, NaR from a NaR. -/
def sliMinMax (p : Nat) (wantMax : Bool) (x y : Nat) : Fl Nat :=
  match sliCmp p x y with
  | none => ⟨SVal.nar.encode p, 0⟩
  | some o => ⟨if wantMax then (if o = .lt then y else x) else (if o = .gt then y else x), 0⟩

/-- One step of a reduction. -/
def redStep (o : BitVec 3) (e : BitVec 4) (rm : Rm) (x y : Nat) : Fl Nat :=
  match o.toNat with
  | 0 => vAdd e rm x y
  | 1 => if etSli e then sliMinMax (etP e) false x y else vMin e x y
  | 2 => if etSli e then sliMinMax (etP e) true x y else vMax e x y
  | 3 => vAnd e x y
  | 4 => vOr e x y
  | _ => vXor e x y

/-- Combine elements in ascending order. -/
def reduce (o : BitVec 3) (e : BitVec 4) (rm : Rm) : List Nat → Fl Nat
  | [] => ⟨redIdentity o e, 0⟩
  | x :: xs => xs.foldl (fun a y => let r := redStep o e rm a.val y; ⟨r.val, a.fl ||| r.fl⟩) ⟨x, 0⟩

/-- The active, unmasked elements of row i. -/
def Hart.partakers (h : Hart) (x : Tile) (e : BitVec 4) (m : BitVec 1) (i : Nat) : List Nat :=
  ((List.range (perRow e)).filter (fun j => h.judge e m i j == .compute)).map (fun j => tileEl x (etBits e) i j)

/-- VRED (R238). -/
def execVred (d a : BitVec 5) (sp : BitVec 1) (o : BitVec 3) (e : BitVec 4) (m t : BitVec 1) (s : State) : Out :=
  let h := s.hart
  let x := h.rv a
  let w := etBits e
  let rm := s.drm
  let all := reduce o e rm ((List.range 8).flatMap (h.partakers x e m))
  let judge := fun i j => if j = 0 ∧ (if sp = 1 then i = 0 else i < h.rows) then Judge.compute else Judge.edge
  let r := writeTile w (h.rv d) 0 t judge (fun i _ => if sp = 1 then all else reduce o e rm (h.partakers x e m i))
  .next (s.vretire [(d, r.val)] r.fl)

/-- VPERM (R239). -/
def execVperm (d a b : BitVec 5) (e : BitVec 4) (m p t : BitVec 1) (s : State) : Out :=
  let w := etBits e
  let n := perRow e
  let x := s.hart.rv a
  let y := s.hart.rv b
  .next (s.velems d e m p t (fun i j => let k := tileEl y w i j; ⟨if k < 8 * n then tileEl x w (k / n) (k % n) else 0, 0⟩))

/-- VBCAST (R239). -/
def execVbcast (d a : BitVec 5) (e : BitVec 4) (m p t : BitVec 1) (s : State) : Out :=
  let x := (s.rg a).toNat % 2 ^ etBits e
  .next (s.velems d e m p t (fun _ _ => ⟨x, 0⟩))

/-- VEXT (R240). -/
def execVext (d a b : BitVec 5) (e : BitVec 4) (s : State) : Out :=
  let w := etBits e
  let n := perRow e
  let k := (s.rg b).toNat
  let x := tileEl (s.hart.rv a) w (k / n) (k % n)
  .next (s.compute d (.pure (if k < 8 * n then (if etSigned e then sext64 x w else BitVec.ofNat 64 x) else 0)))

/-- Position (i, j) is counted by VIOTA and VPOPC (R241). -/
def Hart.counted (h : Hart) (x : Tile) (e : BitVec 4) (m : BitVec 1) (i j : Nat) : Bool :=
  h.judge e m i j == .compute && maskBit x e i j

/-- VIOTA (R241). -/
def execViota (d a : BitVec 5) (e : BitVec 4) (m p t : BitVec 1) (s : State) : Out :=
  let h := s.hart
  let x := h.rv a
  let w := etBits e
  let ps := positions w
  .next (s.velems d e m p t (fun i j =>
    ⟨((ps.takeWhile (fun q => q != (i, j))).filter (fun q => h.counted x e m q.1 q.2)).length % 2 ^ w, 0⟩))

/-- VPOPC (R241). -/
def execVpopc (d a : BitVec 5) (e : BitVec 4) (m : BitVec 1) (s : State) : Out :=
  let h := s.hart
  let x := h.rv a
  .next (s.compute d (.pure (BitVec.ofNat 64 ((positions (etBits e)).filter (fun q => h.counted x e m q.1 q.2)).length)))

/-- SHAPE (R214). -/
def execShape (d a b : BitVec 5) (w : BitVec 2) (s : State) : Out :=
  let rows := min (s.rg a).toNat 8
  let len := min (s.rg b).toNat (16 / 2 ^ w.toNat)
  let v := BitVec.ofNat 64 (rows * 2 ^ 16 + len)
  .next (s.guarded [s.boundCheck d] (fun s => (s.mapHart (fun h => { h with shape := v })).writeRetire d v))

end Sys2Proof.Machine
end

