-- ==== Sys2Proof/Machine/VectorMem.lean ====
section
/-! DEFINITION. Vector loads and stores, major 0x1D (09 R222 to R228). A load all of whose elements are in own scratch or in
sectors that are present completes at issue; any other sends a request for each element, or a fill for each sector of a bound
region that is not present, and is a blocking point until all have answered. A store first obtains the sectors of bound regions,
then writes. -/

namespace Sys2Proof.Machine

/-- S4 and N4 elements are bytes here (R222). -/
def memType (e : BitVec 4) : BitVec 4 := if etNibble e then 0 else e

/-- The active, unmasked elements in row-major order, each with its address: position i × n + j, resolved address. -/
def State.vaddrs (s : State) (e : BitVec 4) (m : BitVec 1) (at_ : Nat → Nat → Word) : List (Nat × Word) :=
  let n := perRow e
  ((List.range (8 * n)).filter (fun k => s.hart.judge e m (k / n) (k % n) == .compute)).map
    (fun k => (k, s.resolve (at_ (k / n) (k % n))))

/-- Element addresses of VLD and VST (R222). -/
def State.addrStride (s : State) (a b : BitVec 5) (eb : Nat) (i j : Nat) : Word :=
  s.rg a + BitVec.ofNat 64 i * (if b = 0 then 16 else s.rg b) + BitVec.ofNat 64 (eb * j)

/-- Element addresses of VLDM and VSTM through the map t (R211, R222). -/
def State.addrMap (s : State) (t : Nat) (b : BitVec 5) (eb : Nat) (i j : Nat) : Word :=
  tmapRow t ((s.rg b).toNat % 2 ^ 32 + i) + BitVec.ofNat 64 (eb * j)

/-- Element addresses of VLDX and VSTX (R222). -/
def State.addrIndex (s : State) (a b : BitVec 5) (i j : Nat) : Word :=
  s.rg a + sext64 (tileEl (s.hart.rv (plus b (j / 4))) 32 i (j % 4)) 32

/-- The first element that fails a form check (R224); `store` where the access may go to another module. -/
def State.vform (s : State) (store : Bool) (eb : Nat) (xs : List (Nat × Word)) : Option Trap :=
  xs.findSome? (fun x =>
    match s.classify x.2 eb eb false with
    | .error t => some t
    | .ok .fabric => if store then none else some ⟨cBOUNDS, x.2, 0⟩
    | .ok _ => none)

/-- The bytes of an element that the core holds, with their poison. -/
def Core.nearRead (k : Core) (p : Place) (ea : Word) (eb : Nat) : Option (Nat × Bool) :=
  match p with
  | .own off => some (k.sread off eb, k.spoisoned off eb)
  | .global => if (k.regionAt ea.toNat).isSome then (k.sectorAt ea.toNat).map (fun x => (x.read ea.toNat eb, x.poison)) else none
  | _ => none

def State.vnear (s : State) (ea : Word) (eb : Nat) : Option (Nat × Bool) :=
  match s.classify ea eb eb false with
  | .ok p => s.cc.nearRead p ea eb
  | .error _ => none

/-- An element waits for an access that shares a byte with it, or for a WAYSET (02 R46; 08 R187). -/
def State.vbusy (s : State) (eb : Nat) (xs : List (Nat × Word)) : Bool :=
  xs.any (fun x => match s.classify x.2 eb eb false with
    | .ok p => s.waitsFor p x.2 eb
    | .error _ => false)

/-- A tile with some elements of eb bytes replaced, by position. -/
def fillTile (eb : Nat) (base : Tile) (vs : List (Nat × Nat)) : Tile :=
  BitVec.ofNat 1024 (vs.foldl (fun t v => setBits t (8 * eb * v.1 + 8 * eb - 1) (8 * eb * v.1) v.2) base.toNat)

/-- The first watchpoint that an element matches, with the element's address (R226). -/
def State.vwatch (s : State) (eb : Nat) (xs : List (Nat × Word)) (ld st : Bool) : Option (BitVec 2 × Word) :=
  xs.findSome? (fun x => (s.watchNow x.2 eb ld st).map (fun k => (k, x.2)))

/-- A hart after a watchpoint that carries its own address. -/
def Hart.watchedAt (h : Hart) (p : Partition) (w : Option (BitVec 2 × Word)) (off : Word) (st : Bool) : Hart :=
  match w with
  | none => h
  | some (k, ea) => h.watched p (some k) ea off st

/-- A vector load has all its data (R223, R227): the executing hart writes vd, or with poison nothing, and goes on. Of several poisoned
elements R227 names none: one POISON becomes pending, for the first in row-major order (DESIGN CHOICE, log 78). -/
def State.vloaded (s : State) (d : BitVec 5) (base : Tile) (eb event : Nat) (xs : List (Nat × Word)) (vs : List (Nat × Bool)) : State :=
  let w := s.vwatch eb xs true false
  let p := s.part s.cvf
  let bad := ((xs.zip vs).find? (fun x => x.2.2)).map (fun x => x.1.2)
  let v := fillTile eb base ((xs.zip vs).map (fun x => (x.1.1, x.2.1)))
  s.mapHart (fun h =>
    let h := (h.count event 1).watchedAt p w h.pc false
    match bad with
    | some ea => (h.poisoned ea h.pc).retire 4 [] 0
    | none => (h.wv d v).retire 4 [] 0)

/-- An address in a bound region. -/
def State.inRegion (s : State) (ea : Word) : Bool := !ea.msb && (s.cc.regionAt ea.toNat).isSome

/-- One element of a load at issue: what the core holds is read; else its request, or its sector's fill, goes on its way (R224). -/
def State.vsend (s : State) (eb : Nat) (acc : List VElem) (x : Nat × Word) : State × List VElem :=
  match s.vnear x.2 eb with
  | some v => (s, acc ++ [{ pos := x.1, ea := x.2, val := v.1, poison := v.2 }])
  | none =>
    let fill := s.inRegion x.2
    match acc.find? (fun e => fill && e.wait.isSome && sectorAddr e.ea.toNat == sectorAddr x.2.toNat) with
    | some e => (s, acc ++ [{ pos := x.1, ea := x.2, wait := e.wait }])
    | none =>
      (s.send (s.reqOf .request (if fill then .vfill false eb else .velem eb) x.2), acc ++ [{ pos := x.1, ea := x.2, wait := some s.nextId }])

def State.vsendAll (s : State) (eb : Nat) : List VElem → List (Nat × Word) → State × List VElem
  | acc, [] => (s, acc)
  | acc, x :: xs => let r := s.vsend eb acc x; r.1.vsendAll eb r.2 xs

/-- A load that waits goes on once every element has answered: with the exact fault of the first that failed, else with its data
(R224). -/
def State.vresume (s : State) (eb : Nat) (d : BitVec 5) (base : Tile) (es : List VElem) : State :=
  if es.any (fun e => e.wait.isSome) then s
  else match es.find? (fun e => e.fault.isSome) with
    | some e => s.raise ⟨e.fault.getD 0, e.ea, 0⟩
    | none => s.vloaded d base eb 10 (es.map (fun e => (e.pos, e.ea))) (es.map (fun e => (e.val, e.poison)))

/-- A vector load over its element addresses. -/
def State.vload (s : State) (d : BitVec 5) (e : BitVec 4) (m p t : BitVec 1) (at_ : Nat → Nat → Word) : State :=
  let eb := etBytes e
  let xs := s.vaddrs e m at_
  s.guarded [s.vform false eb xs] (fun s =>
    let h := s.hart
    let base := (writeTile (etBits e) (h.rv d) p t (h.judge e m) (fun _ _ => ⟨0, 0⟩)).val
    let own := xs.all (fun x => match s.classify x.2 eb eb false with
      | .ok (.own _) => true
      | _ => false)
    if s.vbusy eb xs then s
    else match xs.mapM (fun x => s.vnear x.2 eb) with
    | some vs => s.vloaded d base eb (if own then 9 else 10) xs vs
    | none =>
      let r := s.vsendAll eb [] xs
      r.1.blockOn (.vload eb d base r.2))

/-! Stores. -/

/-- One element of a store: own scratch or a sector that is present is written; anything else is left for a posted part. -/
def State.vput (s : State) (eb : Nat) (acc : List (Nat × Word × Nat)) (x : Nat × Word × Nat) : State × List (Nat × Word × Nat) :=
  match s.classify x.2.1 eb eb false with
  | .ok (.own off) => (s.mapCore (fun k => (k.storeOwn off eb x.2.2).getD k), acc)
  | .ok .global =>
    if (s.cc.regionAt x.2.1.toNat).isSome && (s.cc.sectorAt x.2.1.toNat).isSome then
      (s.mapCore (fun k => k.cacheStore x.2.1.toNat eb x.2.2), acc)
    else (s, acc ++ [x])
  | _ => (s, acc ++ [x])

def State.vputAll (s : State) (eb : Nat) : List (Nat × Word × Nat) → List (Nat × Word × Nat) → State × List (Nat × Word × Nat)
  | acc, [] => (s, acc)
  | acc, x :: xs => let r := s.vput eb acc x; r.1.vputAll eb r.2 xs

/-- Add an element to the granules of a store: mask and bytes; a later element's bytes remain (R223, R225). -/
def addGranule (eb : Nat) (gs : List (Word × Nat × Nat)) (x : Nat × Word × Nat) : List (Word × Nat × Nat) :=
  let g := BitVec.ofNat 64 (x.2.1.toNat / 16 * 16)
  let o := x.2.1.toNat % 16
  let put := fun (e : Word × Nat × Nat) => (e.1, e.2.1 ||| ((2 ^ eb - 1) * 2 ^ o), setBits e.2.2 (8 * (o + eb) - 1) (8 * o) x.2.2)
  if gs.any (fun e => e.1 == g) then updWhere (fun e => e.1 == g) put gs else gs ++ [put (g, 0, 0)]

/-- The posted parts of a store: granules, or one for each element of VSTX (R225). -/
def postedParts (eb : Nat) (index : Bool) (xs : List (Nat × Word × Nat)) : List (ReqKind × Word × Bool) :=
  let fab := fun (a : Word) => a.msb && addrMod a != 2047
  if index then xs.map (fun x => (.store eb (BitVec.ofNat 128 x.2.2) false, x.2.1, fab x.2.1))
  else (xs.foldl (addGranule eb) []).map (fun g => (.granule (BitVec.ofNat 128 g.2.2) (BitVec.ofNat 16 g.2.1) eb, g.1, fab g.1))

/-- Send posted parts while there is room (13 R320). -/
def State.sendParts (s : State) : Nat → State
  | 0 => s
  | n + 1 =>
    match s.hart.vposts with
    | [] => s
    | (k, ea, fab) :: rest =>
      if s.hart.postRoom then ((s.mapHart (fun h => { h with vposts := rest })).post .posted k ea fab).sendParts n else s

/-- Go on with a store whose posted parts are being sent: it retires with the last. -/
def State.vpump (s : State) (v : VStore) : State :=
  let s := s.sendParts 8
  if s.hart.vposts.isEmpty then s.retire else s.blockOn (.vstore v)

/-- An element of a store waits for its sector: it lies in a bound region, on a page that is cacheable-in-core as far as is known,
and the sector is not present. -/
def State.vabsent (s : State) (home : List Nat) (ea : Word) : Bool :=
  s.inRegion ea && !home.contains (sectorAddr ea.toNat) && (s.cc.sectorAt ea.toNat).isNone

/-- The first address in each sector that a store has to obtain. -/
def State.vmissing (s : State) (home : List Nat) (as : List Word) : List Word :=
  as.foldl (fun l a => if s.vabsent home a && !l.any (fun b => sectorAddr b.toNat == sectorAddr a.toNat) then l ++ [a] else l) []

/-- Send the fills of a store, and wait for them. -/
def State.vfetch (s : State) (v : VStore) : List Word → List (Nat × Word) → State
  | [], ids => s.blockOn (.vstore { v with wait := ids })
  | a :: as, ids => (s.send (s.reqOf .request (.vfill true v.eb) a)).vfetch v as (ids ++ [(s.nextId, a)])

/-- The writes of a store whose checks are over (R224, R225): what lies in own scratch or in a sector that is present; then a sector
that has left the cache ways since is obtained again; then the posted parts. -/
def State.vwrite (s : State) (v : VStore) : State :=
  let r := s.vputAll v.eb [] v.xs
  let v := { v with xs := r.2 }
  match r.1.vmissing v.home (v.xs.map (fun x => x.2.1)) with
  | a :: _ => r.1.vfetch v [a] []
  | [] => (r.1.mapHart (fun h => { h with vposts := postedParts v.eb v.index v.xs })).vpump { v with xs := [] }

/-- The watchpoints of the elements that a store itself writes (R226). -/
def State.vstoreWatch (s : State) (v : VStore) : State :=
  let near := v.xs.filter (fun x => match s.classify x.2.1 v.eb v.eb false with
    | .ok (.own _) => true
    | .ok .global => s.inRegion x.2.1 && !v.home.contains (sectorAddr x.2.1.toNat)
    | _ => false)
  let w := s.vwatch v.eb (near.map (fun x => (x.1, x.2.1))) false true
  let p := s.part s.cvf
  s.mapHart (fun h => h.watchedAt p w h.pc true)

/-- A store goes on: its first fault is taken, else it writes. A sector that is obtained again after bytes have been written and is then
refused takes no trap: it is asked for again (DESIGN CHOICE, log 9). -/
def State.vgo (s : State) (v : VStore) : State :=
  if !v.wait.isEmpty then s
  else if v.checking then
    match v.fault with
    | some f => s.raise ⟨f.2.1, f.2.2, 0⟩
    | none => (s.vstoreWatch v).vwrite { v with checking := false }
  else if v.xs.isEmpty then s.vpump v
  else s.vwrite v

/-- A vector store over its element addresses (R218, R224, R225). -/
def State.vstore (s : State) (d : BitVec 5) (e : BitVec 4) (m : BitVec 1) (index : Bool) (at_ : Nat → Nat → Word) : State :=
  let eb := etBytes e
  let n := perRow e
  let xs := s.vaddrs e m at_
  s.guarded [s.vform true eb xs] (fun s =>
    if s.vbusy eb xs then s
    else
      let tile := s.hart.rv d
      let v : VStore := { eb := eb, index := index, xs := xs.map (fun x => (x.1, x.2, tileEl tile (etBits e) (x.1 / n) (x.1 % n))) }
      match s.vmissing [] (xs.map (·.2)) with
      | [] => s.vgo v
      | as => s.vfetch v as [])

/-- Run on the map that VLDM and VSTM name (R224). Its bytes are used as they are where their sector is poisoned: R222 and R227 do not speak
of a poisoned map (DESIGN CHOICE, log 86). -/
def State.onMap (s : State) (a : BitVec 5) (k : State → Nat → State) : State :=
  match s.ownObject (s.resolve (s.rg a)) 16 with
  | .error t => s.raise t
  | .ok off => if s.wayHeld (.own off) 0 16 then s else k s (s.cc.sread off 16)

/-- VLD (R222, R223). -/
def execVld (d a b : BitVec 5) (e : BitVec 4) (m p t : BitVec 1) (s : State) : Out :=
  let e := memType e
  .next (s.vload d e m p t (s.addrStride a b (etBytes e)))

/-- VST (R222, R223). -/
def execVst (d a b : BitVec 5) (e : BitVec 4) (m : BitVec 1) (s : State) : Out :=
  let e := memType e
  .next (s.vstore d e m false (s.addrStride a b (etBytes e)))

/-- VLDM (R222, R211). -/
def execVldm (d a b : BitVec 5) (e : BitVec 4) (m p t : BitVec 1) (s : State) : Out :=
  let e := memType e
  .next (s.onMap a (fun s map => s.vload d e m p t (s.addrMap map b (etBytes e))))

/-- VSTM (R222, R211). -/
def execVstm (d a b : BitVec 5) (e : BitVec 4) (m : BitVec 1) (s : State) : Out :=
  let e := memType e
  .next (s.onMap a (fun s map => s.vstore d e m false (s.addrMap map b (etBytes e))))

/-- VLDX (R222). -/
def execVldx (d a b : BitVec 5) (e : BitVec 4) (m p t : BitVec 1) (s : State) : Out :=
  let e := memType e
  .next (s.vload d e m p t (s.addrIndex a b))

/-- VSTX (R222). -/
def execVstx (d a b : BitVec 5) (e : BitVec 4) (m : BitVec 1) (s : State) : Out :=
  let e := memType e
  .next (s.vstore d e m true (s.addrIndex a b))

end Sys2Proof.Machine
end

