-- ==== Sys2Proof/Machine/Engine.lean ====
section
/-! DEFINITION. What the engines share: queues and issue (10 R243 to R247), completion specifications (R248), fault records
(R250, R251), waits and status (R252, R253), and the accesses that an engine makes (R268, R269). -/

namespace Sys2Proof.Machine

/-! Queues. -/

def engineIdx : Engine → Fin 3
  | .matrix => 0
  | .copy => 1
  | .exponent => 2

def Core.eng (k : Core) : Engine → EngineSt
  | .matrix => k.matrix
  | .copy => k.copy
  | .exponent => k.exponent

def Core.setEng (k : Core) (e : Engine) (x : EngineSt) : Core :=
  match e with
  | .matrix => { k with matrix := x }
  | .copy => { k with copy := x }
  | .exponent => { k with exponent := x }

/-- An issuer's index: harts 0 to 3, the sequencer 4. -/
def issuerIdx (i : BitVec 3) : Fin 5 := ⟨i.toNat % 5, Nat.mod_lt _ (by decide)⟩

def Core.issuer (k : Core) (i : BitVec 3) (e : Engine) : Issuer := (k.issuers.get (issuerIdx i)).get (engineIdx e)
def Core.modIssuer (k : Core) (i : BitVec 3) (e : Engine) (f : Issuer → Issuer) : Core :=
  let v := k.issuers.get (issuerIdx i)
  { k with issuers := k.issuers.set (issuerIdx i).val (v.set (engineIdx e).val (f (v.get (engineIdx e))) (engineIdx e).isLt) (issuerIdx i).isLt }

/-- The commands of an engine that have not ended, oldest first. -/
def EngineSt.commands (x : EngineSt) : List Cmd := x.run.toList ++ x.queue

/-- An issuer has no command on the engine that has not ended (R252). -/
def Core.engineDone (k : Core) (i : BitVec 3) (e : Engine) : Bool := !(k.eng e).commands.any (fun c => c.issuer == i)

def EngineSt.room (x : EngineSt) : Bool := decide (x.queue.length < Config.engineQueue)

/-- Accept a command: it takes the issuer's next number (R243, R247). `hart` is whom a contended entry went to (11 R289). -/
def Core.accept (k : Core) (e : Engine) (i : BitVec 3) (off : Word) (op : CmdOp) (cs : Word) (mark : Nat) (contended hart : Bool) : Core :=
  let n := (k.issuer i e).seq + 1
  let x := k.eng e
  (k.modIssuer i e (fun u => { u with seq := n })).setEng e
    { x with queue := x.queue ++ [{ issuer := i, seq := n, off := off, op := op, cs := cs, mark := mark }],
             lastHart := if contended then hart else x.lastHart }

/-- The issuer number of the executing hart. -/
def State.issuerNo (s : State) : BitVec 3 := s.cur.hart.setWidth 3

/-- The target queue has no entry for the executing hart now: it is full, or the entry is the sequencer's turn (R243; 11 R289). -/
def State.queueShut (s : State) (e : Engine) : Bool :=
  !(s.cc.eng e).room || (s.cc.cas.wantsQ == some e && (s.cc.eng e).lastHart)

/-- The issue of an engine command by a hart: without an entry the hart is not ready (01 R26), else its checks, then its entry
(R243, R246). -/
def State.command (s : State) (e : Engine) (checks : List (Option Trap)) (op : CmdOp) (cs : Word := 0) : State :=
  if s.queueShut e then s.mapHart (fun h => { h with wantsQ := some e })
  else s.guarded checks (fun s =>
    let contended := s.cc.cas.wantsQ == some e
    ((s.mapCore (fun k => k.accept e s.issuerNo s.hart.pc op cs s.nextId contended true)).mapHart (fun h => h.count 0x0C 1)).retire)

/-! Checks at issue (R246, R451). -/

/-- ENGINE with a reason. -/
def engineTrap (reason : Nat) : Trap := ⟨cENGINE, 0, BitVec.ofNat 64 reason⟩
def reason (bad : Bool) (n : Nat) : Option Trap := if bad then some (engineTrap n) else none

/-- The reserved bits of a completion specification. -/
def csReserved (cs : Word) : Bool := bits cs.toNat 57 40 != 0

def csBEN (cs : Word) : Bool := cs.msb
def csMEN (cs : Word) : Bool := bit cs.toNat 62
def csMR (cs : Word) : BitVec 4 := BitVec.ofNat 4 (bits cs.toNat 61 58)
def csTOKEN (cs : Word) : Nat := bits cs.toNat 39 24
def csBOFF (cs : Word) : Nat := bits cs.toNat 23 0

/-- The check of BOFF (R248). -/
def State.csCheck (s : State) (cs : Word) : Option Trap :=
  let ea := s.cc.ownAddr (csBOFF cs)
  if csBEN cs = false then none
  else if csBOFF cs % 16 ≠ 0 then some ⟨cALIGN, ea, 0⟩
  else if s.cc.scratchSize < csBOFF cs + 16 then some ⟨cBOUNDS, ea, 0⟩ else none

/-- The check of an address operand of n bytes with alignment al; `own` where it must be own scratch, which is a BOUNDS before an
XLATE (R268, R451). -/
def State.addrCheck (s : State) (a : Word) (al n : Nat) (own : Bool) : Option Trap :=
  let ea := s.resolve a
  if ea.toNat % al ≠ 0 then some ⟨cALIGN, ea, 0⟩
  else match s.classify ea 1 n false with
    | .error t => if own then some ⟨cBOUNDS, ea, 0⟩ else some t
    | .ok (.own _) => none
    | .ok .fabric => some ⟨cBOUNDS, ea, 0⟩
    | .ok .window => some ⟨cBOUNDS, ea, 0⟩
    | .ok _ => if own then some ⟨cBOUNDS, ea, 0⟩ else none

/-- A slot of the operand memory is claimed by hart h. -/
def Core.claimed (k : Core) (slot : Nat) (h : BitVec 2) : Bool :=
  if hs : slot < 32 then k.slotOwner.get ⟨slot, hs⟩ == some h else false

/-! Accesses of an engine. -/

/-- The remap entry of the partition admits the cluster that an address names (15 R330). -/
def State.placed (s : State) (vf : BitVec 4) (ea : Word) : Bool := (remapXY (s.part vf).remap (addrX ea) (addrY ea)).isSome

/-- A write of n bytes into scratch by an engine, with their poison (R269): none in the code region (08 R188). -/
def Core.engWrite (k : Core) (off n v : Nat) (poison : Bool) : Option Core :=
  if off < k.codesz.toNat then none
  else
    let k := k.swrite off n v
    some (if poison then { k with lpoison := (k.sectors off n).foldl setAdd k.lpoison } else k)

/-! How a command ends (R249 to R251). -/

/-- What a command has done: the state, its flags, the bytes it delivered, its fault. -/
structure Perf where
  s : State
  fl : Flags := 0
  bytes : Nat := 0
  fault : Option EngFault := none

/-- The fault record without SKIP. -/
def recordWord (seq : BitVec 32) (f : EngFault) : Word :=
  BitVec.ofNat 64 (seq.toNat * 2 ^ 32 + f.cause.toNat * 2 ^ 24 + f.opnd * 2 ^ 20 + f.knext)

/-- One more command was not executed; SKIP saturates. -/
def bumpSkip (r : Word) : Word := BitVec.ofNat 64 (setBits r.toNat 16 9 (min 255 (bits r.toNat 16 9 + 1)))

/-- The token of a command (R248). -/
def tokenValue (cs : Word) (seq : BitVec 32) (st : Nat) : Word := BitVec.ofNat 64 (seq.toNat * 2 ^ 32 + st * 2 ^ 24 + csTOKEN cs)

/-- A message of the core's own engines or sequencer: it is delivered, and at a core that sleeps it waits for the wake (01 R32, R33); none
while neither its register nor the overflow queue takes it behind those that wait already: then its sender waits (10 R248; 11 R290). -/
def Core.ownMessage (k : Core) (m : Msg) : Option Core :=
  if k.sleep = .awake then (if k.tokens.isEmpty then k.deliver m else none)
  else
    let t := k.giveTokens
    if t.tokens.isEmpty && (t.deliver m).isSome then some { k with tokens := k.tokens ++ [m] } else none

/-- Write the token of a command of a hart. A hart that hosts no group any more, or that stops, gets none (18 R374). -/
def Core.token (k : Core) (c : Cmd) (st : Nat) : Option Core :=
  let h : BitVec 2 := c.issuer.setWidth 2
  if csMEN c.cs = false ∨ c.issuer = 4 ∨ (k.hart h).hosts = false ∨ (k.hart h).stopping = true then some k
  else k.ownMessage ⟨h, csMR c.cs, tokenValue c.cs c.seq st⟩

/-- The barrier's share of a completed command: OPND 6 where the object has left scratch (R187) or is poisoned (R250). An object in the
code region takes the subtraction as a store of the core's own: R188 and R269 speak of stores and copied data (DESIGN CHOICE, log 80). -/
def Core.signalBarrier (k : Core) (cs : Word) (n : Nat) : Except EngFault Core :=
  if csBEN cs = false then .ok k
  else if k.scratchSize < csBOFF cs + 16 then .error ⟨cBOUNDS, 6, 0, k.ownAddr (csBOFF cs)⟩
  else if k.spoisoned (csBOFF cs) 16 then .error ⟨cPOISON, 6, 0, k.ownAddr (csBOFF cs)⟩
  else .ok (k.putOwnBar (csBOFF cs) (barSubtract (k.bar (csBOFF cs)) n))

/-- The slots of a hart that has exited are released once its commands have ended (R254). -/
def Core.freeSlots (k : Core) : Core :=
  let gone := hartNos.filter (fun h =>
    (k.hart h).exited && ([.matrix, .copy, .exponent] : List Engine).all (fun e => k.engineDone (h.setWidth 3) e))
  { k with slotOwner := vmap (fun o => if o.any gone.contains then none else o) k.slotOwner }

/-- Keep the flags of a command with its issuer until a wait covers them; those of the sequencer go to CASST (11 R452). -/
def Core.keepFlags (k : Core) (e : Engine) (c : Cmd) (fl : Flags) : Core :=
  if c.issuer = 4 then { k with cas := { k.cas with flags := k.cas.flags ||| fl.setWidth 6 } }
  else k.modIssuer c.issuer e (fun u => { u with flags := if fl = 0 then u.flags else u.flags ++ [(fl, c.off)] })

/-- Record a fault. -/
def Core.recordFault (k : Core) (e : Engine) (c : Cmd) (f : EngFault) : Core :=
  k.modIssuer c.issuer e (fun u => { u with faulted := true, record := recordWord c.seq f, addr := f.addr, off := c.off })

/-- The command in performance ends as `p` says; none while its token cannot be written. -/
def endCommand (c : Nat) (e : Engine) (cmd : Cmd) (p : Perf) : Option State :=
  let k := (p.s.core c).keepFlags e cmd p.fl
  let done := fun (k : Core) => (k.setEng e { k.eng e with run := none, work := {} }).freeSlots
  let r : Core × Nat :=
    match p.fault with
    | some f => (k.recordFault e cmd f, f.cause.toNat)
    | none =>
      match k.signalBarrier cmd.cs p.bytes with
      | .error f => (k.recordFault e cmd f, f.cause.toNat)
      | .ok k => (k, 0)
  (r.1.token cmd r.2).map (fun k => p.s.setCore c (done k))

/-! Waits and status. -/

/-- The flags that no wait has covered reach AFLAGS and AREC in order (R252). -/
def Hart.coverFlags (h : Hart) (l : List (BitVec 8 × Word)) : Hart := l.foldl (fun h e => h.raiseFlags e.1 (arecInstr e.2)) h

/-- The end of a wait of the executing hart whose commands have ended: its flags, then its trap or its status word (R252). -/
def State.engineReturn (s : State) (e : Engine) (d : BitVec 5) : State :=
  let i := s.issuerNo
  let u := s.cc.issuer i e
  let cover := fun (s : State) =>
    (s.mapCore (fun k => k.modIssuer i e (fun u => { u with flags := [], faulted := false }))).mapHart (fun h => h.coverFlags u.flags)
  if u.faulted then
    (if s.hart.quiet then (cover s).raise ⟨BitVec.ofNat 8 (bits u.record.toNat 31 24), u.addr, u.record⟩ else s)
  else (cover s).writeRetire d (BitVec.ofNat 64 (u.seq.toNat * 2 ^ 32))

/-- MWAIT, CWAIT and XWAIT: a blocking point while a command of the hart has not ended. -/
def State.engineWait (s : State) (e : Engine) (d : BitVec 5) : State :=
  s.guarded [s.boundCheck d] (fun s =>
    if s.cc.engineDone s.issuerNo e then s.engineReturn e d else s.blockOn (.engine e d))

/-- MSTAT and CSTAT (R253). -/
def State.engineStat (s : State) (e : Engine) (d : BitVec 5) : State :=
  s.guarded [s.boundCheck d, s.boundCheck (d + 1)] (fun s =>
    let u := s.cc.issuer s.issuerNo e
    s.mapHart (fun h => ((h.wg d u.record).wg (d + 1) u.addr).retire 4 [.g d, .g (d + 1)] 0))

end Sys2Proof.Machine
end

