-- ==== Sys2Proof/Machine/Matrix.lean ====
section
/-! DEFINITION. The matrix engine, major 0x24 (10 R255 to R266). -/

namespace Sys2Proof.Machine

/-- A W-core: its exposed column c has c mod 4 = 0 (15 R325). -/
def isW (c : Nat) : Bool := keyX c % 4 == 0

/-- Lines of the operand memory (R256). -/
def opLine (slot line : Nat) : Nat := 2048 * slot + 128 * line

/-! Instructions. -/

/-- n slots from base are unclaimed. -/
def Core.slotsFree (k : Core) (base n : Nat) : Bool :=
  (List.range n).all (fun i => if hs : base + i < 32 then (k.slotOwner.get ⟨base + i, hs⟩).isNone else false)

/-- Set the owner of n slots from base. -/
def Core.ownSlots (k : Core) (base n : Nat) (o : Option (BitVec 2)) : Core :=
  { k with slotOwner := vmapIdx (fun i x => if base ≤ i ∧ i < base + n then o else x) k.slotOwner }

/-- MCLAIM (R258): never blocks. -/
def execMclaim (d a : BitVec 5) (_l : BitVec 4) (s : State) : Out :=
  let n := (s.rg a).toNat
  .next (s.guarded [s.boundCheck d, reason (n < 1 ∨ 32 < n) 2] (fun s =>
    match (List.range 32).find? (fun b => s.cc.slotsFree b n) with
    | some b => (s.mapCore (fun k => k.ownSlots b n (some s.cur.hart))).writeRetire d (BitVec.ofNat 64 b)
    | none => s.writeRetire d 0xFFFFFFFFFFFFFFFF))

/-- MREL (R258). -/
def execMrel (a b : BitVec 5) (_l : BitVec 4) (s : State) : Out :=
  let base := (s.rg a).toNat
  let n := (s.rg b).toNat
  .next (s.command .matrix
    [reason (32 < base + n ∨ n = 0 ∨ (List.range n).all (fun i => s.cc.claimed (base + i) s.cur.hart) = false) 1]
    (.mrel base n))

/-- The slot-and-line register of MPUT and MLOAD (R259). -/
def slotLineReserved (x : Word) : Bool := bits x.toNat 63 12 != 0 || bits x.toNat 7 5 != 0
def slOf (x : Word) : Nat := bits x.toNat 4 0
def lineOf (x : Word) : Nat := bits x.toNat 11 8

/-- MPUT (R260). -/
def execMput (d a : BitVec 5) (b : BitVec 4) (_l : BitVec 4) (s : State) : Out :=
  let r := s.rg d
  let n := b.toNat + 1
  .next (s.command .matrix
    [if 32 < a.toNat + n then some s.illegal else none, reason (slotLineReserved r) 6,
     reason (!s.cc.claimed (slOf r) s.cur.hart) 1, reason (16 < lineOf r + n) 5]
    (.mput (slOf r) (lineOf r) n a none))

/-- MLOAD (R261). -/
def execMload (d a b : BitVec 5) (_l : BitVec 4) (s : State) : Out :=
  let r := s.rg d
  let p := s.rg b
  let c := bits p.toNat 4 0
  let stride := bits p.toNat 47 16
  .next (s.command .matrix
    [reason (slotLineReserved r || bits p.toNat 63 48 != 0 || bits p.toNat 15 5 != 0) 6,
     reason (!s.cc.claimed (slOf r) s.cur.hart) 1, reason (c < 1 ∨ 16 < c ∨ stride % 16 ≠ 0) 2,
     reason (16 < lineOf r + c) 5, s.addrCheck (s.rg a) 16 ((c - 1) * stride + 128) true]
    (.mload (slOf r) (lineOf r) c stride (addrOff (s.resolve (s.rg a)))))

/-- Fields of MMA's shape (R263). -/
def mmaReserved (p : Word) : Bool :=
  bits p.toNat 63 53 != 0 || bits p.toNat 47 41 != 0 || bits p.toNat 31 25 != 0 || bits p.toNat 15 13 != 0 || bits p.toNat 7 5 != 0

/-- The largest K and the block size of a type. -/
def mmaMaxK (cb4 : Bool) : Nat := if cb4 then 256 else 64
def mmaBlock (cb4 : Bool) : Nat := if cb4 then 32 else 16

/-- A type that the core's engine accepts (R255). -/
def typeAccepted (c ty : Nat) : Bool := if isW c then ty == 0 else ty == 1

/-- MMA (R263): the tile is named by field d. -/
def execMma (d a b : BitVec 5) (_l : BitVec 4) (s : State) : Out :=
  let sl := (s.rg a).toNat
  let p := (s.rg b).toNat
  let ty := bits p 52 50
  let cb4 := ty == 1
  let k := bits p 24 16
  let n := bits p 12 8
  let m := bits p 4 0
  let k0 := bits p 40 32
  .next (s.command .matrix
    [reason (mmaReserved (s.rg b) || bits sl 63 13 != 0 || bits sl 7 5 != 0) 6,
     reason (!typeAccepted s.cur.core ty || decide (1 < bits p 49 48)) 4,
     reason (!s.cc.claimed (bits sl 4 0) s.cur.hart || !s.cc.claimed (bits sl 12 8) s.cur.hart) 1,
     reason (16 < m ∨ 16 < n ∨ mmaMaxK cb4 < k) 2, reason (k0 % mmaBlock cb4 ≠ 0 ∨ k < k0) 3,
     s.addrCheck (s.rg d) 64 1024 true]
    (.mma (addrOff (s.resolve (s.rg d))) (bits sl 4 0) (bits sl 12 8) cb4 (bits p 49 48 == 1) k0 k n m))

/-- MCBK (R262): CB4 only. -/
def execMcbk (a b : BitVec 5) (_l : BitVec 4) (s : State) : Out :=
  .next (s.command .matrix
    [reason (!typeAccepted s.cur.core 1) 4, s.addrCheck (s.rg a) 32 32 true, s.addrCheck (s.rg b) 32 32 true]
    (.mcbk (addrOff (s.resolve (s.rg a))) (addrOff (s.resolve (s.rg b)))))

/-- MWAIT (R252). -/
def execMwait (d : BitVec 5) (_l : BitVec 4) (s : State) : Out := .next (s.engineWait .matrix d)

/-- MSTAT (R253). -/
def execMstat (d : BitVec 5) (_l : BitVec 4) (s : State) : Out := .next (s.engineStat .matrix d)

/-! Performance. -/

/-- A stop of an engine at a scratch operand: the range has left scratch, or holds poison. -/
def Core.operandFault (k : Core) (opnd off n : Nat) : Option EngFault :=
  if n = 0 then none
  else if k.scratchSize < off + n then some ⟨cBOUNDS, opnd, 0, k.ownAddr off⟩
  else if k.spoisoned off n then some ⟨cPOISON, opnd, 0, k.ownAddr off⟩ else none

def Core.rangeFault (k : Core) (opnd off n : Nat) : Option EngFault :=
  if n ≠ 0 ∧ k.scratchSize < off + n then some ⟨cBOUNDS, opnd, 0, k.ownAddr off⟩ else none

/-- Write a line of the operand memory. -/
def Core.putLine (k : Core) (slot line v : Nat) : Core :=
  { k with opmem := memPutLE k.opmem (opLine slot line) 128 v, opPoison := setDel k.opPoison (16 * slot + line) }

def Core.getLine (k : Core) (slot line : Nat) : Nat := memLE k.opmem (opLine slot line) 128

/-- Lines of MPUT. -/
def Core.putLines (k : Core) (slot : Nat) : Nat → List Tile → Core
  | _, [] => k
  | l, t :: ts => (k.putLine slot l t.toNat).putLines slot (l + 1) ts

/-- Lines of MLOAD from scratch: those before a fault stay. -/
def Core.loadLines (k : Core) (slot stride : Nat) : Nat → Nat → Nat → Core × Option EngFault
  | 0, _, _ => (k, none)
  | n + 1, line, off =>
    if k.scratchSize < off + 128 then (k, some ⟨cBOUNDS, 1, 0, k.ownAddr off⟩)
    else if k.spoisoned off 128 then (k, some ⟨cPOISON, 1, 0, k.ownAddr off⟩)
    else (k.putLine slot line (k.sread off 128)).loadLines slot stride n (line + 1) (off + stride)

/-- The product of two BF16 values rounded to F32 (R264). -/
def bf16Product (x y : Nat) : Fl Nat := fmtF32.mulV .rne (fmtBF16.decode x) (fmtBF16.decode y)

/-- The table of products of two codebooks (R262). -/
def productTable (a b : Nat) : SMap (BitVec 32) × Flags :=
  let rs := (List.range 256).map (fun n => (n, bf16Product (bits a (16 * (n / 16) + 15) (16 * (n / 16))) (bits b (16 * (n % 16) + 15) (16 * (n % 16)))))
  ((rs.filter (fun r => r.2.val != 0)).map (fun r => (r.1, BitVec.ofNat 32 r.2.val)), rs.foldl (fun f r => f ||| r.2.fl) 0)

def Core.setProducts (k : Core) (i : BitVec 3) (t : SMap (BitVec 32)) : Core :=
  { k with products := k.products.set (issuerIdx i).val t (issuerIdx i).isLt }

/-- p(i, j, k) of R264 from the two lines. -/
def mmaProduct (cb4 : Bool) (t : SMap (BitVec 32)) (la lb k : Nat) : Fl Nat :=
  if cb4 then ⟨((mapFind t (16 * bits la (4 * k + 3) (4 * k) + bits lb (4 * k + 3) (4 * k))).getD 0).toNat, 0⟩
  else bf16Product (bits la (16 * k + 15) (16 * k)) (bits lb (16 * k + 15) (16 * k))

/-- The sum of one element over a block: n more products from k. -/
def mmaSum (p : Nat → Fl Nat) : Nat → Nat → Fl Nat → Fl Nat
  | 0, _, s => s
  | n + 1, k, s => let x := p k; let r := fmtF32.add .rne s.val x.val; mmaSum p n (k + 1) ⟨r.val, s.fl ||| x.fl ||| r.fl⟩

/-- One block applied to the M × N region of the tile at `tile` (R264). -/
def Core.mmaBlockAt (k : Core) (tile slotA slotB : Nat) (cb4 ow : Bool) (t : SMap (BitVec 32)) (k0 kEnd n m : Nat) : Core × Flags :=
  let sums := (List.range (m * n)).map (fun x =>
    let la := k.getLine slotA (x / n)
    let lb := k.getLine slotB (x % n)
    let p := mmaProduct cb4 t la lb
    (x, mmaSum p (kEnd - k0 - 1) (k0 + 1) (p k0)))
  sums.foldl (fun (acc : Core × Flags) e =>
    let off := tile + 64 * (e.1 / n) + 4 * (e.1 % n)
    let r := if ow then ⟨e.2.val, 0⟩ else fmtF32.add .rne (acc.1.sread off 4) e.2.val
    ((acc.1.noteCodeStore off 4).swrite off 4 r.val, acc.2 ||| e.2.fl ||| r.fl)) (k, 0)

/-- What stops a block (R266). Of several stops one is recorded, in the order lost tile, slot A, slot B, poisoned tile row: R451 orders the
checks at issue only (DESIGN CHOICE, log 90). -/
def Core.mmaStops (k : Core) (tile slotA slotB : Nat) (ow : Bool) (k0 n m : Nat) : Option EngFault :=
  let bad := fun slot rows => (List.range rows).any (fun i => k.opPoison.contains (16 * slot + i))
  if k.scratchSize < tile + 1024 then some ⟨cBOUNDS, 3, k0, k.ownAddr tile⟩
  else if bad slotA m then some ⟨cPOISON, 1, k0, 0⟩
  else if bad slotB n then some ⟨cPOISON, 2, k0, 0⟩
  else if ow then none
  else ((List.range m).find? (fun i => k.spoisoned (tile + 64 * i) (4 * n))).map (fun i => ⟨cPOISON, 3, k0, k.ownAddr (tile + 64 * i)⟩)

/-- +0 over the M × N region (R265). -/
def Core.zeroTile (k : Core) (tile n : Nat) : Nat → Core
  | 0 => k
  | m + 1 => (((k.zeroTile tile n m).noteCodeStore (tile + 64 * m) (4 * n)).swrite (tile + 64 * m) (4 * n) 0)

/-- Perform a command of the matrix engine, but for an MMA, on its core. -/
def Core.doMatrix (core : Core) (i : BitVec 3) : CmdOp → Core × Flags × Option EngFault
  | .mrel base n => (core.ownSlots base n none, 0, none)
  | .mput slot line _ _ held => (core.putLines slot line (held.getD []), 0, none)
  | .mload slot line n stride src => let r := core.loadLines slot stride n line src; (r.1, 0, r.2)
  | .mcbk a b =>
    match [core.operandFault 4 a 32, core.operandFault 4 b 32].findSome? id with
    | some f => (core, 0, some f)
    | none => let t := productTable (core.sread a 32) (core.sread b 32); (core.setProducts i t.1, t.2, none)
  | _ => (core, 0, none)

/-- One block of an MMA that `unit` blocks have been applied of: the core, the flags, the fault, and whether it was the last (R264,
R265, R266). -/
def Core.mmaStep (core : Core) (i : BitVec 3) (unit tile slotA slotB : Nat) (cb4 ovw : Bool) (kstart k n m : Nat) :
    Core × Flags × Option EngFault × Bool :=
  let k0 := kstart + unit * mmaBlock cb4
  let next := k0 + mmaBlock cb4
  let ow := ovw && k0 == 0
  if m = 0 ∨ n = 0 then (core, 0, none, true)
  else if k = 0 then
    (if ovw = false then (core, 0, none, true)
     else if core.scratchSize < tile + 1024 then (core, 0, some ⟨cBOUNDS, 3, 0, core.ownAddr tile⟩, true)
     else (core.zeroTile tile n m, 0, none, true))
  else if k ≤ k0 then (core, 0, none, true)
  else match core.mmaStops tile slotA slotB ow k0 n m with
    | some e => (core, 0, some e, true)
    | none =>
      let r := core.mmaBlockAt tile slotA slotB cb4 ow (core.products.get (issuerIdx i)) k0 (min next k) n m
      (r.1, r.2, none, decide (k ≤ next))

end Sys2Proof.Machine
end

