-- ==== Sys2Proof/Machine/Copy.lean ====
section
/-! DEFINITION. The copy engine, major 0x25 (10 R267 to R275), and described blocks (03 R91 to R94). A command is performed unit
by unit, a granule, a block or a slot at a time (log 8): own scratch at once, everything else by a request of the engine (13 R307,
R312). One that reads a poisoned sector goes on, writes the poison with the data, and then ends with POISON (R269). -/

namespace Sys2Proof.Machine

/-! Instructions. -/

/-- CPY (R270). -/
def execCpy (d a b : BitVec 5) (_l : BitVec 4) (s : State) : Out :=
  let len := (s.rg b).toNat
  let cs := s.rg (b + 1)
  .next (s.command .copy
    [reason (csReserved cs) 6, reason (len % 16 ≠ 0 ∨ 2 ^ 32 ≤ len) 2, s.addrCheck (s.rg d) 16 (max len 1) false,
     s.addrCheck (s.rg a) 16 (max len 1) false, s.csCheck cs]
    (.cpy (s.resolve (s.rg d)) (s.resolve (s.rg a)) len) cs)

/-- Fields of CPY2 (R271). -/
def cpyDMAP (shape : Word) : Bool := shape.msb
def cpySMAP (shape : Word) : Bool := bit shape.toNat 62
def cpyROWS (shape : Word) : Nat := bits shape.toNat 47 32
def cpyROWB (shape : Word) : Nat := bits shape.toNat 31 0

/-- CPY2 (R271). -/
def execCpy2 (d a b : BitVec 5) (_l : BitVec 4) (s : State) : Out :=
  let shape := s.rg b
  let strides := s.rg (b + 1)
  let cs := s.rg (b + 2)
  let end_ := fun (x : Word) (isMap : Bool) => if isMap then s.addrCheck x 16 16 true else s.addrCheck x 1 1 false
  .next (s.command .copy
    [reason (bits shape.toNat 61 48 != 0 || csReserved cs) 6,
     reason (cpyROWB shape % 16 ≠ 0 ∨ (cpySMAP shape = false ∧ bits strides.toNat 31 0 % 16 ≠ 0) ∨
       (cpyDMAP shape = false ∧ bits strides.toNat 63 32 % 16 ≠ 0) ∨ 2 ^ 36 ≤ cpyROWS shape * cpyROWB shape) 2,
     end_ (s.rg d) (cpyDMAP shape), end_ (s.rg a) (cpySMAP shape), s.csCheck cs]
    (.cpy2 (if cpyDMAP shape then s.resolve (s.rg d) else s.rg d) (if cpySMAP shape then s.resolve (s.rg a) else s.rg a) shape strides none) cs)

/-- Formats of described blocks (03 R91). -/
inductive BlockFmt where
  | s8 | s6 | s4 | bf16 | f32 | l16 | l32
  | cb4 (t : Nat)
  deriving DecidableEq, Repr

/-- The format of a code; none where it is reserved. -/
def blockOf (fmt : Nat) : Option BlockFmt :=
  if fmt = 1 then some .s8 else if fmt = 2 then some .s6 else if fmt = 3 then some .s4
  else if fmt / 16 = 4 then some (.cb4 (fmt % 16))
  else if fmt = 0x10 then some .bf16 else if fmt = 0x11 then some .f32
  else if fmt = 0x20 then some .l16 else if fmt = 0x21 then some .l32 else none

/-- Elements of a block and bits of an element. -/
def BlockFmt.count : BlockFmt → Nat
  | .s8 => 62
  | .s6 => 82
  | .s4 | .cb4 _ => 124
  | .bf16 | .l16 => 31
  | .f32 | .l32 => 15

def BlockFmt.width : BlockFmt → Nat
  | .s8 => 8
  | .s6 => 6
  | .s4 | .cb4 _ => 4
  | .bf16 | .l16 => 16
  | .f32 | .l32 => 32

/-- A format that code-preserving expansion takes, with the bytes that it writes for a block (R272). -/
def BlockFmt.codeBytes : BlockFmt → Option Nat
  | .s8 => some 62
  | .s6 => some 82
  | .s4 | .cb4 _ => some 62
  | _ => none

/-- Bytes of CXP's destination, where they are known at issue. -/
def cxpBytes (p : Nat) : Nat :=
  if bit p 20 then bits p 15 0 * ((((blockOf (bits p 31 24)).bind BlockFmt.codeBytes)).getD 0) else 0

/-- CXP (R272). -/
def execCxp (d a b : BitVec 5) (_l : BitVec 4) (s : State) : Out :=
  let p := (s.rg b).toNat
  let cs := s.rg (b + 2)
  let cp := bit p 20
  .next (s.command .copy
    [reason (bits p 63 40 != 0 || bits p 23 21 != 0 || csReserved cs) 6,
     reason (if cp then (((blockOf (bits p 31 24)).bind BlockFmt.codeBytes).isNone) else !etWhole (BitVec.ofNat 4 (bits p 19 16))) 4,
     s.addrCheck (s.rg d) 16 (max 1 (cxpBytes p)) true, s.addrCheck (s.rg a) 64 (max 1 (64 * bits p 15 0)) false,
     if cp then none else s.addrCheck (s.rg (b + 1)) 32 512 true, s.csCheck cs]
    (.cxp (addrOff (s.resolve (s.rg d))) (s.resolve (s.rg a)) (s.rg b) (addrOff (s.resolve (s.rg (b + 1))))) cs)

/-- The combinations of format and source type that CPK takes (R273). -/
def cpkOk (fmt : Nat) (st : BitVec 4) (scale : Nat) : Bool :=
  scale != 128 && etAny st && (match blockOf fmt with
    | none => false
    | some (.cb4 _) => st == 9
    | some .s4 => st != 9
    | some _ => st != 9 && st != 8)

/-- Bytes of n source elements of CPK. -/
def cpkBytes (st : BitVec 4) (n : Nat) : Nat := if etNibble st then (n + 1) / 2 else n * etBytes st

/-- CPK (R273). -/
def execCpk (d a b : BitVec 5) (_l : BitVec 4) (s : State) : Out :=
  let p := (s.rg b).toNat
  let cs := s.rg (b + 1)
  let st : BitVec 4 := BitVec.ofNat 4 (bits p 19 16)
  let n := bits p 15 0
  let els := ((blockOf (bits p 31 24)).map BlockFmt.count).getD 0
  .next (s.command .copy
    [reason (bits p 63 40 != 0 || bits p 23 20 != 0 || csReserved cs) 6, reason (!cpkOk (bits p 31 24) st (bits p 39 32)) 4,
     s.addrCheck (s.rg d) 64 (max 1 (64 * n)) false, s.addrCheck (s.rg a) 16 (max 1 (cpkBytes st (n * els))) true, s.csCheck cs]
    (.cpk (s.resolve (s.rg d)) (addrOff (s.resolve (s.rg a))) (s.rg b)) cs)

/-- The active N32 elements of a register in row-major order, with 4i + j (R274). -/
def Hart.indices (h : Hart) (v : Tile) : List (Nat × Nat) :=
  ((List.range 32).filter (fun k => h.active 6 (k / 4) (k % 4))).map (fun k => (k, tileEl v 32 (k / 4) (k % 4)))

/-- CGTHB (R274). Its source range reaches the end of the last block that an index below the bound names (R268). -/
def execCgthb (d a b : BitVec 5) (_l : BitVec 4) (s : State) : Out :=
  let p := (s.rg (d + 1)).toNat
  let cs := s.rg (d + 2)
  let bsize := 2 ^ bits p 35 32
  let idx := s.hart.indices (s.hart.rv b)
  let span := (idx.filter (fun x => decide (x.2 < bits p 31 0))).foldl (fun n x => max n ((x.2 + 1) * bsize)) 1
  .next (s.command .copy
    [reason (bits p 63 36 != 0 || csReserved cs) 6, reason (bits p 35 32 < 4 ∨ 12 < bits p 35 32) 2,
     s.addrCheck (s.rg d) 16 (max 1 (idx.length * bsize)) true, s.addrCheck (s.rg a) 16 span false, s.csCheck cs,
     (idx.find? (fun x => decide (bits p 31 0 ≤ x.2))).map (fun x => ⟨cGATHERBOUND, 0, BitVec.ofNat 64 (x.2 * 2 ^ 32 + x.1)⟩)]
    (.cgthb (addrOff (s.resolve (s.rg d))) (s.resolve (s.rg a)) (idx.map (·.2)) bsize) cs)

/-- The check of a ring's address, own or remote scratch (R275). -/
def State.ringAddr (s : State) (a : Word) : Option Trap :=
  let ea := s.resolve a
  if ea.toNat % 32 ≠ 0 then some ⟨cALIGN, ea, 0⟩
  else match s.classify ea 1 32 false with
    | .ok (.own _) => none
    | .ok .remote => none
    | _ => some ⟨cBOUNDS, ea, 0⟩

/-- CPYR (R275). -/
def execCpyr (d a b : BitVec 5) (_l : BitVec 4) (s : State) : Out :=
  let cs := s.rg b
  .next (s.command .copy
    [reason (csReserved cs) 6, s.ringAddr (s.rg d), s.addrCheck (s.rg a) 16 1 true, s.csCheck cs]
    (.cpyr (s.resolve (s.rg d)) (addrOff (s.resolve (s.rg a)))) cs)

/-- CWAIT (R252). -/
def execCwait (d : BitVec 5) (_l : BitVec 4) (s : State) : Out := .next (s.engineWait .copy d)

/-- CSTAT (R253). -/
def execCstat (d : BitVec 5) (_l : BitVec 4) (s : State) : Out := .next (s.engineStat .copy d)

/-! Performance. -/

/-- The value of element k of a block (03 R93): `table` is the codebook table's bytes. -/
def BlockFmt.value (f : BlockFmt) (payload table k : Nat) (scale : Int) : Real :=
  let x := bits payload (f.width * k + f.width - 1) (f.width * k)
  let int := fun (w : Nat) => let v := toS x w; Real.dy (decide (v < 0)) v.natAbs scale
  let flt := fun (g : Fmt) (x : Nat) => match g.decode x with
    | .fin s m e => Real.dy s m (e + scale)
    | v => Real.ofFloat v
  match f with
  | .s8 => int 8
  | .s6 => int 6
  | .s4 => int 4
  | .cb4 t => let o := 256 * t + 16 * x; flt fmtBF16 (bits table (o + 15) o)
  | .bf16 => flt fmtBF16 x
  | .f32 => flt fmtF32 x
  | .l16 => Real.ofSli (SVal.decode 11 x) 11 scale
  | .l32 => Real.ofSli (SVal.decode 27 x) 27 scale

/-- A real rounded RNE to an element type (03 R94). -/
def Real.toEt (e : BitVec 4) (r : Real) : Fl Nat :=
  if etInt e || etNibble e then let v := r.toIntSat (etLo e) (etHi e); ⟨wrapN (etBits e) v.val, v.fl⟩
  else if etIeee e then r.toFloat (etFmt e) false
  else let v := r.toSli (etP e); ⟨v.val.encode (etP e), v.fl⟩

/-- One expanded block: its bytes, their number and flags; none for DBLOCK (R272). -/
def expandBlock (p block table : Nat) : Option (Nat × Nat × Flags) :=
  let fmt := bits block 7 0
  let sc := bits block 15 8
  let payload := bits block 511 16
  match blockOf fmt with
  | none => none
  | some f =>
    if sc = 128 then none
    else if bit p 20 then
      if fmt ≠ bits p 31 24 ∨ sc ≠ bits p 39 32 then none
      else match f with
        | .s8 => some (payload, 62, 0)
        | .s6 => some (packEls 8 ((List.range 82).map (fun k => wrapN 8 (toS (bits payload (6 * k + 5) (6 * k)) 6))), 82, 0)
        | .s4 | .cb4 _ => some (payload, 62, 0)
        | _ => none
    else
      let e : BitVec 4 := BitVec.ofNat 4 (bits p 19 16)
      let rs := (List.range f.count).map (fun k => (f.value payload table k (toS sc 8)).toEt e)
      some (packEls (etBits e) (rs.map Fl.val), f.count * etBytes e, rs.foldl (fun a r => a ||| r.fl) 0)

/-- A source element of CPK as a real, times 2^-scale. -/
def sourceReal (e : BitVec 4) (x : Nat) (scale : Int) : Real :=
  if etInt e || etNibble e then let v := etVal e x; Real.dy (decide (v < 0)) v.natAbs (-scale)
  else if etIeee e then
    match (etFmt e).decode x with
    | .fin s m k => Real.dy s m (k - scale)
    | v => Real.ofFloat v
  else Real.ofSli (SVal.decode (etP e) x) (etP e) (-scale)

/-- A real rounded RNE to a block format (R273). -/
def BlockFmt.pack (f : BlockFmt) (r : Real) : Fl Nat :=
  let int := fun (w : Nat) => let v := r.toIntSat (-2 ^ (w - 1)) (2 ^ (w - 1) - 1); (⟨wrapN w v.val, v.fl⟩ : Fl Nat)
  let sli := fun (p : Nat) => let v := r.toSli p; (⟨v.val.encode p, v.fl⟩ : Fl Nat)
  match f with
  | .s8 => int 8
  | .s6 => int 6
  | .s4 => int 4
  | .cb4 _ => ⟨0, 0⟩
  | .bf16 => r.toFloat fmtBF16 false
  | .f32 => r.toFloat fmtF32 false
  | .l16 => sli 11
  | .l32 => sli 27

/-- The block that packs source elements from `raw` (R273). -/
def packBlock (p raw : Nat) (f : BlockFmt) : Nat × Flags :=
  let st : BitVec 4 := BitVec.ofNat 4 (bits p 19 16)
  let sc := bits p 39 32
  let w := etBits st
  let rs : List (Fl Nat) := (List.range f.count).map (fun k =>
    let x := bits raw (w * k + w - 1) (w * k)
    match f with
    | .cb4 _ => ⟨x, 0⟩
    | _ => f.pack (sourceReal st x (toS sc 8)))
  (bits p 31 24 + sc * 2 ^ 8 + packEls f.width (rs.map Fl.val) * 2 ^ 16, rs.foldl (fun a r => a ||| r.fl) 0)

/-- The bytes of scratch that hold elements from number `first`, shifted so that the first element is lowest. -/
def Core.elementsAt (k : Core) (off : Nat) (st : BitVec 4) (first n : Nat) : Nat :=
  let bit0 := etBits st * first
  (k.sread (off + bit0 / 8) (cpkBytes st n + 1)) / 2 ^ (bit0 % 8)

/-! Rings (R275). -/

/-- What a CPYR finds at its ring: it waits, fails with a cause and an operand, or has pushed its slot of n bytes, poisoned or not. -/
inductive Push where
  | wait
  | fault (cause : BitVec 8) (opnd : Nat)
  | done (t : Core) (n : Nat) (poison : Bool)

/-- A CPYR with its source at `src` of scratch k, at the local-memory controller of t, for the ring at `o`. A source that passes the
end of scratch is found before the wait for room: R275 does not order the two (DESIGN CHOICE, log 63). A slot in the code region is
PROT (08 R188), recorded with OPND 5 behind the wait for room: R275 gives neither the operand nor the order (DESIGN CHOICE, log 83). -/
def pushRing (k t : Core) (o src : Nat) : Push :=
  let r := t.ring o
  let n := ringSSIZE r
  let slot := ringSlot r (ringWIDX r)
  if t.scratchSize < o + 32 then .fault cBOUNDS 5
  else if o < t.codesz.toNat then .fault cPROT 5
  else if t.spoisoned o 32 then .fault cPOISON 5
  else if t.ringUp r = false ∨ ringMODE r = true ∨ ringSTATE r = true then .fault cRINGERROR 5
  else if k.scratchSize < src + n then .fault cBOUNDS 1
  else if ringFILLED r = ringCOUNT r then .wait
  else if slot < t.codesz.toNat then .fault cPROT 5
  else
    let bad := k.spoisoned src n
    let t := t.ringPut o (k.sread src n)
    .done (if bad then { t with lpoison := (t.sectors slot n).foldl setAdd t.lpoison } else t) n bad

/-- The fault of a push of core k: at its ring, or at its source. -/
def pushFault (k : Core) (ring : Word) (src : Nat) (cause : BitVec 8) (opnd : Nat) : EngFault :=
  ⟨cause, opnd, 0, if opnd = 1 then k.ownAddr src else ring⟩

/-! Units. -/

/-- Units of a command. -/
def CmdOp.units : CmdOp → Nat
  | .cpy _ _ len => len / 16
  | .cpy2 _ _ shape _ _ => cpyROWS shape * max 1 (cpyROWB shape / 16)
  | .cxp _ _ params _ => bits params.toNat 15 0
  | .cpk _ _ params => bits params.toNat 15 0
  | .cgthb _ _ idx bsize => idx.length * (bsize / 16)
  | .cpyr _ _ => 1
  | _ => 0

/-- The source and destination of a unit of CPY2: the row's addresses, after the rewritings of 04 R120, and the granule's offset. -/
def State.cpy2At (s : State) (c : Nat) (dst src shape strides : Word) (maps : BitVec 128 × BitVec 128) (u : Nat) : Word × Word × Word :=
  let g := max 1 (cpyROWB shape / 16)
  let res := fun (x : Word) => resolveAddr s.fabricNo (s.core c).corxy x
  let map := fun (on : Bool) (x : BitVec 128) => if on then some x.toNat else none
  (res (rowAddr dst (bits strides.toNat 63 32) (u / g) (map (cpyDMAP shape) maps.2)),
   res (rowAddr src (bits strides.toNat 31 0) (u / g) (map (cpySMAP shape) maps.1)), BitVec.ofNat 64 (16 * (u % g)))

/-- What a unit reads: bytes at an address, or a value of own scratch with its poison and address; or a fault. -/
inductive UnitRead where
  | from_ (ea : Word) (n : Nat)
  | value (v : Nat) (bad : Bool) (ea : Word)
  | fault (f : EngFault)

/-- The check of one end of a row of CPY2, made when the row is reached (R271, R268). -/
def Core.rowFault (k : Core) (opnd : Nat) (a : Word) (n : Nat) : Option EngFault :=
  match classifyAt k.corxy k.scratchSize a 16 n false with
  | .error t => some ⟨t.cause, opnd, 0, a⟩
  | .ok .window | .ok .fabric => some ⟨cBOUNDS, opnd, 0, a⟩
  | .ok _ => none

/-- The read of unit u of a command of core c (R270 to R274). Of a row of CPY2 both of whose ends fail, the source is recorded: R451 orders
checks at issue only (DESIGN CHOICE, log 82). CXP reads and checks its codebook table anew for every block: R272 does not say how often
(DESIGN CHOICE, log 81). -/
def State.unitRead (s : State) (c : Nat) (op : CmdOp) (u : Nat) : UnitRead :=
  let k := s.core c
  match op with
  | .cpy _ src _ => .from_ (src + BitVec.ofNat 64 (16 * u)) 16
  | .cpy2 dst src shape strides maps =>
    let a := s.cpy2At c dst src shape strides (maps.getD (0, 0)) u
    let n := cpyROWB shape
    match (if a.2.2 = 0 then [k.rowFault 1 a.2.1 n, k.rowFault 2 a.1 n].findSome? id else none) with
    | some f => .fault f
    | none => if n = 0 then .value 0 false a.2.1 else .from_ (a.2.1 + a.2.2) 16
  | .cxp _ src params table =>
    match (if bit params.toNat 20 then none else k.operandFault 4 table 512) with
    | some f => .fault f
    | none => .from_ (src + BitVec.ofNat 64 (64 * u)) 64
  | .cpk _ src params =>
    let st : BitVec 4 := BitVec.ofNat 4 (bits params.toNat 19 16)
    let els := ((blockOf (bits params.toNat 31 24)).map BlockFmt.count).getD 0
    let off := src + etBits st * (u * els) / 8
    let len := cpkBytes st els
    if k.scratchSize < off + len then .fault ⟨cBOUNDS, 1, 0, k.ownAddr off⟩
    else .value (k.elementsAt src st (u * els) els) (k.spoisoned off len) (k.ownAddr off)
  | .cgthb _ base idx bsize =>
    let g := bsize / 16
    .from_ (base + BitVec.ofNat 64 ((idx.getD (u / g) 0) * bsize + 16 * (u % g))) 16
  | _ => .value 0 false 0

/-- The address that the read of unit u has, for its POISON. -/
def State.unitSource (s : State) (c : Nat) (op : CmdOp) (u : Nat) : Word :=
  match s.unitRead c op u with
  | .from_ ea _ => ea
  | .value _ _ ea => ea
  | .fault f => f.addr

/-- What unit u writes from the value v that it has read, with `done` bytes written before: address, size, value, flags; or the
fault that ends the command. -/
def State.unitWrite (s : State) (c : Nat) (op : CmdOp) (u done v : Nat) : Except EngFault (Word × Nat × Nat × Flags) :=
  let k := s.core c
  match op with
  | .cpy dst _ _ => .ok (dst + BitVec.ofNat 64 (16 * u), 16, v, 0)
  | .cpy2 dst src shape strides maps =>
    let a := s.cpy2At c dst src shape strides (maps.getD (0, 0)) u
    .ok (a.1 + a.2.2, if cpyROWB shape = 0 then 0 else 16, v, 0)
  | .cxp dst src params table =>
    match expandBlock params.toNat v (k.sread table 512) with
    | none => .error ⟨cDBLOCK, 1, 0, src + BitVec.ofNat 64 (64 * u)⟩
    | some (w, n, fl) => .ok (k.ownAddr (dst + done), n, w, fl)
  | .cpk dst _ params =>
    match blockOf (bits params.toNat 31 24) with
    | none => .ok (dst, 0, 0, 0)
    | some f => let r := packBlock params.toNat v f; .ok (dst + BitVec.ofNat 64 (64 * u), 64, r.1, r.2)
  | .cgthb dst _ _ _ => .ok (k.ownAddr (dst + 16 * u), 16, v, 0)
  | _ => .ok (0, 0, 0, 0)

/-! Progress. -/

/-- A request of the copy engine of core c. -/
def State.engineReq (s : State) (c : Nat) (kind : ReqKind) (ea : Word) : Req :=
  { id := 0, src := .engine c, cls := if kind.acked then .posted else .request, kind := kind, ea := ea, vf := ((s.core c).vf).getD 0,
    launch := (s.core c).launch, off := 0, prog := false, stage := .sent }

/-- A fault ends the command. -/
def CopyWork.fail (w : CopyWork) (f : EngFault) : CopyWork := { w with stop := some f, ended := true }

/-- The read of the unit under way: own scratch at once, anything else by a request. -/
def State.readUnit (s : State) (c : Nat) (op : CmdOp) (w : CopyWork) : State × CopyWork :=
  let k := s.core c
  match s.unitRead c op w.unit with
  | .fault f => (s, w.fail f)
  | .value v bad _ => (s, { w with got := some (v, bad) })
  | .from_ ea n =>
    match classifyAt k.corxy k.scratchSize ea 1 n false with
    | .error t => (s, w.fail ⟨t.cause, 1, 0, ea⟩)
    | .ok (.own off) => (s, { w with got := some (k.sread off n, k.spoisoned off n) })
    | .ok .remote | .ok .global => (s.send (s.engineReq c (.eread n) ea), { w with wait := some s.nextId })
    | .ok _ => (s, w.fail ⟨cBOUNDS, 1, 0, ea⟩)

/-- The write of the unit under way, from what it has read. The spec gives no order between POISON of the read and another failure of the
same unit (DESIGN CHOICE, log 91): a DBLOCK of a poisoned CXP block is recorded and not its POISON (R272); so is the PROT of a write into the
own code region, or a destination that no write can reach; while a destination that refuses the write later leaves POISON recorded (R269). -/
def State.writeUnit (s : State) (c : Nat) (op : CmdOp) (w : CopyWork) (v : Nat) (bad : Bool) : State × CopyWork :=
  let k := s.core c
  match s.unitWrite c op w.unit w.done v with
  | .error f => (s, w.fail f)
  | .ok (ea, n, x, fl) =>
    let w' := { w with unit := w.unit + 1, done := w.done + n, got := none, fl := w.fl ||| fl,
                       poison := if bad && w.poison.isNone then some ⟨cPOISON, 1, 0, s.unitSource c op w.unit⟩ else w.poison }
    if n = 0 then (s, w')
    else match classifyAt k.corxy k.scratchSize ea 1 n false with
    | .error t => (s, w.fail ⟨t.cause, 2, 0, ea⟩)
    | .ok (.own off) =>
      (match k.engWrite off n x bad with
       | some k' => (s.setCore c k', w')
       | none => (s, w.fail ⟨cPROT, 2, 0, ea⟩))
    | .ok .remote | .ok .global => (s.send (s.engineReq c (.ewrite n (BitVec.ofNat 1024 x) bad) ea), { w' with wait := some s.nextId })
    | .ok _ => (s, w.fail ⟨cBOUNDS, 2, 0, ea⟩)

/-- The push of a CPYR: to a ring of own scratch at once, to another by a request that stands for the data and the push (R275). -/
def State.pushUnit (s : State) (c : Nat) (ring : Word) (src : Nat) (w : CopyWork) : State × CopyWork :=
  let k := s.core c
  if bits ring.toNat 51 33 = k.corxy.toNat % 2 ^ 19 then
    match pushRing k k (addrOff ring) src with
    | .wait => (s, w)
    | .fault x o => (s, w.fail (pushFault k ring src x o))
    | .done t n bad =>
      (s.setCore c t, { w with unit := 1, done := n, ended := true, poison := if bad then some ⟨cPOISON, 1, 0, k.ownAddr src⟩ else none })
  else (s.send (s.engineReq c (.push src) ring), { w with wait := some s.nextId })

/-- One local step of a command. -/
def State.copyStep (s : State) (c : Nat) (op : CmdOp) (w : CopyWork) : State × CopyWork :=
  match op, w.got with
  | .cpyr ring src, _ => s.pushUnit c ring src w
  | _, some (v, bad) => s.writeUnit c op w v bad
  | _, none => if w.unit = op.units then (s, { w with ended := true }) else s.readUnit c op w

/-- Local steps, at most n, until the command ends or waits for an answer. -/
def copyRun (c : Nat) (op : CmdOp) : Nat → State → CopyWork → State × CopyWork
  | 0, s, w => (s, w)
  | n + 1, s, w => if w.ended || w.wait.isSome then (s, w) else let r := s.copyStep c op w; copyRun c op n r.1 r.2

/-- Go on with a command of the copy engine. -/
def State.goCopy (s : State) (c : Nat) (op : CmdOp) : State × CopyWork :=
  copyRun c op (match op with
    | .cpyr _ _ => 1
    | _ => 2 * op.units + 2) s (s.core c).copy.work

/-- How a command that is over has ended: its poison comes before what stopped it. -/
def CopyWork.fault (w : CopyWork) : Option EngFault := if w.poison.isSome then w.poison else w.stop

/-- A range that a command names from address a on lies in own scratch no more. -/
def Core.leftScratch (k : Core) (opnd : Nat) (a : Word) (n : Nat) : Option EngFault :=
  if a.msb && bits a.toNat 51 33 == k.corxy.toNat % 2 ^ 19 then k.rangeFault opnd (addrOff a) n else none

/-- The first operand of a copy command whose own-scratch range, checked at issue, has left scratch since: the command faults when it
starts, with nothing moved (08 R187). Of several the source is recorded before the destination, and CXP's table last: the spec orders the
checks at issue only (R451; DESIGN CHOICE, log 90). Rows of CPY2 are checked when they are reached (R271), and a CPYR at its ring (R275). -/
def Core.startFault (k : Core) : CmdOp → Option EngFault
  | .cpy dst src len => [k.leftScratch 1 src len, k.leftScratch 2 dst len].findSome? id
  | .cxp dst src params table =>
    let n := bits params.toNat 15 0
    [k.leftScratch 1 src (64 * n), k.rangeFault 2 dst (if n = 0 then 0 else max 1 (cxpBytes params.toNat)),
     if n = 0 ∨ bit params.toNat 20 then none else k.rangeFault 4 table 512].findSome? id
  | .cpk dst src params =>
    let n := bits params.toNat 15 0
    let els := ((blockOf (bits params.toNat 31 24)).map BlockFmt.count).getD 0
    [k.rangeFault 1 src (cpkBytes (BitVec.ofNat 4 (bits params.toNat 19 16)) (n * els)), k.leftScratch 2 dst (64 * n)].findSome? id
  | .cgthb dst base idx bsize =>
    (idx.map (fun x => k.leftScratch 1 (base + BitVec.ofNat 64 (x * bsize)) bsize) ++ [k.rangeFault 2 dst (idx.length * bsize)]).findSome? id
  | _ => none

/-- What a command reads when it starts: its registers (R260), its maps (R271), its frequencies (R279); or the fault that it meets
there. Of two maps of a CPY2 that both fail, SMAP's is recorded: R271 gives no order (DESIGN CHOICE, log 90). -/
def Core.startOp (k : Core) (i : BitVec 3) : CmdOp → CmdOp × Option EngFault
  | .mput slot line n va _ => (.mput slot line n va (some ((List.range n).map (fun q => (k.hart (i.setWidth 2)).rv (plus va q)))), none)
  | .cpy2 dst src shape strides _ =>
    let map := fun (on : Bool) (a : Word) => if on then BitVec.ofNat 128 (k.sread (addrOff a) 16) else 0
    (.cpy2 dst src shape strides (some (map (cpySMAP shape) src, map (cpyDMAP shape) dst)),
     [if cpySMAP shape then k.operandFault 1 (addrOff src) 16 else none, if cpyDMAP shape then k.operandFault 2 (addrOff dst) 16 else none].findSome? id)
  | .xrot dst src p t rp _ =>
    let n := 4 * bits p.toNat 23 16
    (.xrot dst src p t rp (k.sread (bits t.toNat 23 0) n), k.operandFault 4 (bits t.toNat 23 0) n)
  | op => (op, k.startFault op)

end Sys2Proof.Machine
end

