-- ==== Sys2Proof/Machine/Exponent.lean ====
section
/-! DEFINITION. The exponent engine, major 0x26 (10 R276 to R279; 11 R294), and CASLD and CASWAIT (11 R284, R285). -/

namespace Sys2Proof.Machine

/-! Instructions. -/

/-- The check of an own-scratch offset that a register holds as a field: n bytes, aligned to 16. -/
def State.offCheck (s : State) (off n : Nat) : Option Trap :=
  if off % 16 ≠ 0 then some ⟨cALIGN, s.cc.ownAddr off, 0⟩
  else if s.cc.scratchSize < off + n then some ⟨cBOUNDS, s.cc.ownAddr off, 0⟩ else none

/-- XEXP (R277). -/
def execXexp (d a b : BitVec 5) (_l : BitVec 4) (s : State) : Out :=
  let p := s.rg b
  let n := max 1 (4 * bits p.toNat 47 32)
  .next (s.command .exponent
    [reason (bits p.toNat 63 49 != 0) 6, s.addrCheck (s.rg d) 16 n true, s.addrCheck (s.rg a) 16 n true]
    (.xexp (addrOff (s.resolve (s.rg d))) (addrOff (s.resolve (s.rg a))) p))

/-- The first pair of the h band and of the w band (R278). -/
def rotA (r : Word) : Nat := bits r.toNat 7 0
def rotB (r : Word) : Nat := bits r.toNat 15 8

/-- XROT (R279); ROTPART is read at issue. Of POS and FTAB, which one register holds, the spec orders no checks; POS is checked first
(DESIGN CHOICE, log 64). -/
def execXrot (d a b : BitVec 5) (_l : BitVec 4) (s : State) : Out :=
  let p := (s.rg b).toNat
  let t := (s.rg (b + 1)).toNat
  let pairs := bits p 23 16
  let rows := bits p 15 0
  let rp := s.hart.rotpart
  let n := max 1 (8 * pairs * rows)
  .next (s.command .exponent
    [reason (bits p 63 24 != 0 || bits t 63 56 != 0 || bits t 31 24 != 0) 6, reason (pairs = 0 ∨ 128 < pairs) 2,
     reason (rotB rp < rotA rp ∨ pairs < rotB rp) 7, s.addrCheck (s.rg d) 16 n true, s.addrCheck (s.rg a) 16 n true,
     s.offCheck (bits t 55 32) (max 1 (16 * rows)), s.offCheck (bits t 23 0) (4 * pairs)]
    (.xrot (addrOff (s.resolve (s.rg d))) (addrOff (s.resolve (s.rg a))) (s.rg b) (s.rg (b + 1)) rp 0))

/-- XWAIT (R252). -/
def execXwait (d : BitVec 5) (_l : BitVec 4) (s : State) : Out := .next (s.engineWait .exponent d)

/-- Microwords f to f + n - 1 from scratch at off. -/
def Core.loadMicro (k : Core) (off : Nat) : Nat → Nat → Core
  | _, 0 => k
  | f, n + 1 => { k with cas := { k.cas with store := (mapSet k.cas.store f (BitVec.ofNat 64 (k.sread off 8))) } }.loadMicro (off + 8) (f + 1) n

/-- CASLD (R284); it waits for another hart's WAYSET that changes a way it reads (08 R187). -/
def execCasld (a b : BitVec 5) (_l : BitVec 4) (s : State) : Out :=
  let p := (s.rg b).toNat
  let n := bits p 8 0
  let f := bits p 23 16
  .next (s.guarded
    [reason (bits p 63 24 != 0 || bits p 15 9 != 0) 6, reason (n = 0 ∨ 256 < f + n) 2, reason (s.cc.cas.state = .running) 8,
     s.addrCheck (s.rg a) 8 (8 * n) true]
    (fun s =>
      let off := addrOff (s.resolve (s.rg a))
      if s.wayHeld (.own off) 0 (8 * n) then s else (s.mapCore (fun k => k.loadMicro off f n)).retire))

/-- CASWAIT (R285): a blocking point while a run goes on. -/
def execCaswait (d : BitVec 5) (_l : BitVec 4) (s : State) : Out :=
  .next (s.guarded [s.boundCheck d] (fun s =>
    if s.cc.cas.state = .running then s.blockOn (.caswait d) else s.writeRetire d s.cc.cas.casst))

/-! Exact products and sums. -/

/-- x × y exactly; an infinity times a zero is an invalid NaN. -/
def prodV (x y : FVal) : FVal :=
  if x.isNan || y.isNan then .nan (x.sig || y.sig)
  else match x, y with
    | .fin s m e, .fin t n f => .fin (s != t) (m * n) (e + f)
    | .inf s, .inf t => .inf (s != t)
    | .inf s, .fin t n _ => if n = 0 then .nan true else .inf (s != t)
    | .fin s m _, .inf t => if m = 0 then .nan true else .inf (s != t)
    | _, _ => .nan false

/-- x - y exactly. -/
def diffV (x y : FVal) : FVal :=
  if x.isNan || y.isNan then .nan (x.sig || y.sig)
  else match x, y.neg with
    | .inf s, .inf t => if s = t then .inf s else .nan true
    | .inf s, _ => .inf s
    | _, .inf t => .inf t
    | .fin s m e, .fin t n f =>
      let g := min e f
      let v : Int := sgn s (m <<< (e - g).toNat) + sgn t (n <<< (f - g).toNat)
      .fin (decide (v < 0)) v.natAbs g
    | _, _ => .nan false

/-- exp of a value, as SLI32 (R277, TGT = 0). -/
def expSli (y : FVal) : Fl Nat :=
  match y with
  | .nan _ => ⟨SVal.nar.encode 27, fNV⟩
  | .inf true => ⟨0, 0⟩
  | .inf false => ⟨SVal.nar.encode 27, fNV⟩
  | .fin s m e => let r := expToSli 27 s m e; ⟨r.val.encode 27, r.fl⟩

/-- exp of a value, in an IEEE format (R277, TGT = 1; 11 R294). -/
def expFloat (f : Fmt) (y : FVal) : Fl Nat :=
  match y with
  | .nan sg => ⟨f.canon, if sg then fNV else 0⟩
  | .inf true => ⟨0, 0⟩
  | .inf false => ⟨f.infBits false, 0⟩
  | .fin s m e => expToFloat f s m e

/-! Performance. -/

/-- Write words of 4 bytes. -/
def Core.putWords (k : Core) (off : Nat) (ws : List Nat) : Core :=
  if ws.isEmpty then k else (k.noteCodeStore off (4 * ws.length)).swrite off (4 * ws.length) (packEls 32 ws)

/-- The words of XEXP (R277). -/
def xexpWords (raw scale n : Nat) (tgt : Bool) : List (Fl Nat) :=
  (List.range n).map (fun q =>
    let y := prodV (fmtF32.decode (bits raw (32 * q + 31) (32 * q))) (fmtF32.decode scale)
    if tgt then expFloat fmtF32 y else expSli y)

/-- y0 and y1 of a pair (R279): x0, x1 and the angle's cosine and sine. -/
def rotate (x0 x1 : Nat) (c s : Nat) : Fl Nat × Fl Nat :=
  let d := fmtF32.decode
  (fmtF32.addV .rne (prodV (d x0) (d c)) (prodV (d x1) (d s)).neg, fmtF32.addV .rne (prodV (d x0) (d s)) (prodV (d x1) (d c)))

/-- The angle of a pair (R279). -/
def rotAngle (pos : Int) (freq : Nat) : Fl Nat := fmtF32.mulV .rne (.fin (decide (pos < 0)) pos.natAbs 0) (fmtF32.decode freq)

/-- The words of one row of XROT. -/
def xrotRow (raw freqs t h w : Nat) (a b pairs : Nat) : List (Fl Nat) :=
  (List.range pairs).flatMap (fun i =>
    let th := rotAngle (toS (if i < a then t else if i < b then h else w) 32) (bits freqs (32 * i + 31) (32 * i))
    let cs := cosSinF32 th.val
    let y := rotate (bits raw (64 * i + 31) (64 * i)) (bits raw (64 * i + 63) (64 * i + 32)) cs.1.val cs.2.val
    let fl := th.fl ||| cs.1.fl ||| cs.2.fl
    [⟨y.1.val, fl ||| y.1.fl⟩, ⟨y.2.val, y.2.fl⟩])

/-- The probabilities of XP for row i: 16 BF16 elements (11 R294). -/
def xpRow (raw m scale : Nat) : List (Fl Nat) :=
  (List.range 16).map (fun j =>
    let x := bits raw (32 * j + 31) (32 * j)
    let ninf := fmtF32.infBits true
    if m = ninf ∨ x = ninf then ⟨0, 0⟩
    else
      let z := fmtF32.mul .rne x scale
      let r := expFloat fmtBF16 (diffV (fmtF32.decode z.val) (fmtF32.decode m))
      ⟨r.val, z.fl ||| r.fl⟩)

def flOr (l : List (Fl Nat)) : Flags := l.foldl (fun f r => f ||| r.fl) 0

/-- Perform a command of the exponent engine on its core. Every source is read before anything is written: the spec does not order the
reads and writes of an XEXP or XROT whose destination overlaps its source, its position records or a later row (DESIGN CHOICE, log 79). Of several faults the source's is recorded,
then the destination's, then that of the position records: R451 orders the checks at issue only (DESIGN CHOICE, log 90). -/
def Core.doExponent (k : Core) : CmdOp → Core × Flags × Option EngFault
  | .xexp dst src p =>
    let n := bits p.toNat 47 32
    match [k.operandFault 1 src (4 * n), k.rangeFault 2 dst (4 * n)].findSome? id with
    | some f => (k, 0, some f)
    | none =>
      let rs := xexpWords (k.sread src (4 * n)) (bits p.toNat 31 0) n (bit p.toNat 48)
      (k.putWords dst (rs.map Fl.val), flOr rs, none)
  | .xrot dst src p t rp freqs =>
    let pairs := bits p.toNat 23 16
    let rows := bits p.toNat 15 0
    let pos := bits t.toNat 55 32
    match [k.operandFault 1 src (8 * pairs * rows), k.rangeFault 2 dst (8 * pairs * rows), k.operandFault 2 pos (16 * rows)].findSome? id with
    | some f => (k, 0, some f)
    | none =>
      let rs := (List.range rows).flatMap (fun r =>
        let q := k.sread (pos + 16 * r) 12
        xrotRow (k.sread (src + 8 * pairs * r) (8 * pairs)) freqs (bits q 31 0) (bits q 63 32) (bits q 95 64) (rotA rp) (rotB rp) pairs)
      (k.putWords dst (rs.map Fl.val), flOr rs, none)
  | .xp slot tile stats scale =>
    match [k.operandFault 1 tile 1024, k.operandFault 2 stats 128].findSome? id with
    | some f => (k, 0, some f)
    | none =>
      let rows := (List.range 16).map (fun i => xpRow (k.sread (tile + 64 * i) 64) (k.sread (stats + 4 * i) 4) scale.toNat)
      (k.putLines slot 0 (rows.map (fun r => BitVec.ofNat 1024 (packEls 16 (r.map Fl.val)))), flOr (rows.flatMap (fun r => r)), none)
  | _ => (k, 0, none)

end Sys2Proof.Machine
end

