-- ==== Sys2Proof/Machine/Casement.lean ====
section
/-! DEFINITION. The Casement sequencer (11 R281 to R301). A microword acts on the sequencer of the executing core, State.cur. -/

namespace Sys2Proof.Machine

def Casement.reg (c : Casement) (r : BitVec 4) : BitVec 32 := c.a.get ⟨r.toNat, r.isLt⟩
def Casement.setReg (c : Casement) (r : BitVec 4) (v : BitVec 32) : Casement := { c with a := c.a.set r.toNat v r.isLt }

/-- A fault of the run: cause and FOFF (R299). -/
structure RunTrap where
  cause : BitVec 8
  foff : Nat
  deriving DecidableEq, Repr

/-- The run faults at the microword at UPC: its record waits until the run's commands have ended (R453). -/
def Casement.fail (c : Casement) (t : RunTrap) : Casement :=
  { c with fault := some (t.cause, c.upc, BitVec.ofNat 24 t.foff), waiting := none, wantsQ := none }

def State.mapCas (s : State) (f : Casement → Casement) : State := s.mapCore (fun k => { k with cas := f k.cas })

/-- Run a microword whose form is `ok` and whose checks pass (R299): a fault comes before any effect. Of an attention microword with
several bad operands the spec does not say which one CAUSE and FOFF report: the model takes the reasons of R288 first, then the addresses in
the order aD, aA, aB (DESIGN CHOICE, log 92). -/
def State.micro (s : State) (ok : Bool) (checks : List (Option RunTrap)) (k : State → State) : State :=
  if ok = false then s.mapCas (fun c => c.fail ⟨cILLEGAL, 0⟩)
  else match checks.findSome? id with
    | some t => s.mapCas (fun c => c.fail t)
    | none => k s

/-- Go on with the next microword, or at a signed distance from this one (R286, R287). -/
def Casement.next (c : Casement) : Casement := { c with upc := c.upc + 1 }
def Casement.jump (c : Casement) (imm : BitVec 32) : Casement := { c with upc := c.upc + imm.setWidth 8 }

/-! Register operations (R287). -/

/-- MOVI. -/
def execMicroMovi (u : Micro) (s : State) : Out :=
  .next (s.micro (Instr.microMovi u).wf [] (fun s => s.mapCas (fun c => (c.setReg u.d u.imm).next)))

/-- ADD. -/
def execMicroAdd (u : Micro) (s : State) : Out :=
  .next (s.micro (Instr.microAdd u).wf [] (fun s => s.mapCas (fun c =>
    (c.setReg u.d (c.reg u.a + u.imm + (if u.x = 1 then c.reg u.b else 0))).next)))

/-- ADDM. -/
def execMicroAddm (u : Micro) (s : State) : Out :=
  .next (s.micro (Instr.microAddm u).wf [] (fun s => s.mapCas (fun c =>
    let t := c.reg u.a + u.imm
    (c.setReg u.d (if c.reg u.b = 0 then t else BitVec.ofNat 32 (t.toNat % (c.reg u.b).toNat))).next)))

/-- DJNZ. -/
def execMicroDjnz (u : Micro) (s : State) : Out :=
  .next (s.micro (Instr.microDjnz u).wf [] (fun s => s.mapCas (fun c =>
    let v := c.reg u.d - 1
    let c := c.setReg u.d v
    if v = 0 then c.next else c.jump u.imm)))

/-- BNZ. -/
def execMicroBnz (u : Micro) (s : State) : Out :=
  .next (s.micro (Instr.microBnz u).wf [] (fun s => s.mapCas (fun c => if c.reg u.a = 0 then c.next else c.jump u.imm)))

/-! Checks of operands (R288, R291). -/

def runReason (bad : Bool) : Option RunTrap := if bad then some ⟨cENGINE, 0⟩ else none

/-- An own-scratch offset in a register: n bytes, alignment al. Of a misaligned offset under nonzero bits [31:24], R291 says ALIGN and R288
BOUNDS, and R451 orders only instructions of majors 0x24 to 0x26: the model takes ALIGN (DESIGN CHOICE, log 92). -/
def State.casAddr (s : State) (r : BitVec 32) (al n : Nat) : Option RunTrap :=
  let off := bits r.toNat 23 0
  if off % al ≠ 0 then some ⟨cALIGN, off⟩
  else if bits r.toNat 31 24 ≠ 0 ∨ s.cc.scratchSize < off + n then some ⟨cBOUNDS, off⟩ else none

def casOff (r : BitVec 32) : Nat := bits r.toNat 23 0

/-- A register of the executing core's sequencer. -/
def State.ca (s : State) (r : BitVec 4) : BitVec 32 := s.cc.cas.reg r

/-- A slot is not claimed by STARTER. -/
def State.notOwned (s : State) (slot : Nat) : Bool := !s.cc.claimed slot s.cc.cas.starter

/-- Some hart waits for an entry of this queue (R289). -/
def Core.hartWants (k : Core) (e : Engine) : Bool :=
  hartNos.any (fun h => (k.hart h).wantsQ == some e && !(k.hart h).halted && !(k.hart h).held && !(k.hart h).exited)

/-- Put a command of the sequencer into a queue; without an entry it waits (R288, R289). -/
def State.casCommand (s : State) (e : Engine) (op : CmdOp) (cs : Word := 0) : State :=
  let contended := s.cc.hartWants e
  if (s.cc.eng e).room = false ∨ (contended ∧ (s.cc.eng e).lastHart = false) then s.mapCas (fun c => { c with wantsQ := some e })
  else
    let n := s.nextId
    (s.mapCore (fun k => k.accept e 4 (k.cas.upc.setWidth 64) op cs n contended false)).mapCas (fun c => { c.next with wantsQ := none })

/-! Command operations (R288). -/

/-- MM as an MMA. -/
def execMicroMm (u : Micro) (s : State) : Out :=
  let p := u.imm.toNat
  let sl := (s.ca u.a).toNat
  let cb4 := bit u.x.toNat 3
  let k := bits p 24 16
  let n := bits p 12 8
  let m := bits p 4 0
  .next (s.micro (Instr.microMm u).wf
    [runReason (bits p 15 13 != 0 || bits p 7 5 != 0 || bits sl 31 13 != 0 || bits sl 7 5 != 0),
     runReason (!typeAccepted s.cur.core (b2n cb4)), runReason (s.notOwned (bits sl 4 0) || s.notOwned (bits sl 12 8)),
     runReason (decide (16 < m) || decide (16 < n) || decide (mmaMaxK cb4 < k)), s.casAddr (s.ca u.d) 64 1024]
    (fun s => s.casCommand .matrix (.mma (casOff (s.ca u.d)) (bits sl 4 0) (bits sl 12 8) cb4 (bit u.x.toNat 2) 0 k n m)))

/-- MM as an MLOAD. -/
def execMicroMmMload (u : Micro) (s : State) : Out :=
  let r := s.ca u.d
  let c := bits u.imm.toNat 4 0
  let stride := 16 * bits u.imm.toNat 31 16
  .next (s.micro (Instr.microMmMload u).wf
    [runReason (slotLineReserved (r.setWidth 64)), runReason (s.notOwned (slOf (r.setWidth 64))), runReason (decide (c < 1) || decide (16 < c)),
     runReason (decide (16 < lineOf (r.setWidth 64) + c)), s.casAddr (s.ca u.a) 16 ((c - 1) * stride + 128)]
    (fun s => s.casCommand .matrix (.mload (slOf (r.setWidth 64)) (lineOf (r.setWidth 64)) c stride (casOff (s.ca u.a)))))

/-- XP. -/
def execMicroXp (u : Micro) (s : State) : Out :=
  let r := (s.ca u.d).toNat
  .next (s.micro (Instr.microXp u).wf
    [runReason (bits r 31 5 != 0), runReason (s.notOwned (bits r 4 0)), s.casAddr (s.ca u.a) 64 1024, s.casAddr (s.ca u.b) 64 128]
    (fun s => s.casCommand .exponent (.xp (bits r 4 0) (casOff (s.ca u.a)) (casOff (s.ca u.b)) u.imm)))

/-- CP. -/
def execMicroCp (u : Micro) (s : State) : Out :=
  let len := u.imm.toNat
  let ben := u.x == 1
  .next (s.micro (Instr.microCp u).wf
    [runReason (len % 16 != 0), s.casAddr (s.ca u.d) 16 (max 1 len), s.casAddr (s.ca u.a) 16 (max 1 len),
     if ben then s.casAddr (s.ca u.b) 16 16 else none]
    (fun s => s.casCommand .copy (.cpy (s.cc.ownAddr (casOff (s.ca u.d))) (s.cc.ownAddr (casOff (s.ca u.a))) len)
      (if ben then BitVec.ofNat 64 (2 ^ 63 + casOff (s.ca u.b)) else 0)))

/-! Attention operations (R291 to R298). -/

/-- Word k of scratch words from off. -/
def Core.wordAt (k : Core) (off i : Nat) : Nat := k.sread (off + 4 * i) 4

/-- A core on which an operation works, with the flags that it has set. -/
abbrev Worked := Core × Flags

/-- One word written. -/
def Worked.put (a : Worked) (off : Nat) (r : Fl Nat) : Worked := (a.1.putWords off [r.val], a.2 ||| r.fl)

/-- The words 0 to n - 1 at `off`, in ascending order; each is computed from what stands in scratch when its turn comes. -/
def Worked.putEach (a : Worked) (off n : Nat) (f : Core → Nat → Fl Nat) : Worked :=
  (List.range n).foldl (fun a i => a.put (off + 4 * i) (f a.1 i)) a

/-- An operation has worked: its flags go to CASST.FLAGS (R452), and the run goes on. -/
def State.casWorked (s : State) (a : Worked) : State :=
  (s.mapCore (fun _ => a.1)).mapCas (fun c => { c.next with flags := c.flags ||| a.2.setWidth 6 })

/-- Whether key j of row i is visible (R292). -/
def maskVisible (qb kb w : BitVec 32) (x i j : Nat) : Bool :=
  let q := qb.toInt + i
  let k := kb.toInt + j
  decide (j < x % 32) && (!bit x 5 || (decide (k ≤ q) && (w == 0 || decide (q - (w.toNat : Int) < k))))

/-- MASK (R292): a visible entry is left untouched. -/
def execMicroMask (u : Micro) (s : State) : Out :=
  .next (s.micro (Instr.microMask u).wf [s.casAddr (s.ca u.d) 64 1024] (fun s =>
    let off := casOff (s.ca u.d)
    s.casWorked ((List.range 256).foldl (fun (a : Worked) n =>
      if maskVisible (s.ca u.a) (s.ca u.b) u.imm u.x.toNat (n / 16) (n % 16) then a else a.put (off + 4 * n) ⟨0xFF800000, 0⟩) (s.cc, 0))))

/-- The row maximum of RMAX (R293). -/
def rowMax (xs : List Nat) (scale : Nat) : Fl Nat :=
  let zs := (xs.filter (fun x => x != 0xFF800000)).map (fun x => fmtF32.mul .rne x scale)
  let fl := flOr zs
  if zs.any (fun z => (fmtF32.decode z.val).isNan) then ⟨fmtF32.canon, fl ||| fNV⟩
  else match zs with
    | [] => ⟨0xFF800000, 0⟩
    | z :: zs => ⟨zs.foldl (fun m y => (fmtF32.minmax true m y.val).val) z.val, fl⟩

/-- RMAX (R293), row by row. -/
def execMicroRmax (u : Micro) (s : State) : Out :=
  .next (s.micro (Instr.microRmax u).wf [s.casAddr (s.ca u.d) 64 128, s.casAddr (s.ca u.a) 64 1024] (fun s =>
    let tile := casOff (s.ca u.a)
    s.casWorked (Worked.putEach (s.cc, 0) (casOff (s.ca u.d)) 16 (fun k i =>
      rowMax ((List.range 16).map (fun j => k.wordAt tile (16 * i + j))) u.imm.toNat))))

/-- The sum of a row of BF16 elements in F32, ascending (R295). -/
def rowSum (line : Nat) : Fl Nat :=
  let p := fun (j : Nat) => bits line (16 * j + 15) (16 * j) * 2 ^ 16
  (List.range 15).foldl (fun (a : Fl Nat) j => let r := fmtF32.add .rne a.val (p (j + 1)); ⟨r.val, a.fl ||| r.fl⟩) ⟨p 0, 0⟩

/-- RSUM (R295). -/
def execMicroRsum (u : Micro) (s : State) : Out :=
  let r := (s.ca u.a).toNat
  .next (s.micro (Instr.microRsum u).wf
    [runReason (bits r 31 5 != 0), runReason (s.notOwned (bits r 4 0)), s.casAddr (s.ca u.d) 64 128] (fun s =>
      s.casWorked (Worked.putEach (s.cc, 0) (casOff (s.ca u.d) + 64) 16 (fun k i => rowSum (k.getLine (bits r 4 0) i)))))

/-- The weight of a row (R296). -/
def rowWeight (m : Nat) : Fl Nat := if m = 0xFF800000 then ⟨0, 0⟩ else expSli (fmtF32.decode m)

/-- mul(w, x) of R296. -/
def weightMul (w x : Nat) : Fl Nat :=
  match SVal.decode 27 w with
  | .zero => ⟨0, 0⟩
  | v =>
    match fmtF32.decode x with
    | .fin s m e => let r := mulSliFloat v s m e; ⟨r.val.encode 27, r.fl⟩
    | _ => ⟨SVal.nar.encode 27, fNV⟩

/-- One element of the accumulator (R296). -/
def combine (old w x : Nat) : Fl Nat :=
  let p := weightMul w x
  let r := sliAdd 27 old p.val
  ⟨r.val, p.fl ||| r.fl⟩

/-- Row i of LCOMB (R296): its weight is read once, then L_i, then the elements of O in ascending order. -/
def lcombRow (acc st ot : Nat) (a : Worked) (i : Nat) : Worked :=
  let w := rowWeight (a.1.wordAt st i)
  let a := Worked.put (a.1, a.2 ||| w.fl) (acc + 4 * i) (combine (a.1.wordAt acc i) w.val (a.1.wordAt (st + 64) i))
  a.putEach (acc + 64 + 64 * i) 16 (fun k j => combine (k.wordAt (acc + 64) (16 * i + j)) w.val (k.wordAt ot (16 * i + j)))

/-- LCOMB (R296), row by row. -/
def execMicroLcomb (u : Micro) (s : State) : Out :=
  .next (s.micro (Instr.microLcomb u).wf
    [s.casAddr (s.ca u.d) 64 1088, s.casAddr (s.ca u.a) 64 128, s.casAddr (s.ca u.b) 64 1024] (fun s =>
      s.casWorked ((List.range 16).foldl (lcombRow (casOff (s.ca u.d)) (casOff (s.ca u.a)) (casOff (s.ca u.b))) (s.cc, 0))))

/-- An output element of NORM (R298), from L_i and O[i][j]. -/
def normElement (l o : Nat) : Fl Nat :=
  match SVal.decode 27 l with
  | .zero => ⟨0, 0⟩
  | .nar => ⟨0x7FC0, 0⟩
  | .fin s q c => divSliToFloat fmtBF16 (SVal.decode 27 o) (.fin s q c)

/-- LSE_i of NORM (R298). The ln of a negative L_i is an invalid operation: canonical NaN and NV (03 R72, R75). -/
def normLse (l : Nat) : Fl Nat :=
  match SVal.decode 27 l with
  | .zero => ⟨0xFF800000, 0⟩
  | .nar => ⟨0x7FC00000, 0⟩
  | .fin s q c => if s then ⟨fmtF32.canon, fNV⟩ else lnSliToF32 q c

/-- One BF16 element written. -/
def Worked.putHalf (a : Worked) (off : Nat) (r : Fl Nat) : Worked := ((a.1.noteCodeStore off 2).swrite off 2 r.val, a.2 ||| r.fl)

/-- Row i of NORM (R298): L_i is read once; the output elements in ascending order, then LSE_i where it is written. -/
def normRow (out acc : Nat) (lse : Option Nat) (a : Worked) (i : Nat) : Worked :=
  let l := a.1.wordAt acc i
  let a := (List.range 16).foldl (fun (a : Worked) j =>
    a.putHalf (out + 32 * i + 2 * j) (normElement l (a.1.wordAt (acc + 64) (16 * i + j)))) a
  match lse with
  | some o => a.put (o + 4 * i) (normLse l)
  | none => a

/-- Rows that NORM counts, added to MROWS with saturation. -/
def Casement.addRows (c : Casement) (n : Nat) : Casement := { c with mrows := BitVec.ofNat 16 (min 65535 (c.mrows.toNat + n)) }

/-- NORM (R298), row by row: it counts the rows whose L_i is zero. -/
def execMicroNorm (u : Micro) (s : State) : Out :=
  let lse := u.x == 1
  .next (s.micro (Instr.microNorm u).wf
    [s.casAddr (s.ca u.d) 16 512, s.casAddr (s.ca u.a) 64 1088, if lse then s.casAddr (s.ca u.b) 16 64 else none] (fun s =>
      let acc := casOff (s.ca u.a)
      let out := casOff (s.ca u.d)
      let r := (List.range 16).foldl (fun (r : Worked × Nat) i =>
        (normRow out acc (if lse then some (casOff (s.ca u.b)) else none) r.1 i, r.2 + b2n (SVal.decode 27 (r.1.1.wordAt acc i) == .zero)))
        ((s.cc, 0), 0)
      (s.casWorked r.1).mapCas (fun c => c.addRows r.2)))

/-! Control operations (R290). -/

/-- WAITE: the run waits; WAITE_RETURN ends the wait. -/
def execMicroWaite (u : Micro) (s : State) : Out :=
  .next (s.micro (Instr.microWaite u).wf [] (fun s => s.mapCas (fun c => { c with waiting := some (u.imm.setWidth 3, false) })))

/-- SIG, a barrier arrival: a barrier fault that it finds ends the run before any effect (R299). -/
def execMicroSig (u : Micro) (s : State) : Out :=
  .next (s.micro (Instr.microSig u).wf [s.casAddr (s.ca u.a) 16 16] (fun s =>
    let off := casOff (s.ca u.a)
    let b := barArrive (s.cc.bar off)
    match b.res with
    | .ok _ => (s.mapCore (fun k => k.putOwnBar off b.obj)).mapCas Casement.next
    | .error _ => s.mapCas (fun c => c.fail ⟨cBARRIER, off⟩)))

/-- SIG, a message arrival: the microword waits while neither the register nor the overflow queue takes it; to a core that sleeps it is
written at the wake (01 R33). -/
def execMicroSigMessage (u : Micro) (s : State) : Out :=
  let h : BitVec 2 := BitVec.ofNat 2 (bits u.imm.toNat 5 4)
  let r : BitVec 4 := BitVec.ofNat 4 u.imm.toNat
  .next (s.micro (Instr.microSigMessage u).wf
    [if (s.cc.hart h).hosts then none else some ⟨cPROT, 0x800000 + 0x80 * h.toNat + 8 * r.toNat⟩] (fun s =>
      match s.cc.ownMessage ⟨h, r, (s.ca u.b).setWidth 64⟩ with
      | some k => (s.mapCore (fun _ => k)).mapCas Casement.next
      | none => s))

/-- STOP: the run waits for all its commands; RUN_STOP ends it. -/
def execMicroStop (u : Micro) (s : State) : Out :=
  .next (s.micro (Instr.microStop u).wf [] (fun s => s.mapCas (fun c => { c with waiting := some (7, true) })))

/-! The ends of waits (R290, R299, R453). -/

/-- The engines that a wait names. -/
def waitEngines (m : BitVec 3) : List Engine :=
  ([(Engine.matrix, 0), (.copy, 1), (.exponent, 2)].filter (fun e => bit m.toNat e.2)).map (fun e => e.1)

/-- The record of the first engine, among those named, on which the sequencer is faulted: matrix, copy, exponent. R290 does not say
which one ends the run where it is faulted on several (DESIGN CHOICE, log 84). -/
def Core.casFaulted (k : Core) (m : BitVec 3) : Option RunTrap :=
  (waitEngines m).findSome? (fun e =>
    let u := k.issuer 4 e
    if u.faulted then some ⟨BitVec.ofNat 8 (bits u.record.toNat 31 24), u.addr.toNat % 2 ^ 24⟩ else none)

/-- The sequencer has no command on the named engines. -/
def Core.casDone (k : Core) (m : BitVec 3) : Bool := (waitEngines m).all (fun e => k.engineDone 4 e)

def State.modCas (s : State) (c : Nat) (f : Casement → Casement) : State := s.modCore c (fun k => { k with cas := f k.cas })

/-- WAITE_RETURN (R290). -/
def execWaiteReturn (c : Nat) (s : State) : Out :=
  let k := s.core c
  .next (match k.cas.waiting with
    | some (m, false) =>
      if k.cas.state = .running ∧ k.casDone m then
        match k.casFaulted m with
        | some t => s.modCas c (fun x => x.fail t)
        | none => s.modCas c (fun x => { x.next with waiting := none })
      else s
    | _ => s)

/-- RUN_STOP (R290, R453). -/
def execRunStop (c : Nat) (s : State) : Out :=
  let k := s.core c
  .next (match k.cas.waiting with
    | some (m, true) =>
      if k.cas.state = .running ∧ k.casDone m then
        match k.casFaulted m with
        | some t => s.modCas c (fun x => x.fail t)
        | none => s.modCas c (fun x => { x with waiting := none, state := .stopped, casUpc := x.upc })
      else s
    | _ => s)

/-- RUN_FAULT (R299, R453). -/
def execRunFault (c : Nat) (s : State) : Out :=
  let k := s.core c
  .next (match k.cas.fault with
    | some (cause, upc, foff) =>
      if k.cas.state = .running ∧ k.casDone 7 then
        s.modCas c (fun x => { x with fault := none, state := .faulted, cause := cause, casUpc := upc, foff := foff })
      else s
    | none => s)

end Sys2Proof.Machine
end

