-- ==== Sys2Proof/Machine/EngineEvents.lean ====
section
/-! DEFINITION. Steps of the engines of core c (10 R243, R245, R249, R250, R252, R275). A step that is not enabled leaves the
module as it is. -/

namespace Sys2Proof.Machine

/-- Make hart h of core c the executing one. -/
def State.as (s : State) (c : Nat) (h : BitVec 2) : State := { s with cur := ⟨c, h⟩ }

/-- A core with a context issues, wakes and performs (01 R31, 08 R212). -/
def Core.live (k : Core) : Bool := k.vf.isSome && k.sleep == .awake

/-- A blocked hart may end its wait: its core is awake and not being evicted (18 R379), its arrivals' passes have run (05 R146), no queued message
is due for an empty register of it (06 R156, R161), nothing holds it. -/
def State.mayWake (s : State) (c : Nat) (h : BitVec 2) : Bool :=
  let x := s.hartOf c h
  (s.core c).live && !(s.core c).draining && x.hosts && !x.exited && !x.stopping && !x.halted && !x.held && x.arrPend == 0 &&
    ((s.core c).overdue h).isNone

/-- Every access that the issuer made before the command has been performed (R245). -/
def State.issuerReady (s : State) (c : Nat) (cmd : Cmd) : Bool :=
  cmd.issuer == 4 || !s.net.any (fun r =>
    r.src == .hart c (cmd.issuer.setWidth 2) && decide (r.id < cmd.mark) && r.pending)

/-- The hart that a command is for, or that started the run it belongs to, is stopped (18 R374). -/
def Core.stopped (k : Core) (cmd : Cmd) : Bool :=
  if cmd.issuer = 4 then (k.hart k.cas.starter).stopping else (k.hart (cmd.issuer.setWidth 2)).stopping

/-- A command of this issuer is not executed (R250; 11 R299; 18 R374). -/
def Core.skips (k : Core) (e : Engine) (cmd : Cmd) : Bool :=
  (k.issuer cmd.issuer e).faulted || (cmd.issuer == 4 && k.cas.fault.isSome) || k.stopped cmd

/-- ENGINE_COMMAND_START (R243, R245): the head of the queue starts, or ends without executing. A copy command that targets a way
that a waiting WAYSET changes is held (08 R187). -/
def execEngineCommandStart (c : Nat) (e : Engine) (s : State) : Out :=
  let k := s.core c
  let x := k.eng e
  .next (match x.run, x.queue with
    | none, cmd :: rest =>
      if k.skips e cmd then
        let k1 := k.modIssuer cmd.issuer e (fun u => if u.faulted then { u with record := bumpSkip u.record } else u)
        match k1.token cmd 0xFF with
        | some k2 => s.setCore c (k2.setEng e { k2.eng e with queue := rest }).freeSlots
        | none => s
      else if s.targets c cmd.op then s
      else if s.issuerReady c cmd then
        let r := k.startOp cmd.issuer cmd.op
        s.setCore c (k.setEng e { x with queue := rest, run := some { cmd with op := r.1 }, work := { stop := r.2, ended := r.2.isSome } })
      else s
    | _, _ => s)

/-- How far the command in performance goes now: the state, and its work. A copy goes on to its next request, an MMA by one block,
any other command to its end. -/
def State.goOn (s : State) (c : Nat) (e : Engine) (cmd : Cmd) (w : CopyWork) : State × CopyWork :=
  if w.ended || w.wait.isSome then (s, w)
  else match e, cmd.op with
    | .copy, op => s.goCopy c op
    | .matrix, .mma tile slotA slotB cb4 ovw kstart k n m =>
      let r := (s.core c).mmaStep cmd.issuer w.unit tile slotA slotB cb4 ovw kstart k n m
      (s.setCore c r.1, { w with unit := w.unit + 1, fl := w.fl ||| r.2.1, stop := r.2.2.1, ended := r.2.2.2 })
    | .matrix, op => let r := (s.core c).doMatrix cmd.issuer op; (s.setCore c r.1, { w with fl := r.2.1, stop := r.2.2, ended := true })
    | .exponent, op => let r := (s.core c).doExponent op; (s.setCore c r.1, { w with fl := r.2.1, stop := r.2.2, ended := true })

/-- Perform the running command, and end it where it is over; its end waits while its token cannot be written. -/
def State.finishCommand (s : State) (c : Nat) (e : Engine) : State :=
  match ((s.core c).eng e).run with
  | none => s
  | some cmd =>
    let r := s.goOn c e cmd ((s.core c).eng e).work
    let t := r.1.modCore c (fun k => k.setEng e { k.eng e with work := r.2 })
    if r.2.ended then (endCommand c e cmd ⟨r.1, r.2.fl, r.2.done, r.2.fault⟩).getD t else t

/-- ENGINE_COMMAND_COMPLETE (R249). -/
def execEngineCommandComplete (c : Nat) (e : Engine) (s : State) : Out := .next (s.finishCommand c e)

/-- CPYR_PUSH (R275): a CPYR that was held. -/
def execCpyrPush (c : Nat) (s : State) : Out :=
  .next (match (s.core c).copy.run with
    | some cmd =>
      match cmd.op with
      | .cpyr _ _ => s.finishCommand c .copy
      | _ => s
    | none => s)

/-- ENGINE_WAIT_RETURN (R252; 11 R285): MWAIT, CWAIT, XWAIT and CASWAIT. -/
def execEngineWaitReturn (c : Nat) (h : BitVec 2) (s : State) : Out :=
  .next (if s.mayWake c h then
      match (s.hartOf c h).block with
      | some (.engine e d) =>
        if (s.core c).engineDone (h.setWidth 3) e then (s.as c h).engineReturn e d else s
      | some (.caswait d) =>
        if (s.core c).cas.state = .running then s else (s.as c h).writeRetire d (s.core c).cas.casst
      | _ => s
    else s)

end Sys2Proof.Machine
end

