-- ==== Sys2Proof/Machine/Transit.lean ====
section
/-! DEFINITION. Requests on their way to a virtual core (15 R330; 13 R448; 08 R449) and messages (06 R156, R162; 01 R33). A
step that is not enabled leaves the module as it is. -/

namespace Sys2Proof.Machine

/-- Count an event in the mode of the instruction that caused it (21 R419). -/
def Hart.countAs (h : Hart) (prog : Bool) (e n : Nat) : Hart :=
  { ({ h with mode := if prog then .program else .supervisor }).count e n with mode := h.mode }

/-- Change a request where it stands. -/
def State.putReq (s : State) (r : Req) : State := { s with net := updWhere (fun x => x.id == r.id) (fun _ => r) s.net }

/-- Where the packets for a virtual core go: its resident context, its saved one, or the core that the maps name. -/
def State.routeTo (s : State) (vf : BitVec 4) (v : Nat) : Option Stage :=
  match s.locate vf v with
  | some c => some (.toCore c)
  | none => if ((s.part vf).savedAt v).isSome then some (.toEvicted vf v) else (s.physCore vf (vcX v) (vcY v) (vcC v)).map .toCore

/-- A partitioned address of this module. -/
def Req.local (r : Req) : Bool := r.ea.msb && addrMod r.ea == 2047

/-- The place that a request comes from, where its own router or port answers it. -/
def Req.ownSite (r : Req) : Nat :=
  match r.src with
  | .hart c _ | .core c | .engine c => siteCore c
  | _ => siteBeline

/-- SOURCE_ROUTER_REMAP (R330). -/
def execSourceRouterRemap (id : Nat) (s : State) : Out :=
  .next (match s.reqNext id with
    | some r =>
      if r.stage = .sent ∧ r.local then
        match (if s.placed r.vf r.ea then s.routeTo r.vf (addrVcore r.ea) else none) with
        | some g => s.stageTo r g
        | none => s.refuse r cBOUNDS 0 true r.ownSite
      else s
    | none => s)

/-! Scratch accesses. -/

/-- The place that answers for a virtual core: its own, or Beline for a saved one. -/
def Spot.site : Spot → Nat
  | .core c => siteCore c
  | .saved _ => siteBeline

/-- The answer of a local-memory controller goes on its way (13 R316, R318); a refusal of another core than the sender's crosses the network
as its other answers do (13 R308). -/
def State.answered (s : State) (r : Req) (a : Answer) (site : Nat) : State :=
  match a with
  | .refuse cause info => s.refuse r cause info (site == r.ownSite) site
  | .data v poison fl =>
    let w := s.reqWatch r
    if r.kind.acked then s.answer r site (.acknowledged w) else (s.passed r).answer r site (.reply (BitVec.ofNat 1024 v) poison fl w)

/-- A push of another core reaches the controller of its ring (10 R275): it waits there, or answers how it ended. The answer's number
holds the bytes pushed, or above 2^16 the cause and the operand of its fault. -/
def State.tryPush (s : State) (r : Req) (p : Spot) (src : Nat) : State :=
  match r.src with
  | .engine c =>
    match pushRing (s.core c) (s.spotCore r.vf p) (addrOff r.ea) src with
    | .wait => s
    | .fault x o => s.answer r p.site (.reply (BitVec.ofNat 1024 (2 ^ 16 * x.toNat + 2 ^ 24 * o)) false 0 none)
    | .done t n bad => (s.putSpot r.vf p t).answer r p.site (.reply (BitVec.ofNat 1024 n) bad 0 none)
  | _ => s.dropReq r.id

/-- An access reaches the controller of its virtual core, or Beline for a saved one; a core that hosts no group of the
partition refuses it (R448, R449). One that targets a way that a waiting WAYSET changes is held, a push by its ring or its slot (08 R187). -/
def State.tryAccess (s : State) (r : Req) : State :=
  match s.spot r.vf (addrVcore r.ea) with
  | none => s.refuse r cPROT 0 false siteBeline
  | some p =>
    let k := s.spotCore r.vf p
    let held := k.affected (addrOff r.ea) r.kind.size || (r.kind.isPush &&
      (let q := s.ringOf r.vf r.ea; k.affected (ringSlot q.2.1 (ringWIDX q.2.1)) q.2.2))
    if held then s
    else match r.kind with
    | .push src => s.tryPush r p src
    | _ => let a := k.perform r; (s.putSpot r.vf p a.1).answered r a.2 p.site

def Stage.isCore : Stage → Bool
  | .toCore _ => true
  | _ => false

def Stage.isEvicted : Stage → Bool
  | .toEvicted _ _ => true
  | _ => false

/-- A request that is next in its class, at a stage, of a kind: the step that it takes. -/
def State.onReq (s : State) (id : Nat) (at_ : Stage → Bool) (k : ReqKind → Bool) (f : Req → State) : Out :=
  .next (match s.reqNext id with
    | some r => if at_ r.stage && k r.kind then f r else s
    | none => s)

/-- REMOTE_SCRATCH_ACCESS (04 R120, 13 R316). -/
def execRemoteScratchAccess (id : Nat) (s : State) : Out := s.onReq id Stage.isCore (fun k => !k.isMessage) s.tryAccess

/-- EVICTED_ACCESS (08 R449). -/
def execEvictedAccess (id : Nat) (s : State) : Out := s.onReq id Stage.isEvicted (fun k => !k.isMessage) s.tryAccess

/-! Messages. -/

/-- The payload of a message request, for its hart and register. -/
def Req.msg (r : Req) : Msg :=
  ⟨winHart (addrOff r.ea), winReg (addrOff r.ea), match r.kind with
    | .message v => v
    | _ => 0⟩

/-- A message reaches its core: written or queued, refused while the queue is full, held by the router while the core
sleeps, refused with PROT where the hart hosts no group (R156, R448; 01 R33). -/
def State.tryMessageCore (s : State) (r : Req) (c : Nat) : State :=
  let k := s.core c
  if k.hostsPart r.vf = false ∨ (k.hart r.msg.hart).hosts = false then s.refuse r cPROT 0 true (siteCore c)
  else if k.sleep ≠ .awake then s.putReq { r with stage := .toCore c }
  else match k.deliver r.msg with
    | some k' => (s.setCore c k').answer r (siteCore c) (.acknowledged (s.reqWatch r))
    | none => s.putReq { r with stage := .refusedFull c }

/-- A message for an evicted core: held in the save area, or refused while the hold is full (R162). -/
def State.tryMessageSaved (s : State) (r : Req) (i : Nat) : State :=
  match (s.part r.vf).saved[i]? with
  | none => s
  | some x =>
    if (x.core.hart r.msg.hart).hosts = false then s.refuse r cPROT 0 true siteBeline
    else if x.hold.length < Config.holdSize then
      (s.modPart r.vf (fun p => { p with saved := p.saved.mapIdx (fun j y => if j = i then { y with hold := y.hold ++ [r.msg] } else y) })).answer
        r siteBeline (.acknowledged (s.reqWatch r))
    else s.putReq { r with stage := .refusedFull 0 }

/-- A message arrives where its hart's context is. -/
def State.tryMessage (s : State) (r : Req) : State :=
  match s.locate r.vf (addrVcore r.ea) with
  | some c => s.tryMessageCore r c
  | none =>
    match (s.part r.vf).savedAt (addrVcore r.ea) with
    | some i => s.tryMessageSaved r i
    | none => s.refuse r cPROT 0 true siteBeline

/-- MESSAGE_ARRIVAL (R156). -/
def execMessageArrival (id : Nat) (s : State) : Out := s.onReq id Stage.isCore ReqKind.isMessage s.tryMessage

/-- EVICTED_MESSAGE_HOLD (R162). -/
def execEvictedMessageHold (id : Nat) (s : State) : Out := s.onReq id Stage.isEvicted ReqKind.isMessage s.tryMessage

/-- MESSAGE_RETRY (R156, R162): the sender's router sends a refused message again. -/
def execMessageRetry (id : Nat) (s : State) : Out := s.onReq id Stage.isRefused ReqKind.isMessage s.tryMessage

/-- The first element that a test picks, and the list without it. -/
def takeFirst {α : Type} (p : α → Bool) : List α → Option (α × List α)
  | [] => none
  | x :: xs => if p x then some (x, xs) else (takeFirst p xs).map (fun e => (e.1, x :: e.2))

/-- OVERFLOW_DELIVERY (R156): the oldest queued message for an empty register is written; held ones may follow, or come where none is
queued (R162). -/
def execOverflowDelivery (c : Nat) (h : BitVec 2) (r : BitVec 4) (s : State) : Out :=
  let k := s.core c
  .next (if k.live && !(k.hart h).taken r then
      match takeFirst (fun m => m.hart == h && m.reg == r) k.overflow with
      | some (m, rest) => s.setCore c (({ k with overflow := rest }.modHart h (fun x => x.arrive r m.value)).promoteHold.giveTokens)
      | none => if (k.hold ++ k.tokens).any (fun m => m.hart == h && m.reg == r) then s.setCore c k.promoteHold.giveTokens else s
    else s)

end Sys2Proof.Machine
end

