-- ==== Sys2Proof/Machine/Slice.lean ====
section
/-! DEFINITION. Global requests at the slices: translation and admission (15 R331 to R337; 17 R361), acceptance, sector fills
(17 R362), synchronisation objects (08 R196). A step that is not enabled leaves the module as it is. -/

namespace Sys2Proof.Machine

/-- A hart waits for the admission notice of the request (R361): its fault point is there. -/
def Req.noticed (r : Req) : Bool :=
  match r.src, r.kind with
  | .hart _ _, .load _ _ | .hart _ _, .amo _ _ _ _ | .hart _ _, .cas _ _ _ _ | .hart _ _, .fillLoad _ _ | .hart _ _, .fillStore _ _ => true
  | _, _ => false

def ReqKind.isWriteBack : ReqKind → Bool
  | .writeBack _ _ _ => true
  | _ => false

/-- The request as its home performs it where its page is not cacheable-in-core: an ordinary load, a posted store (08 R191). -/
def Req.atHome (r : Req) (l : Leaf) : Req :=
  if l.cacheable then r
  else match r.kind with
    | .fillLoad n dst => { r with kind := .load n dst }
    | .fillStore n v => { r with kind := .store n v false, cls := .posted, notice := false }
    | _ => r

/-- The translating slice (x, y) is itself the home, and an earlier request of the path has not been accepted (15 R332; 16 R342): the
request is not admitted yet, since this slice accepts what it admits (R331; 17 R361). -/
def State.mustWait (s : State) (r : Req) (x y : Nat) (l : Leaf) : Bool :=
  let q := r.atHome l
  let pa := l.phys r.ea.toNat
  s.homeSlice r.vf l pa == some (x, y) && (s.postedAhead q x y pa || s.net.any ({ q with stage := .toHome x y pa } : Req).ahead)

/-- An admitted request goes to its home; the translating slice that is itself the home accepts it (R331). A home outside the context's
rectangle fails with BOUNDS (R330). -/
def State.forward (s : State) (r : Req) (x y : Nat) (l : Leaf) : State :=
  let pa := l.phys r.ea.toNat
  match s.homeSlice r.vf l pa with
  | none => s.refuse r cBOUNDS 0 false (siteSlice x y)
  | some home =>
    if home = (x, y) then s.acceptHome r x y pa else s.moveReq { r with stage := .toHome home.1 home.2 pa }

/-- A fill meets a page that is not cacheable-in-core: the access is performed at the home as if no region covered it, so
the load is an ordinary one and the store a posted one (08 R191); a vector instruction is told, and does the same. -/
def State.uncached (s : State) (r : Req) (x y : Nat) (l : Leaf) : State :=
  match r.kind with
  | .fillLoad _ _ => s.forward (r.atHome l) x y l
  | .fillStore _ _ =>
    match r.src with
    | .hart c h =>
      ((s.modHart c h (fun t => { (t.complete r.id r.ea [] false 0).countAs r.prog 7 1 with orsLocal := t.orsLocal + 1 })).modLaunch
        r.launch (fun t => { t with sentCount := t.sentCount + 1 })).forward (r.atHome l) x y l
    | _ => s.dropReq r.id
  | .vfill _ _ => s.answer r (siteSlice x y) (.reply 0 false 1 none)
  | _ => s.dropReq r.id

/-- A request that must wait keeps the leaf that its translation gave (R337). -/
def State.keepLeaf (s : State) (id : Nat) (l : Leaf) : State :=
  { s with net := updWhere (fun r => r.id == id) (fun r => { r with leaf := some l }) s.net }

/-- Admission by the translating slice (x, y) with the leaf of the page (R331, R335). -/
def State.admitReq (s : State) (r : Req) (x y : Nat) (l : Leaf) : State :=
  if l.permits r.vf (r.kind.need l.cacheable) = false then s.refuse r cPROT 0 false (siteSlice x y)
  else if s.mustWait r x y l then s.keepLeaf r.id l
  else
    let r := { r with notice := r.noticed }
    if r.kind.isFill ∧ l.cacheable = false then s.uncached r x y l else s.forward r x y l

/-- A request that goes through a translating slice. -/
def Req.translated (r : Req) : Bool :=
  !r.ea.msb && (match r.kind with
    | .message _ | .push _ | .sash _ _ _ => false
    | _ => true)

/-- GLOBAL_ADMISSION (R331, R337): a hit in the slice translation cache admits; a miss waits for a walk, whose leaf admits. A translating
slice outside the context's rectangle is refused at the source router with BOUNDS (R330). -/
def execGlobalAdmission (id : Nat) (s : State) : Out :=
  .next (match s.reqNext id with
    | some r =>
      if r.stage = .sent ∧ r.translated then
        match s.translatingSlice r.vf r.ea.toNat with
        | none => s.refuse r cBOUNDS 0 true r.ownSite
        | some t =>
          match r.leaf.or (s.cachedLeaf t.1 t.2 r.vf r.ea.toNat) with
          | some l => s.admitReq r t.1 t.2 l
          | none => s.stageTo r (.walking t.1 t.2)
      else match r.stage with
        | .walking x y =>
          match r.leaf.or (s.cachedLeaf x y r.vf r.ea.toNat) with
          | some l => s.admitReq r x y l
          | none => s
        | _ => s
    | none => s)

/-- The requests that share a walk with r, oldest first. -/
def State.merged (s : State) (r : Req) : List Req :=
  s.net.filter (fun q => q.stage == r.stage && q.leaf.isNone && q.vf == r.vf && q.ea.toNat / 2 ^ 16 == r.ea.toNat / 2 ^ 16)

/-- A leaf enters the slice translation cache of 512 entries; which entry a full one gives up is free (R331, R337; log 14). -/
def State.cacheLeaf (s : State) (e : TransEntry) : State :=
  let here := s.trans.filter (fun t => t.x == e.x && t.y == e.y)
  if here.length < 512 then { s with trans := s.trans ++ [e] }
  else match here[Config.freeVictim s.freeCtr % here.length]? with
    | some v => { s.fresh with trans := (s.trans.filter (fun t => t != v)) ++ [e] }
    | none => s

/-- PAGE_WALK (R333 to R337), of a page that the slice translation cache does not hold: `bad` names the level, 1 to 3, whose table entry
is uncorrectable, 0 none. Every merged request takes the result; a valid leaf is cached; Beline logs an entry that cannot be read
(R335). -/
def execPageWalk (id : Nat) (bad : BitVec 2) (s : State) : Out :=
  .next (match s.reqAt id with
    | some r =>
      match r.stage with
      | .walking x y =>
        let rs := s.merged r
        if r.leaf.isSome || (s.cachedLeaf x y r.vf r.ea.toNat).isSome then s
        else match s.walk r.vf r.ea.toNat bad with
        | .ok l => rs.foldl (fun s q => s.admitReq q x y l) (s.cacheLeaf ⟨x, y, r.vf, r.ea.toNat / 2 ^ 16, l⟩)
        | .error f =>
          rs.foldl (fun s q => s.refuse q cXLATE 0 false (siteSlice x y)) (match f with
            | .unreadable pa => s.logBeline (.tableError pa)
            | .invalid => s)
      | _ => s
    | none => s)

/-- The home accepts a request that has reached it. -/
def State.arriveHome (s : State) (id : Nat) (back : Bool) : Out :=
  .next (match s.reqNext id with
    | some r =>
      match r.stage with
      | .toHome x y pa => if r.kind.isWriteBack = back && !s.postedAhead r x y pa then s.acceptHome r x y pa else s
      | _ => s
    | none => s)

/-- FORWARDED_REQUEST (R331). -/
def execForwardedRequest (id : Nat) (s : State) : Out := s.arriveHome id false

/-- WRITE_BACK_ARRIVAL (08 R191). -/
def execWriteBackArrival (id : Nat) (s : State) : Out := s.arriveHome id true

/-- Perform a request that waited for a fill; a fill goes behind the write-back of its core that is still on its way (16 R340). -/
def State.performFilled (s : State) (x y : Nat) (r : Req) : State :=
  match r.stage with
  | .atFill _ _ pa => if r.kind.isFill && s.net.any r.after then s.stageTo r (.toHome x y pa) else s.performAt r x y pa false
  | _ => s

/-- The fill of the sector of pa returns (17 R362): the writes and atomics that wait, with them `also`, an access of Beline or one of its
units, then the loads. The first of those that wait displaced a line. -/
def State.fillReturn (s : State) (x y pa : Nat) (vf : BitVec 4) (also : State → State) : State :=
  let f := s.sliceFill x y pa vf
  let rs := match s.fillWaiters x y pa with
    | [] => []
    | q :: qs => { q with ownVictim := f.2 } :: qs
  let t := also ((rs.filter (fun q => q.kind.writesHome)).foldl (fun s q => s.performFilled x y q) f.1)
  (rs.filter (fun q => !q.kind.writesHome)).foldl (fun s q => s.performFilled x y q) t

/-- An access of Beline, of one of its units or of the jamb to the sector of pa at its home, which fills it first where it is absent (13
R309): it is made behind the writes and before the loads that wait for the fill (17 R362). -/
def State.atSector (s : State) (x y pa : Nat) (vf : BitVec 4) (f : State → State) : State :=
  if s.sliceHit x y pa vf && (s.fillWaiters x y pa).isEmpty then f s else s.fillReturn x y pa vf f

/-- SECTOR_FILL_RETURN (17 R362). -/
def execSectorFillReturn (id : Nat) (s : State) : Out :=
  .next (match s.reqAt id with
    | some r =>
      match r.stage with
      | .atFill x y pa => s.fillReturn x y pa r.vf (fun s => s)
      | _ => s
    | none => s)

/-! Accesses of Beline and its units, which are no requests of the net (18 R363, R373; 19 R386; 23 R442). -/

/-- A read at the home of a sector, which fills it first where it is absent (13 R309), behind what waits for its fill (17 R362). -/
def State.onHome {α : Type} (s : State) (vf : BitVec 4) (va : Nat) (n : Need) (other : α) (f : State → Nat → Nat → Nat → α) : α :=
  match s.homeOf vf va n with
  | .error _ => other
  | .ok (x, y, pa) =>
    f (s.atSector x y pa vf (fun s => s)) x y pa

/-- A write at the home of a sector: it precedes the loads that wait for the sector's fill (17 R362). -/
def State.onHomeWrite (s : State) (vf : BitVec 4) (va : Nat) (n : Need) (other : State) (f : State → Nat → Nat → Nat → State) : State :=
  match s.homeOf vf va n with
  | .error _ => other.walked vf va
  | .ok (x, y, pa) =>
    s.atSector x y pa vf (fun s => f s x y pa)

end Sys2Proof.Machine
end

