-- ==== Sys2Proof/Machine/Returns.lean ====
section
/-! DEFINITION. What comes back to a hart or a core: notices, data, acknowledgements, rejections, fills, grants (02 R45 to
R51; 08 R191, R196, R197; 13 R318, R319; 17 R361; 23 R437 to R440). A step that is not enabled leaves the module as it is. -/

namespace Sys2Proof.Machine

/-- A core takes an answer unless it sleeps: its registers keep their values (01 R32). -/
def State.takes (s : State) (r : Req) : Bool :=
  match r.src with
  | .hart c _ | .core c => (s.core c).sleep == .awake
  | _ => true

/-! A hart's results. -/

/-- Slice events are counted when the response returns (21 R420, R421). -/
def Hart.sliceEvents (h : Hart) (r : Req) : Hart :=
  match r.hit with
  | none => h
  | some true => h.countAs r.prog 0x10 1
  | some false => (h.countAs r.prog 0x11 1).countAs r.prog 0x12 (b2n r.ownVictim)

def ReqKind.isPlainLoad : ReqKind → Bool
  | .load _ _ | .fillLoad _ _ => true
  | _ => false

/-- The response of a request reaches its hart: its events and its watchpoint (06 R177). -/
def State.response (s : State) (r : Req) (c : Nat) (h : BitVec 2) (w : Option (BitVec 2 × Word)) : State :=
  let p := s.part r.vf
  s.modHart c h (fun t => ((t.sliceEvents r).countAs r.prog 0x0A (b2n r.kind.isPlainLoad)).watchedAt p w r.off r.kind.isStore)

/-- An outstanding load or atomic of a hart completes with v (02 R45, 04 R130). -/
def State.finishLoad (s : State) (r : Req) (c : Nat) (h : BitVec 2) (v : Nat) (poison : Bool) (fl : Flags) (w : Option (BitVec 2 × Word)) : State :=
  (((s.dropReq r.id).response r c h w).modHart c h (fun t => t.complete r.id r.ea (r.kind.writes v) poison fl)).settle c h

/-- The trap of a hart that waits at a blocking point for its request: the passes of the arrivals that wait run first (05 R146). -/
def State.blockedTrap (s : State) (r : Req) (c : Nat) (h : BitVec 2) (t : Trap) : State :=
  ((s.dropReq r.id).modHart c h Hart.settled).enterTrap c h false t (s.hartOf c h).pc

/-- ADMISSION_NOTICE (R361): the hold of R48 ends, or the fault of the translating slice is taken, in the order of its class (13 R308). -/
def execAdmissionNotice (id : Nat) (s : State) : Out :=
  .next (match s.reqAt id with
    | some r =>
      match r.src with
      | .hart c h =>
        if r.notice && (s.core c).live then
          match r.stage with
          | .rejected cause => if s.inOrder r then (s.dropReq id).lateFault c h id ⟨cause, r.ea, r.info⟩ else s
          | _ => (s.passed r).putReq { r with notice := false }
        else s
      | _ => s
    | none => s)

/-! Vector instructions (09 R223, R224): what arrives is kept with the instruction until it goes on at its hart's turn. -/

/-- The elements of a vector load that wait for request `id`. -/
def Hart.vgot (h : Hart) (id : Nat) (f : VElem → VElem) : Hart :=
  match h.block with
  | some (.vload eb d base es) => { h with block := some (.vload eb d base (updWhere (fun e => e.wait == some id) f es)) }
  | _ => h

/-- The vector store that waits for the fill `id`. -/
def Hart.vstoreGot (h : Hart) (id : Nat) (f : VStore → VStore) : Hart :=
  match h.block with
  | some (.vstore v) => if v.wait.any (fun w => w.1 == id) then { h with block := some (.vstore (f { v with wait := v.wait.filter (fun w => w.1 != id) })) } else h
  | _ => h

/-- A store keeps the fault of its first element. -/
def VStore.failed (v : VStore) (id : Nat) (cause : BitVec 8) (ea : Word) : VStore :=
  { v with fault := match v.fault with
      | some f => if f.1 < id then some f else some (id, cause, ea)
      | none => some (id, cause, ea) }

/-- An access of a vector instruction is refused. -/
def State.vrefused (s : State) (r : Req) (c : Nat) (h : BitVec 2) (cause : BitVec 8) : State :=
  (s.dropReq r.id).modHart c h (fun t => (t.vgot r.id (fun e => { e with wait := none, fault := some cause })).vstoreGot r.id (fun v => v.failed r.id cause r.ea))

/-- The sector of a fill lies on a page that is not cacheable-in-core: the elements are accessed at the home (08 R191). -/
def State.vuncached (s : State) (r : Req) (c : Nat) (h : BitVec 2) : State :=
  let s := s.dropReq r.id
  match (s.hartOf c h).block with
  | some (.vload eb _ _ es) =>
    (es.filter (fun e => e.wait == some r.id)).foldl (fun s e =>
      let id := s.nextId
      (s.send { r with kind := .velem eb, ea := e.ea, stage := .sent, cls := .request, hit := none }).modHart c h (fun t =>
        match t.block with
        | some (.vload eb d base es) =>
          { t with block := some (.vload eb d base (updWhere (fun q => q.wait == some r.id && q.pos == e.pos) (fun q => { q with wait := some id }) es)) }
        | _ => t)) s
  | _ => s.modHart c h (fun t => t.vstoreGot r.id (fun v => { v with home := v.home ++ [sectorAddr r.ea.toNat] }))

/-- The sector of a fill is in the cache ways: a load's elements are read there. -/
def State.vfilled (s : State) (r : Req) (c : Nat) (h : BitVec 2) (w : Option (BitVec 2 × Word)) : State :=
  let k := s.core c
  ((s.dropReq r.id).response r c h w).modHart c h (fun t =>
    ((t.countAs r.prog 0x0B 1).vgot r.id (fun e =>
      match k.sectorAt e.ea.toNat with
      | some x => { e with wait := none, val := x.read e.ea.toNat r.kind.size, poison := x.poison }
      | none => { e with wait := none })).vstoreGot r.id (fun v => { v with got := v.got ++ [sectorAddr r.ea.toNat] }))

/-! The copy engine's answers (10 R268 to R275). -/

/-- The work of the copy engine of core c that waits for request `id`. -/
def State.engineGot (s : State) (c id : Nat) (f : CopyWork → CopyWork) : State :=
  (s.dropReq id).modCore c (fun k =>
    if k.copy.work.wait = some id then { k with copy := { k.copy with work := f { k.copy.work with wait := none } } } else k)

/-- The source offset of a push. -/
def ReqKind.pushSrc : ReqKind → Nat
  | .push src => src
  | _ => 0

/-- A push has ended. -/
def State.pushed (s : State) (r : Req) (c v : Nat) (poison : Bool) : State :=
  let k := s.core c
  let src := r.kind.pushSrc
  let cause := bits v 23 16
  s.engineGot c r.id (fun w =>
    if cause = 0 then
      { w with unit := 1, done := v % 2 ^ 16, ended := true, poison := if poison then some ⟨cPOISON, 1, 0, k.ownAddr src⟩ else none }
    else w.fail (pushFault k r.ea src (BitVec.ofNat 8 cause) (bits v 27 24)))

/-- What comes back to the copy engine. -/
def State.engineAnswer (s : State) (r : Req) (c : Nat) : State :=
  match r.kind, r.stage with
  | .push _, .reply data poison _ _ => s.pushed r c data.toNat poison
  | .push _, .rejected cause => s.engineGot c r.id (fun w => w.fail ⟨cause, 5, 0, r.ea⟩)
  | .ewrite _ _ _, .acknowledged _ => s.engineGot c r.id (fun w => w)
  | .ewrite _ _ _, .rejected cause => s.engineGot c r.id (fun w => w.fail ⟨cause, 2, 0, r.ea⟩)
  | .eread _, .reply data poison _ _ => s.engineGot c r.id (fun w => { w with got := some (data.toNat, poison) })
  | .eread _, .rejected cause => s.engineGot c r.id (fun w => w.fail ⟨cause, 1, 0, r.ea⟩)
  | _, _ => s

/-- The data of a request that this module performed. -/
def State.dataHere (s : State) (r : Req) (c : Nat) (h : BitVec 2) : State :=
  match r.kind, r.stage with
  | .velem _, .reply data poison _ w =>
    ((s.dropReq r.id).response r c h w).modHart c h (fun t => t.vgot r.id (fun e => { e with wait := none, val := data.toNat, poison := poison }))
  | .velem _, .rejected cause | .vfill _ _, .rejected cause => s.vrefused r c h cause
  | .rel _, .reply _ _ _ _ =>
    if (s.hartOf c h).block = some (.rel r.id) then (s.dropReq r.id).modHart c h (fun t => ((t.sliceEvents r).settled).retire 4 [] 0) else s
  | .rel _, .rejected cause => if (s.hartOf c h).block = some (.rel r.id) then s.blockedTrap r c h ⟨cause, r.ea, 0⟩ else s
  | k, .reply data poison fl w =>
    if k.isFill || k.isMessage then s
    else match k with
      | .sash _ _ _ => s
      | _ => s.finishLoad r c h data.toNat poison fl w
  | _, _ => s

/-- What another module answered to a load (23 R438). -/
def State.dataThere (s : State) (r : Req) (c : Nat) (h : BitVec 2) : FabricReply → State
  | .here => s
  | .data b => s.finishLoad r c h b.toNat false 0 none
  | .poisoned => s.finishLoad r c h 0 true 0 none
  | .refused cause => (s.dropReq r.id).lateFault c h r.id ⟨cause, r.ea, 0⟩

/-- LOAD_DATA_RETURN (R45): a load, an atomic, a remote barrier arrival, a release or an element of a vector load of a hart, a read or a
push of a copy engine, or the answer to another module's load (23 R438). -/
def execLoadDataReturn (id : Nat) (reply : FabricReply) (s : State) : Out :=
  .next (match s.reqNext id with
    | some r =>
      match r.src with
      | .hart c h =>
        if (s.core c).live = false then s
        else if r.stage = .onFabric then (if r.kind.posted then s else s.dataThere r c h reply)
        else if reply = .here then s.dataHere r c h
        else s
      | .engine c => if r.kind.acked && !r.kind.isPush then s else s.engineAnswer r c
      | .fabric m =>
        match r.stage with
        | .reply data poison _ _ =>
          { s.dropReq id with
            fabricOut := s.fabricOut ++ [if poison then .error m cPOISON else .data m (bytesOfLE r.kind.size data.toNat)] }
        | .rejected cause => { s.dropReq id with fabricOut := s.fabricOut ++ [.error m cause] }
        | _ => s
      | _ => s
    | none => s)

/-! Posted accesses. -/

/-- The acknowledgement of a posted access counts it down (R317, R318). -/
def State.acknowledge (s : State) (r : Req) (w : Option (BitVec 2 × Word)) : State :=
  let t := (s.dropReq r.id).received r.launch
  match r.src with
  | .hart c h => (t.response r c h w).modHart c h (fun x => x.countDown r.ea)
  | .fabric m => { t with fabricOut := t.fabricOut ++ [.acknowledged m] }
  | .host e => { t with hostOut := t.hostOut ++ [.done e] }
  | _ => t

/-- STORE_ACK (R318, 23 R440); a write of a copy engine is acknowledged to its engine. -/
def execStoreAck (id : Nat) (s : State) : Out :=
  .next (match s.reqNext id with
    | some r =>
      if s.takes r = false then s
      else if r.kind.posted then
        match r.stage with
        | .acknowledged w => s.acknowledge r w
        | .onFabric => s.acknowledge r none
        | _ => s
      else match r.kind, r.src, r.stage with
        | .ewrite _ _ _, .engine c, .acknowledged _ => s.engineAnswer r c
        | _, _, _ => s
    | none => s)

/-- A posted access whose hart has exited is lost (18 R373). -/
def State.lose (s : State) (launch : Nat) : State := s.modLaunch launch (fun l => { l with lost := min 255 (l.lost + 1) })

/-- The rejection of a posted access writes a log entry and then counts it down (R318, R319); a refused completion message is
discarded and counted by Beline (18 R373). -/
def State.rejectPosted (s : State) (r : Req) (cause : BitVec 8) : State :=
  let t := (s.dropReq r.id).received r.launch
  match r.src with
  | .hart c h =>
    let t := if (s.hartOf c h).exited then t.lose r.launch else t
    t.modHart c h (fun x => { ((x.countAs r.prog 8 1).countDown r.ea) with rejLog := x.rejLog ++ [rejEntry r cause] })
  | .core _ => t.lose r.launch
  | .fabric m => { t with fabricOut := t.fabricOut ++ [.error m cause] }
  | .host e => { t with hostOut := t.hostOut ++ [.transportError e cause] }
  | .engine _ => t
  | .dispatcher => t.logBeline (.messageDiscarded r.launch)

/-- STORE_REJECTION (R318, 23 R438; 08 R191): a write-back that its home rejects is a context error. -/
def execStoreRejection (id : Nat) (cause : BitVec 8) (s : State) : Out :=
  .next (match s.reqNext id with
    | some r =>
      if s.takes r = false then s
      else match r.stage with
      | .rejected x =>
        if r.kind.posted then s.rejectPosted r x
        else if r.kind.isWriteBack then
          match r.src with
          | .core c => ((s.dropReq id).received r.launch).contextError c
          | _ => s.dropReq id
        else match r.kind, r.src with
          | .ewrite _ _ _, .engine c => s.engineAnswer r c
          | _, _ => s
      | .onFabric => if r.kind.posted then s.rejectPosted r cause else s
      | _ => s
    | none => s)

/-! Cache ways (08 R191). -/

/-- The access that waited for a fill is made in the sector that the core now holds. -/
def State.afterFill (s : State) (r : Req) (c : Nat) (h : BitVec 2) (w : Option (BitVec 2 × Word)) : State :=
  let a := r.ea.toNat
  match (s.core c).sectorAt a with
  | none => s
  | some x =>
    match r.kind with
    | .fillStore n v => ((s.modCore c (fun k => k.cacheStore a n v.toNat)).modHart c h (fun t => t.countAs r.prog 0x0B 1)).finishLoad r c h 0 false 0 w
    | _ => (s.modHart c h (fun t => t.countAs r.prog 0x0B 1)).finishLoad r c h (x.read a r.kind.size) x.poison 0 w

/-- A fill of core c brings its sector to a hart's access, to a vector instruction, or for a hint; the sector is present unless the core
has no cache ways left. -/
def State.filled (s : State) (r : Req) (c : Nat) (h : BitVec 2) (data : BitVec 1024) (poison : Bool) (w : Option (BitVec 2 × Word)) : State :=
  let t := s.install c r.ea.toNat data poison
  let here := ((t.core c).sectorAt r.ea.toNat).isSome
  match r.kind with
  | .vfill _ _ => if here then t.vfilled r c h w else s.vuncached r c h
  | _ => if here then t.afterFill r c h w else s

/-- CACHE_FILL (R191): the sector enters the cache ways; one that no region covers any more leaves again. -/
def execCacheFill (id : Nat) (s : State) : Out :=
  .next (match s.reqNext id with
    | some r =>
      match r.stage with
      | .reply data poison fl w =>
        if r.kind.isFill = false then s
        else
          let a := r.ea.toNat
          let tidy := fun (c : Nat) (s : State) =>
            if ((s.core c).regionAt a).isSome then s else s.flush c (fun x => x.addr == sectorAddr a) true
          match r.src, r.kind with
          | .hart c h, _ =>
            if (s.core c).live = false then s
            else if fl ≠ 0 then s.vuncached r c h
            else tidy c (s.filled r c h data poison w)
          | .core c, .prefetch _ h =>
            if s.takes r = false then s
            else tidy c (((s.dropReq id).install c a data poison).modHart c h (fun t => t.countAs r.prog 0x0B 1))
          | _, _ => s
      | _ => s
    | none => s)

/-- Harts that wait for write-backs go on once none of their core's is on its way: the instruction runs again, or after a
grant the ACQ retires (R196). -/
def Hart.backsDone (h : Hart) : Hart :=
  match h.block with
  | some (.writeBack none) => { h with block := none }
  | some (.writeBack (some _)) => h.settled.retire 4 [] 0
  | _ => h

/-- WRITE_BACK_ACKNOWLEDGEMENT (R196, R198). -/
def execWriteBackAcknowledgement (id : Nat) (s : State) : Out :=
  .next (match s.reqNext id with
    | some r =>
      match r.src, r.stage with
      | .core c, .acknowledged _ =>
        if r.kind.isWriteBack && s.takes r then
          let t := (s.dropReq id).received r.launch
          if t.backsPending c then t else t.modCore c (fun k => { k with harts := vmap Hart.backsDone k.harts })
        else s
      | _, _ => s
    | none => s)

/-! Synchronisation objects (R196). -/

/-- After a grant the hart writes back and invalidates what the object covers, then retires. -/
def State.granted (s : State) (r : Req) (c : Nat) (h : BitVec 2) : State :=
  let p := (s.core c).ofObj r.ea.toNat
  let t := ((((s.dropReq r.id).modHart c h (fun x => x.sliceEvents r)).flush c p true).refetch c p)
  if t.backsPending c then t.modHart c h (fun x => { x with block := some (.writeBack (some r.id)) })
  else t.modHart c h (fun x => x.settled.retire 4 [] 0)

/-- The object at pa as its home slice sees it. -/
def State.objectAt (s : State) (pa : Nat) : Nat := s.physLE pa 8

/-- What the home answers to the queued request r now: the object that a grant leaves, or none for PROT. -/
def State.grantOf (s : State) (r : Req) (pa : Nat) : Option (Option Nat) :=
  match syncNext (s.objectAt pa) false (s.syncWaiters pa) with
  | some (q, ans) => if q.id = r.id then some ans else none
  | none => none

/-- The home examines a queued request: it grants it or withdraws it with PROT, and its answer goes on its way in class response
(R196; 13 R307). The read and the write of the object are one access (13 R312; 16 R354). -/
def State.examine (s : State) (r : Req) (x y pa : Nat) : State :=
  if (s.grantOf r pa).isNone then s
  else s.atSector x y pa r.vf (fun s =>
    match s.grantOf r pa with
    | none => s
    | some none => s.answer r (siteSlice x y) (.rejected cPROT)
    | some (some v) => (s.homeWrite x y pa 8 v).answer r (siteSlice x y) (.reply 0 false 0 none))

/-- The answer to an ACQ reaches its hart, in the order of its class (R196; 13 R308); a failure is taken exactly. -/
def State.acqAnswer (s : State) (id : Nat) : State :=
  match s.reqNext id with
  | some r =>
    match r.src with
    | .hart c h =>
      if (s.core c).live = false ∨ (s.hartOf c h).block ≠ some (.acq id) then s
      else match r.stage with
        | .rejected cause => s.blockedTrap r c h ⟨cause, r.ea, 0⟩
        | .reply _ _ _ _ => s.granted r c h
        | _ => s
    | _ => s
  | none => s

/-- ACQ_GRANT (R196): at the home, then at the hart. -/
def execAcqGrant (id : Nat) (s : State) : Out :=
  .next (match s.reqAt id with
    | some r =>
      match r.stage with
      | .syncQueue x y pa => s.examine r x y pa
      | _ => s.acqAnswer id
    | none => s)

/-! The fabric (23 R436, R437). -/

/-- The cause with which a port refuses an access to another module, under the sender's peer entry. -/
def portCheck (entry : Word) (posted : Bool) : Option (BitVec 8) :=
  if entry.msb = false then some cBOUNDS
  else if (if posted then bit entry.toNat 62 else bit entry.toNat 61) then none else some cPROT

/-- FABRIC_PORT_CHECK (R437): the access has passed its fault point and leaves for the other module. -/
def execFabricPortCheck (id : Nat) (s : State) : Out :=
  .next (match s.reqNext id with
    | some r =>
      if r.stage = .sent ∧ r.ea.msb = true ∧ addrMod r.ea ≠ 2047 then
        match portCheck (mapGet (s.part r.vf).peers (addrMod r.ea) 0) r.kind.posted with
        | some cause => s.refuse r cause 0 true r.ownSite
        | none => (s.passed r).stageTo r .onFabric
      else s
    | none => s)

end Sys2Proof.Machine
end

