-- ==== Sys2Proof/Machine/Sash.lean ====
section
/-! DEFINITION. The Sash store, major 0x27 (19 R383 to R395). An instruction sends its request to a unit; the unit accepts and
performs it whole; the result comes back. -/

namespace Sys2Proof.Machine

/-! Issue (R387, R388). -/

/-- Issue a Sash instruction: BOUND_WRITE, its checks, its request. -/
def State.sash (s : State) (d : BitVec 5) (l : BitVec 4) (checks : List (Option Trap)) (op : SashOp) (handle : Word) : State :=
  s.guarded (s.boundCheck d :: checks) (fun s => s.issueLong (s.reqOf .request (.sash op handle d) 0) [d] l.toNat false 4)

/-- The check of a scratch operand: its end is checked by the unit. -/
def State.sashScratch (s : State) (a : Word) : Option Trap := s.addrCheck a 128 1 true

/-- The own-scratch offset of an operand. -/
def State.offOf (s : State) (a : Word) : Nat := addrOff (s.resolve a)

/-- The storage address of an operand, after the rewritings of R120, and its check (R389). -/
def State.storageCheck (s : State) (a : Word) : Option Trap :=
  if (s.resolve a).toNat % 4096 ≠ 0 then some ⟨cALIGN, s.resolve a, 0⟩ else none

/-- The unit of the executing core's die (R383). -/
def State.unitHere (s : State) : Nat := dieOf (keyX s.cur.core) (keyY s.cur.core)

/-- SSOPEN (R389). -/
def execSsopen (d a b : BitVec 5) (l : BitVec 4) (s : State) : Out :=
  .next (s.sash d l [s.storageCheck (s.rg a)] (.open (s.resolve (s.rg a)).toNat (s.rg b) s.unitHere) 0)

/-- SSLOAD (R390). -/
def execSsload (d a b : BitVec 5) (l : BitVec 4) (s : State) : Out :=
  .next (s.sash d l [s.sashScratch (s.rg (b + 1))] (.load (s.rg b) (s.offOf (s.rg (b + 1)))) (s.rg a))

/-- SSCOMMIT (R390). -/
def execSscommit (d a b : BitVec 5) (l : BitVec 4) (s : State) : Out :=
  .next (s.sash d l [s.sashScratch (s.rg (b + 2))] (.commit (s.rg b) (s.rg (b + 1)) (s.offOf (s.rg (b + 2)))) (s.rg a))

/-- SSSNAP (R392). -/
def execSssnap (d a : BitVec 5) (l : BitVec 4) (s : State) : Out := .next (s.sash d l [] .snap (s.rg a))

/-- SSFIND (R392). -/
def execSsfind (d a b : BitVec 5) (l : BitVec 4) (s : State) : Out := .next (s.sash d l [] (.find (s.rg b)) (s.rg a))

/-- SSROLL (R393). -/
def execSsroll (d a b : BitVec 5) (l : BitVec 4) (s : State) : Out := .next (s.sash d l [] (.roll (s.rg b)) (s.rg a))

/-- SSPIN (R392). -/
def execSspin (d a b : BitVec 5) (l : BitVec 4) (s : State) : Out := .next (s.sash d l [] (.pin (s.rg b)) (s.rg a))

/-- SSUNPIN (R392). -/
def execSsunpin (d a b : BitVec 5) (l : BitVec 4) (s : State) : Out := .next (s.sash d l [] (.unpin (s.rg b)) (s.rg a))

/-- SSFORK (R394). -/
def execSsfork (d a b : BitVec 5) (l : BitVec 4) (s : State) : Out :=
  .next (s.sash d l [s.storageCheck (s.rg (b + 1))] (.fork (s.rg b) (s.resolve (s.rg (b + 1))).toNat s.unitHere) (s.rg a))

/-- SSCLOSE (R395). -/
def execSsclose (a : BitVec 5) (l : BitVec 4) (s : State) : Out := .next (s.sash 0 l [] .close (s.rg a))

/-! The record (R384 to R386): its header is one number of 1,024 bits. -/

def recVALID (h : Nat) : Bool := bit h 63
def recLB (h : Nat) : Nat := bits h 62 62
def recPV (h : Nat) : Bool := bit h 61
def recD (h : Nat) : Nat := 2 ^ bits h 60 58
def recNL (h : Nat) : Nat := bits h 57 50 + 1
def recSBU (h : Nat) : Nat := bits h 49 36
def recUNIT (h : Nat) : Nat := bits h 35 30
def recVF (h : Nat) : Nat := bits h 29 26
def recGEN (h : Nat) : Nat := bits h 11 0
def recLIVE (h : Nat) : Nat := bits h 191 128
def recPP (h : Nat) : Nat := bits h 255 192
def recSEQ (h : Nat) : Nat := bits h 319 256
def recCMASK (h : Nat) : Nat := bits h 1023 768

/-- The offset of layer j of state area k. -/
def recArea (h k j : Nat) : Nat := 0x1000 + (k * recNL h + j) * (128 * recSBU h)
/-- The bytes of the whole area. -/
def recBytes (h : Nat) : Nat := recArea h (2 + recD h) 0

/-- A fresh header (R385). -/
def recNew (sbu nlm1 ld unit vf gen : Nat) : Nat :=
  setBits 0 191 128 (2 ^ 64 - 1) + 2 ^ 63 + ld * 2 ^ 58 + nlm1 * 2 ^ 50 + sbu * 2 ^ 36 + unit * 2 ^ 30 + vf * 2 ^ 26 + gen

/-- The handle of a record (R383). -/
def handleOf (unit vf storage gen : Nat) : Word := BitVec.ofNat 64 (unit * 2 ^ 58 + vf * 2 ^ 48 + bits storage 47 12 * 2 ^ 12 + gen)

def shV (x : Nat) : Bool := bit x 0
def shPIN (x : Nat) : Bool := bit x 1
def shAGE (x : Nat) : Nat := bits x 63 8
def shTAG (x : Nat) : Nat := bits x 127 64

/-- A header and a descriptor with their reserved fields zero (00 R6). -/
def recNorm (h : Nat) : Nat := setBits (setBits (setBits h 25 12 0) 127 64 0) 767 320 0
def shNorm (x : Nat) : Nat := setBits x 7 2 0

/-! Memory of the unit: sectors of 128 bytes by virtual address, at their home slices (R384), once the area has been translated. -/

/-- The unit reads and writes the area (R384). -/
def recNeed : Need := ⟨true, true⟩

/-- The first granule of [va, va + n) that does not translate for reading and writing. -/
def State.areaFault (s : State) (vf : BitVec 4) (va n : Nat) : Option LateFault :=
  (upFrom (va / 2 ^ 16) ((va + n - 1) / 2 ^ 16 - va / 2 ^ 16 + 1)).findSome? (fun g =>
    let a := max va (g * 2 ^ 16)
    match s.homeOf vf a recNeed with
    | .error cause => some ⟨cause, BitVec.ofNat 64 a, 0⟩
    | .ok _ => none)

/-- Bring a sector of the area to its home and check it (21 R424). -/
def State.recTouch (s : State) (vf : BitVec 4) (va : Nat) : State := s.onHome vf va recNeed s State.checkedAt
/-- n bytes of a sector that has been touched, and its poison. -/
def State.recGet (s : State) (vf : BitVec 4) (va n : Nat) : Nat × Bool := s.onHome vf va recNeed (0, false) (fun s x y pa => s.homeRead x y pa n)
def State.recRead (s : State) (vf : BitVec 4) (va n : Nat) : Nat := (s.recGet vf va n).1
/-- Write n bytes of one sector. -/
def State.recWrite (s : State) (vf : BitVec 4) (va n v : Nat) (poison : Bool := false) : State :=
  s.onHomeWrite vf va recNeed s (fun s x y pa => s.homeWrite x y pa n v poison)

/-- Note poison that was copied. -/
def State.notePoison (s : State) (bad : Bool) (va : Nat) : State := if bad then s.logBeline (.poisoned va) else s

/-- Copy n sectors inside the storage (R388). -/
def State.recCopy (s : State) (vf : BitVec 4) (dst src : Nat) : Nat → State
  | 0 => s
  | n + 1 =>
    let s := s.recTouch vf src
    let v := s.recGet vf src 128
    State.recCopy ((s.recWrite vf dst 128 v.1 v.2).notePoison v.2 src) vf (dst + 128) (src + 128) n

/-- Zero n sectors. -/
def State.recZero (s : State) (vf : BitVec 4) (dst : Nat) : Nat → State
  | 0 => s
  | n + 1 => State.recZero (s.recWrite vf dst 128 0) vf (dst + 128) n

/-- Copy n sectors of a layer into the scratch of core c. -/
def State.recOut (s : State) (c : Nat) (vf : BitVec 4) (off src : Nat) : Nat → State
  | 0 => s
  | n + 1 =>
    let s := s.recTouch vf src
    let v := s.recGet vf src 128
    let t := s.modCore c (fun k =>
      let k := (k.noteCodeStore off 128).swrite off 128 v.1
      if v.2 then { k with lpoison := (k.sectors off 128).foldl setAdd k.lpoison } else k)
    State.recOut (t.notePoison v.2 src) c vf (off + 128) (src + 128) n

/-- Copy n sectors of the scratch of core c into a layer. -/
def State.recIn (s : State) (c : Nat) (vf : BitVec 4) (dst off : Nat) : Nat → State
  | 0 => s
  | n + 1 =>
    let bad := (s.core c).spoisoned off 128
    State.recIn ((s.recWrite vf dst 128 ((s.core c).sread off 128) bad).notePoison bad dst) c vf (dst + 128) (off + 128) n

/-- A record that the unit works on: its partition, storage and header. -/
structure Rec where
  vf : BitVec 4
  at_ : Nat
  hdr : Nat

def Rec.shutter (r : Rec) (s : State) (k : Nat) : Nat := s.recRead r.vf (r.at_ + 0x80 + 16 * k) 16
def Rec.putShutter (r : Rec) (s : State) (k v : Nat) : State := s.recWrite r.vf (r.at_ + 0x80 + 16 * k) 16 (shNorm v)
def Rec.put (r : Rec) (s : State) (h : Nat) : State := s.recWrite r.vf r.at_ 128 (recNorm h)
def Rec.area (r : Rec) (k j : Nat) : Nat := r.at_ + recArea r.hdr k j
/-- Sectors of a whole state area. -/
def Rec.stateSectors (r : Rec) : Nat := recNL r.hdr * recSBU r.hdr
/-- The valid shutters: number and descriptor. -/
def Rec.shutters (r : Rec) (s : State) : List (Nat × Nat) :=
  ((List.range (recD r.hdr)).map (fun k => (k, r.shutter s k))).filter (fun e => shV e.2)
def Rec.tagged (r : Rec) (s : State) (p : Nat) : Option (Nat × Nat) := (r.shutters s).find? (fun e => shTAG e.2 == p)

/-- STATE_STORE with its reason. -/
def storeFault (at_ reason : Nat) : LateFault := ⟨cSTATESTORE, BitVec.ofNat 64 at_, BitVec.ofNat 64 reason⟩

/-- What an operation answers: the state and the result register, or its exact fault. -/
abbrev SashRes := Except LateFault (State × Nat)

/-- The key of a record's storage in `State.areas`. -/
def areaKey (vf : BitVec 4) (at_ : Nat) : Nat := vf.toNat * 2 ^ 48 + at_

/-- Bring the header and the descriptors of a record to their homes. -/
def State.touchRecord (s : State) (vf : BitVec 4) (at_ depth : Nat) : State :=
  (List.range (1 + (depth + 7) / 8)).foldl (fun s i => s.recTouch vf (at_ + 128 * i)) s

/-- A header with the LD, NLM1 and SBU with which SSOPEN or SSFORK last laid out the area of its storage: a header that a store has
changed affects no other memory (R384; DESIGN CHOICE, log 65). -/
def State.laidOut (s : State) (vf : BitVec 4) (at_ h : Nat) : Nat :=
  match mapFind s.areas (areaKey vf at_) with
  | some n => setBits h 60 36 (bits n 60 36)
  | none => h

/-- Find the record of a handle for an issuer of partition vf (R388). -/
def State.record (s : State) (vf : BitVec 4) (handle : Word) : Except LateFault (State × Rec) :=
  let n := handle.toNat
  let at_ := bits n 47 12 * 2 ^ 12
  if bits n 57 52 ≠ 0 ∨ 39 < bits n 63 58 ∨ bits n 51 48 ≠ vf.toNat then .error (storeFault at_ 1)
  else match s.areaFault vf at_ 128 with
  | some f => .error f
  | none =>
    let s := s.recTouch vf at_
    let h := s.laidOut vf at_ (s.recRead vf at_ 128)
    if recVALID h = false ∨ recGEN h ≠ bits n 11 0 ∨ recVF h ≠ vf.toNat ∨ recUNIT h ≠ bits n 63 58 then .error (storeFault at_ 1)
    else match s.areaFault vf at_ (recBytes h) with
      | some f => .error f
      | none => .ok (s.touchRecord vf at_ (recD h), ⟨vf, at_, h⟩)

/-- Create a record (R389): its area must translate and hold no open record. -/
def State.openRecord (s : State) (vf : BitVec 4) (at_ sbu nlm1 ld unit : Nat) : Except LateFault (State × Rec) :=
  let fresh := recNew sbu nlm1 ld unit vf.toNat
  match s.areaFault vf at_ (recBytes (fresh 0)) with
  | some f => .error f
  | none =>
    let s := s.recTouch vf at_
    let old := s.recRead vf at_ 128
    if recVALID old then .error (storeFault at_ 6)
    else
      let hdr := fresh ((recGEN old + 1) % 4096)
      let r : Rec := ⟨vf, at_, hdr⟩
      let s := s.touchRecord vf at_ (recD r.hdr)
      let s := (List.range (recD r.hdr)).foldl (fun s k => r.putShutter s k 0) (r.put s r.hdr)
      .ok ({ s with areas := mapSet s.areas (areaKey vf at_) (hdr % 2 ^ 64) }, r)

/-- SSOPEN at the unit. -/
def State.sashOpen (s : State) (vf : BitVec 4) (at_ : Nat) (config : Word) (unit : Nat) : SashRes :=
  let n := config.toNat
  let sbu := bits n 13 0
  let ld := bits n 26 24
  if n / 2 ^ 27 ≠ 0 ∨ bits n 15 14 ≠ 0 ∨ sbu = 0 ∨ 8192 < sbu ∨ ld = 0 ∨ 6 < ld then .error (storeFault at_ 5)
  else match s.openRecord vf at_ sbu (bits n 23 16) ld unit with
    | .error f => .error f
    | .ok (s, r) => .ok (s.recZero vf (r.area 0 0) r.stateSectors, (handleOf unit vf.toNat at_ (recGEN r.hdr)).toNat)

/-- SSLOAD at the unit (R390). -/
def Rec.load (r : Rec) (s : State) (c : Nat) (layer : Word) (dst : Nat) : SashRes :=
  if recNL r.hdr ≤ layer.toNat then .error (storeFault r.at_ 2)
  else if (s.core c).scratchSize < dst + 128 * recSBU r.hdr then .error (storeFault r.at_ 6)
  else .ok (s.recOut c r.vf dst (r.area (recLB r.hdr) layer.toNat) (recSBU r.hdr), recLIVE r.hdr)

/-- SSCOMMIT at the unit (R390). -/
def Rec.commit (r : Rec) (s : State) (c : Nat) (layer p : Word) (src : Nat) : SashRes :=
  let h := r.hdr
  if recNL h ≤ layer.toNat then .error (storeFault r.at_ 2)
  else if p.toInt < 0 ∨ p.toInt ≤ toS (recLIVE h) 64 then .error (storeFault r.at_ 3)
  else if (s.core c).scratchSize < src + 128 * recSBU h then .error (storeFault r.at_ 6)
  else
    let anew := !recPV h || recPP h != p.toNat
    let st0 := if anew && recPV h then 2 else 0
    let h1 := if anew then setBits (setBits (setBits h 61 61 1) 255 192 p.toNat) 1023 768 0 else h
    let s := s.recIn c r.vf (r.area (1 - recLB h) layer.toNat) src (recSBU h)
    let mask := recCMASK h1 ||| 2 ^ layer.toNat
    if mask % 2 ^ recNL h = 2 ^ recNL h - 1 then
      .ok (r.put s (setBits (setBits (setBits (setBits h1 62 62 (1 - recLB h)) 191 128 p.toNat) 61 61 0) 1023 768 0), 1)
    else .ok (r.put s (setBits h1 1023 768 mask), st0)

/-- The shutter that a snapshot takes: an invalid one, else the unpinned one of smallest AGE. -/
def Rec.victim (r : Rec) (s : State) : Option Nat :=
  match (List.range (recD r.hdr)).find? (fun k => !shV (r.shutter s k)) with
  | some k => some k
  | none =>
    ((r.shutters s).filter (fun e => !shPIN e.2)).foldl (fun best e =>
      match best with
      | none => some e
      | some b => if shAGE e.2 < shAGE b.2 then some e else some b) (none : Option (Nat × Nat)) |>.map (·.1)

/-- SSSNAP at the unit (R392). -/
def Rec.snap (r : Rec) (s : State) : SashRes :=
  let h := r.hdr
  if recLIVE h = 2 ^ 64 - 1 then .ok (s, 0xFFFFFFFFFFFFFFFE)
  else match r.tagged s (recLIVE h) with
  | some e => .ok (s, e.1)
  | none =>
    match r.victim s with
    | none => .ok (s, 2 ^ 64 - 1)
    | some k =>
      let s := s.recCopy r.vf (r.area (2 + k) 0) (r.area (recLB h) 0) r.stateSectors
      let s := r.putShutter s k (recLIVE h * 2 ^ 64 + recSEQ h % 2 ^ 56 * 2 ^ 8 + 1)
      .ok (r.put s (setBits h 319 256 (recSEQ h + 1)), k)

/-- SSFIND at the unit (R392). -/
def Rec.find (r : Rec) (s : State) (p : Word) : SashRes :=
  let tags := ((r.shutters s).map (fun e => toS (shTAG e.2) 64)).filter (fun t => decide (t ≤ p.toInt))
  .ok (s, match tags with
    | [] => 2 ^ 64 - 1
    | t :: ts => (wrap (ts.foldl max t)).toNat)

/-- SSPIN and SSUNPIN at the unit (R392). -/
def Rec.setPin (r : Rec) (s : State) (p : Word) (on : Bool) : SashRes :=
  match r.tagged s p.toNat with
  | some e => .ok (r.putShutter s e.1 (setBits e.2 1 1 (b2n on)), 0)
  | none => .ok (s, 1)

/-- SSROLL at the unit (R393). -/
def Rec.roll (r : Rec) (s : State) (p : Word) : SashRes :=
  match r.tagged s p.toNat with
  | none => .error (storeFault r.at_ 4)
  | some e =>
    let s := s.recCopy r.vf (r.area (recLB r.hdr) 0) (r.area (2 + e.1) 0) r.stateSectors
    let s := r.put s (setBits (setBits (setBits r.hdr 191 128 p.toNat) 61 61 0) 1023 768 0)
    let drop := (r.shutters s).filter (fun x => decide (p.toInt < toS (shTAG x.2) 64))
    .ok (drop.foldl (fun s x => r.putShutter s x.1 (setBits x.2 1 0 0)) s, drop.length)

/-- SSFORK at the unit (R394). -/
def Rec.fork (r : Rec) (s : State) (p : Word) (at_ unit : Nat) : SashRes :=
  match r.tagged s p.toNat with
  | none => .error (storeFault r.at_ 4)
  | some e =>
    match s.openRecord r.vf at_ (recSBU r.hdr) (recNL r.hdr - 1) (bits r.hdr 60 58) unit with
    | .error f => .error f
    | .ok (s, q) =>
      let s := s.recCopy r.vf (q.area 0 0) (r.area (2 + e.1) 0) r.stateSectors
      .ok (q.put s (setBits q.hdr 191 128 p.toNat), (handleOf unit r.vf.toNat at_ (recGEN q.hdr)).toNat)

/-- An operation of a hart of core c. -/
def State.sashOp (s : State) (c : Nat) (vf : BitVec 4) (handle : Word) (op : SashOp) : SashRes :=
  match op with
  | .open at_ config unit => s.sashOpen vf at_ config unit
  | op =>
    match s.record vf handle with
    | .error f => .error f
    | .ok (s, r) =>
      match op with
      | .open _ _ _ => .ok (s, 0)
      | .load layer dst => r.load s c layer dst
      | .commit layer p src => r.commit s c layer p src
      | .snap => r.snap s
      | .find p => r.find s p
      | .roll p => r.roll s p
      | .pin p => r.setPin s p true
      | .unpin p => r.setPin s p false
      | .fork p at_ unit => r.fork s p at_ unit
      | .close => .ok (r.put s (setBits r.hdr 63 63 0), 0)

/-- The operation's scratch range lies in a way that a waiting WAYSET of its core changes: it is held (08 R187). -/
def State.sashHeld (s : State) (c : Nat) (vf : BitVec 4) (handle : Word) (op : SashOp) : Bool :=
  let held := fun (off : Nat) => match s.record vf handle with
    | .ok (_, r) => (s.core c).affected off (128 * recSBU r.hdr)
    | .error _ => false
  (s.core c).wayWait.isSome && (match op with
    | .load _ dst => held dst
    | .commit _ _ src => held src
    | _ => false)

/-- Every earlier access of the hart has been performed: issue is a release to the unit (R388). -/
def State.sashReady (s : State) (r : Req) : Bool :=
  !s.net.any (fun x => x.src == r.src && decide (x.id < r.id) && x.pending)

/-- The place that answers for a Sash unit. -/
def siteUnit (unit : Nat) : Nat := siteBeline + 1 + unit

/-- The unit that performs an operation: of the issuing core's die for SSOPEN, else the handle's (R383, R388). -/
def SashOp.unitOf (op : SashOp) (handle : Word) : Nat :=
  match op with
  | .open _ _ unit => unit
  | _ => bits handle.toNat 63 58

/-- SASH_ACCEPT (R388): the unit accepts and performs the operation, or its refusal, with what XADDR and XINFO will hold, goes to the hart, in
order with the unit's answers (13 R308); Beline logs a table entry that the translation of the storage could not read (15 R335). -/
def execSashAccept (id : Nat) (s : State) : Out :=
  .next (match s.reqNext id with
    | some r =>
      match r.src, r.kind with
      | .hart c _, .sash op handle _ =>
        if r.stage ≠ .sent ∨ s.sashReady r = false ∨ s.sashHeld c r.vf handle op = true then s
        else match s.sashOp c r.vf handle op with
          | .error f =>
            (if f.cause = cXLATE then s.walked r.vf f.addr.toNat else s).moveReq
              { r with ea := f.addr, info := f.info, stage := .rejected f.cause, notice := true, site := siteUnit (op.unitOf handle), cls := .response }
          | .ok (t, v) => (t.passed r).answer r (siteUnit (op.unitOf handle)) (.reply (BitVec.ofNat 1024 v) false 0 none)
      | _, _ => s
    | none => s)

/-- SASH_RESULT (R388): the result register is written. -/
def execSashResult (id : Nat) (s : State) : Out :=
  .next (match s.reqNext id with
    | some r =>
      match r.src, r.kind, r.stage with
      | .hart c h, .sash _ _ _, .reply data _ _ _ => if (s.core c).live then s.finishLoad r c h data.toNat false 0 none else s
      | _, _, _ => s
    | none => s)

end Sys2Proof.Machine
end

