-- ==== Sys2Proof/Machine/Peephole.lean ====
section
/-! DEFINITION. The Peephole estimating reduction, major 0x28 (20 R397 to R409). The Louvre and the estimator are the
launch's own record in the state; a request is accepted and answered in the step that issues it. -/

namespace Sys2Proof.Machine

/-! The Louvre (R399). -/

def N64 : Nat := 2 ^ 64

def splitmix64 (x : Nat) : Nat :=
  let z := (x + 0x9E3779B97F4A7C15) % N64
  let z := (z ^^^ (z >>> 30)) * 0xBF58476D1CE4E5B9 % N64
  let z := (z ^^^ (z >>> 27)) * 0x94D049BB133111EB % N64
  z ^^^ (z >>> 31)

/-- ⌈log2 n⌉ for n of at least 1. -/
def clog2 (n : Nat) : Nat := if n ≤ 1 then 0 else Nat.log2 (n - 1) + 1

/-- One round of F. -/
def louvreRound (k seed j x : Nat) : Nat :=
  let m := (splitmix64 ((seed + 2 * j) % N64) ||| 1) % 2 ^ k
  let a := splitmix64 ((seed + 2 * j + 1) % N64) % 2 ^ k
  let x := (x * m + a) % 2 ^ k
  x ^^^ (x >>> ((k + 1) / 2))

def louvreF (k seed x : Nat) : Nat := louvreRound k seed 2 (louvreRound k seed 1 (louvreRound k seed 0 x))

/-- Walk the cycle until the value is below n; F permutes 2^k values, so 2^k steps suffice. -/
def louvreWalk (k seed n : Nat) : Nat → Nat → Nat
  | 0, x => x
  | f + 1, x => if x < n then x else louvreWalk k seed n f (louvreF k seed x)

/-- perm(p) for n items. -/
def louvre (seed n p : Nat) : Nat :=
  let k := max 2 (clog2 n)
  louvreWalk k seed n (2 ^ k) (louvreF k seed p)

/-! The estimator (R400 to R403). -/

def Estimate.round (e : Estimate) (p : Nat) : Nat := p / 2 ^ e.lw
/-- The first position after round j. -/
def Estimate.roundEnd (e : Estimate) (j : Nat) : Nat := min (j * 2 ^ e.lw + 2 ^ e.lw) e.n
def Estimate.stopped (e : Estimate) : Bool := e.status != .running

/-- Every position of round j has been handed out and closed. -/
def Estimate.complete (e : Estimate) (j : Nat) : Bool :=
  decide (e.roundEnd j ≤ e.next) && !(e.opened.any (fun p => e.round p == j))

def f64 : Fmt := fmtF64
def fadd64 (a b : Nat) : Nat := (f64.add .rne a b).val
def fsub64 (a b : Nat) : Nat := (f64.sub .rne a b).val
def fmul64 (a b : Nat) : Nat := (f64.mul .rne a b).val
def fdiv64 (a b : Nat) : Nat := (f64.div .rne a b).val
/-- A count as F64. -/
def fcount64 (n : Nat) : Nat := (f64.ofInt .rne n).val

/-- c, mu and m2 of a round's values in ascending position order. -/
def welford : List Nat → Nat × Nat × Nat → Nat × Nat × Nat
  | [], acc => acc
  | x :: xs, (c, mu, m2) =>
    let d := fsub64 x mu
    let mu' := fadd64 mu (fdiv64 d (fcount64 (c + 1)))
    welford xs (c + 1, mu', fadd64 m2 (fmul64 d (fsub64 x mu')))

/-- The values of round j in ascending position order. -/
def Estimate.roundValues (e : Estimate) (j : Nat) : List Nat := ((e.values.filter (fun v => e.round v.1 == j)).map (fun v => v.2.toNat))

/-- Merge the lowest unmerged round (R401). -/
def Estimate.merge (e : Estimate) : Estimate :=
  let (c, mu, m2) := welford (e.roundValues e.rounds) (0, 0, 0)
  let e := { e with rounds := e.rounds + 1, values := e.values.filter (fun v => e.round v.1 != e.rounds) }
  if e.count = 0 then { e with count := c, mean := BitVec.ofNat 64 mu, m2 := BitVec.ofNat 64 m2 }
  else
    let nn := e.count + c
    let d := fsub64 mu e.mean.toNat
    { e with
      mean := BitVec.ofNat 64 (fadd64 e.mean.toNat (fmul64 d (fdiv64 (fcount64 c) (fcount64 nn)))),
      m2 := BitVec.ofNat 64 (fadd64 (fadd64 e.m2.toNat m2)
        (fmul64 (fmul64 d d) (fdiv64 (fmul64 (fcount64 e.count) (fcount64 c)) (fcount64 nn)))),
      count := nn }

/-- The stopping test after a merge (R402). -/
def Estimate.test (e : Estimate) : Estimate :=
  let e := if e.minr ≤ e.rounds ∧ 2 ≤ e.count then
      let var := fdiv64 (fdiv64 e.m2.toNat (fcount64 (e.count - 1))) (fcount64 e.count)
      let h := fmul64 e.z.toNat (f64.sqrt .rne var).val
      { e with hw := BitVec.ofNat 64 h, status := if (f64.le h e.tau.toNat).val then .converged else e.status }
    else e
  if e.status = .running ∧ e.n ≤ e.rounds * 2 ^ e.lw then { e with status := .exhausted } else e

/-- The next position may be handed out: its round lies within one of the lowest unmerged round. -/
def Estimate.mayHand (e : Estimate) : Bool := decide (e.round e.next < e.rounds + 2)

/-- Record the value of a closed position, in ascending position order. -/
def Estimate.record (e : Estimate) (p : Nat) (v : Word) : Estimate := { e with values := mapSet e.values p v }

def Estimate.close (e : Estimate) (p : Nat) : Estimate := { e with opened := setDel e.opened p }

/-- A position of a round that was not merged before the stop. -/
def Estimate.cancelled (e : Estimate) (p : Nat) : Bool := e.stopped && decide (e.rounds ≤ e.round p)

/-! Instructions (R405 to R408). -/

/-- ESTIMATE with its reason. -/
def estimateTrap (reason : Nat) : Trap := ⟨cESTIMATE, 0, BitVec.ofNat 64 reason⟩

/-- The executing hart's launch. -/
def State.myLaunch (s : State) : Option Launch := s.hart.group.bind (fun g => s.launchOf g.launch)

/-- Change the estimate of the executing hart's launch. -/
def State.setEst (s : State) (e : Estimate) : State :=
  match s.hart.group with
  | some g => s.modLaunch g.launch (fun l => { l with est := some e })
  | none => s

/-- Run on the estimate of the hart's launch, after BOUND_WRITE; ESTIMATE reason 1 where there is none. -/
def State.onEst (s : State) (ds : List (BitVec 5)) (k : State → Estimate → State) : State :=
  s.guarded (ds.map s.boundCheck) (fun s =>
    match s.myLaunch.bind Launch.est with
    | none => s.raise (estimateTrap 1)
    | some e => k s e)

/-- Write consecutive registers and retire. -/
def State.writeRun (s : State) (ws : List (BitVec 5 × Word)) : State :=
  s.mapHart (fun h => (h.writeAll ws).retire 4 (ws.map (fun w => .g w.1)) 0)

/-- ENEXT (R406). -/
def execEnext (d : BitVec 5) (_l : BitVec 4) (s : State) : Out :=
  .next (s.onEst [d, d + 1] (fun s e =>
    if s.hart.openPos.isSome then s.raise (estimateTrap 2)
    else if e.stopped ∨ e.n ≤ e.next then s.writeRun [(d, BitVec.allOnes 64), (d + 1, BitVec.allOnes 64)]
    else if e.mayHand = false then s.blockOn .enext
    else
      let p := e.next
      ((s.setEst { e with next := p + 1, opened := e.opened ++ [p] }).mapHart (fun h => { h with openPos := some p })).writeRun
        [(d, BitVec.ofNat 64 (louvre e.seed.toNat e.n p)), (d + 1, BitVec.ofNat 64 p)]))

/-- EACC (R407). -/
def execEacc (d a b : BitVec 5) (_l : BitVec 4) (s : State) : Out :=
  .next (s.onEst [d] (fun s e =>
    let p := (s.rg a).toNat
    if s.hart.openPos ≠ some p then s.raise (estimateTrap 3)
    else
      let gone := e.cancelled p
      let e := e.close p
      ((s.setEst (if gone then e else e.record p (s.rg b))).mapHart (fun h => { h with openPos := none })).writeRun [(d, b2w gone)]))

/-- The status of an estimate as a number. -/
def EstStatus.code : EstStatus → Nat
  | .running => 0
  | .converged => 1
  | .exhausted => 2

/-- ESTAT (R408). -/
def execEstat (d : BitVec 5) (_l : BitVec 4) (s : State) : Out :=
  .next (s.onEst [d, d + 1, d + 2, d + 3] (fun s e =>
    s.writeRun [(d, BitVec.ofNat 64 e.count), (d + 1, e.mean), (d + 2, e.m2),
      (d + 3, BitVec.ofNat 64 ((e.status.code * 2 ^ 32) ||| e.rounds))]))

/-- Harts of a launch that wait for what has changed run their instruction again; resident and saved ones alike. -/
def Hart.unblock (h : Hart) (id : Nat) (b : Block) : Hart :=
  match h.group with
  | some g => if g.launch = id ∧ h.block = some b then { h with block := none } else h
  | none => h

def Core.unblock (k : Core) (id : Nat) (b : Block) : Core := { k with harts := vmap (fun h => h.unblock id b) k.harts }

def State.unblock (s : State) (id : Nat) (b : Block) : State :=
  { s with cores := s.cores.map (fun e => (e.1, e.2.unblock id b)),
           partitions := vmap (fun p => { p with saved := p.saved.map (fun x => { x with core := x.core.unblock id b }) }) s.partitions }

/-- ROUND_MERGE (R401, R402): the lowest unmerged round of a running launch that has not failed (R404), once it is complete. -/
def execRoundMerge (launch : Nat) (s : State) : Out :=
  .next (match s.launchOf launch with
    | some l =>
      match l.est with
      | some e =>
        if l.state = .running ∧ l.status = .completed ∧ e.stopped = false ∧ e.complete e.rounds = true then
          (s.modLaunch launch (fun l => { l with est := some e.merge.test })).unblock launch .enext
        else s
      | none => s
    | none => s)

end Sys2Proof.Machine
end

