-- ==== Sys2Proof/Machine/Launch.lean ====
section
/-! DEFINITION. Launch records, queues and the five instructions of major 0x29 (18 R363 to R376). -/

namespace Sys2Proof.Machine

/-! Fields of a record (R363). -/

def Launch.r (l : Launch) : Nat := l.record.toNat
def Launch.pparam (l : Launch) : Nat := bits l.r 383 320
def Launch.arg (l : Launch) : Word := BitVec.ofNat 64 (bits l.r 319 256)
def Launch.entry (l : Launch) : Nat := bits l.r 144 128
def Launch.waymask (l : Launch) : BitVec 12 := BitVec.ofNat 12 (bits l.r 127 116)
def Launch.codesz (l : Launch) : Nat := 512 * bits l.r 115 107
def Launch.prio (l : Launch) : Nat := bits l.r 99 98
def Launch.kind (l : Launch) : Nat := bits l.r 97 96
def Launch.fclass (l : Launch) : Nat := bits l.r 92 91
def Launch.dlev (l : Launch) : Nat := bits l.r 90 87
def Launch.dhm (l : Launch) : Nat := bits l.r 86 83
def Launch.queue (l : Launch) : Nat := bits l.r 82 80
def Launch.pdie (l : Launch) : Nat := bits l.r 69 64
def Launch.outg (l : Launch) : Nat := bits l.r 63 32

/-! Launch IDs (R365). -/

/-- Serial numbers before they wrap. -/
def serials : Nat := 2 ^ 28 - 1

/-- The ID of the n-th launch of a partition, n from 1. -/
def launchId (vf : BitVec 4) (n : Nat) : Nat := vf.toNat * 2 ^ 28 + (n - 1) % serials + 1

/-- How many launches of the partition were issued after the last one with this serial; none where it was never issued. -/
def Partition.age (p : Partition) (serial : Nat) : Option Nat :=
  if serial = 0 ∨ p.serial < serial then none else some ((p.serial - serial) % serials)

/-- A PRED names a launch of the partition that has been issued (R364). -/
def State.predIssued (s : State) (vf : BitVec 4) (id : Nat) : Bool := id / 2 ^ 28 == vf.toNat && ((s.part vf).age (id % 2 ^ 28)).isSome

/-! Validity (R364, R372): the reason and the byte of the first failing field. -/

def check (bad : Bool) (reason byte : Nat) : Option (Nat × Nat) := if bad then some (reason, byte) else none

/-- The failing predecessor of a record. -/
def State.predFault (s : State) (vf : BitVec 4) (r : Nat) : Option (Nat × Nat) :=
  ([0, 1, 2, 3] : List Nat).findSome? (fun k =>
    let id := bits r (415 + 32 * k) (384 + 32 * k)
    check (id != 0 && !s.predIssued vf id) 3 (48 + 4 * k))

/-- The conditions of R364 in the order of its list, then the partition. -/
def State.recordFault (s : State) (vf : BitVec 4) (r : Nat) (host : Bool) : Option (Nat × Nat) :=
  let harts := bits r 95 93
  let outg := bits r 63 32
  let fclass := bits r 92 91
  let dhm := bits r 86 83
  [check (bits r 31 0 != 0) 1 0, check (bits r 79 70 != 0) 1 8, check (bits r 106 105 != 0) 1 13, check (bits r 159 145 != 0) 1 18,
   check (bits r 191 160 == 0) 1 20,
   check (harts == 0 || decide (4 < harts)) 1 11,
   check (bits r 97 96 == 3 || decide (1 < fclass)) 1 12,
   check (decide (bits r 191 160 < outg) || (outg != 0 && fclass != 1)) 1 4,
   check (bits r 115 107 == 0 || decide (256 < bits r 115 107)) 1 13,
   check (decide (512 * bits r 115 107 ≤ bits r 144 128) || bits r 129 128 != 0) 1 16,
   check (dhm / 2 ^ harts != 0 || (bits r 90 87 != 0 && dhm == 0)) 1 10,
   check (bits r 383 320 % 64 != 0) 1 40,
   check (bits r 255 192 % 64 != 0 || (host && bits r 255 192 == 0)) 1 24,
   s.predFault vf r,
   check (bit r 104 && bits r 103 100 != vf.toNat) 2 12].findSome? id

/-! Queues (R366). -/

def queueSize : Nat := 64

def Partition.queue (p : Partition) (q : BitVec 3) : List Nat := p.queues.get ⟨q.toNat, q.isLt⟩
def Partition.setQueue (p : Partition) (q : BitVec 3) (l : List Nat) : Partition := { p with queues := p.queues.set q.toNat l q.isLt }

/-- Append a launch to its queue: the state and its ID, which is 0 where the queue is full. -/
def State.submit (s : State) (vf : BitVec 4) (record : BitVec 512) (spec : Word) (from_ : Submitter) (image : Word) (after : List Nat) : State × Nat :=
  let p := s.part vf
  let q : BitVec 3 := BitVec.ofNat 3 (bits record.toNat 82 80)
  if queueSize ≤ (p.queue q).length then (s, 0)
  else
    let id := launchId vf (p.serial + 1)
    let l : Launch := { id := id, vf := vf, record := record, spec := spec, submitter := from_, image := image, order := s.order, after := after }
    ({ s.modPart vf (fun p => { p.setQueue q (p.queue q ++ [id]) with serial := p.serial + 1, sinceCheckpoint := p.sinceCheckpoint ++ [l] }) with
        launches := s.launches.filter (fun x => x.id != id) ++ [l], order := s.order + 1 }, id)

/-! LAUNCH (R372). -/

/-- LAUNCH with its reason and byte offset. -/
def launchTrap (a : Word) (reason byte : Nat) : Trap := ⟨cLAUNCH, a, BitVec.ofNat 64 (byte * 2 ^ 8 + reason)⟩

/-- Read a record: in own scratch, in the sector that the core's cache ways hold, or at its home; with its poison; or its exact
fault. -/
def State.recordAt (s : State) (ea : Word) : Except Trap (State × Nat × Bool) :=
  if ea.msb && (addrMod ea != 2047 || bits ea.toNat 51 33 != s.cc.corxy.toNat % 2 ^ 19 || inWindow ea) then .error ⟨cBOUNDS, ea, 0⟩
  else match s.classify ea 64 64 false with
    | .error t => .error t
    | .ok (.own off) => .ok (s, s.cc.sread off 64, s.cc.spoisoned off 64)
    | .ok .global =>
      match s.cc.sectorAt ea.toNat with
      | some x => .ok (s, x.read ea.toNat 64, x.poison)
      | none =>
        match s.homeOf s.cvf ea.toNat ⟨true, false⟩ with
        | .error cause => .error ⟨cause, ea, 0⟩
        | .ok _ => .ok (s.onHome s.cvf ea.toNat ⟨true, false⟩ (s, 0, false) (fun s x y pa =>
            let s := s.checkedAt x y pa
            (s, s.homeRead x y pa 64)))
    | .ok _ => .error ⟨cBOUNDS, ea, 0⟩

/-- The read of a record waits, as a load does (02 R46; 08 R187): also for a write-back or a fill of its sector (16 R340, R342). -/
def State.recordWaits (s : State) (ea : Word) : Bool :=
  match s.classify ea 64 64 false with
  | .ok p => s.waitsFor p ea 64 || (p == .global && s.sectorMoving ea)
  | .error _ => false

/-- The accesses of the executing hart that have not been performed: a submission releases them. -/
def State.unperformed (s : State) : List Nat :=
  (s.net.filter (fun r => r.src == .hart s.cur.core s.cur.hart && r.pending)).map (·.id)

/-- Reserved bits of LAUNCH's completion spec. -/
def launchSpecBad (v : Word) : Bool := bit v.toNat 62 || bits v.toNat 57 48 != 0 || bits v.toNat 5 0 != 0

/-- Submit a valid record for the executing hart. -/
def State.launchNow (s : State) (d : BitVec 5) (r : Nat) (spec : Word) : State :=
  let vf := s.cvf
  let image := if bits r 255 192 = 0 then s.cc.image else BitVec.ofNat 64 (bits r 255 192)
  let g := (s.hart.group).getD ⟨0, 0, 0⟩
  let t := s.submit vf (BitVec.ofNat 512 r) spec (.hart vf s.cc.vcore s.cur.hart g) image s.unperformed
  t.1.writeRetire d (BitVec.ofNat 64 t.2)

/-- LAUNCH (R372). A record that arrives poisoned is treated as R130 treats a load's data (log 23). -/
def execLaunch (d a b : BitVec 5) (s : State) : Out :=
  let ea := s.resolve (s.rg a)
  let spec := s.rg b
  .next (s.quietly (fun s => s.guarded [s.boundCheck d] (fun s =>
    match s.recordAt ea with
    | .error t => (s.walked s.cvf ea.toNat).raise t
    | .ok (t, r, poison) =>
      if s.recordWaits ea then s
      else if poison then t.mapHart (fun h => (h.poisoned ea h.pc).retire 4 [] 0)
      else t.guarded
        [(s.recordFault s.cvf r false).map (fun f => launchTrap ea f.1 f.2), if launchSpecBad spec then some (launchTrap 0 6 0) else none]
        (fun s => s.launchNow d r spec))))

/-! TRIG and EXIT (R374). -/

def State.modGroup (s : State) (g : GroupRef) (f : GroupSt → GroupSt) : State :=
  s.modLaunch g.launch (fun l => { l with groups := updWhere (fun x => x.num == g.group) f l.groups })

/-- Run on the executing hart's group. -/
def State.onGroup (s : State) (f : GroupRef → GroupSt → GroupSt) : State :=
  match s.hart.group with
  | some g => s.modGroup g (f g)
  | none => s

/-- No command of the executing hart is left on an engine. -/
def State.enginesDone (s : State) : Bool := ([.matrix, .copy, .exponent] : List Engine).all (fun e => s.cc.engineDone s.issuerNo e)

/-- TRIG: it waits for the hart's accesses and engine commands, then marks the hart. -/
def execTrig (s : State) : Out :=
  .next (if s.hart.released && s.enginesDone then
      ((s.onGroup (fun r g => { g with triggered := g.triggered ||| (1#4 <<< r.index) })).mapHart (fun h => { h with triggered := true })).retire
    else s)

/-- The fatal fault of an EXIT: CAUSE and FINFO (R373). -/
def State.exitFault (s : State) (code : Word) : Option (BitVec 8 × BitVec 32) :=
  let u := ([.matrix, .copy, .exponent] : List Engine).map (fun e => s.cc.issuer s.issuerNo e)
  if code ≠ 0 then some (0, code.setWidth 32)
  else match u.find? (fun x => x.faulted) with
    | some x => some (BitVec.ofNat 8 (bits x.record.toNat 31 24), x.off.setWidth 32)
    | none =>
      match s.hart.openPos, s.myLaunch.bind Launch.est with
      | some p, some e => if e.cancelled p then none else some (cESTIMATE, s.hart.pc.setWidth 32)
      | _, _ => none

/-- Close the position of a hart that exits, where its round is cancelled (20 R403). -/
def State.closeOpen (s : State) : State :=
  match s.hart.openPos, s.myLaunch.bind Launch.est with
  | some p, some e => if e.cancelled p then (s.setEst (e.close p)).mapHart (fun h => { h with openPos := none }) else s
  | _, _ => s

/-- The hart has exited; its posted accesses that are on their way are those its trigger waits for. -/
def State.exitHart (s : State) : State :=
  let ids := (s.net.filter (fun r => r.src == .hart s.cur.core s.cur.hart && r.kind.posted)).map (·.id)
  (s.onGroup (fun r g => { g with exited := g.exited ||| (1#4 <<< r.index), after := g.after ++ ids })).mapHart
    (fun h => { ((h.count 2 1).stepDone) with exited := true, block := none })

/-- EXIT: it waits for the hart's commands and for a Casement run that it started (11 R301), not for ORSCNT; the hart's slots are then
released (10 R254). -/
def execExit (a : BitVec 5) (s : State) : Out :=
  .next (if s.hart.quiet && s.enginesDone && !(s.cc.cas.state == .running && s.cc.cas.starter == s.cur.hart) then
      let code := s.rg a
      let f := s.exitFault code
      let t := s.closeOpen.exitHart.mapCore Core.freeSlots
      match f with
      | some (cause, info) => t.fatal s.cur.core s.cur.hart cause info
      | none => t
    else s)

/-! DSYNC and YIELD (R370, R375, R376). -/

def dmPLEV (w : Word) : Nat := bits w.toNat 15 13
def dmPPH (w : Word) : Bool := bit w.toNat 12
def dmMember (w : Word) (level : Nat) : Bool := bit w.toNat (level - 1)
/-- DMEMB with an arrival, or with none. -/
def dmSet (w : Word) (level : Nat) (ph : Bool) : Word := BitVec.ofNat 64 (setBits (setBits w.toNat 15 13 level) 12 12 (b2n ph))

/-- The domain of a virtual core at a level: core, cluster, die, module. -/
def State.domainOf (s : State) (vf : BitVec 4) (v level : Nat) : Nat :=
  match level with
  | 1 => v
  | 2 => v / 16
  | 3 => let p := s.part vf; dieOf (p.px0.toNat + vcX v) (p.py0.toNat + vcY v)
  | _ => 0

def domainKey (level domain : Nat) : Nat := level + 8 * domain
def Launch.phase (l : Launch) (key : Nat) : Bool := mapGet l.phases key 0 == 1

/-- The phase of the executing hart's domain. -/
def State.myPhase (s : State) (level : Nat) : Bool :=
  match s.myLaunch with
  | some l => l.phase (domainKey level (s.domainOf s.cvf s.cc.vcore level))
  | none => false

/-- DSYNC: it arrives once, then waits for the phase to flip. -/
def execDsync (v : BitVec 3) (s : State) : Out :=
  let n := v.toNat
  .next (s.quietly (fun s =>
    let w := s.hart.dmemb
    let plev := dmPLEV w
    s.guarded
      [if dmMember w n then none else some ⟨cLAUNCH, 0, 8⟩, if plev ≠ 0 ∧ plev ≠ n then some ⟨cLAUNCH, 0, 9⟩ else none]
      (fun s =>
        if plev = 0 then
          if s.hart.orsZero then (s.mapHart (fun h => { h with dmemb := dmSet w n (s.myPhase n) })).blockOn .dsync else s
        else if s.myPhase n = dmPPH w then s.blockOn .dsync
        else (s.mapHart (fun h => { h with dmemb := dmSet w 0 (dmPPH w) })).retire)))

/-- YIELD: a blocking point whose wake condition is already true; it waits only where an eviction of its core is pending. -/
def execYield (s : State) : Out :=
  .next (s.quietly (fun s => if s.cc.marked && s.hart.block != some .yield then s.blockOn .yield else s.retire))

end Sys2Proof.Machine
end

