-- ==== Sys2Proof/Machine/Spares.lean ====
section
/-! DEFINITION. Spare cores and columns, and dies out of service (13 R304 to R306; 15 R325, R326; 21 R427, R430). A replacement takes
effect once no context is on what it replaces. -/

namespace Sys2Proof.Machine

/-! Dies. -/

/-- A context error for every context on a die. -/
def State.dieError (s : State) (die : Nat) : State :=
  (s.cores.filter (fun e => e.2.vf.isSome && dieOf (keyX e.1) (keyY e.1) == die)).foldl (fun s e => s.contextError e.1) s

/-- A die goes out of service (15 R326). -/
def State.loseDie (s : State) (die : Nat) : State := (s.dieError die).modDie die (fun d => { d with outOfService := true })

/-! Column maps (15 R325). -/

/-- Entry c of a column map; the map of manufacture names each column itself (log 4). -/
def colOf (map : Option (BitVec 192)) (c : Nat) : Nat :=
  match map with
  | some m => bits m.toNat (6 * c + 5) (6 * c)
  | none => c

def DieSt.col (d : DieSt) (c : Nat) : Nat := colOf d.colMap c

/-- The entry once what Beline has written takes effect. -/
def DieSt.next (d : DieSt) (c : Nat) : Nat := if d.colNext.isSome then colOf d.colNext c else d.col c

/-- Exposed columns that wait to move. -/
def DieSt.moving (d : DieSt) : List Nat := (List.range 32).filter (fun c => d.col c != d.next c)

/-- A column map with one entry changed. -/
def DieSt.setCol (d : DieSt) (c p : Nat) : BitVec 192 :=
  BitVec.ofNat 192 ((List.range 32).foldl (fun m i => m + (if i = c then p else d.next i) * 2 ^ (6 * i)) 0)

/-- A physical column is of the W kind. -/
def colIsW (p : Nat) : Bool := p == 32 || (decide (p < 32) && p % 4 == 0)

/-- A map names columns of the right kinds, each once. -/
def colMapOk (m : BitVec 192) : Bool :=
  let col := colOf (some m)
  (List.range 32).all (fun c => decide (col c < 34) && colIsW (col c) == (c % 4 == 0)) && decide ((List.range 32).map col).Nodup

/-- A cluster lies on a column of a die. -/
def onColumn (die c x y : Nat) : Bool := dieOf x y == die && x % 32 == c

/-- A partition's rectangle covers a column of a die. -/
def Partition.onColumn (p : Partition) (die c : Nat) : Bool :=
  (List.range (p.wm1.toNat + 1)).any (fun i => (List.range (p.hm1.toNat + 1)).any (fun j => Machine.onColumn die c (p.px0.toNat + i) (p.py0.toNat + j)))

/-- No context whose rectangle covers a column of a die is on a core (R326). -/
def State.columnFree (s : State) (die c : Nat) : Bool :=
  !(s.cores.any (fun e => e.2.vf.any (fun v => (s.part v).onColumn die c) || e.2.vf.isSome && onColumn die c (keyX e.1) (keyY e.1)))

/-- The map that Beline has written takes effect: clusters of a column that moves are those of the new physical column, as
manufactured, and what the slices of the old one held has gone to HBM. -/
def State.moveColumns (s : State) (die : Nat) : State :=
  let d := s.die die
  let gone := fun (x y : Nat) => d.moving.any (fun c => onColumn die c x y)
  if d.colNext.isSome && d.moving.all (s.columnFree die) then
    let s := (s.slices.filter (fun l => gone l.x l.y)).foldl State.evictLine s
    { s.modDie die (fun x => { x with colMap := x.colNext, colNext := none, retired := (d.moving.map d.col).foldl setAdd x.retired }) with
      clusters := s.clusters.filter (fun e => !gone (e.1 % 256) (e.1 / 256)) }
  else s

/-- Beline writes a die's column map. -/
def State.setColMap (s : State) (die : Nat) (m : BitVec 192) : State :=
  if colMapOk m then (s.modDie die (fun d => { d with colNext := some m })).moveColumns die else s

/-- Point the entry of a column at the unused spare of its kind; with none left the die is lost (15 R326). A column that waits to move to its
spare is left as it is. -/
def State.spareColumn (s : State) (die c : Nat) : State :=
  let d := s.die die
  let spare := if c % 4 = 0 then 32 else 33
  if d.next c = spare ∧ d.col c ≠ spare then s
  else if d.retired.contains spare ∨ (List.range 32).any (fun i => d.next i == spare) then s.loseDie die else s.setColMap die (d.setCol c spare)

/-! Cores. -/

/-- A cluster is retired whole and replaced by column sparing (13 R306). -/
def State.retireCluster (s : State) (x y : Nat) : State :=
  (s.modCluster x y (fun k => { k with health := 0, retiring := [] })).spareColumn (dieOf x y) (x % 32)

/-- The spare takes the virtual number of a physical core that is to be replaced, once no context is on that core; without a spare the
cluster is retired (13 R306; 21 R427). -/
def State.retireCore (s : State) (c : Nat) : State :=
  let x := keyX c
  let y := keyY c
  let k := s.cluster x y
  if (s.core c).vf.isNone ∧ k.retiring.contains (keyP c) ∧ k.coreMap.toList.any (fun p => p.toNat == keyP c) then
    if 17 ≤ k.spslot.toNat then s.retireCluster x y
    else s.modCluster x y (fun k =>
      { k with coreMap := vmap (fun p => if p.toNat = keyP c then k.spslot else p) k.coreMap, spslot := 31,
               health := k.health &&& ~~~(1#17 <<< keyP c), retiring := setDel k.retiring (keyP c) })
  else s

/-- What waits for core c to be free of contexts takes effect. -/
def State.replace (s : State) (c : Nat) : State := ((s.retireCore c).dies.map (·.1)).foldl State.moveColumns (s.retireCore c)

/-- A physical core is to be replaced: at once where no context is on it. -/
def State.askRetire (s : State) (c : Nat) : State :=
  (s.modCluster (keyX c) (keyY c) (fun k => { k with retiring := setAdd k.retiring (keyP c) })).retireCore c

/-- The loss of a physical core: its HEALTH bit falls, and a lost spare is no spare. -/
def ClusterSt.lose (k : ClusterSt) (p : Nat) : ClusterSt :=
  { k with health := k.health &&& ~~~(1#17 <<< p), spslot := if k.spslot.toNat = p then 31 else k.spslot }

/-- A physical core fails: its place is taken by the spare, or the cluster is retired (13 R306). -/
def State.loseCore (s : State) (c : Nat) : State :=
  let k := s.cluster (keyX c) (keyY c)
  let s := s.modCluster (keyX c) (keyY c) (fun k => k.lose (keyP c))
  if 17 ≤ k.spslot.toNat then s.retireCluster (keyX c) (keyY c) else if k.spslot.toNat = keyP c then s else s.askRetire c

end Sys2Proof.Machine
end

