-- ==== Sys2Proof/Machine/Dispatcher.lean ====
section
/-! DEFINITION. The dispatchers: images (02 R66, R67), estimate blocks (20 R398), readiness and placement (18 R366 to R369),
domains (R370, R375), the end of groups and launches (R373, R374, R377), host submissions (23 R443). -/

namespace Sys2Proof.Machine

/-! Images (02 R66, R67). -/

/-- 64n bytes of global memory, read for a partition; none where a page does not translate or is not readable. -/
def State.vaBytes (s : State) (vf : BitVec 4) (va : Nat) : Nat → Option (List Byte)
  | 0 => some []
  | n + 1 =>
    match s.translate vf va ⟨true, false⟩ with
    | .error _ => none
    | .ok (pa, _) => (State.vaBytes s vf (va + 64) n).map (fun l => s.physBytes pa 64 ++ l)

/-- A read of 64n bytes has been made: Beline logs the table entry that ended it (15 R335). -/
def State.vaWalked (s : State) (vf : BitVec 4) (va : Nat) : Nat → State
  | 0 => s
  | n + 1 =>
    match s.translate vf va ⟨true, false⟩ with
    | .error _ => s.walked vf va
    | .ok _ => s.vaWalked vf (va + 64) n

/-- The first failing check of a header for a launch, as the header offset of its field. -/
def headerFault (l : Launch) (h : Nat) : Option Nat :=
  let code := bits h 95 64
  let data := bits h 127 96
  let f := fun (bad : Bool) (o : Nat) => if bad then some o else none
  [f (bits h 31 0 != 0x4E564344) 0, f (bits h 47 32 != 1) 4, f (bits h 511 256 != 0) 0x20,
   f (code % 512 != 0 || code == 0 || decide (131072 < code)) 8, f (data % 64 != 0) 0x0C,
   f (bits h 255 224 != 64 + code + data + 64 * bits h 63 48) 0x1C,
   f (l.codesz != code) 8, f (decide (32768 * Alu.ones l.waymask.toNat 12 < code + data)) 0x0C].findSome? id

/-- The code and data sections of a launch's image; the FINFO of a failed check (R67). Where part of the image cannot be read and another
check fails too, R67 gives no order: a check of the header comes first, then a section that cannot be read, then a CRC-32C that does not
match (DESIGN CHOICE, log 75). -/
def State.loadImage (s : State) (l : Launch) : Except Nat (List Byte × List Byte) :=
  let va := l.image.toNat
  match s.vaBytes l.vf va 1 with
  | none => .error 0xFFFFFFFF
  | some hb =>
    let h := leOfBytes hb
    let code := bits h 95 64
    let data := bits h 127 96
    match headerFault l h with
    | some o => .error o
    | none =>
      match s.vaBytes l.vf (va + 64) (code / 64), s.vaBytes l.vf (va + 64 + code) (data / 64), s.vaBytes l.vf (va + 64 + code + data) (bits h 63 48) with
      | some c, some d, some r =>
        if crc32c c ≠ bits h 159 128 then .error 0x10
        else if crc32c d ≠ bits h 191 160 then .error 0x14
        else if crc32c r ≠ bits h 223 192 then .error 0x18
        else .ok (c, d)
      | _, _, _ => .error 0xFFFFFFFF

/-- The reads that `loadImage` makes have been made. -/
def State.imageWalked (s : State) (l : Launch) : State :=
  let va := l.image.toNat
  match s.vaBytes l.vf va 1 with
  | none => s.vaWalked l.vf va 1
  | some hb =>
    let h := leOfBytes hb
    if (headerFault l h).isSome then s else s.vaWalked l.vf va (1 + (bits h 95 64 + bits h 127 96) / 64 + bits h 63 48)

/-- The bytes of a launch's image, as the measurement log digests them (21 R429). -/
def State.imageBytes (s : State) (l : Launch) : List Byte :=
  match s.vaBytes l.vf l.image.toNat 1 with
  | none => []
  | some hb => (s.vaBytes l.vf l.image.toNat (bits (leOfBytes hb) 255 224 / 64)).getD []

/-! The estimate block (20 R397, R398). -/

/-- An F64 that is a NaN or negative. -/
def badF64 (x : Nat) : Bool :=
  match f64.decode x with
  | .fin sg m _ => sg && m != 0
  | .inf sg => sg
  | _ => true

/-- The estimate of a block, or the byte of its first failing field. -/
def estimateOf (b : Nat) : Except Nat Estimate :=
  let f := fun (bad : Bool) (o : Nat) => if bad then some o else none
  let n := bits b 63 0
  match [f (bits b 287 264 != 0) 33, f (bits b 511 320 != 0) 40, f (n == 0 || decide (2 ^ 53 < n)) 0, f (decide (32 < bits b 263 256)) 32,
      f (badF64 (bits b 255 192)) 24, f (badF64 (bits b 191 128)) 16].findSome? id with
  | some o => .error o
  | none =>
    .ok { n := n, seed := BitVec.ofNat 64 (bits b 127 64), tau := BitVec.ofNat 64 (bits b 191 128), z := BitVec.ofNat 64 (bits b 255 192),
          lw := bits b 263 256, minr := bits b 319 288 }

/-- The estimate of a launch at its first placement: none where it is not in estimate mode; FINFO of an invalid block. -/
def State.loadEstimate (s : State) (l : Launch) : Except (BitVec 32) (Option Estimate) :=
  if l.pparam = 0 then .ok none
  else match s.vaBytes l.vf l.pparam 1 with
    | none => .error (Config.freeFinfo s.freeCtr)
    | some bs =>
      match estimateOf (leOfBytes bs) with
      | .error o => .error (BitVec.ofNat 32 o)
      | .ok e => .ok (some e)

/-! Readiness (R366, R367). -/

/-- A group has triggered: each of its harts has, and the posted accesses of those that exited have returned (R374). -/
def State.groupTriggered (s : State) (g : GroupSt) : Bool :=
  bits (g.triggered ||| g.exited).toNat 3 0 == 2 ^ g.harts - 1 && !s.net.any (fun r => g.after.contains r.id)

def State.launchTriggered (s : State) (l : Launch) : Bool :=
  l.placed == l.groupsTotal && l.groups.length == l.groupsTotal && l.groups.all s.groupTriggered

/-- Launch IDs that a partition's dispatcher tracks (R365). -/
def trackedIds : Nat := 1024

/-- A predecessor has triggered. -/
def State.predReady (s : State) (vf : BitVec 4) (id : Nat) : Bool :=
  match (s.part vf).age (id % 2 ^ 28) with
  | none => true
  | some a =>
    if trackedIds ≤ a then true
    else match s.launchOf id with
      | some l => l.state == .ended || s.launchTriggered l
      | none => true

/-- A predecessor has ended with a STATUS other than COMPLETED. -/
def State.predFailed (s : State) (vf : BitVec 4) (id : Nat) : Bool :=
  match (s.part vf).age (id % 2 ^ 28), s.launchOf id with
  | some a, some l => decide (a < trackedIds) && l.state == .ended && l.status != .completed
  | _, _ => false

/-- The head of a queue is ready: its predecessors have triggered, and its submitter's earlier accesses are performed. One that has
started goes on (R367). -/
def State.ready (s : State) (l : Launch) : Bool :=
  l.placed != 0 || l.preds.all (fun id => s.predReady l.vf id && !s.predFailed l.vf id) &&
    !s.net.any (fun r => l.after.contains r.id && r.pending)

def queueNos : List (BitVec 3) := [0, 1, 2, 3, 4, 5, 6, 7]

def State.headOf (s : State) (vf : BitVec 4) (q : BitVec 3) : Option Launch := ((s.part vf).queue q).head?.bind s.launchOf

/-! Placement (R368, R369). -/

/-- The kind of core that group n needs: none for either. -/
def Launch.needs (l : Launch) (n : Nat) : Option Bool :=
  if l.fclass = 1 ∧ n < l.outg then some true else if l.kind = 1 then some true else if l.kind = 2 then some false else none

/-- Virtual clusters of a partition's rectangle in row-major order. -/
def Partition.clusters (p : Partition) : List (Nat × Nat) :=
  (List.range (p.hm1.toNat + 1)).flatMap (fun y => (List.range (p.wm1.toNat + 1)).map (fun x => (x, y)))

/-- Virtual cores in the order of a search from a start die, each with its physical core. -/
def State.searchOrder (s : State) (vf : BitVec 4) (start : Nat) : List (Nat × Nat) :=
  let p := s.part vf
  (List.range 40).flatMap (fun i =>
    (p.clusters.filter (fun e => dieOf (p.px0.toNat + e.1) (p.py0.toNat + e.2) == (start + i) % 40)).flatMap (fun e =>
      (List.range 16).filterMap (fun c => (s.physCore vf e.1 e.2 c).map (fun k => (vcoreNo e.1 e.2 c, k)))))

/-- PRIO of the launch that a core works for. -/
def State.corePrio (s : State) (k : Core) : Nat := ((s.launchOf k.launch).map Launch.prio).getD 0

/-- A core's die is in service (15 R326; 21 R430). -/
def State.dieUp (s : State) (c : Nat) : Bool := let d := s.die (dieOf (keyX c) (keyY c)); !d.stopped && !d.outOfService

/-- A physical core works, on a die that is in service (13 R305; 15 R326; 21 R430). -/
def State.usable (s : State) (c : Nat) : Bool := bit (s.cluster (keyX c) (keyY c)).health.toNat (keyP c) && s.dieUp c

/-- A core that works again once no context is on what waits to be replaced: its column, or itself where its cluster has a spare (13 R306;
15 R326). -/
def State.replaceable (s : State) (c : Nat) : Bool :=
  let k := s.cluster (keyX c) (keyY c)
  s.dieUp c && ((s.die (dieOf (keyX c) (keyY c))).moving.contains (keyX c % 32) || (k.retiring.contains (keyP c) && decide (k.spslot.toNat < 17)))

/-- A core qualifies for a launch: it hosts no group, is of the needed kind, and no saved context of the same or a higher
priority waits for it (R366, R368). -/
def State.qualifies (s : State) (l : Launch) (need : Option Bool) (e : Nat × Nat) : Bool :=
  (s.core e.2).vf.isNone && s.usable e.2 && (need.isNone || need == some (isW e.2)) &&
    !((s.part l.vf).saved.any (fun x => x.core.vcore == e.1 && decide (l.prio ≤ s.corePrio x.core)))

def Launch.startDie (l : Launch) (p : Partition) : Nat := if l.pdie < 40 then l.pdie else p.rotDie

/-- Consecutive groups from n that one core of a kind takes. -/
def Launch.share (l : Launch) (w : Bool) (n : Nat) : Nat → Nat
  | 0 => 0
  | k + 1 => if n < l.groupsTotal ∧ (l.needs n = none ∨ l.needs n = some w) then l.share w (n + 1) k + 1 else 0

/-- A hart at the start of a group (R369, R370). -/
def Launch.startHart (l : Launch) (p : Partition) (num idx : Nat) : Hart :=
  let g : Vector Word 32 := Vector.replicate 32 0
  let member := if bit l.dhm idx then l.dlev else 0
  { pc := BitVec.ofNat 64 l.entry,
    g := (((g.set 1 l.arg).set 2 (BitVec.ofNat 64 num)).set 3 (BitVec.ofNat 64 idx)).set 28 0xFFFFFFFFFF000000,
    dmemb := BitVec.ofNat 64 (l.dlev * 2 ^ 8 + member),
    xvec := p.trapVector &&& 0x1FFFC,
    group := some ⟨l.id, num, idx⟩ }

/-- Put bytes into scratch from an offset. -/
def Core.putBytes (k : Core) (o : Nat) (bs : List Byte) : Core :=
  { k with lmem := (bs.foldl (fun (acc : List Host.Cell × Nat) b => (memPut acc.1 (k.loc acc.2) b, acc.2 + 1)) (k.lmem, o)).1 }

/-- A fresh context for virtual core v that hosts groups n to n + k - 1 (02 R67, R369). -/
def Launch.newCore (l : Launch) (p : Partition) (v n k : Nat) (img : List Byte × List Byte) : Core :=
  let base : Core :=
    { vf := some l.vf, vx := BitVec.ofNat 8 (vcX v), vy := BitVec.ofNat 7 (vcY v), vc := BitVec.ofNat 4 (vcC v),
      waymask := l.waymask, codesz := BitVec.ofNat 18 l.codesz, launch := l.id, image := l.image }
  let c := (base.putBytes 0 img.1).putBytes l.codesz img.2
  (List.range (k * l.hartsPer)).foldl (fun c i =>
    c.setHart (BitVec.ofNat 2 i) (l.startHart p (n + i / l.hartsPer) (i % l.hartsPer))) c

/-- Place groups of the launch on a core; its groups so far have been placed. -/
def State.placeOn (s : State) (l : Launch) (e : Nat × Nat) (img : List Byte × List Byte) : State × Nat :=
  let k := l.share (isW e.2) l.placed (4 / l.hartsPer)
  let gs := (List.range k).map (fun q => ({ num := l.placed + q, vcore := e.1, base := q * l.hartsPer, harts := l.hartsPer } : GroupSt))
  ((s.setCore e.2 (l.newCore (s.part l.vf) e.1 l.placed k img)).modLaunch l.id (fun x =>
    { x with placed := x.placed + k, groups := x.groups ++ gs, state := .running, placedAt := s.order }), k)

/-- Take a launch whose groups are all placed from its queue; the rotating die advances (R366, R368). -/
def State.dequeue (s : State) (l : Launch) : State :=
  match s.launchOf l.id with
  | some x =>
    if x.placed = x.groupsTotal then
      s.modPart l.vf (fun p => { p with queues := vmap (fun q => q.filter (· != l.id)) p.queues, rotDie := (p.rotDie + 1) % 40 })
    else s
  | none => s

/-- The first core that qualifies for the launch's next group. -/
def State.nextCore (s : State) (l : Launch) : Option (Nat × Nat) :=
  (s.searchOrder l.vf (l.startDie (s.part l.vf))).find? (s.qualifies l (l.needs l.placed))

/-- Place the whole of a launch, or none where it does not fit; at most one core per group. -/
def State.placeAll (s : State) (id : Nat) (img : List Byte × List Byte) : Nat → Option State
  | 0 => some s
  | n + 1 =>
    match s.launchOf id with
    | none => none
    | some l =>
      if l.placed = l.groupsTotal then some s
      else (s.nextCore l).bind (fun e => State.placeAll (s.placeOn l e img).1 id img n)

/-- The cores that the groups of a launch take when it is placed whole: W-cores, N-cores, and in all. -/
def Launch.coresNeeded (l : Launch) : Nat × Nat × Nat :=
  let k := 4 / l.hartsPer
  let up := fun (n : Nat) => (n + k - 1) / k
  let out := if l.fclass = 1 then l.outg else 0
  let rest := l.groupsTotal - out
  if l.kind = 1 then (up l.groupsTotal, 0, up l.groupsTotal)
  else if l.kind = 2 then (up out, up rest, up out + up rest)
  else (up out, 0, up out + up (rest - (up out * k - out)))

/-- w W-cores and n N-cores lack a W-core, or an N-core, for the whole launch. -/
def Launch.lacks (l : Launch) (w n : Nat) (isW : Bool) : Bool :=
  let need := l.coresNeeded
  decide ((if isW then w else n) < (if isW then need.1 else need.2.1)) || (l.kind != 1 && l.kind != 2 && decide (w + n < need.2.2))

/-- Whether the launch fits the cores of an empty rectangle (R368). -/
def State.fits (s : State) (l : Launch) : Bool :=
  let cs := (s.searchOrder l.vf 0).filter (fun e => s.usable e.2 || s.replaceable e.2)
  let w := (cs.filter (fun e => isW e.2)).length
  !(l.lacks w (cs.length - w) true) && !(l.lacks w (cs.length - w) false)

/-- The ready head can be placed now: its next groups, or the whole of it (R368). -/
def State.placeable (s : State) (l : Launch) : Bool :=
  if l.dlev = 0 then (s.nextCore l).isSome else (s.placeAll l.id ([], []) l.groupsTotal).isSome

/-- The ready head that the dispatcher takes of those that can be placed: highest PRIO, then the first enqueued (R366; DESIGN CHOICE,
log 66). -/
def State.chosen (s : State) (vf : BitVec 4) : Option Launch :=
  (queueNos.filterMap (s.headOf vf)).foldl (fun best l =>
    if (s.ready l && s.placeable l) = false then best
    else match best with
      | none => some l
      | some b => if b.prio < l.prio ∨ (b.prio = l.prio ∧ l.order < b.order) then some l else best) none

/-! The end of a launch (R373, R377). -/

def Status.code : Status → Nat
  | .completed => 0
  | .failed => 1
  | .cancelled => 2
  | .refused => 3

/-- The completion record (R373; 20 R404). -/
def Launch.completion (l : Launch) : Nat :=
  let est := match l.est with
    | some e =>
      let ests := if l.status = .failed then 0 else e.status.code
      e.hw.toNat * 2 ^ 384 + ests * 2 ^ 352 + e.rounds % 2 ^ 32 * 2 ^ 320 + e.m2.toNat * 2 ^ 256 + e.mean.toNat * 2 ^ 192 + e.count * 2 ^ 128
    | none => 0
  let f := l.failure.getD (0, 0, 0)
  est + f.2.1.toNat * 2 ^ 96 + f.2.2.toNat * 2 ^ 64 + b2n l.predf * 2 ^ 56 + l.lost * 2 ^ 48 + f.1.toNat * 2 ^ 40 + l.status.code * 2 ^ 32 + l.id

/-- The group of the hart that submitted a launch has not ended. -/
def State.submitterLives (s : State) (vf : BitVec 4) (v : Nat) (h : BitVec 2) (g : GroupRef) : Bool :=
  let here := fun (k : Core) => (k.hart h).group == some g
  (match s.locate vf v with
   | some c => here (s.core c)
   | none => false) || (s.part vf).saved.any (fun x => x.core.vcore == v && here x.core)

/-- The address of a message register of a virtual core. -/
def windowAddr (v : Nat) (h : BitVec 2) (r : BitVec 4) : Word :=
  BitVec.ofNat 64 (2 ^ 63 + 2047 * 2 ^ 52 + vcX v * 2 ^ 44 + vcY v * 2 ^ 37 + vcC v * 2 ^ 33 + 0x800000 + h.toNat * 0x80 + r.toNat * 8)

/-- Tell a hart that submitted a launch: its record, then its message. -/
def State.tellHart (s : State) (l : Launch) (v : Nat) (h : BitVec 2) (g : GroupRef) : State :=
  let a := bits l.spec.toNat 47 6 * 64
  let s := if a = 0 then s
    else s.onHomeWrite l.vf a ⟨false, true⟩ (s.logBeline (.recordFailed l.id)) (fun s x y pa => s.homeWrite x y pa 64 l.completion)
  if l.spec.msb = false then s
  else if s.submitterLives l.vf v h g = false then s.logBeline (.messageDiscarded l.id)
  else s.send { id := 0, src := .dispatcher, cls := .message, kind := .message (BitVec.ofNat 64 (l.status.code * 2 ^ 32 + l.id)),
                ea := windowAddr v h (BitVec.ofNat 4 (bits l.spec.toNat 61 58)), vf := l.vf, launch := l.id, off := 0, prog := false, stage := .sent }

/-- The dependants of a launch that have started learn of its failure (R367). -/
def State.tellDependants (s : State) (id : Nat) : State :=
  { s with launches := updWhere (fun l => l.preds.contains id && l.state == .running) (fun l => { l with predf := true }) s.launches }

/-- A launch ends: its completion record is written and its submitter told (R373; 23 R443). -/
def State.endLaunch (s : State) (id : Nat) : State :=
  match s.launchOf id with
  | none => s
  | some l =>
    let s := s.modLaunch id (fun x => { x with state := .ended })
    let s := if l.status = .completed then s else s.tellDependants id
    match l.submitter with
    | .hart _ v h g => s.tellHart l v h g
    | .host e key offset => if key = 0 then s else { s with hostOut := s.hostOut ++ [.completion e key offset (BitVec.ofNat 512 l.completion)] }

/-- A launch that never starts ends with a status (R367, R368). -/
def State.dismiss (s : State) (l : Launch) (st : Status) : State :=
  ((s.modPart l.vf (fun p => { p with queues := vmap (fun q => q.filter (· != l.id)) p.queues })).modLaunch l.id
    (fun x => { x with status := st })).endLaunch l.id

/-! GROUP_PLACEMENT. -/

/-- A launch that cannot be placed needs one more core of a kind beyond those that are free or marked (R378): for its next groups, or
for the whole of it. -/
def State.lacksCore (s : State) (l : Launch) (w : Bool) : Bool :=
  let marked := s.cores.filter (fun e => e.2.vf == some l.vf && e.2.marked)
  if l.dlev = 0 then
    let need := l.needs l.placed
    (need.isNone || need == some w) && !marked.any (fun e => need.isNone || need == some (isW e.1))
  else
    let free := (s.searchOrder l.vf 0).filter (fun e => s.qualifies l none e)
    let count := fun (b : Bool) => (free.filter (fun e => isW e.2 == b)).length + (marked.filter (fun e => isW e.1 == b)).length
    l.lacks (count true) (count false) w

/-- The core to free for a launch: of a kind it lacks, of lower PRIO, lowest first, then the most recently placed (R378). -/
def State.victimCore (s : State) (l : Launch) : Option Nat :=
  ((s.cores.filter (fun e => e.2.vf == some l.vf && e.2.hostsPart l.vf && !e.2.marked && decide (s.corePrio e.2 < l.prio) &&
      s.lacksCore l (isW e.1))).foldl (fun best e =>
    let at_ := ((s.launchOf e.2.launch).map Launch.placedAt).getD 0
    match best with
    | none => some (e.1, s.corePrio e.2, at_)
    | some b => if s.corePrio e.2 < b.2.1 ∨ (s.corePrio e.2 = b.2.1 ∧ b.2.2 < at_) then some (e.1, s.corePrio e.2, at_) else best)
    (none : Option (Nat × Nat × Nat))).map (·.1)

/-- Mark one core to free for a ready head that cannot be placed, unless enough are marked. -/
def State.markFor (s : State) (l : Launch) : State :=
  match s.victimCore l with
  | some c => s.modCore c (fun k => { k with marked := true })
  | none => s

/-- Place what can be placed of a ready head whose image is good; the image that is loaded is measured, as often as it is
loaded (21 R429; log 67). -/
def State.placeLaunch (s : State) (l : Launch) (img : List Byte × List Byte) : State :=
  let s := { s with order := s.order + 1, measured := s.measured ++ [sha512 (s.imageBytes l)] }
  (if l.dlev = 0 then (s.nextCore l).map (fun e => (s.placeOn l e img).1)
   else s.placeAll l.id img l.groupsTotal).elim s (fun t => t.dequeue l)

/-- The placement of the first group reads the estimate block (20 R398). -/
def State.startLaunch (s : State) (l : Launch) (img : List Byte × List Byte) : State :=
  if l.placed ≠ 0 then s.placeLaunch l img
  else match s.loadEstimate l with
    | .error info => (s.vaWalked l.vf l.pparam 1).fresh.failLaunch l.id 0 cESTIMATE info
    | .ok e => let l' := { l with est := e }; (s.modLaunch l.id (fun _ => l')).placeLaunch l' img

/-- GROUP_PLACEMENT: the ready head of a queue of a resident partition is refused, failed, placed, or cores are marked for it; not
during a world switch or a checkpoint (21 R414, R417). -/
def execGroupPlacement (vf : BitVec 4) (queue : BitVec 3) (s : State) : Out :=
  .next (match s.headOf vf queue with
    | none => s
    | some l =>
      let p := s.part vf
      if p.resident = false ∨ p.requested.isSome = true ∨ p.switchTo.isSome = true ∨ s.ready l = false then s
      else if l.dlev ≠ 0 ∧ s.fits l = false then s.dismiss l .refused
      else if s.placeable l = false then s.markFor l
      else if (s.chosen vf).map Launch.id ≠ some l.id then s
      else match s.loadImage l with
        | .error o => (s.imageWalked l).failLaunch l.id 0 cLAUNCH (BitVec.ofNat 32 o)
        | .ok img => s.startLaunch l img)

/-! The end of a group (R374). -/

/-- A hart of a group that ends has nothing in progress. -/
def Hart.atRest (h : Hart) : Bool :=
  h.outst.isEmpty && h.vposts.isEmpty && (h.exited || (h.stopping && (match h.block with
    | some (.writeBack _) | some (.rel _) | some (.vload _ _ _ _) | some (.vstore _) => false
    | _ => true)))

/-- The harts of a core that belong to a group. -/
def Core.hartsOf (k : Core) (launch group : Nat) : List (BitVec 2) :=
  hartNos.filter (fun h => match (k.hart h).group with
    | some g => g.launch == launch && g.group == group
    | none => false)

/-- The sequencer runs for one of these harts. -/
def Core.runsFor (k : Core) (hs : List (BitVec 2)) : Bool := k.cas.state == .running && hs.contains k.cas.starter

/-- A command is one of these harts', or of the run that one of them started. -/
def Core.ofHarts (k : Core) (hs : List (BitVec 2)) (cmd : Cmd) : Bool :=
  if cmd.issuer = 4 then k.runsFor hs else hs.contains (cmd.issuer.setWidth 2)

def Push.waits : Push → Bool
  | .wait => true
  | _ => false

/-- A push of another core's copy engine has come to its ring and finds no room there. -/
def State.pushWaits (s : State) (r : Req) : Bool :=
  match r.kind, r.src, s.spot r.vf (addrVcore r.ea) with
  | .push src, .engine c, some p => r.stage.kind == 1 && (pushRing (s.core c) (s.spotCore r.vf p) (addrOff r.ea) src).waits
  | _, _, _ => false

/-- The copy engine of core c holds a CPYR whose ring, in this core or another, has no room now: it is not performed (10 R254, R275). -/
def State.copyWaits (s : State) (c : Nat) : Bool :=
  let k := s.core c
  match k.copy.run with
  | some cmd => (match cmd.op with
    | .cpyr ring src => !k.copy.work.ended && (match k.copy.work.wait with
      | some id => (s.reqAt id).any s.pushWaits
      | none => bits ring.toNat 51 33 == k.corxy.toNat % 2 ^ 19 && (pushRing k k (addrOff ring) src).waits)
    | _ => false)
  | none => false

/-- No command of the group is being performed by an engine of core c. -/
def State.enginesRest (s : State) (c : Nat) (hs : List (BitVec 2)) : Bool :=
  ([.matrix, .copy, .exponent] : List Engine).all (fun e => match ((s.core c).eng e).run with
    | some cmd => !(s.core c).ofHarts hs cmd || (e == .copy && s.copyWaits c)
    | none => true)

/-- Release the harts of a group: their queued commands, their run, their slots, their messages. A run that is stopped so has executed no
STOP that CASST.UPC could name (11 R283): the model shows STATE 2 with the microword at which it stopped (DESIGN CHOICE, log 93). -/
def Core.releaseHarts (k : Core) (hs : List (BitVec 2)) : Core :=
  let drop := fun (x : EngineSt) =>
    let mine := x.run.any (k.ofHarts hs)
    { x with queue := x.queue.filter (fun cmd => !k.ofHarts hs cmd), run := if mine then none else x.run, work := if mine then {} else x.work }
  let k := { k with
    matrix := drop k.matrix, copy := drop k.copy, exponent := drop k.exponent,
    cas := if k.runsFor hs then { k.cas with state := .stopped, casUpc := k.cas.upc, waiting := none, fault := none, wantsQ := none } else k.cas,
    slotOwner := vmap (fun o => match o with
      | some h => if hs.contains h then none else some h
      | none => none) k.slotOwner,
    overflow := k.overflow.filter (fun m => !hs.contains m.hart), hold := k.hold.filter (fun m => !hs.contains m.hart),
    tokens := k.tokens.filter (fun m => !hs.contains m.hart),
    wayWait := match k.wayWait with
      | some w => if hs.contains w.1 then none else some w
      | none => none }
  hs.foldl (fun k h =>
    { k.setHart h {} with
      issuers := k.issuers.set h.toNat (Vector.replicate 3 {}) (Nat.lt_of_lt_of_le h.isLt (by decide)),
      products := k.products.set h.toNat [] (Nat.lt_of_lt_of_le h.isLt (by decide)) }) k

/-- Requests of the released harts: posted ones go on for the core; a waiting ACQ is withdrawn (08 R196), and so is the push of
a released CPYR, whose ring has no room (`State.enginesRest`). -/
def State.orphan (s : State) (c : Nat) (hs : List (BitVec 2)) : State :=
  let mine := fun (r : Req) => match r.src with
    | .hart k h => k == c && hs.contains h
    | .engine k => k == c && r.kind.isPush && (s.core c).copy.run.isNone
    | _ => false
  { s with net := (s.net.filter (fun r => !mine r || r.kind.posted)).map (fun r => if mine r then { r with src := .core c } else r) }

/-- A core that hosts no group any more becomes free; its dirty cache bytes go home. -/
def State.freeCore (s : State) (c : Nat) : State :=
  if hartNos.any (fun h => ((s.core c).hart h).hosts) then s else ((s.flush c (fun _ => true) true).setCore c {}).replace c

/-- The group and its recorded arrivals: those of the harts that it releases stand (R375). -/
def State.closeGroup (s : State) (launch group : Nat) (k : Core) : State :=
  s.modLaunch launch (fun l => { l with
    groups := updWhere (fun g => g.num == group) (fun g => { g with ended := true }) l.groups,
    stood := l.stood ++ (k.hartsOf launch group).filterMap (fun h =>
      let w := (k.hart h).dmemb
      if dmPLEV w = 0 then none else some (domainKey (dmPLEV w) (s.domainOf l.vf k.vcore (dmPLEV w)), dmPPH w)) })

/-- The completion messages on their way to a group that ends are discarded, and Beline counts them (R373). -/
def State.discardMessages (s : State) (launch group : Nat) : State :=
  let lost := fun (r : Req) => r.src == .dispatcher && r.kind.isMessage && decide (r.stage.kind < 7) && (match (s.launchOf r.launch).map Launch.submitter with
    | some (.hart _ _ _ g) => g.launch == launch && g.group == group
    | _ => false)
  (s.net.filter lost).foldl (fun s r => (s.dropReq r.id).logBeline (.messageDiscarded r.launch)) s

/-- GROUP_END: every hart of the group has exited or stopped. -/
def execGroupEnd (launch group : Nat) (s : State) : Out :=
  .next (match s.cores.find? (fun e => !(e.2.hartsOf launch group).isEmpty) with
    | some (c, k) =>
      let hs := k.hartsOf launch group
      if hs.all (fun h => (k.hart h).atRest) && s.enginesRest c hs then
        ((((s.closeGroup launch group k).discardMessages launch group).setCore c (k.releaseHarts hs)).orphan c hs).freeCore c
      else s
    | none =>
      match s.launchOf launch with
      | none => s
      | some l =>
        let mine := fun (x : Saved) => !(x.core.hartsOf launch group).isEmpty
        let stops := fun (x : Saved) => (x.core.hartsOf launch group).all (fun h => (x.core.hart h).stopping || (x.core.hart h).exited)
        match (s.part l.vf).saved.find? (fun x => mine x && stops x) with
        | some x =>
          ((s.closeGroup launch group x.core).discardMessages launch group).modPart l.vf (fun p => { p with
            saved := (p.saved.map (fun x =>
              let hs := x.core.hartsOf launch group
              if mine x then { x with core := x.core.releaseHarts hs, hold := x.hold.filter (fun m => !hs.contains m.hart) } else x)).filter
              (fun x => hartNos.any (fun h => (x.core.hart h).hosts)) })
        | none => s)

/-! Domains (R370, R375). -/

/-- Members of a domain, by the record: every member hart of the launch's groups there. -/
def State.domainSize (s : State) (l : Launch) (level domain : Nat) : Nat :=
  if bit l.dlev (level - 1) then ((l.groups.filter (fun g => s.domainOf l.vf g.vcore level == domain)).map (fun _ => Alu.ones l.dhm 4)).sum else 0

/-- Harts of one core that have arrived at a domain whose phase is ph. -/
def Core.arrivals (k : Core) (launch level : Nat) (ph : Bool) : Nat :=
  (hartNos.filter (fun h => match (k.hart h).group with
    | some g => g.launch == launch && dmPLEV (k.hart h).dmemb == level && dmPPH (k.hart h).dmemb == ph
    | none => false)).length

def State.domainArrivals (s : State) (l : Launch) (level domain : Nat) (ph : Bool) : Nat :=
  let at_ := fun (k : Core) => if k.vf == some l.vf && s.domainOf l.vf k.vcore level == domain then k.arrivals l.id level ph else 0
  (s.cores.map (fun e => at_ e.2)).sum + ((s.part l.vf).saved.map (fun x => at_ x.core)).sum +
    (l.stood.filter (fun a => a == (domainKey level domain, ph))).length

/-- DOMAIN_PHASE_FLIP: every member has arrived; those that wait run their DSYNC again and find the new phase. -/
def execDomainPhaseFlip (launch : Nat) (level : BitVec 3) (domain : Nat) (s : State) : Out :=
  let n := level.toNat
  .next (match s.launchOf launch with
    | some l =>
      let key := domainKey n domain
      let ph := l.phase key
      let size := s.domainSize l n domain
      if size ≠ 0 ∧ s.domainArrivals l n domain ph = size then
        (s.modLaunch launch (fun l =>
          { l with phases := mapSet l.phases key (b2n (!ph)), stood := l.stood.filter (fun a => a.1 != key) })).unblock launch .dsync
      else s
    | none => s)

/-! SWEEP (R377). -/

/-- Every group of a running launch has ended and its estimate is final (20 R404). -/
def Launch.drained (l : Launch) : Bool :=
  l.state == .running && decide (l.groupsTotal ≤ l.placed) && l.groups.all (fun g => g.ended) &&
    (l.status == .failed || (match l.est with
      | some e => e.stopped
      | none => true))

def State.sweepOne (s : State) (id : Nat) : State :=
  match s.launchOf id with
  | none => s
  | some l =>
    if l.drained = false then s
    else if l.sentCount ≠ l.recvCount then s.modLaunch id (fun x => { x with agreed := 0 })
    else if l.agreed = 0 then s.modLaunch id (fun x => { x with agreed := 1 })
    else s.endLaunch id

/-- The head of a queue that has not started and whose predecessor failed is removed as CANCELLED (R367). -/
def State.cancelOne (s : State) (id : Nat) : State :=
  match s.launchOf id with
  | none => s
  | some l =>
    if l.state = .queued ∧ l.placed = 0 ∧ (queueNos.any (fun q => ((s.part l.vf).queue q).head? == some id)) = true ∧ l.preds.any (s.predFailed l.vf) = true
    then s.dismiss l .cancelled else s

/-- SWEEP: a launch ends where the sums agree on two successive sweeps; then heads with a failed predecessor are cancelled. -/
def execSweep (s : State) : Out :=
  .next ((s.launches.map Launch.id).foldl State.cancelOne ((s.launches.map Launch.id).foldl State.sweepOne s))

/-! HOST_SUBMISSION (23 R443). -/

def State.tellHost (s : State) (m : HostMsg) : State := { s with hostOut := s.hostOut ++ [m] }

/-- The 16 bytes that answer a submission: the ID, the status, zeros. -/
def answerBytes (id status : Nat) : List Byte := bytesOfLE 4 id ++ bytesOfLE 4 status ++ bytesOfLE 8 0

/-- HOST_SUBMISSION: only a registered endpoint reaches the partition (23 R442). What R435 does not support, and a send that is no
submission, is refused with a Transport error (its cause: log 68). -/
def execHostSubmission (vf : BitVec 4) (endpoint : Nat) (send : HostSend) (s : State) : Out :=
  let n := leOfBytes send.bytes
  let r := n % 2 ^ 512
  .next (if (s.part vf).valid = false ∨ (s.part vf).endpoints.contains endpoint = false then s.tellHost (.transportError endpoint cPROT)
    else if send.delivery ≠ .rud ∨ send.bytes.length ≠ 80 then s.tellHost (.transportError endpoint cBOUNDS)
    else match s.recordFault vf r true with
      | some f => s.tellHost (.answer endpoint (answerBytes 0 f.1))
      | none =>
        let t := s.submit vf (BitVec.ofNat 512 r) 0 (.host endpoint (BitVec.ofNat 64 (bits n 575 512)) (BitVec.ofNat 64 (bits n 639 576)))
          (BitVec.ofNat 64 (bits r 255 192)) []
        t.1.tellHost (.answer endpoint (answerBytes t.2 (if t.2 = 0 then 16 else 0))))

end Sys2Proof.Machine
end

