-- ==== Sys2Proof/Machine/Issue.lean ====
section
/-! DEFINITION. What holds an instruction at issue: credit, dependences, the limit on outstanding instructions (02 R45 to R48,
R52; 05 R145; 10 R260). -/

namespace Sys2Proof.Machine

/-- The registers that an instruction reads and writes, the vector registers it writes, whether it accesses memory, and
whether it issues only with nothing outstanding (R47). -/
structure RegUse where
  reads : List (BitVec 5) := []
  writes : List (BitVec 5) := []
  vwrites : List (BitVec 5) := []
  mem : Bool := false
  quiet : Bool := false
  deriving DecidableEq, Repr

def Operand.gs : Operand → List (BitVec 5)
  | .g r => [r]
  | .m _ => []

/-- Registers of a computation; an IMX changes none of them. -/
def calcUse (i : Instr) : RegUse :=
  match calcOf none i with
  | some c => { reads := c.srcs.flatMap Operand.gs ++ (if c.readsOld then [c.d] else []), writes := [c.d] }
  | none => {}

/-- r, r + 1, …: n registers. -/
def run (r : BitVec 5) (n : Nat) : List (BitVec 5) := (List.range n).map (plus r)

/-- The vector registers that a VCVT writes: a group where the target is wider. -/
def vcvtGroup (d : BitVec 5) (src tgt : BitVec 4) : List (BitVec 5) := if etBits src < etBits tgt then run d (etBits tgt / etBits src) else [d]

/-- What an instruction uses. -/
def instrUse (i : Instr) : RegUse :=
  match i with
  | .beq a b _ | .bne a b _ | .blt a b _ | .bge a b _ | .bltu a b _ | .bgeu a b _ => { reads := [a, b] }
  | .jmp _ => {}
  | .jal _ => { writes := [31] }
  | .jalr d a _ => { reads := [a], writes := [d] }
  | .ld d a _ _ _ | .lda d a _ _ _ => { reads := [a], writes := [d], mem := true }
  | .st t a _ _ | .str t a _ _ => { reads := [t, a], mem := true }
  | .ldp d a _ _ _ => { reads := [a], writes := [d, d + 1], mem := true }
  | .stp t a _ _ => { reads := [t, t + 1, a], mem := true }
  | .amo d a b _ _ _ _ _ => { reads := [a, b], writes := [d], mem := true }
  | .cas d a b _ _ _ _ => { reads := [d, a, b], writes := [d], mem := true }
  | .fence _ | .fenceS _ | .isync | .tfence => { quiet := true }
  | .rbind _ a b => { reads := [a, b, b + 1], mem := true }
  | .runbind _ => { mem := true }
  | .acqX a | .acqS a => { reads := [a], mem := true, quiet := true }
  | .relX a | .relS a => { reads := [a], mem := true, quiet := true }
  | .cwb a b | .cinv a b => { reads := [a, b], mem := true }
  | .binit a b | .bwait a b => { reads := [a, b], mem := true }
  | .barr d a _ => { reads := [a], writes := [d], mem := true }
  | .bexp d a b => { reads := [a, b], writes := [d], mem := true }
  | .btest d a => { reads := [a], writes := [d], mem := true }
  | .rinit a b => { reads := [a, b, b + 1], mem := true }
  | .rfix a b => { reads := [a, b], mem := true }
  | .rpop d a b | .rpush d a b => { reads := [a, b], writes := [d], mem := true }
  | .rstat d a => { reads := [a], writes := [d], mem := true }
  | .msend a b => { reads := [a, b], mem := true }
  | .mtake d _ | .mpeek d _ => { writes := [d] }
  | .wait d a => { reads := [a], writes := [d], quiet := true }
  | .bind d _ => { writes := [d], quiet := true }
  | .unbind _ => { quiet := true }
  | .bstat d _ => { writes := [d], quiet := true }
  | .bclr _ => { quiet := true }
  | .shape d a b _ => { reads := [a, b], writes := [d] }
  | .wayset d a => { reads := [a], writes := [d], quiet := true }
  | .vld d a b _ _ _ _ | .vldm d a b _ _ _ _ => { reads := [a, b], vwrites := [d], mem := true }
  | .vst _ a b _ _ | .vstm _ a b _ _ => { reads := [a, b], mem := true }
  | .vldx d a _ _ _ _ _ => { reads := [a], vwrites := [d], mem := true }
  | .vstx _ a _ _ _ => { reads := [a], mem := true }
  | .vadd d _ _ _ _ _ _ | .vsub d _ _ _ _ _ _ | .vmul d _ _ _ _ _ _ | .vmulh d _ _ _ _ _ _ | .vdiv d _ _ _ _ _ _
  | .vmin d _ _ _ _ _ _ | .vmax d _ _ _ _ _ _ | .vand d _ _ _ _ _ _ | .vor d _ _ _ _ _ _ | .vxor d _ _ _ _ _ _
  | .vshl d _ _ _ _ _ _ | .vshr d _ _ _ _ _ _ | .vsra d _ _ _ _ _ _ | .vfma d _ _ _ _ _ _ | .vladd d _ _ _ _ _ _
  | .vlmul d _ _ _ _ _ _ | .vldiv d _ _ _ _ _ _ | .vperm d _ _ _ _ _ _ => { vwrites := [d] }
  | .vsqrt d _ _ _ _ _ | .viota d _ _ _ _ _ => { vwrites := [d] }
  | .vcmp d _ _ _ _ _ _ _ => { vwrites := [d] }
  | .vsel d _ _ _ _ => { vwrites := [d] }
  | .vcvt d _ _ src tgt _ _ _ => { vwrites := vcvtGroup d src tgt }
  | .vreq d _ b _ _ _ => { reads := [b], vwrites := [d] }
  | .vred d _ _ _ _ _ _ => { vwrites := [d] }
  | .vbcast d a _ _ _ _ => { reads := [a], vwrites := [d] }
  | .vext d _ b _ => { reads := [b], writes := [d] }
  | .vpopc d _ _ _ => { writes := [d] }
  | .mclaim d a _ => { reads := [a], writes := [d] }
  | .mrel a b _ => { reads := [a, b], mem := true }
  | .mput d _ _ _ => { reads := [d], mem := true }
  | .mload d a b _ | .mma d a b _ => { reads := [d, a, b], mem := true }
  | .mcbk a b _ => { reads := [a, b], mem := true }
  | .mwait d _ | .cwait d _ | .xwait d _ | .caswait d _ => { writes := [d] }
  | .mstat d _ | .cstat d _ => { writes := [d, d + 1] }
  | .cpy d a b _ | .cpk d a b _ | .xrot d a b _ => { reads := [d, a, b, b + 1], mem := true }
  | .cpy2 d a b _ | .cxp d a b _ => { reads := [d, a, b, b + 1, b + 2], mem := true }
  | .cgthb d a _ _ => { reads := [d, d + 1, d + 2, a], mem := true }
  | .cpyr d a b _ | .xexp d a b _ => { reads := [d, a, b], mem := true }
  | .casld a b _ => { reads := [a, b], mem := true }
  | .ssopen d a b _ | .ssfind d a b _ | .ssroll d a b _ | .sspin d a b _ | .ssunpin d a b _ => { reads := [a, b], writes := [d], mem := true }
  | .ssload d a b _ | .ssfork d a b _ => { reads := [a, b, b + 1], writes := [d], mem := true }
  | .sscommit d a b _ => { reads := [a, b, b + 1, b + 2], writes := [d], mem := true }
  | .sssnap d a _ => { reads := [a], writes := [d], mem := true }
  | .ssclose a _ => { reads := [a], mem := true }
  | .enext d _ => { writes := [d, d + 1] }
  | .eacc d a b _ => { reads := [a, b], writes := [d] }
  | .estat d _ => { writes := run d 4 }
  | .launch d a b => { reads := [a, b], writes := [d], mem := true, quiet := true }
  | .trig | .yield => { quiet := true }
  | .exit a => { reads := [a], quiet := true }
  | .dsync _ => { quiet := true }
  | .rdc d _ => { writes := [d], quiet := true }
  | .wrc a _ => { reads := [a], quiet := true }
  | .casgo a => { reads := [a], mem := true, quiet := true }
  | .trap _ | .eret | .eretS | .brk _ => { quiet := true }
  | .sleep a => { reads := [a], quiet := true }
  | i => calcUse i

/-- The word at the pc as the hart fetches it; a hart that has run past the code region finds a zero word, which is ILLEGAL (01 R15;
log 24). -/
def State.word (s : State) : BitVec 32 := if s.hart.pastEnd then 0 else fetchWord s.cc s.hart s.hart.pc.toNat

/-- What the instruction at the pc uses; an IMX uses what its successor does. -/
def State.nextUse (s : State) : RegUse :=
  match decodeWord s.word with
  | some (.imx _) => ((s.successor.bind decodeWord).map instrUse).getD {}
  | some i => instrUse i
  | none => {}

/-- A long-latency instruction (R45): its encoding carries a lookahead field. -/
def longLatency (i : Instr) : Bool :=
  match i with
  | .div .. | .divu .. | .rem .. | .remu .. | .ladd .. | .lsub .. | .lmul .. | .ldiv .. | .leq .. | .llt .. | .lcvt .. | .llevel .. => true
  | .ld .. | .lda .. | .ldp .. | .amo .. | .cas .. | .barr .. => true
  | .mclaim .. | .mrel .. | .mput .. | .mload .. | .mma .. | .mcbk .. | .mwait .. | .mstat .. => true
  | .cpy .. | .cpy2 .. | .cxp .. | .cpk .. | .cgthb .. | .cpyr .. | .cwait .. | .cstat .. => true
  | .xexp .. | .xrot .. | .xwait .. | .casld .. | .caswait .. => true
  | .ssopen .. | .ssload .. | .sscommit .. | .sssnap .. | .ssfind .. | .ssroll .. | .sspin .. | .ssunpin .. | .ssfork .. | .ssclose .. => true
  | .enext .. | .eacc .. | .estat .. => true
  | _ => false

/-- The instruction at the pc is a long-latency one, itself or behind an IMX. -/
def State.nextLong (s : State) : Bool :=
  (match decodeWord s.word with
   | some (.imx _) => s.successor.bind decodeWord
   | i => i).any longLatency

/-- Registers from which r is computed: itself, and the g sources of its binding, through at most n bindings. -/
def Hart.feeders (h : Hart) : Nat → BitVec 5 → List (BitVec 5)
  | 0, r => [r]
  | n + 1, r =>
    r :: (match h.slotOf r with
      | some k => (h.slot k).sources.flatMap (fun o => match o with
        | .g q => h.feeders n q
        | .m _ => [])
      | none => [])

/-- A register waits for an outstanding write, itself or through its binding (R46). -/
def Hart.waits (h : Hart) (r : BitVec 5) : Bool := (h.feeders 8 r).any h.pendingWrite

/-- A g register is a source of a valid binding. -/
def Hart.isSource (h : Hart) (r : BitVec 5) : Bool := r != 0 && slotNos.any (fun k => (h.slot k).valid && (h.slot k).sources.contains (.g r))

/-- An outstanding instruction will write a source of a binding. -/
def Hart.sourcePending (h : Hart) : Bool := h.outst.any (fun o => o.dests.any h.isSource)

/-- A load from another module has no data yet: the receiving module may refuse it, or has done so (23 R438). -/
def State.abroad (s : State) : Bool :=
  s.hart.outst.any (fun o => (s.reqAt o.id).any (fun r => r.ea.msb && addrMod r.ea != 2047 && r.stage.kind != 7))

/-- The hart cannot issue while an outstanding instruction has no credit, has not passed its fault point, or is an acquire
that the next access must follow; nor a ninth; nor before a dependence is met (R45 to R48, R52; 05 R145; 04 R127). An access waits for the
answer of an earlier load from another module, so that none of a discarded instruction is performed outside the hart (16 R343; log 39). -/
def State.held (s : State) : Bool :=
  let h := s.hart
  let u := s.nextUse
  h.outst.any (fun o => o.credit == 0 || !o.passed) || (u.quiet && !h.outst.isEmpty) ||
    (u.mem && (h.outst.any (fun o => o.acq) || s.abroad)) || (s.nextLong && decide (Config.maxOutstanding ≤ h.outst.length)) ||
    (u.reads ++ u.writes).any h.waits || (u.writes.any h.isSource && h.sourcePending)

/-- Vector registers that a queued MPUT of the executing hart has still to read are locked (10 R260). -/
def State.lockedV (s : State) (r : BitVec 5) : Bool :=
  s.cc.matrix.queue.any (fun c => c.issuer == s.issuerNo && (match c.op with
    | .mput _ _ n va _ => (run va n).contains r
    | _ => false))

def State.locked (s : State) : Bool := s.nextUse.vwrites.any s.lockedV

/-! Blocking points (18 R378). -/

/-- The block of an instruction that an interrupt or an eviction abandons: it runs again (R160, R228, R379). -/
def Block.abandons : Block → Bool
  | .writeBack _ | .rel _ | .vstore _ => false
  | _ => true

/-- A hart is inside a vector store: it goes on to its end (09 R228). -/
def Hart.midway (h : Hart) : Bool :=
  match h.block with
  | some (.vstore _) => true
  | _ => false

/-- A hart goes on at its turn though it is stopped: in a vector store, and in a vector load of a launch that has failed, whose loads
complete (18 R374). -/
def Hart.finishing (h : Hart) : Bool :=
  h.midway || (h.stopping && (match h.block with
    | some (.vload _ _ _ _) => true
    | _ => false))

/-- Only loads of the hart are outstanding. -/
def State.onlyLoads (s : State) (x : Hart) : Bool :=
  x.outst.all (fun o => (s.reqAt o.id).any (fun r => match r.kind with
    | .load _ _ | .fillLoad _ _ => true
    | _ => false))

/-- The home has answered the ACQ in which a hart is blocked: the answer is on its way, and the hart waits for it at no blocking point, so
that no interrupt and no eviction loses a grant (08 R196; log 85). -/
def State.acqAnswered (s : State) (b : Block) : Bool :=
  match b with
  | .acq id => (s.reqAt id).any (fun r => decide (7 ≤ r.stage.kind))
  | _ => false

/-- A hart is at a blocking point: in one of the blocking instructions, or held at issue for the data of a remote or global load. -/
def State.atBlock (s : State) (c : Nat) (h : BitVec 2) : Bool :=
  let x := s.hartOf c h
  match x.block with
  | some b => b.abandons && !s.acqAnswered b
  | none => !x.outst.isEmpty && s.onlyLoads x && (s.as c h).held

/-- A request that an abandoned block of hart h of core c has sent: a waiting ACQ (08 R196), elements and sectors of a vector load (09
R228). -/
def Req.ofBlock (r : Req) (c : Nat) (h : BitVec 2) : Bool :=
  r.src == .hart c h && (match r.kind with
    | .acq _ | .velem _ | .vfill _ _ => true
    | _ => false)

/-- Leave the blocking point: its requests are withdrawn; a WAYSET that waits holds nothing any more (08 R187). -/
def State.abandon (s : State) (c : Nat) (h : BitVec 2) : State :=
  let s := s.modCore c (fun k =>
    { k.modHart h (fun t => { t with block := none }) with wayWait := if k.wayWait.any (fun w => w.1 == h) then none else k.wayWait })
  { s with net := s.net.filter (fun r => !r.ofBlock c h) }

end Sys2Proof.Machine
end

