-- ==== Sys2Proof/Machine/Wake.lean ====
section
/-! DEFINITION. What happens to a hart between its instructions: arrival passes (05 R146), interrupts (06 R175), wakes from
blocking points (18 R378), and sleep of its core (01 R29 to R33). A step that is not enabled leaves the module as it is. -/

namespace Sys2Proof.Machine

/-! Arrival passes. -/

/-- A hart of an awake core is at an instruction boundary, or blocked, and nothing stops or holds it. -/
def State.atBoundary (s : State) (c : Nat) (h : BitVec 2) : Bool :=
  let x := s.hartOf c h
  (s.core c).live && !(s.core c).draining && x.hosts && !x.exited && !x.stopping && !x.halted && !x.held

/-- The arrivals of a hart of an awake core can be applied: at a boundary or a blocking point, with no write of a source outstanding. -/
def State.mayPass (s : State) (c : Nat) (h : BitVec 2) : Bool :=
  let x := s.hartOf c h
  (s.core c).live && x.hosts && !x.midway && x.arrPend != 0 && !x.sourcePending

/-- ARRIVAL_PASS (R146): it waits while an outstanding instruction writes a source. It may run while its core drains for an eviction. -/
def execArrivalPass (c : Nat) (h : BitVec 2) (s : State) : Out :=
  .next (if s.mayPass c h then s.modHart c h Hart.arrivalPass else s)

/-! Interrupts (R175). -/

/-- The pending interrupt that comes first, with the hart after it is taken: none as a trap for a debug halt. -/
def Hart.due (h : Hart) : Option (Hart × Option Trap) :=
  if h.haltPend then some ({ h with haltPend := false, halted := true }, none)
  else match h.poisonPend, h.watchPend with
    | p :: ps, _ => some ({ h with poisonPend := ps }, some ⟨cPOISON, p.1, p.2⟩)
    | [], w :: ws => some ({ h with watchPend := ws }, some ⟨cWATCH, w.1, w.2⟩)
    | [], [] =>
      if h.mode = .supervisor then none
      else if h.stepPend then some ({ h with stepPend := false }, some ⟨cSTEP, 0, 0⟩)
      else if h.ovf ≠ 0 then some ({ h with ovf := 0, ovfHeld := false }, some ⟨cCOUNTEROVF, 0, BitVec.ofNat 64 (h.ovf.toNat + 16 * b2n h.ovfHeld)⟩)
      else none

/-- A hart can take an interrupt: at a boundary with nothing outstanding, or at a blocking point that it leaves. R146 and R175 give
no order between an arrival's pass and an interrupt that are due at one boundary: the pass runs first (DESIGN CHOICE, log 70). -/
def State.mayInterrupt (s : State) (c : Nat) (h : BitVec 2) : Bool :=
  let x := s.hartOf c h
  s.atBoundary c h && x.outst.isEmpty && x.arrPend == 0 && (match x.block with
    | some b => b.abandons && !s.acqAnswered b
    | none => true)

/-- INTERRUPT_ENTRY (02 R51; 06 R173, R175). -/
def execInterruptEntry (c : Nat) (h : BitVec 2) (s : State) : Out :=
  .next (if s.mayInterrupt c h then
      match (s.hartOf c h).due with
      | none => s
      | some (x, t) =>
        let s := (s.modHart c h (fun y => { x with block := y.block })).abandon c h
        match t with
        | none => s
        | some t => s.enterTrap c h true t x.at
    else s)

/-- A cycle event may happen to hart h of core c now (21 R419): 0x01 always, 0x04 at a blocking point, 0x03 elsewhere. -/
def State.cycleNow (s : State) (c : Nat) (h : BitVec 2) (sel : Word) : Bool :=
  cyclesIn sel (modeBit (s.hartOf c h).mode) && (match sel.toNat % 2 ^ 8 with
    | 3 => !s.atBlock c h
    | 4 => s.atBlock c h
    | _ => true)

/-- COUNTER_WRAP (21 R422): a cycle counter wraps between two reads of it (log 11). The counters of a resident context go on while its
core sleeps or drains (22 R434). -/
def execCounterWrap (c : Nat) (h k : BitVec 2) (s : State) : Out :=
  let x := s.hartOf c h
  .next (if (s.core c).vf.isSome && x.hosts && s.cycleNow c h (x.cntsel.get ⟨k.toNat, k.isLt⟩) then
      s.modHart c h (fun y => { y with cnt := y.cnt.set k.toNat 0 k.isLt, ovf := y.ovf ||| (1#4 <<< k.toNat) })
    else s)

/-! Wakes. -/

/-- A ring object no longer makes an RPOP wait (08 R208). -/
def Core.ringReady (k : Core) (o : Nat) : Bool :=
  let r := k.ring o
  !(k.ringUp r) || ringSTATE r || ringFILLED r != 0

/-- WAIT_WAKE (R160). -/
def execWaitWake (c : Nat) (h : BitVec 2) (s : State) : Out :=
  let x := s.hartOf c h
  .next (if s.mayWake c h then
      match x.block with
      | some (.wait d mask) => if x.waitDone mask then (s.as c h).writeRetire d (x.full.setWidth 64) else s
      | _ => s
    else s)

/-- BWAIT_WAKE (R202): the phase has flipped, or a fault bit is set. Where a WAYSET of another hart has taken the object's offset out of
scratch, no rule says what the blocked BWAIT finds: it samples zeros, a barrier of phase 0 without a fault (DESIGN CHOICE, log 89). -/
def execBwaitWake (c : Nat) (h : BitVec 2) (s : State) : Out :=
  .next (if s.mayWake c h then
      match (s.hartOf c h).block with
      | some (.bwait off phase woken) =>
        match bwaitSees ((s.core c).bar off) phase with
        | none => if woken then (s.as c h).retire else s
        | some none => (s.as c h).retire
        | some (some f) => (s.as c h).raise ⟨cBARRIER, (s.core c).ownAddr off, BitVec.ofNat 64 f⟩
      | _ => s
    else s)

/-- RPOP_WAKE (R208): the loop runs on. -/
def execRpopWake (c : Nat) (h : BitVec 2) (s : State) : Out :=
  let k := s.core c
  .next (if s.mayWake c h then
      match (s.hartOf c h).block with
      | some (.rpop d off dst) => if k.ringReady off then (s.as c h).ringPop d (k.ownAddr off) (k.ownAddr dst) off dst else s
      | _ => s
    else s)

/-! Sleep (01 R29 to R33). -/

/-- An answer to a hart or to the cache ways of core c is there: it waits while the core sleeps, and wakes it (log 72). -/
def Req.answered (r : Req) (c : Nat) : Bool :=
  (match r.src with
   | .hart k _ | .core k => k == c
   | _ => false) && (r.notice || decide (7 ≤ r.stage.kind))

/-- The wake condition of the blocking point itself. -/
def State.blockDone (s : State) (c : Nat) (h : BitVec 2) : Block → Bool
  | .wait _ mask => (s.hartOf c h).waitDone mask
  | .bwait o phase woken => woken || (bwaitSees ((s.core c).bar o) phase).isSome
  | .rpop _ o _ => (s.core c).ringReady o
  | .engine e _ => (s.core c).engineDone (h.setWidth 3) e
  | .caswait _ => (s.core c).cas.state != .running
  | .acq id => s.acqAnswered (.acq id)
  | .vload _ _ _ es => es.all (fun e => e.wait.isNone)
  | .enext | .dsync => false
  | _ => true

/-- A message for a hart of core c has arrived at its router (R33). -/
def State.messageAt (s : State) (c : Nat) : Bool := s.net.any (fun r => r.kind.isMessage && r.stage == .toCore c)

/-- A wake condition of hart h is true. -/
def State.wakes (s : State) (c : Nat) (h : BitVec 2) : Bool :=
  let x := s.hartOf c h
  x.hosts && !x.exited && (x.arrPend != 0 || x.due.isSome || (match x.block with
    | some b => s.blockDone c h b
    | none => !(s.as c h).held))

/-- A wake condition of some hart of core c is true. -/
def State.anyWake (s : State) (c : Nat) : Bool :=
  s.messageAt c || !(s.core c).tokens.isEmpty || hartNos.any (fun h => ((s.core c).overdue h).isSome) || s.net.any (fun r => r.answered c) || hartNos.any (s.wakes c)

/-- The harts of a core that host a group and have not exited. R30 does not say whether a hart that has exited still counts while its
group goes on: the model does not count it, and its DEPTH limits no sleep (DESIGN CHOICE, log 71). -/
def Core.working (k : Core) : List (BitVec 2) := hartNos.filter (fun h => (k.hart h).hosts && !(k.hart h).exited)

/-- Every working hart of core c is at a blocking point. -/
def State.allBlocked (s : State) (c : Nat) : Bool := (s.core c).working.all (s.atBlock c)

/-- The depth of R30: `elapsed` is the deepest one whose residency time has passed. -/
def State.sleepDepth (s : State) (c : Nat) (elapsed : BitVec 2) : BitVec 2 :=
  (s.core c).working.foldl (fun d h => let x : BitVec 2 := ((s.hartOf c h).sleepd).setWidth 2; if x.toNat < d.toNat then x else d)
    (if s.sleepCeiling.toNat < elapsed.toNat then s.sleepCeiling else elapsed)

/-- CORE_SLEEP_ENTRY (R30). -/
def execCoreSleepEntry (c : Nat) (elapsed : BitVec 2) (s : State) : Out :=
  .next (if (s.core c).live && !(s.core c).working.isEmpty && s.allBlocked c && !s.anyWake c then
      s.modCore c (fun k => { k with sleep := .asleep (s.sleepDepth c elapsed) })
    else s)

/-- CORE_WAKE (R31): an answer from another module may arrive at any time. -/
def execCoreWake (c : Nat) (s : State) : Out :=
  .next (match (s.core c).sleep with
    | .asleep d =>
      if s.anyWake c || s.net.any (fun r => (match r.src with
          | .hart k _ => k == c
          | _ => false) && r.stage == .onFabric) then s.modCore c (fun k => { k with sleep := .waking d })
      else s
    | _ => s)

/-- The messages that the router of core c holds are written (R33). -/
def State.giveMessages (s : State) (c : Nat) : State :=
  (s.net.filter (fun r => r.kind.isMessage && r.stage == .toCore c)).foldl (fun s r => if s.inOrder r then s.tryMessageCore r c else s) s

/-- WAKE_COMPLETE (R31, R32): the captured state of depth 2 is checked; what waited for the registers is written, before any hart
issues: queued messages for empty registers (06 R156), then the core's own, then those at its router (R33). -/
def execWakeComplete (c : Nat) (captureOk : Bool) (s : State) : Out :=
  .next (match (s.core c).sleep with
    | .waking d =>
      let t := (s.modCore c (fun k => { k with sleep := .awake }.giveOverflow.promoteHold.giveTokens)).giveMessages c
      if d = 2 ∧ captureOk = false then t.contextError c else t
    | _ => s)

/-- SLEEP_PAUSE_END (06 R171): a pause has no effect on visible state, and its length is a hint. -/
def execSleepPauseEnd (_c : Nat) (_h : BitVec 2) (s : State) : Out := .next s

end Sys2Proof.Machine
end

