-- ==== Sys2Proof/Machine/World.lean ====
section
/-! DEFINITION. Eviction and resume (18 R378, R379; 08 R212; 06 R162), world switch and rollback (21 R414 to R416, R423),
checkpoints (21 R417). A step that is not enabled leaves the module as it is. -/

namespace Sys2Proof.Machine

/-! Eviction. -/

/-- EVICTION (R378, R379 step 1): every working hart of a marked core is at a blocking point. -/
def execEviction (c : Nat) (s : State) : Out :=
  let k := s.core c
  .next (if k.vf.isSome && k.marked && !k.draining && !(s.part (k.vf.getD 0)).rolledBack && s.allBlocked c then
      s.modCore c (fun k => { k with draining := true })
    else s)

/-- The engine performs a CPYR. -/
def EngineSt.waitsForRoom (x : EngineSt) : Bool :=
  match x.run with
  | some cmd => (match cmd.op with
    | .cpyr _ _ => !x.work.ended
    | _ => false)
  | none => false

/-- The copy engine with a CPYR that waits for room (`State.copyWaits`) withdrawn: it goes back to the head of its queue (10 R254). -/
def EngineSt.withdraw (x : EngineSt) : EngineSt :=
  if x.waitsForRoom then { x with run := none, work := {}, queue := x.run.toList ++ x.queue } else x

/-- The copy engine has drained, but for a CPYR that waits for ring space and what stands behind it (R379 step 3). -/
def State.copyDrained (s : State) (c : Nat) : Bool :=
  let x := (s.core c).copy
  if x.run.isSome then s.copyWaits c else x.queue.isEmpty

def EngineSt.drained (x : EngineSt) : Bool := x.run.isNone && x.queue.isEmpty

/-- A hart is in an instruction that it completes before it stops: a vector store, a release, the write-backs of an acquire (02 R51). -/
def Hart.completing (h : Hart) : Bool := !h.outst.isEmpty || h.block.any (fun b => !b.abandons)

/-- A hart has completed its outstanding instructions, and no arrival waits to be applied (R379 step 1; 05 R154). -/
def Hart.drained (h : Hart) : Bool := !h.completing && h.arrPend == 0

/-- Steps 1 to 3 of the drain of core c are over. -/
def State.drained (s : State) (c : Nat) : Bool :=
  let k := s.core c
  hartNos.all (fun h => (k.hart h).drained) && k.matrix.drained && k.exponent.drained && s.copyDrained c

/-- A request whose answer a core that is saved or discarded does not await: a prefetch, or a push that waits for room (10 R254). -/
def Req.unawaited (r : Req) (c : Nat) : Bool :=
  (r.src == .core c && (match r.kind with
    | .prefetch _ _ => true
    | _ => false)) || (r.src == .engine c && r.kind.isPush)

/-- The requests that are withdrawn at a save: those of a blocked instruction, which runs again (08 R196; 09 R228), and the unawaited
ones. -/
def State.withdrawReqs (s : State) (c : Nat) : State :=
  let s := hartNos.foldl (fun s h => match (s.hartOf c h).block with
    | some (.acq _) | some (.vload _ _ _ _) => s.abandon c h
    | _ => s) s
  { s with net := s.net.filter (fun r => !r.unawaited c) }

/-- No posted access of a hart of core c is on its way (R379 step 5). -/
def State.postedDone (s : State) (c : Nat) : Bool := hartNos.all (fun h => (s.hartOf c h).orsZero)

/-- A context as the save area keeps it: no cache sector is valid. -/
def Core.toSave (k : Core) : Saved :=
  { core := { k with copy := k.copy.withdraw, cache := [], hold := [], wayWait := none, sleep := .awake, marked := false, draining := false },
    hold := k.hold }

/-- CONTEXT_SAVE (R379 steps 2 to 6): dirty cache bytes are written back once the queues have drained; when they are home and ORSCNT is
zero, the counters count up to the save (22 R434), the context is saved, and the core is free. -/
def execContextSave (c : Nat) (s : State) : Out :=
  let k := s.core c
  .next (match k.vf with
    | none => s
    | some vf =>
      if k.draining = false ∨ (s.part vf).rolledBack = true ∨ s.drained c = false then s
      else if k.anyDirty (fun _ => true) then s.flush c (fun _ => true) false
      else if s.backsPending c || !s.postedDone c then s
      else
        let s := (s.accrueCore c).withdrawReqs c
        ((s.modPart vf (fun p => { p with saved := p.saved ++ [(s.core c).toSave] })).setCore c {}).replace c)

/-! Resume. -/

/-- Overflow entries whose registers are empty are written, in their order. -/
def drainOverflow (k : Core) : List Msg → List Msg → Core
  | [], kept => { k with overflow := kept }
  | m :: ms, kept =>
    if kept.any m.same || (k.hart m.hart).taken m.reg then drainOverflow k ms (kept ++ [m])
    else drainOverflow (k.modHart m.hart (fun h => h.arrive m.reg m.value)) ms kept

/-- A pending COUNTER_OVF is held across the resume (21 R422). -/
def Hart.resumed (h : Hart) : Hart := { h with ovfHeld := h.ovfHeld || h.ovf != 0 }

/-- A saved context comes back: its messages are delivered before any hart issues (06 R162). -/
def Saved.restored (x : Saved) : Core :=
  let k := { x.core with harts := vmap Hart.resumed x.core.harts }
  { drainOverflow k k.overflow [] with hold := x.hold }.promoteHold.giveTokens

/-- The state after a step that does not stop. -/
def outState (s : State) : Out → State
  | .next t => t
  | _ => s

/-- The pass of a hart's arrivals runs, and a wake condition that is true wakes it. -/
def State.rearm (s : State) (c : Nat) (h : BitVec 2) : State :=
  let s := outState s (execArrivalPass c h s)
  match (s.hartOf c h).block with
  | some (.wait _ _) => outState s (execWaitWake c h s)
  | some (.bwait _ _ _) => outState s (execBwaitWake c h s)
  | some (.rpop _ _ _) => outState s (execRpopWake c h s)
  | some (.engine _ _) | some (.caswait _) => outState s (execEngineWaitReturn c h s)
  | _ => s

/-- A group that is still to be placed may take a core of this kind: the next one, or the last. -/
def Launch.takes (l : Launch) (w : Bool) : Bool :=
  let fit := fun (n : Nat) => l.needs n == none || l.needs n == some w
  fit l.placed || fit (l.groupsTotal - 1)

/-- A ready head of higher PRIO waits for a core of this kind, whether or not it can be placed yet (18 R366, R378). -/
def State.outranked (s : State) (vf : BitVec 4) (c prio : Nat) : Bool :=
  (queueNos.filterMap (s.headOf vf)).any (fun l => s.ready l && decide (prio < l.prio) && l.takes (isW c))

/-- RESUME (R379): on the same virtual core, once it is free; conditions that are true wake their harts before any hart issues. -/
def execResume (vf : BitVec 4) (slot : Nat) (s : State) : Out :=
  let p := s.part vf
  .next (match p.saved[slot]? with
    | none => s
    | some x =>
      if p.resident = false ∨ p.requested.isSome = true ∨ p.switchTo.isSome = true then s
      else match s.physCore vf x.core.vx.toNat x.core.vy.toNat x.core.vc.toNat with
        | none => s
        | some c =>
          if (s.core c).vf.isSome ∨ s.usable c = false ∨ s.outranked vf c (s.corePrio x.core) = true then s
          else hartNos.foldl (fun s h => s.rearm c h) ((s.modPart vf (fun p => { p with saved := p.saved.eraseIdx slot })).setCore c x.restored))

/-! World switch. -/

/-- The core belongs to a partition. -/
def Core.isOf (k : Core) (vf : BitVec 4) : Bool := k.vf == some vf

def State.liveCores (s : State) (vf : BitVec 4) : List Nat := (s.cores.filter (fun e => e.2.isOf vf)).map (·.1)

/-- Mark every core of a partition (R414 step 1). -/
def State.markAll (s : State) (vf : BitVec 4) : State :=
  { s with cores := s.cores.map (fun e => (e.1, if e.2.isOf vf then { e.2 with marked := true } else e.2)) }

/-- The remap entry of a partition's rectangle (15 R329). -/
def Partition.entry (p : Partition) : Word :=
  BitVec.ofNat 64 (2 ^ 63 + p.hm1.toNat * 2 ^ 23 + p.wm1.toNat * 2 ^ 15 + p.py0.toNat * 2 ^ 8 + p.px0.toNat)

def Partition.sameRect (p q : Partition) : Bool := p.px0 == q.px0 && p.py0 == q.py0 && p.wm1 == q.wm1 && p.hm1 == q.hm1

/-- A context of the checkpoint with the counters that its harts held when they were stopped (R423). -/
def Partition.recounted (p : Partition) (x : Saved) : Saved :=
  match p.counters.find? (fun e => e.1 == x.core.vcore) with
  | none => x
  | some e => { x with core := { x.core with harts := Vector.ofFn (fun i =>
      let h := x.core.harts.get i
      let v := e.2.get i
      { h with cnt := v.1, ovf := v.2, ovfHeld := false, ran := modeBit h.mode, stalled := 0 }) } }

def Submitter.isHost : Submitter → Bool
  | .host _ _ _ => true
  | _ => false

/-- Host submissions since the checkpoint are appended again, in arrival order, with their IDs (R416). -/
def Partition.reappend (p : Partition) : List Launch → Partition
  | [] => p
  | l :: ls =>
    let q : BitVec 3 := BitVec.ofNat 3 l.queue
    Partition.reappend (p.setQueue q (p.queue q ++ [l.id])) ls

/-- The sectors that a region of n bytes at a touches, as offsets of their addresses from a's sector, and whether it covers them. -/
def regionSectors (a n : Nat) : List (Nat × Bool) :=
  if n = 0 then []
  else (upFrom (a / 128) ((a + n - 1) / 128 - a / 128 + 1)).map (fun q => (128 * q, decide (a ≤ 128 * q) && decide (128 * q + 128 ≤ a + n)))

/-- The poisoned sectors of a region (21 R425). -/
def State.regionPoison (s : State) (a n : Nat) : List Nat := ((regionSectors a n).filter (fun q => s.physPoison q.1)).map (·.1)

/-- Put a checkpoint's region back, with its poison. -/
def State.restoreRegion (s : State) (r : Nat × List Byte × List Nat) : State :=
  (regionSectors r.1 r.2.1.length).foldl (fun s q =>
    if r.2.2.contains q.1 then s.physMark q.1 true else if q.2 then s.physMark q.1 false else s) (s.physPutBytes r.1 r.2.1)

/-- The record at a storage, as memory holds it, is not the one for which a checkpoint notes the area: of the two that SSOPEN or SSFORK
laid out there, GEN names the one that stands (19 R385; log 65). -/
def State.laidOutSince (s : State) (vf : BitVec 4) (e : Nat × Nat) : Bool :=
  e.1 / 2 ^ 48 != vf.toNat || recGEN (s.recRead vf (e.1 % 2 ^ 48) 128) != recGEN e.2

/-- A rolled-back partition that becomes resident takes its checkpoint (R415, R416): contexts, launches, queues, regions. The sums of a
launch start anew: none of its accesses is on its way (18 R377). -/
def State.restore (s : State) (vf : BitVec 4) : State :=
  let p := s.part vf
  match p.restore, p.checkpoint with
  | true, some ck =>
    let again := p.sinceCheckpoint.filter (fun l => l.submitter.isHost)
    let q := { p with restore := false, saved := ck.contexts.map p.recounted, queues := ck.queues, counters := [], sinceCheckpoint := again }
    let s := ck.regions.foldl State.restoreRegion s
    { s.setPart vf (q.reappend again) with
      areas := ck.areas.foldl (fun m e => if s.laidOutSince vf e then m else mapSet m e.1 e.2) s.areas,
      launches := s.launches.filter (fun l => l.vf != vf) ++ ck.launches.map (fun l => { l with sentCount := 0, recvCount := 0, agreed := 0 }) ++ again }
  | _, _ => s

/-- Steps 2 to 4 of R414: A is non-resident, B's remap entry is written, B is resident. -/
def State.finishSwitch (s : State) (a b : BitVec 4) : State :=
  ((s.modPart a (fun p => { p with resident := false, switchTo := none })).modPart b
    (fun p => { p with resident := true, remap := p.entry })).restore b

/-- WORLD_SWITCH (R414): its first firing marks A's cores; one after they are saved makes B resident. -/
def execWorldSwitch (a b : BitVec 4) (s : State) : Out :=
  let p := s.part a
  let q := s.part b
  .next (if a = b ∨ p.valid = false ∨ q.valid = false ∨ p.resident = false ∨ p.sameRect q = false then s
    else match p.switchTo with
      | none => (s.markAll a).modPart a (fun p => { p with switchTo := some b })
      | some t => if t = b ∧ p.rolledBack = false ∧ s.liveCores a = [] then s.finishSwitch a b else s)

/-! Rollback. -/

/-- Drop what waits in an engine's queue. -/
def EngineSt.dropQueue (x : EngineSt) : EngineSt := { x with queue := [] }

/-- The harts of an unsaved core stop; queued commands and the Casement run are discarded (R415). -/
def Core.stopUnsaved (k : Core) : Core :=
  { k with draining := true, matrix := k.matrix.dropQueue, copy := k.copy.dropQueue, exponent := k.exponent.dropQueue,
           cas := { k.cas with state := if k.cas.state = .running then .stopped else k.cas.state, waiting := none, fault := none, wantsQ := none } }

/-- An engine has nothing in performance, or a command that is over and whose token finds no room: the rollback discards it. -/
def EngineSt.over (x : EngineSt) : Bool := x.run.isNone || x.work.ended

/-- A stopped core has nothing in progress that can still complete. -/
def State.quiesced (s : State) (c : Nat) : Bool :=
  let k := s.core c
  hartNos.all (fun h => !(k.hart h).completing) && k.matrix.over && k.exponent.over && (k.copy.over || s.copyWaits c)

/-- The counters of a core's harts, by virtual core. -/
def Core.counters (k : Core) : Nat × Vector (Vector Word 4 × BitVec 4) 4 := (k.vcore, vmap (fun h => (h.cnt, h.ovf)) k.harts)

/-- Discard the contexts of an unsaved core; its accesses on their way go on, its dirty cache bytes go home; what waits to replace the core
or its column may take effect (21 R427). -/
def State.discardCore (s : State) (c : Nat) : State :=
  let s := ((s.flush c (fun _ => true) true).orphan c hartNos).setCore c {}
  ({ s with net := s.net.filter (fun r => !r.unawaited c) } : State).replace c

/-- The accesses of a partition that are on their way when it is rolled back count for no launch any more (18 R377). -/
def State.uncount (s : State) (vf : BitVec 4) : State :=
  { s with net := updWhere (fun r => r.vf == vf && r.src != .dispatcher) (fun r => { r with launch := 0 }) s.net }

/-- Every running launch of a partition without a checkpoint ends FAILED, with CAUSE 0 and FINFO 0xFFFFFFFF whatever it met before; the
waiting ones are CANCELLED (R415). -/
def State.failAll (s : State) (vf : BitVec 4) : State :=
  (s.launches.filter (fun l => l.vf == vf && l.state != .ended)).foldl (fun s l =>
    if l.state = .running then
      (s.failLaunch l.id 0 0 0xFFFFFFFF).modLaunch l.id (fun l =>
        { l with failure := some (0, 0xFFFFFFFF, 0), groups := l.groups.map (fun g => { g with ended := true }) })
    else s.dismiss l .cancelled) s

/-- The 16 bytes that report a rollback (23 R443). -/
def rollbackBytes (vf : BitVec 4) (ckseq : BitVec 32) : List Byte := bytesOfLE 4 0xFFFFFFFF ++ bytesOfLE 4 vf.toNat ++ bytesOfLE 8 ckseq.toNat

/-- The rollback itself (R415): contexts saved and unsaved are discarded, a pending checkpoint is dropped, the host is told; the counters
of what stops count up to here (R423). -/
def State.rollback (s : State) (vf : BitVec 4) : State :=
  let p := s.part vf
  let cs := s.liveCores vf
  let s := cs.foldl State.accrueCore s
  let counters := cs.map (fun c => (s.core c).counters) ++ p.saved.map (fun x => x.core.counters)
  let s := cs.foldl (fun s c => s.discardCore c) s
  let s := if p.ckseq = 0 then s else s.uncount vf
  let s := s.modPart vf (fun p =>
    { p with rolledBack := false, restore := p.ckseq != 0, requested := none, saved := [], counters := counters })
  let s := if p.ckseq = 0 then s.failAll vf else s
  s.tellHost (.rollback vf (rollbackBytes vf p.ckseq))

/-- SWITCH_DEADLINE (R415): its first firing stops the unsaved cores; one after they have stopped rolls the partition back. -/
def execSwitchDeadline (vf : BitVec 4) (s : State) : Out :=
  let p := s.part vf
  let cs := s.liveCores vf
  .next (if p.switchTo.isNone then s
    else if p.rolledBack then (if cs.all s.quiesced then s.rollback vf else s)
    else if cs = [] then s
    else (cs.foldl (fun s c => s.modCore c Core.stopUnsaved) s).modPart vf (fun p => { p with rolledBack := true }))

/-! Checkpoints (R417). -/

/-- CHECKPOINT_REQUEST: a request that its home has performed evicts every core of the partition, with no deadline. -/
def execCheckpointRequest (vf : BitVec 4) (s : State) : Out :=
  .next (if (s.part vf).requested.isSome then s.markAll vf else s)

/-- What a checkpoint keeps. -/
def State.takeCheckpoint (s : State) (vf : BitVec 4) (n : BitVec 32) : Checkpoint :=
  let p := s.part vf
  { seq := n, contexts := p.saved, launches := s.launches.filter (fun l => l.vf == vf), queues := p.queues, serial := p.serial,
    regions := p.checkpointList.map (fun r => (r.1, s.physBytes r.1 r.2, s.regionPoison r.1 r.2)),
    areas := s.areas.filter (fun e => e.1 / 2 ^ 48 == vf.toNat) }

/-- Write CKSEQ to offset 8 of the doorbell page. -/
def State.answerDoorbell (s : State) (vf : BitVec 4) (n : BitVec 32) : State :=
  match (s.part vf).doorbell with
  | none => s
  | some va => s.onHomeWrite vf (va + 8) ⟨false, true⟩ s (fun s x y pa => s.homeWrite x y pa 8 n.toNat)

/-- CHECKPOINT_COMPLETE: every core is saved, and no rollback has discarded what they held or is under way. -/
def execCheckpointComplete (vf : BitVec 4) (s : State) : Out :=
  .next (match (s.part vf).requested with
    | none => s
    | some n =>
      if s.liveCores vf ≠ [] ∨ (s.part vf).restore = true ∨ (s.part vf).rolledBack = true then s
      else
        let ck := s.takeCheckpoint vf n
        (s.modPart vf (fun p => { p with checkpoint := some ck, ckseq := n, requested := none, sinceCheckpoint := [] })).answerDoorbell vf n)

end Sys2Proof.Machine
end

