-- ==== Sys2Proof/Machine/Errors.lean ====
section
/-! DEFINITION. Errors that the hardware finds and how they are contained: code lines (08 R189), the scrubber (R190), slices
(13 R323), links (21 R426), cores and columns (13 R306; 15 R326), spares (21 R427), heat (R430). A step that is not enabled
leaves the module as it is. -/

namespace Sys2Proof.Machine

/-! Code lines (R189). -/

/-- An uncorrectable error in the code line at an offset: a line that the core has written is poisoned, another waits for
its repair. -/
def State.codeError (s : State) (c line : Nat) : State :=
  let s := s.logBeline (.codeError c line)
  s.modCore c (fun k =>
    if k.codeWritten.contains line then { k with codePoison := setAdd k.codePoison line } else { k with codeStall := setAdd k.codeStall line })

/-- An offset names a code line of a core. -/
def Core.isCodeLine (k : Core) (line : Nat) : Bool := k.vf.isSome && line % 512 == 0 && decide (line < k.codesz.toNat)

/-- CODE_LINE_ERROR (R189). -/
def execCodeLineError (c line : Nat) (s : State) : Out := .next (if (s.core c).isCodeLine line then s.codeError c line else s)

/-- The code section of the image of a core's context, where its check value is right. -/
def State.goodCode (s : State) (c : Nat) : Option (List Byte) :=
  let k := s.core c
  let vf := k.vf.getD 0
  (s.vaBytes vf k.image.toNat 1).bind (fun hb =>
    let h := leOfBytes hb
    (s.vaBytes vf (k.image.toNat + 64) (bits h 95 64 / 64)).bind (fun code => if crc32c code = bits h 159 128 then some code else none))

/-- The reads of `goodCode` have been made (15 R335). -/
def State.codeWalked (s : State) (c : Nat) : State :=
  let k := s.core c
  let vf := k.vf.getD 0
  match s.vaBytes vf k.image.toNat 1 with
  | none => s.vaWalked vf k.image.toNat 1
  | some hb => s.vaWalked vf k.image.toNat (1 + bits (leOfBytes hb) 95 64 / 64)

/-- CODE_REPAIR (R189): `imageOk` is false where the line's bytes cannot be read. -/
def execCodeRepair (c line : Nat) (imageOk : Bool) (s : State) : Out :=
  let k := s.core c
  .next (if k.codeStall.contains line then
      match (if imageOk then s.goodCode c else none) with
      | some code =>
        (s.modCore c (fun k => { k.putBytes line ((code.drop line).take 512) with codeStall := setDel k.codeStall line })).logBeline (.corrected line)
      | none => (if imageOk then s.codeWalked c else s).modCore c (fun k => { k with codeStall := setDel k.codeStall line, codePoison := setAdd k.codePoison line })
    else s)

/-! The scrubber (R190): lines of local memory, 64 to a way. -/

/-- The scratch way, counted from 0, that a physical way is. -/
def Core.wayRank (k : Core) (w : Nat) : Nat := Alu.ones (k.waymask.toNat % 2 ^ w) 12

/-- An uncorrectable error in a sector of a scratch line or of a cache way. -/
def State.sectorError (s : State) (c line : Nat) (sector : BitVec 2) : State :=
  let k := s.core c
  let w := line / 64
  if bit k.waymask.toNat w then
    let off := 32768 * k.wayRank w + line % 64 * 512
    if off < k.codesz.toNat then s.codeError c off
    else (s.modCore c (fun k => { k with lpoison := setAdd k.lpoison (4 * line + sector.toNat) })).logBeline (.poisoned (4 * line + sector.toNat))
  else
    let hit := fun (x : Sector) => x.way == w && x.addr / 512 % 64 == line % 64 && x.addr / 128 % 4 == sector.toNat
    (s.modCore c (fun k =>
      { k with cache := (k.cache.filter (fun x => !(hit x && x.dirty == 0))).map (fun x => if hit x then { x with poison := true } else x) })).logBeline
        (.poisoned (4 * line + sector.toNat))

/-- The scrubber's lines: 768 of local memory, then the 512 of the matrix operand memory, of 128 bytes each (10 R266; log 73). -/
def localLines : Nat := 768
def scrubLines : Nat := localLines + 512

/-- An uncorrectable error in a line of the operand memory. -/
def State.operandError (s : State) (c line : Nat) : State :=
  (s.modCore c (fun k => { k with opPoison := setAdd k.opPoison (line - localLines) })).logBeline (.poisoned line)

/-- SCRUB (R190). -/
def execScrub (c line : Nat) (err : ScrubError) (s : State) : Out :=
  .next (if (s.core c).vf.isNone ∨ scrubLines ≤ line then s
    else match err with
      | .clean => s
      | .correctable => s.logBeline (.corrected line)
      | .uncorrectable sector => if line < localLines then s.sectorError c line sector else s.operandError c line)

/-! Slices (R323) and HBM (21 R424 to R426). -/

/-- Poison the four sectors of a physical line where they lie. -/
def State.poisonLine (s : State) (line : Nat) : State :=
  ((upFrom (4 * line) 4).foldl (fun s q => s.physMark (128 * q) true) s).logBeline (.poisoned (512 * line))

/-- Whether a sector of a slice's line is present, and then whether it is dirty. -/
def State.sectorState (s : State) (x y line : Nat) (sector : BitVec 2) : Option Bool :=
  match s.lineAt x y line with
  | some l => if l.has sector.toNat then some (bit l.dirty.toNat sector.toNat) else none
  | none => none

/-- A way of slice (x, y) leaves service at an error in its tag or state for the set of a line: the line there is lost, its other lines
go to HBM as at a replacement. -/
def State.withdrawWay (s : State) (x y line way : Nat) (lose : State → SliceLine → State) : State :=
  let t := (s.slices.filter (fun l => l.x == x && l.y == y && l.way == way)).foldl (fun s l =>
    if sliceSet l.line = sliceSet line then lose s l else s.evictLine l) s
  t.modCluster x y (fun k => { k with withdrawn := setAdd k.withdrawn way })

/-- A line whose tag or state is lost is treated as dirty and poisoned: its sectors go to HBM so. -/
def State.loseLine (s : State) (l : SliceLine) : State :=
  ((upFrom 0 4).foldl (fun s i => { s with hbmPoison := setAdd s.hbmPoison (4 * l.line + i) }) (s.evictLine { l with dirty := 15 })).logBeline (.poisoned (512 * l.line))

/-- The check value that is stored with a sector is another than its bytes give. -/
def State.breakCheck (s : State) (q : Nat) (stored : BitVec 32) : State :=
  match s.holder (128 * q) with
  | some l => s.modLine l.x l.y l.line (fun l => { l with checks := mapSet l.checks (q % 4) stored })
  | none => { s with checks := mapSet s.checks q stored }

/-- SLICE_ERROR (R323; 21 R424 to R426): `checkValue` is found at the next consumer. -/
def execSliceError (x y : Nat) (place : SlicePlace) (s : State) : Out :=
  .next (match place with
    | .cleanSector line sector =>
      if s.sectorState x y line sector = some false then
        (s.modLine x y line (fun l => { l with valid := flagSector l.valid sector.toNat false, checks := mapErase l.checks sector.toNat })).logBeline (.corrected (512 * line))
      else s
    | .dirtySector line sector =>
      if s.sectorState x y line sector = some true then
        (s.modLine x y line (fun l => { l with poison := flagSector l.poison sector.toNat true })).logBeline (.poisoned (512 * line + 128 * sector.toNat))
      else s
    | .tag line way => s.withdrawWay x y line way.toNat State.loseLine
    | .jambBuffer line => s.poisonLine line
    | .routerBuffer => s.logBeline (.corrected (clusterKey x y))
    | .corrected line => s.logBeline (.corrected (512 * line))
    | .checkValue q stored => s.breakCheck q stored)

/-- LINK_RETRY (21 R426; 13 R308): a damaged flit is repeated in order. -/
def execLinkRetry (id : Nat) (s : State) : Out := .next (if (s.reqAt id).isSome then s.logBeline (.corrected id) else s)

/-! Cores and columns. -/

/-- CORE_FAILURE (13 R306): a context error where a context runs on the core. -/
def execCoreFailure (c : Nat) (s : State) : Out := .next ((if (s.core c).vf.isSome then s.contextError c else s).loseCore c)

/-- COLUMN_FAILURE (15 R326): its routers forward no traffic, or it is the die's third. -/
def execColumnFailure (die : Nat) (s : State) : Out := .next (s.loseDie die)

/-- DIE_OVERTEMP (21 R430). -/
def execDieOvertemp (die : Nat) (s : State) : Out := .next ((s.dieError die).modDie die (fun d => { d with stopped := true }))

/-- THERMAL_THROTTLE (R430): the clock is stepped down, which changes timing alone. -/
def execThermalThrottle (die : Nat) (s : State) : Out := .next (s.modDie die (fun d => { d with clockSteps := d.clockSteps + 1 }))

/-- SPARE_REMAP (21 R427). -/
def execSpareRemap (k : SpareKind) (s : State) : Out :=
  .next (match k with
    | .core x y p => s.askRetire (coreKey x y p.toNat)
    | .column die c => s.spareColumn die c.toNat
    | .meshLane _ _ | .etherLane _ => s.logBeline (.laneReplaced k))

/-- HBM_CHANNEL_COPY (21 R427; 19 R381): no address changes. -/
def execHbmChannelCopy (channel : Nat) (s : State) : Out := .next (s.logBeline (.channelCopied channel))

end Sys2Proof.Machine
end

