-- ==== Sys2Proof/Machine/Beline.lean ====
section
/-! DEFINITION. Beline's management steps: partitions (21 R411, R412), configuration (13 R305, R311; 15 R325 to R336; 21 R431; 23
R436, R442), firmware and attestation (21 R428, R429). A step that is not enabled leaves the module as it is. -/

namespace Sys2Proof.Machine

/-! Partitions. -/

/-- Two rectangles have no cluster in common. -/
def Partition.apart (p q : Partition) : Bool :=
  !(overlaps p.px0.toNat (p.wm1.toNat + 1) q.px0.toNat (q.wm1.toNat + 1) && overlaps p.py0.toNat (p.hm1.toNat + 1) q.py0.toNat (q.hm1.toNat + 1))

/-- A rectangle (or a group mask) lies in the grid of 256 × 100 clusters. -/
def inGrid (x0 y0 wm1 hm1 : Nat) : Bool := decide (x0 + wm1 ≤ 255) && decide (y0 + hm1 ≤ 99)

/-- The bits of a group mask or a remap entry that are not reserved. -/
def maskBitsOf (w : Word) : Word := w &&& 0x800000003FFFFFFF

/-- A group mask that always holds (R311). -/
def groupMaskOk (m : Word) : Bool := inGrid (bits m.toNat 7 0) (bits m.toNat 14 8) (bits m.toNat 22 15) (bits m.toNat 29 23)

/-- A world-switch deadline in its range (R412). -/
def deadlineOk (us : BitVec 24) : Bool := decide (100 ≤ us.toNat) && decide (us.toNat ≤ 1000000)

/-- The partition of a specification, not yet resident. -/
def partitionOf (p : PartitionSpec) : Partition :=
  { valid := true, px0 := p.px0, py0 := p.py0, wm1 := p.wm1, hm1 := p.hm1, deadline := p.deadline, ptroot := p.ptroot &&& 0x3FFFFE00000,
    masks := (Vector.replicate 8 0).set 0 (maskBitsOf p.mask0), trapVector := p.trapVector &&& 0x1FFFC, doorbell := some p.doorbell.toNat }

/-- The table that the entry at pa points to; where it points to none, Beline writes a pointer to the table at t (R333, R334). -/
def State.tableAt (s : State) (pa t : Nat) : State × Nat :=
  match pointerOf (s.physLE pa 8) with
  | some t => (s, t)
  | none => (s.physPutBytes pa (bytesOfLE 8 (t + 1)), t)

/-- Map the doorbell page: R = W = 1, C = 0, the partition as its owner (R417); its home is hashed over group mask 0 (log 49). -/
def State.mapDoorbell (s : State) (p : PartitionSpec) : State :=
  let va := p.doorbell.toNat
  let a := s.tableAt (bits p.ptroot.toNat 41 21 * 2 ^ 21 + 8 * bits va 47 30) p.level2
  let b := a.1.tableAt (a.2 + 8 * bits va 29 21) p.level3
  b.1.physPutBytes (b.2 + 8 * bits va 20 16) (bytesOfLE 8 (p.page + 0x33 + 2 ^ 44 + p.vf.toNat * 2 ^ 45))

/-- The addresses that Beline gives the doorbell (R333, R335). -/
def doorbellOk (p : PartitionSpec) : Bool :=
  p.doorbell.toNat % 2 ^ 16 == 0 && decide (p.doorbell.toNat < 2 ^ 48) && p.page % 2 ^ 16 == 0 && decide (p.page + 2 ^ 16 ≤ Config.hbmBytes) &&
    p.level2 % 2 ^ 12 == 0 && p.level3 % 2 ^ 8 == 0 && decide (p.level2 + 2 ^ 12 ≤ Config.hbmBytes) && decide (p.level3 + 2 ^ 8 ≤ Config.hbmBytes)

/-- The rectangle of a new partition lies in the grid, and coincides with or lies apart from every other (R412). -/
def State.rectOk (s : State) (p : Partition) : Bool :=
  inGrid p.px0.toNat p.py0.toNat p.wm1.toNat p.hm1.toNat &&
    s.partitions.toList.all (fun q => !q.valid || p.sameRect q || p.apart q)

/-- PARTITION_CREATE (R411, R412): it is resident where no other partition holds its rectangle; the host learns the address
of its doorbell page, which Beline maps (R417). -/
def execPartitionCreate (p : PartitionSpec) (s : State) : Out :=
  let q := partitionOf p
  .next (if s.booted = false ∨ (s.part p.vf).valid = true ∨ s.rectOk q = false ∨ deadlineOk p.deadline = false ∨
        p.mask0.msb = false ∨ groupMaskOk p.mask0 = false ∨ doorbellOk p = false then s
    else
      let free := !(s.partitions.toList.any (fun r => r.valid && r.resident && r.sameRect q))
      ((s.mapDoorbell p).setPart p.vf { q with resident := free, remap := if free then q.entry else 0 }).tellHost (.doorbellAt p.vf p.doorbell))

/-- PARTITION_DESTROY (R411): none of its contexts is on a core, and nothing of it is on its way. -/
def execPartitionDestroy (vf : BitVec 4) (s : State) : Out :=
  .next (if (s.part vf).valid = false ∨ s.liveCores vf ≠ [] ∨ s.net.any (fun r => r.vf == vf) = true then s
    else { s.setPart vf {} with
        launches := s.launches.filter (fun l => l.vf != vf), trans := s.trans.filter (fun e => e.vf != vf) })

/-! Configuration. -/

/-- A context's tables change only while it is evicted, and its slice translation entries go with them (15 R336). -/
def State.whileEvicted (s : State) (vf : BitVec 4) (f : State → State) : State :=
  if (s.part vf).valid ∧ s.liveCores vf = [] then f { s with trans := s.trans.filter (fun e => e.vf != vf) } else s

def State.ofPart (s : State) (vf : BitVec 4) (f : Partition → Partition) : State := if (s.part vf).valid then s.modPart vf f else s

/-- Map a virtual core number of a cluster to a physical core: both free, the new one working and not in use. -/
def State.setCoreMap (s : State) (x y : Nat) (v : BitVec 4) (p : BitVec 5) : State :=
  let k := s.cluster x y
  let old := (k.coreMap.get ⟨v.toNat, v.isLt⟩).toNat
  if p.toNat < 17 ∧ bit k.health.toNat p.toNat = true ∧ k.coreMap.toList.contains p = false ∧
      (s.core (coreKey x y old)).vf.isNone = true ∧ (s.core (coreKey x y p.toNat)).vf.isNone = true then
    s.modCluster x y (fun k => { k with coreMap := k.coreMap.set v.toNat p v.isLt })
  else s

/-- The configuration word of a cluster (13 R305). -/
def State.clusterWord (s : State) (x y : Nat) : Word :=
  let k := s.cluster x y
  BitVec.ofNat 64 (k.spslot.toNat * 2 ^ 18 + k.health.toNat * 2 + b2n (isW (coreKey x y 0)))

/-- SPSLOT names a physical core, or none with 31 (13 R305). -/
def spslotOk (n : Nat) : Bool := decide (n ≤ 16) || n == 31

/-- BELINE_CONFIG_WRITE: reserved and read-only bits of a written word are ignored; a word is read as well as written (13 R305). -/
def execBelineConfigWrite (w : ConfigWrite) (s : State) : Out :=
  .next (match w with
    | .cluster x y word =>
      if x < 256 ∧ y < 100 ∧ spslotOk (bits word.toNat 22 18) = true then
        s.modCluster x y (fun k => { k with spslot := BitVec.ofNat 5 (bits word.toNat 22 18), health := BitVec.ofNat 17 (bits word.toNat 17 1) })
      else s
    | .coreMap x y v p => s.setCoreMap x y v p
    | .columnMap die m => s.setColMap die m
    | .remap vf entry => s.whileEvicted vf (fun s => s.modPart vf (fun p => { p with remap := maskBitsOf entry }))
    | .ptroot vf root => s.whileEvicted vf (fun s => s.modPart vf (fun p => { p with ptroot := root &&& 0x3FFFFE00000 }))
    | .groupMask vf k mask =>
      if groupMaskOk mask && (k != 0 || mask.msb) then
        s.whileEvicted vf (fun s => s.modPart vf (fun p => { p with masks := p.masks.set k.toNat (maskBitsOf mask) k.isLt }))
      else s
    | .pageEntry vf pa entry =>
      if pa % 8 = 0 ∧ pa + 8 ≤ Config.hbmBytes then s.whileEvicted vf (fun s => s.physPutBytes pa (bytesOfLE 8 entry.toNat)) else s
    | .deadline vf us => if deadlineOk us then s.ofPart vf (fun p => { p with deadline := us }) else s
    | .trapVector vf v => s.ofPart vf (fun p => { p with trapVector := v &&& 0x1FFFC })
    | .checkpointList vf regions => s.ofPart vf (fun p => { p with checkpointList := regions })
    | .peer vf module entry =>
      s.ofPart vf (fun p => { p with peers := if module = 2047 then p.peers else mapSet p.peers module.toNat (entry &&& 0xE0F00000FFFFFFFF) })
    | .endpoint vf e => s.ofPart vf (fun p => { p with endpoints := setAdd p.endpoints e })
    | .fabricNumber n => { s with fabricNo := n }
    | .powerBudget vf n => s.ofPart vf (fun p => { p with budget := n })
    | .sleepCeiling d => if d = 3 then s else { s with sleepCeiling := d }
    | .restoreWay x y way => s.modCluster x y (fun k => { k with withdrawn := setDel k.withdrawn way.toNat })
    | .readCluster x y => if x < 256 ∧ y < 100 then s.logBeline (.clusterRead x y (s.clusterWord x y)) else s)

/-! Firmware and attestation. -/

/-- The digest of a firmware image: its version, then its code (log 13). -/
def imageDigest (i : FirmwareImage) : BitVec 512 := sha512 (bytesOfLE 4 i.version.toNat ++ i.code)

/-- A firmware image that may be loaded (R428): its key is the fused one, its signature is valid over its digest, its version is not
older than the fused counter. -/
def imageGood (i : FirmwareImage) : Bool :=
  decide (sha512 (keyBytes i.publicKey) = Config.bootKeyHash) && ed25519Valid i.publicKey (digestBytes (imageDigest i)) i.signature &&
    decide (Config.antiRollback ≤ i.version.toNat)

/-- Take a firmware stage: its digest joins the measurement log (R429). -/
def State.takeFirmware (s : State) (i : FirmwareImage) : State :=
  { s with booted := true, firmware := i.version.toNat, measured := s.measured ++ [imageDigest i] }

/-- BOOT (R428). -/
def execBoot (img : FirmwareImage) (s : State) : Out :=
  .next (if s.booted then s else if imageGood img then s.takeFirmware img else s.logBeline .rejectedBoot)

/-- FIRMWARE_UPDATE (R428). -/
def execFirmwareUpdate (img : FirmwareImage) (s : State) : Out :=
  .next (if s.booted = false then s else if imageGood img then s.takeFirmware img else s.logBeline .rejectedUpdate)

/-- The digest of the measurement log. -/
def State.logDigest (s : State) : BitVec 512 := sha512 (s.measured.flatMap digestBytes)

/-- QUOTE_REQUEST (R429): the signature over SHA-512 of the nonce and the log digest, with the log. -/
def execQuoteRequest (endpoint : Nat) (nonce : List Byte) (s : State) : Out :=
  .next (if s.booted then
      s.tellHost (.quote endpoint (ed25519Sign Config.identityKey (digestBytes (sha512 (nonce ++ digestBytes s.logDigest)))) s.measured)
    else s)

end Sys2Proof.Machine
end

