-- ==== Sys2Proof/Machine/Branch.lean ====
section
/-! DEFINITION. Branches and jumps, majors 0x0B to 0x0E (04 R115 to R119). -/

namespace Sys2Proof.Machine

/-- The target of a branch or jump, pc + 4n, as an exact integer (02 R37). -/
def target (pc : Word) (n : Int) : Int := (pc.toNat : Int) + n * 4

/-- BOUNDS of a target outside the code region (R116). -/
def State.targetCheck (s : State) (t : Int) : Option Trap :=
  if t < 0 ∨ (s.cc.codesz.toNat : Int) ≤ t then some ⟨cBOUNDS, wrap t, 0⟩ else none

/-- Retire a taken transfer: one unit of credit, then none is left (02 R45). -/
def State.transfer (s : State) (t : Word) (d : BitVec 5) (link : Word) : State :=
  s.mapHart (fun h => ((h.wg d link).retireTo t [.g d] 0).endCredit)

/-- A taken branch or JMP. -/
def State.jumpTo (s : State) (n : Int) : State :=
  let t := target s.hart.pc n
  s.guarded [s.targetCheck t] (fun s => s.transfer (wrap t) 0 0)

/-- A conditional branch (R116): the target is checked only where it is taken. -/
def State.branch (s : State) (taken : Bool) (o : BitVec 13) : State :=
  if taken then s.jumpTo o.toInt else s.retire

/-- BEQ (02 R38, R116). -/
def execBeq (a b : BitVec 5) (o : BitVec 13) (s : State) : Out := .next (s.branch (s.rg a == s.rg b) o)

/-- BNE (02 R38, R116). -/
def execBne (a b : BitVec 5) (o : BitVec 13) (s : State) : Out := .next (s.branch (s.rg a != s.rg b) o)

/-- BLT (02 R38, R116). -/
def execBlt (a b : BitVec 5) (o : BitVec 13) (s : State) : Out := .next (s.branch ((s.rg a).slt (s.rg b)) o)

/-- BGE (02 R38, R116). -/
def execBge (a b : BitVec 5) (o : BitVec 13) (s : State) : Out := .next (s.branch ((s.rg b).sle (s.rg a)) o)

/-- BLTU (02 R38, R116). -/
def execBltu (a b : BitVec 5) (o : BitVec 13) (s : State) : Out := .next (s.branch ((s.rg a).ult (s.rg b)) o)

/-- BGEU (02 R38, R116). -/
def execBgeu (a b : BitVec 5) (o : BitVec 13) (s : State) : Out := .next (s.branch ((s.rg b).ule (s.rg a)) o)

/-- JMP (R116). -/
def execJmp (o : BitVec 26) (s : State) : Out := .next (s.jumpTo o.toInt)

/-- JAL (R117): BOUND_WRITE of g31 first, then the target. -/
def execJal (o : BitVec 26) (s : State) : Out :=
  let t := target s.hart.pc o.toInt
  .next (s.guarded [s.boundCheck 31, s.targetCheck t] (fun s => s.transfer (wrap t) 31 (s.hart.pc + 4)))

/-- The target of JALR (R118). -/
def jalrTarget (a : Word) (i : BitVec 16) : Word := a + i.signExtend 64

/-- JALR (R118): BOUND_WRITE, then ALIGN, then BOUNDS. -/
def execJalr (d a : BitVec 5) (i : BitVec 16) (s : State) : Out :=
  let t := jalrTarget (s.rg a) i
  .next (s.guarded
    [s.boundCheck d,
     if t.toNat % 4 ≠ 0 then some ⟨cALIGN, t, 0⟩ else none,
     if s.cc.codesz.toNat ≤ t.toNat then some ⟨cBOUNDS, t, 0⟩ else none]
    (fun s => s.transfer t d (s.hart.pc + 4)))

end Sys2Proof.Machine
end

