-- ==== Sys2Proof/Machine/Debug.lean ====
section
/-! DEFINITION. Beline's debug path (06 R176 to R179). A step that is not enabled leaves the module as it is. -/

namespace Sys2Proof.Machine

/-- Hart h of core c hosts a group and has not exited. -/
def State.hostsAt (s : State) (c : Nat) (h : BitVec 2) : Bool := (s.core c).vf.isSome && (s.hartOf c h).hosts && !(s.hartOf c h).exited

/-- DEBUG_HALT (R175): the halt comes first at the hart's next boundary. -/
def execDebugHalt (c : Nat) (h : BitVec 2) (s : State) : Out :=
  .next (if s.hostsAt c h && !(s.hartOf c h).halted then s.modHart c h (fun x => { x with haltPend := true }) else s)

/-- The other harts of a hart's group on its core. -/
def Core.others (k : Core) (h : BitVec 2) : List (BitVec 2) :=
  match (k.hart h).group with
  | some g => (k.hartsOf g.launch g.group).filter (· != h)
  | none => []

/-- Hold or release the other harts of a group. -/
def Core.holdOthers (k : Core) (h : BitVec 2) (b : Bool) : Core := (k.others h).foldl (fun k i => k.modHart i (fun x => { x with held := b })) k

/-- DEBUG_STEP (R178): the others of the group are held at their boundaries, after what they have begun completes; then the hart issues
one instruction. -/
def execDebugStep (c : Nat) (h : BitVec 2) (s : State) : Out :=
  let k := (s.core c).holdOthers h true
  .next (if s.hostsAt c h && (s.hartOf c h).halted then
      let t := s.setCore c k
      if (k.others h).all (fun i => !(k.hart i).completing) then
        t.modHart c h (fun x => { x with halted := false, stepOnce := true, ibkSuppress := true })
      else t
    else s)

/-- DEBUG_RESUME (R176, R179): no breakpoint matches the first instruction. -/
def execDebugResume (c : Nat) (h : BitVec 2) (s : State) : Out :=
  .next (if s.hostsAt c h && (s.hartOf c h).halted then
      (s.modCore c (fun k => k.holdOthers h false)).modHart c h (fun x => { x with halted := false, stepOnce := false, ibkSuppress := true })
    else s)

/-- A binding-table slot from its 192 bits (01 R24). -/
def slotOfBits (v : BitVec 192) : Slot :=
  let n := v.toNat
  { valid := bit n 0, dest := BitVec.ofNat 5 (bits n 8 4), dirty := bit n 9, nm1 := BitVec.ofNat 2 (bits n 11 10),
    level := BitVec.ofNat 4 (bits n 15 12), status := BitVec.ofNat 8 (bits n 23 16), words := BitVec.ofNat 128 (bits n 191 64) }

/-- The valid entries of a rejected-store log from their 256 bits (13 R319). -/
def logOfBits (es : List (BitVec 256)) : List RejEntry :=
  (es.take 8).filterMap (fun e =>
    let n := e.toNat
    if e.msb then some ⟨BitVec.ofNat 8 (bits n 247 240), BitVec.ofNat 16 (bits n 239 224), BitVec.ofNat 64 (bits n 223 160), BitVec.ofNat 128 (bits n 127 0)⟩
    else none)

/-- Rewrite scratch bytes; a code line that is rewritten whole is no longer poisoned (08 R189). -/
def Core.debugWrite (k : Core) (off : Nat) (bs : List Byte) : Core :=
  let n := bs.length
  let whole := fun (l : Nat) => decide (off ≤ l) && decide (l + 512 ≤ off + n)
  let t := k.swrite off n (leOfBytes bs)
  { t with codePoison := t.codePoison.filter (fun l => !whole l), codeStall := t.codeStall.filter (fun l => !whole l) }

/-- Replace the overflow entries of a hart. -/
def Core.debugOverflow (k : Core) (h : BitVec 2) (es : List (BitVec 4 × Word)) : Core :=
  let rest := k.overflow.filter (fun m => m.hart != h)
  { k with overflow := rest ++ (es.take (Config.overflowSize - rest.length)).map (fun e => ⟨h, e.1, e.2⟩) }

/-- A control register that the debug path can write: every one with a copy that software or the hardware keeps. -/
def debugWritable (n : Nat) : Bool :=
  n ≤ 0x003 || n == 0x018 || (match ctlAccess n with
    | some (_, v) => v.read && v.write
    | none => false)

/-- The status of an engine's queue, written: the oldest `waiting` commands stay queued, and the one in performance stays where
`running`. A command that is dropped has no effect from then on; Beline can name none that is not there. The spec does not say what the
status of a queue holds (DESIGN CHOICE, log 74). -/
def Core.debugQueue (k : Core) (e : Engine) (waiting : Nat) (running : Bool) : Core :=
  let x := k.eng e
  k.setEng e { x with queue := x.queue.take waiting, run := if running then x.run else none, work := if running then x.work else {} }

/-- CASST, written (11 R283): UPC is the next microword of a running sequencer. -/
def Casement.setCasst (c : Casement) (v : Word) : Casement :=
  let n := v.toNat
  let u := BitVec.ofNat 8 (bits n 39 32)
  let st : RunState := match bits n 1 0 with
    | 0 => .idle
    | 1 => .running
    | 2 => .stopped
    | _ => .faulted
  { c with mrows := BitVec.ofNat 16 (bits n 63 48), cause := BitVec.ofNat 8 (bits n 47 40), foff := BitVec.ofNat 24 (bits n 31 8),
           flags := BitVec.ofNat 6 (bits n 7 2), state := st, upc := if st = .running then u else c.upc,
           casUpc := if st = .running then c.casUpc else u }

/-- DEBUG_ACCESS (R179): of a halted hart. A read gives Beline the hart with all that its core holds: registers, binding table, log,
overflow entries, engines, sequencer, local-memory state (05 R154; 08 R183; 11 R281), and the watchpoints of its partition. A write
triggers no pass and raises nothing; a pc outside the code region is not written (01 R15). HARTID, CORXY and VFID written here are what
the hart reads of them; where the hart is does not change (log 74). -/
def execDebugAccess (c : Nat) (h : BitVec 2) (x : DebugAccess) (s : State) : Out :=
  let a := s.hartOf c h
  .next (if (s.hostsAt c h && a.halted) = false then s
    else match x with
      | .read =>
        let s := s.accrueAt c h
        s.logBeline (.debugRead c h (s.core c) (s.part ((s.core c).vf.getD 0)).dwt)
      | .readObject off n => if off + n ≤ (s.core c).scratchSize then s.logBeline (.debugObject c off (bytesOfLE n ((s.core c).sread off n))) else s
      | .writePc v => if (v &&& 0x1FFFC).toNat < (s.core c).codesz.toNat then s.modHart c h (fun a => { a with pc := v &&& 0x1FFFC, pastEnd := false }) else s
      | .writeMode b => s.modHart c h (fun a => let m : Mode := if b then .supervisor else .program
          { a with mode := m, ran := a.ran ||| modeBit m })
      | .writeG r v => s.modHart c h (fun a => a.wg r v)
      | .writeM r v full => s.modHart c h (fun a => (a.wm r v).setFull r full)
      | .writeV r v => s.modHart c h (fun a => a.wv r v)
      | .writeControl n v =>
        if debugWritable n.toNat then { ((s.accrueAt c h).as c h).ctlWrite n.toNat v with cur := s.cur } else s
      | .writeSlot k v => s.modHart c h (fun a => a.setSlot k (slotOfBits v))
      | .writeOrscnt v => s.modHart c h (fun a => { a with orsLocal := BitVec.ofNat 16 (bits v.toNat 15 0), orsFab := BitVec.ofNat 16 (bits v.toNat 31 16) })
      | .writeLog es => s.modHart c h (fun a => { a with rejLog := logOfBits es })
      | .writeScratch off bs => s.modCore c (fun k => if off + bs.length ≤ k.scratchSize then k.debugWrite off bs else k)
      | .writeOverflow es => s.modCore c (fun k => k.debugOverflow h es)
      | .writeSequencer i v => s.modCore c (fun k => { k with cas := { k.cas with a := k.cas.a.set i.toNat v i.isLt } })
      | .writeMicroword i v => s.modCore c (fun k => { k with cas := { k.cas with store := mapSet k.cas.store i.toNat v } })
      | .writeUpc v => s.modCore c (fun k => { k with cas := { k.cas with upc := v } })
      | .writeStarter i => s.modCore c (fun k => { k with cas := { k.cas with starter := i } })
      | .writeEngine e seq faulted record addr =>
        s.modCore c (fun k => k.modIssuer (h.setWidth 3) e (fun u => { u with seq := seq, faulted := faulted, record := record, addr := addr }))
      | .writeQueue e waiting running => s.modCore c (fun k => k.debugQueue e waiting running)
      | .writeCasst v => s.modCore c (fun k => { k with cas := k.cas.setCasst v }))

end Sys2Proof.Machine
end

