-- ==== Sys2Proof/Machine/FloatOps.lean ====
section
/-! DEFINITION. The scalar floating-point operations, major 0x09 (04 R106 to R110). -/

namespace Sys2Proof.Machine

/-- The rounding mode that a field selects, DYN from AFLAGS (02 R41, 03 R74). -/
def State.rm (s : State) (r : BitVec 3) : Rm := Alu.rmOf r s.hart.drm

/-- FADD (R107). -/
def execFadd (d a b : BitVec 5) (m n : BitVec 1) (r : BitVec 3) (p : BitVec 1) (s : State) : Out := .next (s.two d a b m n (Alu.fadd p (s.rm r)))

/-- FSUB (R107). -/
def execFsub (d a b : BitVec 5) (m n : BitVec 1) (r : BitVec 3) (p : BitVec 1) (s : State) : Out := .next (s.two d a b m n (Alu.fsub p (s.rm r)))

/-- FMUL (R107). -/
def execFmul (d a b : BitVec 5) (m n : BitVec 1) (r : BitVec 3) (p : BitVec 1) (s : State) : Out := .next (s.two d a b m n (Alu.fmul p (s.rm r)))

/-- FDIV (R107). -/
def execFdiv (d a b : BitVec 5) (m n : BitVec 1) (r : BitVec 3) (p : BitVec 1) (s : State) : Out := .next (s.two d a b m n (Alu.fdiv p (s.rm r)))

/-- FSQRT (R107). -/
def execFsqrt (d a : BitVec 5) (m : BitVec 1) (r : BitVec 3) (p : BitVec 1) (s : State) : Out := .next (s.one d a m (Alu.fsqrt p (s.rm r)))

/-- FMA (R107): the third operand is the old g[d]. -/
def execFma (d a b : BitVec 5) (m n : BitVec 1) (r : BitVec 3) (p : BitVec 1) (s : State) : Out := .next (s.two d a b m n (fun x y => Alu.fma p (s.rm r) x y (s.rg d)))

/-- FMS (R107): the third operand is the old g[d]. -/
def execFms (d a b : BitVec 5) (m n : BitVec 1) (r : BitVec 3) (p : BitVec 1) (s : State) : Out := .next (s.two d a b m n (fun x y => Alu.fms p (s.rm r) x y (s.rg d)))

/-- FMIN (R108). -/
def execFmin (d a b : BitVec 5) (m n : BitVec 1) (p : BitVec 1) (s : State) : Out := .next (s.two d a b m n (Alu.fmin p))

/-- FMAX (R108). -/
def execFmax (d a b : BitVec 5) (m n : BitVec 1) (p : BitVec 1) (s : State) : Out := .next (s.two d a b m n (Alu.fmax p))

/-- FEQ (R108). -/
def execFeq (d a b : BitVec 5) (m n : BitVec 1) (p : BitVec 1) (s : State) : Out := .next (s.two d a b m n (Alu.feq p))

/-- FLT (R108). -/
def execFlt (d a b : BitVec 5) (m n : BitVec 1) (p : BitVec 1) (s : State) : Out := .next (s.two d a b m n (Alu.flt p))

/-- FLE (R108). -/
def execFle (d a b : BitVec 5) (m n : BitVec 1) (p : BitVec 1) (s : State) : Out := .next (s.two d a b m n (Alu.fle p))

/-- FCLASS (R108). -/
def execFclass (d a : BitVec 5) (m : BitVec 1) (p : BitVec 1) (s : State) : Out := .next (s.one d a m (Alu.fclass p))

/-- FCVT (R109). -/
def execFcvt (d a : BitVec 5) (c : BitVec 4) (m : BitVec 1) (r : BitVec 3) (s : State) : Out := .next (s.one d a m (Alu.fcvt c (s.rm r)))

end Sys2Proof.Machine
end

