-- ==== Sys2Proof/Machine/Outside.lean ====
section
/-! DEFINITION. What reaches the module from outside: requests of other modules (23 R438 to R441) and RMA operations of hosts
(R435, R442). Their answers leave through `fabricOut` and `hostOut`. -/

namespace Sys2Proof.Machine

/-! Requests of other modules. -/

/-- Whether a partition's peer entry lets a partition of another module load, or store and send (R438). -/
def peerAdmits (entry : Word) (senderVf : BitVec 4) (load : Bool) : Bool :=
  entry.msb && bits entry.toNat 55 52 == senderVf.toNat && (if load then bit entry.toNat 61 else bit entry.toNat 62)

/-- An address with the module field of this module's own addresses. -/
def asOwn (a : Word) : Word := BitVec.ofNat 64 (a.toNat % 2 ^ 52 + 2 ^ 63 + 2047 * 2 ^ 52)

/-- The address form of a partitioned access of n bytes from outside (R328): a message window where `win`. -/
def formOk (a : Word) (n : Nat) (win : Bool) : Bool :=
  bits a.toNat 32 24 == 0 && decide (addrY a ≤ 99) &&
    (if win then decide (0x800000 ≤ addrOff a) && decide (addrOff a ≤ 0x8001FF) && a.toNat % 8 == 0 else decide (addrOff a + n ≤ 0x060000))

/-- Class, kind, bytes and whether it names a window. -/
def fabricShape (k : FabricKind) : Class × ReqKind × Nat × Bool :=
  match k with
  | .masked data mask => (.posted, .granule data mask 1, 16, false)
  | .load n => (.request, .load n (.one 0 n false), n, false)
  | .store bs rel => (.posted, .store bs.length (BitVec.ofNat 128 (leOfBytes bs)) rel, bs.length, false)
  | .message v => (.message, .message v, 8, true)
  | .atomic n => (.request, .load n (.one 0 n false), n, false)

def isFabricLoad (k : FabricKind) : Bool :=
  match k with
  | .load _ => true
  | _ => false

/-- A request that R435 does not support: an atomic, or a delivery mode other than RUD. -/
def fabricUnsupported (r : FabricReq) : Bool :=
  r.delivery != .rud || (match r.kind with
    | .atomic _ => true
    | _ => false)

/-- The target of a partitioned access hosts a group of the partition (13 R448): the core, or for a message window the hart. -/
def State.hostsTarget (s : State) (vf : BitVec 4) (a : Word) : Bool :=
  match s.spot vf (addrVcore a) with
  | none => false
  | some p =>
    let win := decide (0x800000 ≤ addrOff a) && decide (addrOff a ≤ 0x8001FF)
    !win || ((s.spotCore vf p).hart (winHart (addrOff a))).hosts

/-- The form of a fabric request's address: a masked granule is aligned to 16 (09 R225). -/
def fabricForm (k : FabricKind) (a : Word) : Bool :=
  let sh := fabricShape k
  sh.2.2.1 != 0 && decide (sh.2.2.1 ≤ 16) && formOk a sh.2.2.1 sh.2.2.2 && (match k with
    | .masked _ _ => a.toNat % 16 == 0
    | _ => true)

/-- FABRIC_REQUEST (R438): accepted, it goes on as a request of this module; else a Transport error carries the cause: the peer entry, the
remap entry, the target's groups, and then its offset are checked (13 R448). That of an unsupported request is log 68's. -/
def execFabricRequest (r : FabricReq) (s : State) : Out :=
  let p := s.part r.rvf
  let sh := fabricShape r.kind
  let a := asOwn r.addr
  let fail := fun (cause : BitVec 8) => { s with fabricOut := s.fabricOut ++ [.error r.module cause] }
  .next (if fabricUnsupported r then fail cBOUNDS
    else if p.valid = false ∨ peerAdmits (mapGet p.peers r.module.toNat 0) r.senderVf (isFabricLoad r.kind) = false then fail cPROT
    else if s.placed r.rvf a = false then fail cBOUNDS
    else if s.hostsTarget r.rvf a = false then fail cPROT
    else if fabricForm r.kind a = false then fail cBOUNDS
    else s.send { id := 0, src := .fabric r.module, cls := sh.1, kind := sh.2.1, ea := a, vf := r.rvf, launch := 0, off := 0, prog := false, stage := .sent })

/-! RMA operations of hosts (R435, R442). -/

/-- Bytes of the largest RMA operation. -/
def rmaLimit : Nat := 2 ^ 20

/-- The partition that a memory key names, and whether the address is a partitioned one of this module. -/
def keyVf (key : Word) : BitVec 4 := BitVec.ofNat 4 (bits key.toNat 63 60)
def keyOwn (key : Word) : Bool := bit key.toNat 59

/-- What is wrong with an operation before its target is looked at: an endpoint that is not the partition's; an atomic, a delivery
mode or a length that R435 does not support, a key with reserved bits (their cause: log 68). -/
def State.hostRefusal (s : State) (r : HostOp) (n : Nat) : Option (BitVec 8) :=
  let p := s.part (keyVf r.key)
  if p.valid = false ∨ p.endpoints.contains r.endpoint = false then some cPROT
  else if r.atomic = true ∨ r.delivery ≠ .rud ∨ bits r.key.toNat 58 0 ≠ 0 ∨ rmaLimit < n then some cBOUNDS
  else none

/-- The pieces of n bytes at an address, each within one sector: address and length. -/
def piecesOf (a n : Nat) : List (Nat × Nat) :=
  if n = 0 then []
  else (upFrom (a / 128) ((a + n - 1) / 128 - a / 128 + 1)).map (fun q => let b := max a (128 * q); (b, min (a + n) (128 * q + 128) - b))

/-- The cause with which the first piece that fails its translation refuses a global operation (R442). -/
def State.piecesFault (s : State) (vf : BitVec 4) (need : Need) (ps : List (Nat × Nat)) : Option (BitVec 8) :=
  ps.findSome? (fun p => match s.homeOf vf p.1 need with
    | .error x => some x
    | .ok _ => none)

/-- Beline logs the table entry that refuses an operation (15 R335). -/
def State.piecesWalked (s : State) (vf : BitVec 4) (need : Need) (ps : List (Nat × Nat)) : State :=
  match ps.find? (fun p => match s.homeOf vf p.1 need with
    | .error _ => true
    | .ok _ => false) with
  | some p => s.walked vf p.1
  | none => s

/-- Write pieces at their homes; check values are formed anew (21 R424). -/
def State.writePieces (s : State) (vf : BitVec 4) : List (Nat × Nat) → List Byte → State
  | [], _ => s
  | p :: ps, bs =>
    (s.onHomeWrite vf p.1 ⟨false, true⟩ s (fun s x y pa => s.homeWrite x y pa p.2 (leOfBytes (bs.take p.2)))).writePieces vf ps (bs.drop p.2)

/-- Read pieces at their homes, where their check values are checked (21 R424): the bytes, and whether any is poisoned. -/
def State.readPieces (s : State) (vf : BitVec 4) : List (Nat × Nat) → State × List Byte × Bool
  | [] => (s, [], false)
  | p :: ps =>
    let r := s.onHome vf p.1 ⟨true, false⟩ (s, 0, false) (fun s x y pa =>
      let t := s.checkedAt x y pa
      (t, t.homeRead x y pa p.2))
    let q := r.1.readPieces vf ps
    (q.1, bytesOfLE p.2 r.2.1 ++ q.2.1, r.2.2 || q.2.2)

/-- A partitioned address of a host operation names this module (R442). -/
def State.namesHere (s : State) (a : Word) : Bool := a.msb && (addrMod a == 2047 || addrMod a == s.fabricNo.toNat)

/-- The scratch that a partitioned operation of n bytes names, with its offset; or the cause that refuses it: the target's groups are
checked before its offset and range (R438, R448). -/
def State.hostSpot (s : State) (vf : BitVec 4) (addr : Word) (n : Nat) (write : Bool) : Except (BitVec 8) (Spot × Nat) :=
  if s.namesHere addr = false ∨ s.placed vf addr = false then .error cBOUNDS
  else match s.spot vf (addrVcore addr) with
    | none => .error cPROT
    | some p =>
      let k := s.spotCore vf p
      if formOk addr n false = false ∨ k.scratchSize < addrOff addr + n then .error cBOUNDS
      else if write = true ∧ addrOff addr < k.codesz.toNat then .error cPROT
      else .ok (p, addrOff addr)

/-- The address names a message window. -/
def namesWindow (addr : Word) : Bool := addr.msb && bits addr.toNat 32 24 == 0 && decide (0x800000 ≤ addrOff addr) && decide (addrOff addr ≤ 0x8001FF)

/-- The access is held while a WAYSET of its core waits (08 R187). -/
def State.hostHeld (s : State) (r : HostOp) (n : Nat) : Bool :=
  keyOwn r.key && (match s.spot (keyVf r.key) (addrVcore r.addr) with
    | some p => (s.spotCore (keyVf r.key) p).affected (addrOff r.addr) n
    | none => false)

/-- A write to a partitioned target: scratch, or a message of exactly 8 bytes. -/
def State.hostPut (s : State) (r : HostOp) (data : List Byte) : State :=
  let vf := keyVf r.key
  let fail := fun (cause : BitVec 8) => s.tellHost (.transportError r.endpoint cause)
  if namesWindow r.addr then
    if s.namesHere r.addr = false ∨ s.placed vf r.addr = false then fail cBOUNDS
    else if s.hostsTarget vf r.addr = false then fail cPROT
    else if data.length = 8 ∧ formOk r.addr 8 true = true then
      s.send { id := 0, src := .host r.endpoint, cls := .message, kind := .message (BitVec.ofNat 64 (leOfBytes data)), ea := asOwn r.addr,
               vf := vf, launch := 0, off := 0, prog := false, stage := .sent }
    else fail cBOUNDS
  else match s.hostSpot vf r.addr data.length true with
    | .error cause => fail cause
    | .ok (p, off) => (s.putSpot vf p ((s.spotCore vf p).swrite off data.length (leOfBytes data))).tellHost (.done r.endpoint)

/-- HOST_RMA_WRITE (R442): performed whole, or refused with nothing changed. -/
def execHostRmaWrite (r : HostOp) (data : List Byte) (s : State) : Out :=
  let vf := keyVf r.key
  let a := r.addr.toNat
  let ps := piecesOf a data.length
  .next (match s.hostRefusal r data.length with
    | some cause => s.tellHost (.transportError r.endpoint cause)
    | none =>
      if s.hostHeld r data.length then s
      else if keyOwn r.key then s.hostPut r data
      else match s.piecesFault vf ⟨false, true⟩ ps with
        | some cause => (s.piecesWalked vf ⟨false, true⟩ ps).tellHost (.transportError r.endpoint cause)
        | none => ((s.writePieces vf ps data).doorbell vf a data.length (leOfBytes data)).tellHost (.done r.endpoint))

/-- HOST_RMA_READ (R442; 21 R425): a poisoned sector never leaves. -/
def execHostRmaRead (r : HostOp) (len : Nat) (s : State) : Out :=
  let fail := fun (s : State) (cause : BitVec 8) => s.tellHost (.transportError r.endpoint cause)
  let vf := keyVf r.key
  let ps := piecesOf r.addr.toNat len
  .next (match s.hostRefusal r len with
    | some cause => fail s cause
    | none =>
      if s.hostHeld r len then s
      else if keyOwn r.key then
        match s.hostSpot vf r.addr len false with
        | .error cause => fail s cause
        | .ok (p, off) =>
          let k := s.spotCore vf p
          if k.spoisoned off len then fail s cPOISON else s.tellHost (.readData r.endpoint (bytesOfLE len (k.sread off len)))
      else match s.piecesFault vf ⟨true, false⟩ ps with
        | some cause => fail (s.piecesWalked vf ⟨true, false⟩ ps) cause
        | none =>
          let q := s.readPieces vf ps
          if q.2.2 then fail q.1 cPOISON else q.1.tellHost (.readData r.endpoint q.2.1))

end Sys2Proof.Machine
end

