-- ==== Sys2Proof/Machine/SliOps.lean ====
section
/-! DEFINITION. The scalar SLI operations, major 0x0A (04 R111 to R114). They pass their fault point at issue (02 R48), and
the model writes their result at issue (log 6). -/

namespace Sys2Proof.Machine

/-- LADD (R111). -/
def execLadd (d a b : BitVec 5) (m n : BitVec 1) (_l : BitVec 4) (s : State) : Out := .next (s.two d a b m n Alu.ladd)

/-- LSUB (R111). -/
def execLsub (d a b : BitVec 5) (m n : BitVec 1) (_l : BitVec 4) (s : State) : Out := .next (s.two d a b m n Alu.lsub)

/-- LMUL (R111). -/
def execLmul (d a b : BitVec 5) (m n : BitVec 1) (_l : BitVec 4) (s : State) : Out := .next (s.two d a b m n Alu.lmul)

/-- LDIV (R111). -/
def execLdiv (d a b : BitVec 5) (m n : BitVec 1) (_l : BitVec 4) (s : State) : Out := .next (s.two d a b m n Alu.ldiv)

/-- LEQ (R111). -/
def execLeq (d a b : BitVec 5) (m n : BitVec 1) (_l : BitVec 4) (s : State) : Out := .next (s.two d a b m n Alu.leq)

/-- LLT (R111). -/
def execLlt (d a b : BitVec 5) (m n : BitVec 1) (_l : BitVec 4) (s : State) : Out := .next (s.two d a b m n Alu.llt)

/-- LCVT (R113). -/
def execLcvt (d a : BitVec 5) (t : BitVec 1) (c : BitVec 4) (m : BitVec 1) (_l : BitVec 4) (s : State) : Out := .next (s.one d a m (Alu.lcvt t c))

/-- LLEVEL (R112). -/
def execLlevel (d a : BitVec 5) (m : BitVec 1) (_l : BitVec 4) (s : State) : Out := .next (s.one d a m Alu.llevel)

end Sys2Proof.Machine
end

