-- ==== Sys2Proof/Machine/Dispatch.lean ====
section
/-! DEFINITION. The one match from an instruction to its meaning. -/

namespace Sys2Proof.Machine

def exec (i : Instr) (s : State) : Host.Outcome State Fault Refusal :=
  match i with
  | .add d a b m n => Sys2Proof.Machine.execAdd d a b m n s
  | .sub d a b m n => Sys2Proof.Machine.execSub d a b m n s
  | .and d a b m n => Sys2Proof.Machine.execAnd d a b m n s
  | .or d a b m n => Sys2Proof.Machine.execOr d a b m n s
  | .xor d a b m n => Sys2Proof.Machine.execXor d a b m n s
  | .andn d a b m n => Sys2Proof.Machine.execAndn d a b m n s
  | .shl d a b m n => Sys2Proof.Machine.execShl d a b m n s
  | .shr d a b m n => Sys2Proof.Machine.execShr d a b m n s
  | .sra d a b m n => Sys2Proof.Machine.execSra d a b m n s
  | .mul d a b m n => Sys2Proof.Machine.execMul d a b m n s
  | .mulh d a b m n => Sys2Proof.Machine.execMulh d a b m n s
  | .mulhu d a b m n => Sys2Proof.Machine.execMulhu d a b m n s
  | .div d a b m n l => Sys2Proof.Machine.execDiv d a b m n l s
  | .divu d a b m n l => Sys2Proof.Machine.execDivu d a b m n l s
  | .rem d a b m n l => Sys2Proof.Machine.execRem d a b m n l s
  | .remu d a b m n l => Sys2Proof.Machine.execRemu d a b m n l s
  | .min d a b m n => Sys2Proof.Machine.execMin d a b m n s
  | .max d a b m n => Sys2Proof.Machine.execMax d a b m n s
  | .minu d a b m n => Sys2Proof.Machine.execMinu d a b m n s
  | .maxu d a b m n => Sys2Proof.Machine.execMaxu d a b m n s
  | .slt d a b m n => Sys2Proof.Machine.execSlt d a b m n s
  | .sltu d a b m n => Sys2Proof.Machine.execSltu d a b m n s
  | .seq d a b m n => Sys2Proof.Machine.execSeq d a b m n s
  | .sne d a b m n => Sys2Proof.Machine.execSne d a b m n s
  | .sel d a b m n => Sys2Proof.Machine.execSel d a b m n s
  | .clz d a m => Sys2Proof.Machine.execClz d a m s
  | .ctz d a m => Sys2Proof.Machine.execCtz d a m s
  | .popc d a m => Sys2Proof.Machine.execPopc d a m s
  | .abs d a m => Sys2Proof.Machine.execAbs d a m s
  | .addv d a b m n => Sys2Proof.Machine.execAddv d a b m n s
  | .addi d a imm => Sys2Proof.Machine.execAddi d a imm s
  | .andi d a imm => Sys2Proof.Machine.execAndi d a imm s
  | .ori d a imm => Sys2Proof.Machine.execOri d a imm s
  | .xori d a imm => Sys2Proof.Machine.execXori d a imm s
  | .slti d a imm => Sys2Proof.Machine.execSlti d a imm s
  | .sltiu d a imm => Sys2Proof.Machine.execSltiu d a imm s
  | .shli d a k => Sys2Proof.Machine.execShli d a k s
  | .shri d a k => Sys2Proof.Machine.execShri d a k s
  | .srai d a k => Sys2Proof.Machine.execSrai d a k s
  | .movi d imm => Sys2Proof.Machine.execMovi d imm s
  | .fadd d a b m n r p => Sys2Proof.Machine.execFadd d a b m n r p s
  | .fsub d a b m n r p => Sys2Proof.Machine.execFsub d a b m n r p s
  | .fmul d a b m n r p => Sys2Proof.Machine.execFmul d a b m n r p s
  | .fdiv d a b m n r p => Sys2Proof.Machine.execFdiv d a b m n r p s
  | .fsqrt d a m r p => Sys2Proof.Machine.execFsqrt d a m r p s
  | .fma d a b m n r p => Sys2Proof.Machine.execFma d a b m n r p s
  | .fms d a b m n r p => Sys2Proof.Machine.execFms d a b m n r p s
  | .fmin d a b m n p => Sys2Proof.Machine.execFmin d a b m n p s
  | .fmax d a b m n p => Sys2Proof.Machine.execFmax d a b m n p s
  | .feq d a b m n p => Sys2Proof.Machine.execFeq d a b m n p s
  | .flt d a b m n p => Sys2Proof.Machine.execFlt d a b m n p s
  | .fle d a b m n p => Sys2Proof.Machine.execFle d a b m n p s
  | .fclass d a m p => Sys2Proof.Machine.execFclass d a m p s
  | .fcvt d a c m r => Sys2Proof.Machine.execFcvt d a c m r s
  | .ladd d a b m n l => Sys2Proof.Machine.execLadd d a b m n l s
  | .lsub d a b m n l => Sys2Proof.Machine.execLsub d a b m n l s
  | .lmul d a b m n l => Sys2Proof.Machine.execLmul d a b m n l s
  | .ldiv d a b m n l => Sys2Proof.Machine.execLdiv d a b m n l s
  | .leq d a b m n l => Sys2Proof.Machine.execLeq d a b m n l s
  | .llt d a b m n l => Sys2Proof.Machine.execLlt d a b m n l s
  | .lcvt d a sb c m l => Sys2Proof.Machine.execLcvt d a sb c m l s
  | .llevel d a m l => Sys2Proof.Machine.execLlevel d a m l s
  | .beq a b o => Sys2Proof.Machine.execBeq a b o s
  | .bne a b o => Sys2Proof.Machine.execBne a b o s
  | .blt a b o => Sys2Proof.Machine.execBlt a b o s
  | .bge a b o => Sys2Proof.Machine.execBge a b o s
  | .bltu a b o => Sys2Proof.Machine.execBltu a b o s
  | .bgeu a b o => Sys2Proof.Machine.execBgeu a b o s
  | .jmp o => Sys2Proof.Machine.execJmp o s
  | .jal o => Sys2Proof.Machine.execJal o s
  | .jalr d a imm => Sys2Proof.Machine.execJalr d a imm s
  | .ld d a l z o => Sys2Proof.Machine.execLd d a l z o s
  | .st t a z o => Sys2Proof.Machine.execSt t a z o s
  | .lda d a l z o => Sys2Proof.Machine.execLda d a l z o s
  | .str t a z o => Sys2Proof.Machine.execStr t a z o s
  | .ldp d a l z o => Sys2Proof.Machine.execLdp d a l z o s
  | .stp t a z o => Sys2Proof.Machine.execStp t a z o s
  | .amo d a b l q r z o => Sys2Proof.Machine.execAmo d a b l q r z o s
  | .cas d a b l q r z => Sys2Proof.Machine.execCas d a b l q r z s
  | .fence c => Sys2Proof.Machine.execFence c s
  | .fenceS c => Sys2Proof.Machine.execFenceS c s
  | .isync => Sys2Proof.Machine.execIsync s
  | .tfence => Sys2Proof.Machine.execTfence s
  | .rbind e a b => Sys2Proof.Machine.execRbind e a b s
  | .runbind e => Sys2Proof.Machine.execRunbind e s
  | .acqX a => Sys2Proof.Machine.execAcqX a s
  | .acqS a => Sys2Proof.Machine.execAcqS a s
  | .relX a => Sys2Proof.Machine.execRelX a s
  | .relS a => Sys2Proof.Machine.execRelS a s
  | .cwb a b => Sys2Proof.Machine.execCwb a b s
  | .cinv a b => Sys2Proof.Machine.execCinv a b s
  | .binit a b => Sys2Proof.Machine.execBinit a b s
  | .barr d a l => Sys2Proof.Machine.execBarr d a l s
  | .bexp d a b => Sys2Proof.Machine.execBexp d a b s
  | .bwait a b => Sys2Proof.Machine.execBwait a b s
  | .btest d a => Sys2Proof.Machine.execBtest d a s
  | .rinit a b => Sys2Proof.Machine.execRinit a b s
  | .rpop d a b => Sys2Proof.Machine.execRpop d a b s
  | .rpush d a b => Sys2Proof.Machine.execRpush d a b s
  | .rfix a b => Sys2Proof.Machine.execRfix a b s
  | .rstat d a => Sys2Proof.Machine.execRstat d a s
  | .msend a b => Sys2Proof.Machine.execMsend a b s
  | .mtake d a => Sys2Proof.Machine.execMtake d a s
  | .mpeek d a => Sys2Proof.Machine.execMpeek d a s
  | .wait d a => Sys2Proof.Machine.execWait d a s
  | .bind d n => Sys2Proof.Machine.execBind d n s
  | .unbind d => Sys2Proof.Machine.execUnbind d s
  | .bstat d a => Sys2Proof.Machine.execBstat d a s
  | .bclr a => Sys2Proof.Machine.execBclr a s
  | .shape d a b w => Sys2Proof.Machine.execShape d a b w s
  | .wayset d a => Sys2Proof.Machine.execWayset d a s
  | .vld d a b e m p t => Sys2Proof.Machine.execVld d a b e m p t s
  | .vst d a b e m => Sys2Proof.Machine.execVst d a b e m s
  | .vldm d a b e m p t => Sys2Proof.Machine.execVldm d a b e m p t s
  | .vstm d a b e m => Sys2Proof.Machine.execVstm d a b e m s
  | .vldx d a b e m p t => Sys2Proof.Machine.execVldx d a b e m p t s
  | .vstx d a b e m => Sys2Proof.Machine.execVstx d a b e m s
  | .vadd d a b e m p t => Sys2Proof.Machine.execVadd d a b e m p t s
  | .vsub d a b e m p t => Sys2Proof.Machine.execVsub d a b e m p t s
  | .vmul d a b e m p t => Sys2Proof.Machine.execVmul d a b e m p t s
  | .vmulh d a b e m p t => Sys2Proof.Machine.execVmulh d a b e m p t s
  | .vdiv d a b e m p t => Sys2Proof.Machine.execVdiv d a b e m p t s
  | .vmin d a b e m p t => Sys2Proof.Machine.execVmin d a b e m p t s
  | .vmax d a b e m p t => Sys2Proof.Machine.execVmax d a b e m p t s
  | .vand d a b e m p t => Sys2Proof.Machine.execVand d a b e m p t s
  | .vor d a b e m p t => Sys2Proof.Machine.execVor d a b e m p t s
  | .vxor d a b e m p t => Sys2Proof.Machine.execVxor d a b e m p t s
  | .vshl d a b e m p t => Sys2Proof.Machine.execVshl d a b e m p t s
  | .vshr d a b e m p t => Sys2Proof.Machine.execVshr d a b e m p t s
  | .vsra d a b e m p t => Sys2Proof.Machine.execVsra d a b e m p t s
  | .vfma d a b e m p t => Sys2Proof.Machine.execVfma d a b e m p t s
  | .vsqrt d a e m p t => Sys2Proof.Machine.execVsqrt d a e m p t s
  | .vladd d a b e m p t => Sys2Proof.Machine.execVladd d a b e m p t s
  | .vlmul d a b e m p t => Sys2Proof.Machine.execVlmul d a b e m p t s
  | .vldiv d a b e m p t => Sys2Proof.Machine.execVldiv d a b e m p t s
  | .vcmp d a b e m p t c => Sys2Proof.Machine.execVcmp d a b e m p t c s
  | .vsel d a b e t => Sys2Proof.Machine.execVsel d a b e t s
  | .vcvt d a sb c e m p t => Sys2Proof.Machine.execVcvt d a sb c e m p t s
  | .vreq d a b m p t => Sys2Proof.Machine.execVreq d a b m p t s
  | .vred d a sb o e m t => Sys2Proof.Machine.execVred d a sb o e m t s
  | .vperm d a b e m p t => Sys2Proof.Machine.execVperm d a b e m p t s
  | .vbcast d a e m p t => Sys2Proof.Machine.execVbcast d a e m p t s
  | .vext d a b e => Sys2Proof.Machine.execVext d a b e s
  | .viota d a e m p t => Sys2Proof.Machine.execViota d a e m p t s
  | .vpopc d a e m => Sys2Proof.Machine.execVpopc d a e m s
  | .mclaim d a l => Sys2Proof.Machine.execMclaim d a l s
  | .mrel a b l => Sys2Proof.Machine.execMrel a b l s
  | .mput d a b l => Sys2Proof.Machine.execMput d a b l s
  | .mload d a b l => Sys2Proof.Machine.execMload d a b l s
  | .mma d a b l => Sys2Proof.Machine.execMma d a b l s
  | .mcbk a b l => Sys2Proof.Machine.execMcbk a b l s
  | .mwait d l => Sys2Proof.Machine.execMwait d l s
  | .mstat d l => Sys2Proof.Machine.execMstat d l s
  | .cpy d a b l => Sys2Proof.Machine.execCpy d a b l s
  | .cpy2 d a b l => Sys2Proof.Machine.execCpy2 d a b l s
  | .cxp d a b l => Sys2Proof.Machine.execCxp d a b l s
  | .cpk d a b l => Sys2Proof.Machine.execCpk d a b l s
  | .cgthb d a b l => Sys2Proof.Machine.execCgthb d a b l s
  | .cpyr d a b l => Sys2Proof.Machine.execCpyr d a b l s
  | .cwait d l => Sys2Proof.Machine.execCwait d l s
  | .cstat d l => Sys2Proof.Machine.execCstat d l s
  | .xexp d a b l => Sys2Proof.Machine.execXexp d a b l s
  | .xrot d a b l => Sys2Proof.Machine.execXrot d a b l s
  | .xwait d l => Sys2Proof.Machine.execXwait d l s
  | .casld a b l => Sys2Proof.Machine.execCasld a b l s
  | .caswait d l => Sys2Proof.Machine.execCaswait d l s
  | .ssopen d a b l => Sys2Proof.Machine.execSsopen d a b l s
  | .ssload d a b l => Sys2Proof.Machine.execSsload d a b l s
  | .sscommit d a b l => Sys2Proof.Machine.execSscommit d a b l s
  | .sssnap d a l => Sys2Proof.Machine.execSssnap d a l s
  | .ssfind d a b l => Sys2Proof.Machine.execSsfind d a b l s
  | .ssroll d a b l => Sys2Proof.Machine.execSsroll d a b l s
  | .sspin d a b l => Sys2Proof.Machine.execSspin d a b l s
  | .ssunpin d a b l => Sys2Proof.Machine.execSsunpin d a b l s
  | .ssfork d a b l => Sys2Proof.Machine.execSsfork d a b l s
  | .ssclose a l => Sys2Proof.Machine.execSsclose a l s
  | .enext d l => Sys2Proof.Machine.execEnext d l s
  | .eacc d a b l => Sys2Proof.Machine.execEacc d a b l s
  | .estat d l => Sys2Proof.Machine.execEstat d l s
  | .launch d a b => Sys2Proof.Machine.execLaunch d a b s
  | .trig => Sys2Proof.Machine.execTrig s
  | .exit a => Sys2Proof.Machine.execExit a s
  | .dsync v => Sys2Proof.Machine.execDsync v s
  | .yield => Sys2Proof.Machine.execYield s
  | .rdc d c => Sys2Proof.Machine.execRdc d c s
  | .wrc a c => Sys2Proof.Machine.execWrc a c s
  | .trap k => Sys2Proof.Machine.execTrap k s
  | .eret => Sys2Proof.Machine.execEret s
  | .eretS => Sys2Proof.Machine.execEretS s
  | .brk k => Sys2Proof.Machine.execBrk k s
  | .sleep a => Sys2Proof.Machine.execSleep a s
  | .imx x => Sys2Proof.Machine.execImx x s
  | .hint k p => Sys2Proof.Machine.execHint k p s
  | .casgo a => Sys2Proof.Machine.execCasgo a s
  | .undefinedEncoding w => Sys2Proof.Machine.execUndefinedEncoding w s
  | .microMovi u => Sys2Proof.Machine.execMicroMovi u s
  | .microAdd u => Sys2Proof.Machine.execMicroAdd u s
  | .microAddm u => Sys2Proof.Machine.execMicroAddm u s
  | .microDjnz u => Sys2Proof.Machine.execMicroDjnz u s
  | .microBnz u => Sys2Proof.Machine.execMicroBnz u s
  | .microMm u => Sys2Proof.Machine.execMicroMm u s
  | .microMmMload u => Sys2Proof.Machine.execMicroMmMload u s
  | .microXp u => Sys2Proof.Machine.execMicroXp u s
  | .microCp u => Sys2Proof.Machine.execMicroCp u s
  | .microMask u => Sys2Proof.Machine.execMicroMask u s
  | .microRmax u => Sys2Proof.Machine.execMicroRmax u s
  | .microRsum u => Sys2Proof.Machine.execMicroRsum u s
  | .microLcomb u => Sys2Proof.Machine.execMicroLcomb u s
  | .microNorm u => Sys2Proof.Machine.execMicroNorm u s
  | .microWaite u => Sys2Proof.Machine.execMicroWaite u s
  | .microSig u => Sys2Proof.Machine.execMicroSig u s
  | .microSigMessage u => Sys2Proof.Machine.execMicroSigMessage u s
  | .microStop u => Sys2Proof.Machine.execMicroStop u s
  | .waiteReturn c => Sys2Proof.Machine.execWaiteReturn c s
  | .runStop c => Sys2Proof.Machine.execRunStop c s
  | .runFault c => Sys2Proof.Machine.execRunFault c s
  | .arrivalPass c h => Sys2Proof.Machine.execArrivalPass c h s
  | .messageArrival id => Sys2Proof.Machine.execMessageArrival id s
  | .overflowDelivery c h r => Sys2Proof.Machine.execOverflowDelivery c h r s
  | .messageRetry id => Sys2Proof.Machine.execMessageRetry id s
  | .evictedMessageHold id => Sys2Proof.Machine.execEvictedMessageHold id s
  | .evictedAccess id => Sys2Proof.Machine.execEvictedAccess id s
  | .interruptEntry c h => Sys2Proof.Machine.execInterruptEntry c h s
  | .counterWrap c h k => Sys2Proof.Machine.execCounterWrap c h k s
  | .coreSleepEntry c elapsed => Sys2Proof.Machine.execCoreSleepEntry c elapsed s
  | .coreWake c => Sys2Proof.Machine.execCoreWake c s
  | .wakeComplete c captureOk => Sys2Proof.Machine.execWakeComplete c captureOk s
  | .sleepPauseEnd c h => Sys2Proof.Machine.execSleepPauseEnd c h s
  | .waitWake c h => Sys2Proof.Machine.execWaitWake c h s
  | .bwaitWake c h => Sys2Proof.Machine.execBwaitWake c h s
  | .rpopWake c h => Sys2Proof.Machine.execRpopWake c h s
  | .remoteScratchAccess id => Sys2Proof.Machine.execRemoteScratchAccess id s
  | .globalAdmission id => Sys2Proof.Machine.execGlobalAdmission id s
  | .pageWalk id readable => Sys2Proof.Machine.execPageWalk id readable s
  | .forwardedRequest id => Sys2Proof.Machine.execForwardedRequest id s
  | .sectorFillReturn id => Sys2Proof.Machine.execSectorFillReturn id s
  | .admissionNotice id => Sys2Proof.Machine.execAdmissionNotice id s
  | .loadDataReturn id reply => Sys2Proof.Machine.execLoadDataReturn id reply s
  | .storeAck id => Sys2Proof.Machine.execStoreAck id s
  | .storeRejection id cause => Sys2Proof.Machine.execStoreRejection id cause s
  | .cacheFill id => Sys2Proof.Machine.execCacheFill id s
  | .writeBackArrival id => Sys2Proof.Machine.execWriteBackArrival id s
  | .acqGrant id => Sys2Proof.Machine.execAcqGrant id s
  | .codeLineError c line => Sys2Proof.Machine.execCodeLineError c line s
  | .codeRepair c line imageOk => Sys2Proof.Machine.execCodeRepair c line imageOk s
  | .scrub c line err => Sys2Proof.Machine.execScrub c line err s
  | .sliceError x y place => Sys2Proof.Machine.execSliceError x y place s
  | .linkRetry id => Sys2Proof.Machine.execLinkRetry id s
  | .engineCommandStart c e => Sys2Proof.Machine.execEngineCommandStart c e s
  | .engineCommandComplete c e => Sys2Proof.Machine.execEngineCommandComplete c e s
  | .cpyrPush c => Sys2Proof.Machine.execCpyrPush c s
  | .engineWaitReturn c h => Sys2Proof.Machine.execEngineWaitReturn c h s
  | .hostSubmission vf endpoint send => Sys2Proof.Machine.execHostSubmission vf endpoint send s
  | .groupPlacement vf queue => Sys2Proof.Machine.execGroupPlacement vf queue s
  | .groupEnd launch group => Sys2Proof.Machine.execGroupEnd launch group s
  | .domainPhaseFlip launch level domain => Sys2Proof.Machine.execDomainPhaseFlip launch level domain s
  | .sweep => Sys2Proof.Machine.execSweep s
  | .eviction c => Sys2Proof.Machine.execEviction c s
  | .contextSave c => Sys2Proof.Machine.execContextSave c s
  | .resume vf slot => Sys2Proof.Machine.execResume vf slot s
  | .worldSwitch a b => Sys2Proof.Machine.execWorldSwitch a b s
  | .switchDeadline vf => Sys2Proof.Machine.execSwitchDeadline vf s
  | .checkpointRequest vf => Sys2Proof.Machine.execCheckpointRequest vf s
  | .checkpointComplete vf => Sys2Proof.Machine.execCheckpointComplete vf s
  | .partitionCreate p => Sys2Proof.Machine.execPartitionCreate p s
  | .partitionDestroy vf => Sys2Proof.Machine.execPartitionDestroy vf s
  | .belineConfigWrite w => Sys2Proof.Machine.execBelineConfigWrite w s
  | .debugHalt c h => Sys2Proof.Machine.execDebugHalt c h s
  | .debugStep c h => Sys2Proof.Machine.execDebugStep c h s
  | .debugAccess c h x => Sys2Proof.Machine.execDebugAccess c h x s
  | .coreFailure c => Sys2Proof.Machine.execCoreFailure c s
  | .columnFailure die => Sys2Proof.Machine.execColumnFailure die s
  | .spareRemap k => Sys2Proof.Machine.execSpareRemap k s
  | .hbmChannelCopy channel => Sys2Proof.Machine.execHbmChannelCopy channel s
  | .thermalThrottle die => Sys2Proof.Machine.execThermalThrottle die s
  | .dieOvertemp die => Sys2Proof.Machine.execDieOvertemp die s
  | .boot img => Sys2Proof.Machine.execBoot img s
  | .firmwareUpdate img => Sys2Proof.Machine.execFirmwareUpdate img s
  | .quoteRequest endpoint nonce => Sys2Proof.Machine.execQuoteRequest endpoint nonce s
  | .fabricRequest r => Sys2Proof.Machine.execFabricRequest r s
  | .hostRmaWrite r data => Sys2Proof.Machine.execHostRmaWrite r data s
  | .hostRmaRead r len => Sys2Proof.Machine.execHostRmaRead r len s
  | .roundMerge launch => Sys2Proof.Machine.execRoundMerge launch s
  | .sashAccept id => Sys2Proof.Machine.execSashAccept id s
  | .sashResult id => Sys2Proof.Machine.execSashResult id s
  | .writeBackAcknowledgement id => Sys2Proof.Machine.execWriteBackAcknowledgement id s
  | .sourceRouterRemap id => Sys2Proof.Machine.execSourceRouterRemap id s
  | .fabricPortCheck id => Sys2Proof.Machine.execFabricPortCheck id s
  | .debugResume c h => Sys2Proof.Machine.execDebugResume c h s

end Sys2Proof.Machine
end

