-- ==== Sys2Proof/Machine/Schedule.lean ====
section
/-! DEFINITION. Which agent moves, and what its move is: a hart at its turn (01 R26, R27; 06 R175, R176; 08 R189), a microword
of a sequencer (11 R281), an event. The spec fixes no order among the agents: the agenda of the state chooses, and where it
is empty they take turns (log 6). -/

namespace Sys2Proof.Machine

/-! A hart at its turn. -/

/-- The code offsets of the instruction that would issue: two words for an IMX and its successor, none behind the last word. -/
def State.issueOffs (s : State) : List Nat :=
  let o := s.hart.pc.toNat
  if s.hart.pastEnd then []
  else match decodeWord s.word with
    | some (.imx _) => [o, o + 4]
    | _ => [o]

/-- The lowest enabled breakpoint at the instruction that would issue; one on the successor of an IMX matches at the IMX (R176; 02 R54). -/
def State.breakpoint (s : State) : Option (BitVec 2) :=
  if s.hart.mode = .supervisor ∨ s.hart.ibkSuppress = true then none
  else hartNos.find? (fun k => let b := s.hart.ibk.get ⟨k.toNat, k.isLt⟩; b.msb && s.issueOffs.contains (4 * bits b.toNat 16 2))

/-- A breakpoint ends the hart's turn: it halts, or takes BREAK. -/
def State.hitBreak (s : State) (k : BitVec 2) : State :=
  if bit (s.hart.ibk.get ⟨k.toNat, k.isLt⟩).toNat 62 then (if s.hart.quiet then s.mapHart (fun h => { h with halted := true }) else s)
  else s.raise ⟨cBREAK, 0, BitVec.ofNat 64 (2 ^ 62 + k.toNat)⟩

/-- A word of the instruction lies in one of these code lines. -/
def State.inLines (s : State) (lines : List Nat) : Option Nat := s.issueOffs.find? (fun o => lines.contains (o / 512 * 512))

/-- The instruction that would issue: what the word at the pc decodes to, and behind the last word of the code region the zero word,
which is ILLEGAL (log 24). -/
def State.current (s : State) : Instr := (decodeWord s.word).getD (.undefinedEncoding s.word)

/-- The executing hart does not issue: a dependence, a locked register, a stalled line, or a breakpoint or poison at the word (02 R46; 08
R189; 06 R176). The spec gives no order between a breakpoint match and poison of the same word: the breakpoint comes first (DESIGN
CHOICE, log 77). -/
def State.notIssued (s : State) : Option State :=
  if s.held || s.locked || (s.inLines s.cc.codeStall).isSome then some s
  else match s.breakpoint with
    | some k => some (s.hitBreak k)
    | none => (s.inLines s.cc.codePoison).map (fun o => s.raise ⟨cPOISON, BitVec.ofNat 64 o, 0⟩)

/-- An instruction that may leave its hart as it is though it has issued: a transfer to itself. -/
def transfers (i : Instr) : Bool :=
  match i with
  | .beq .. | .bne .. | .blt .. | .bge .. | .bltu .. | .bgeu .. | .jmp .. | .jal .. | .jalr .. | .eret | .eretS => true
  | _ => false

/-- Instruction i took s to t: it has issued, unless it waits for a queue entry or for an access on its way (01 R26). -/
def State.issued (s : State) (i : Instr) (t : State) : Bool :=
  transfers i || { t.hartOf s.cur.core s.cur.hart with wantsQ := none } != { s.hart with wantsQ := none }

/-- Remember the hart that issued most recently (R27). -/
def State.noteIssue (s : State) (i : Instr) (t : State) : State :=
  if s.issued i t then t.modCore s.cur.core (fun k => { k with last := s.cur.hart }) else t

/-- What a step makes of an outcome's state. -/
def mapNext (f : State → State) : Out → Out
  | .next t => .next (f t)
  | .fault x => .fault x
  | .refused x => .refused x

/-- The executing hart issues the instruction at its pc, unless something holds it at issue. -/
def State.issue (s : State) : Out :=
  match s.notIssued with
  | some t => .next t
  | none => mapNext (s.noteIssue s.current) (exec s.current s)

/-- The executing hart goes on with the instruction that it is in: a vector access (09 R224), a YIELD (18 R378). -/
def State.resumeBlock (s : State) (b : Block) : Out :=
  match b with
  | .vload eb d base xs => .next (s.vresume eb d base xs)
  | .vstore v => .next (s.vgo v)
  | .yield => execYield s
  | _ => .next s

/-- Hart h of core c is ready to issue (R26): at a boundary, not blocked, with nothing that comes before an instruction, a queued message
for an empty register among it (06 R156). -/
def State.atIssue (s : State) (c : Nat) (h : BitVec 2) : Bool :=
  let x := s.hartOf c h
  s.atBoundary c h && x.block.isNone && !s.mayPass c h && x.due.isNone && ((s.core c).overdue h).isNone

/-- Hart h of core c would issue now. -/
def State.ready27 (s : State) (c : Nat) (h : BitVec 2) : Bool :=
  let t := s.as c h
  s.atIssue c h && t.notIssued.isNone && (match exec t.current t with
    | .next u => t.issued t.current u
    | _ => true)

/-- The order of a core's harts (R27): last + 1, last + 2, last + 3, last. -/
def Core.order (k : Core) : List (BitVec 2) := [k.last + 1, k.last + 2, k.last + 3, k.last]

/-- No hart that comes before h in the order would issue. -/
def State.firstReady (s : State) (c : Nat) (h : BitVec 2) : Bool := ((s.core c).order.takeWhile (· != h)).all (fun i => !s.ready27 c i)

/-- A hart's turn: a queued message for an empty register (06 R156), an arrival pass, an interrupt that is due, the instruction that it is in, or an issue (R27; 02 R51; 05 R146; 06 R175).
A vector store goes on though its hart is stopped or held: it is at no boundary (06 R178; 09 R228); so does a vector load of a hart that
stops with its launch (18 R374). -/
def hartMove (c : Nat) (h : BitVec 2) (s : State) : Out :=
  let x := s.hartOf c h
  if (s.core c).live && x.finishing then (s.as c h).resumeBlock (x.block.getD .yield)
  else if (s.core c).live && ((s.core c).overdue h).isSome then execOverflowDelivery c h (((s.core c).overdue h).getD 0) s
  else if s.mayPass c h then execArrivalPass c h s
  else if s.atBoundary c h = false then .next s
  else if x.due.isSome then execInterruptEntry c h s
  else match x.block with
    | some b => (s.as c h).resumeBlock b
    | none => if s.firstReady c h then (s.as c h).issue else .next s

/-! A sequencer's microword (R281, R286, R299). -/

/-- The sequencer may go on with the microword at UPC. -/
def Core.seqReady (k : Core) : Bool :=
  k.vf.isSome && !k.draining && k.cas.state == .running && k.cas.waiting.isNone && k.cas.fault.isNone && !(k.hart k.cas.starter).stopping

/-- The microword at UPC. -/
def Core.microword (k : Core) : Word := mapGet k.cas.store k.cas.upc.toNat 0

def seqMove (c : Nat) (s : State) : Out :=
  let k := s.core c
  if k.seqReady then
    match decodeMicro k.microword with
    | some i => exec i (s.as c k.cas.starter)
    | none => .next ((s.as c k.cas.starter).mapCas (fun x => x.fail ⟨cILLEGAL, 0⟩))
  else .next s

/-! Events. -/

/-- An instruction that no hart and no sequencer executes: a step of another agent. -/
def isEvent : Instr → Bool
  | .waiteReturn _ | .runStop _ | .runFault _ | .arrivalPass _ _ | .messageArrival _ | .overflowDelivery _ _ _ | .messageRetry _ => true
  | .evictedMessageHold _ | .evictedAccess _ | .interruptEntry _ _ | .counterWrap _ _ _ | .coreSleepEntry _ _ | .coreWake _ => true
  | .wakeComplete _ _ | .sleepPauseEnd _ _ | .waitWake _ _ | .bwaitWake _ _ | .rpopWake _ _ | .remoteScratchAccess _ => true
  | .globalAdmission _ | .pageWalk _ _ | .forwardedRequest _ | .sectorFillReturn _ | .admissionNotice _ | .loadDataReturn _ _ => true
  | .storeAck _ | .storeRejection _ _ | .cacheFill _ | .writeBackArrival _ | .acqGrant _ | .codeLineError _ _ | .codeRepair _ _ _ => true
  | .scrub _ _ _ | .sliceError _ _ _ | .linkRetry _ | .engineCommandStart _ _ | .engineCommandComplete _ _ | .cpyrPush _ => true
  | .engineWaitReturn _ _ | .hostSubmission _ _ _ | .groupPlacement _ _ | .groupEnd _ _ | .domainPhaseFlip _ _ _ | .sweep => true
  | .eviction _ | .contextSave _ | .resume _ _ | .worldSwitch _ _ | .switchDeadline _ | .checkpointRequest _ | .checkpointComplete _ => true
  | .partitionCreate _ | .partitionDestroy _ | .belineConfigWrite _ | .debugHalt _ _ | .debugStep _ _ | .debugAccess _ _ _ => true
  | .coreFailure _ | .columnFailure _ | .spareRemap _ | .hbmChannelCopy _ | .thermalThrottle _ | .dieOvertemp _ | .boot _ => true
  | .firmwareUpdate _ | .quoteRequest _ _ | .fabricRequest _ | .hostRmaWrite _ _ | .hostRmaRead _ _ | .roundMerge _ => true
  | .sashAccept _ | .sashResult _ | .writeBackAcknowledgement _ | .sourceRouterRemap _ | .fabricPortCheck _ | .debugResume _ _ => true
  | _ => false

/-- What one move of the agenda does. -/
def State.makeOne (s : State) : Move → Out
  | .event i => if isEvent i then exec i s else .fault .agendaNotAnEvent
  | .hart c h => hartMove c h s
  | .sequencer c => seqMove c s
  | .cycle _ => .next s

/-! Turns where the agenda is empty. -/

/-- What a request on its way may do next. -/
def reqEvents (id : Nat) : List (State → Out) :=
  [execSourceRouterRemap id, execFabricPortCheck id, execGlobalAdmission id, execPageWalk id 0, execForwardedRequest id,
   execWriteBackArrival id, execSectorFillReturn id, execRemoteScratchAccess id, execEvictedAccess id, execMessageArrival id,
   execEvictedMessageHold id, execMessageRetry id, execAdmissionNotice id, execLoadDataReturn id .here, execStoreRejection id 0,
   execCacheFill id, execWriteBackAcknowledgement id, execAcqGrant id, execSashAccept id, execSashResult id]

/-- The acknowledgement and the rejection of a request of this module; another module's come from outside. -/
def Req.events (r : Req) : List (State → Out) :=
  if r.stage = .onFabric then [] else execStoreAck r.id :: reqEvents r.id

def hartEvents (c : Nat) (h : BitVec 2) : List (State → Out) :=
  [execInterruptEntry c h, execArrivalPass c h, execWaitWake c h, execBwaitWake c h, execRpopWake c h, execEngineWaitReturn c h]

def coreEvents (c : Nat) (k : Core) : List (State → Out) :=
  hartNos.flatMap (hartEvents c) ++ (k.overflow ++ k.hold ++ k.tokens).map (fun m => execOverflowDelivery c m.hart m.reg) ++
    ([.matrix, .copy, .exponent] : List Engine).flatMap (fun e => [execEngineCommandStart c e, execEngineCommandComplete c e]) ++
    [execWaiteReturn c, execRunStop c, execRunFault c, execEviction c, execContextSave c, execCoreWake c, execWakeComplete c true]

/-- The phases of the domains of a launch's groups. -/
def State.launchDomains (s : State) (l : Launch) : List (State → Out) :=
  l.groups.flatMap (fun g => ([1, 2, 3, 4] : List Nat).map (fun n => execDomainPhaseFlip l.id (BitVec.ofNat 3 n) (s.domainOf l.vf g.vcore n)))

def State.launchEvents (s : State) (l : Launch) : List (State → Out) :=
  execRoundMerge l.id :: (l.groups.map (fun g => execGroupEnd l.id g.num) ++ s.launchDomains l)

def State.partEvents (s : State) (vf : BitVec 4) : List (State → Out) :=
  let p := s.part vf
  if p.valid then
    [execCheckpointRequest vf, execCheckpointComplete vf] ++ queueNos.map (execGroupPlacement vf) ++ (List.range p.saved.length).map (execResume vf) ++
      (match p.switchTo with
       | some b => [execWorldSwitch vf b]
       | none => [])
  else []

/-- What the module's own agents beside the harts and the sequencers may do next. -/
def State.ownEvents (s : State) : List (State → Out) :=
  s.cores.flatMap (fun e => coreEvents e.1 e.2) ++ s.net.flatMap Req.events ++
    (s.launches.filter (fun l => l.state == .running)).flatMap s.launchEvents ++ vfNos.flatMap s.partEvents ++ [execSweep]

/-- Rotate a list. -/
def rotateBy {α : Type} (n : Nat) (l : List α) : List α := l.drop (n % l.length) ++ l.take (n % l.length)

/-- Moves of harts and sequencers. -/
def State.hartMoves (s : State) : List (State → Out) :=
  (rotateBy s.focus s.cores).flatMap (fun e => e.2.order.map (hartMove e.1) ++ [seqMove e.1])

/-- An outcome that is not the state itself; the hart that had the last turn is no part of the comparison. -/
def changes (s : State) (o : Out) : Bool :=
  match o with
  | .next t => t.cores.map (fun e => (e.1, { e.2 with last := 3 })) != s.cores.map (fun e => (e.1, { e.2 with last := 3 })) ||
      { t with cores := [], cur := {} } != { s with cores := [], cur := {} }
  | _ => true

/-- The first move of a list that changes the state. -/
def State.firstMove (s : State) : List (State → Out) → Option Out
  | [] => none
  | m :: ms => let o := m s; if changes s o then some o else s.firstMove ms

/-- Harts and the other agents take turns; an idle agent gives its turn away. -/
def State.turn (s : State) : Out :=
  let s := { s with hartTurn := !s.hartTurn, focus := s.focus + 1 }
  let hs := s.hartMoves
  let es := rotateBy s.focus s.ownEvents
  (s.firstMove (if s.hartTurn then es ++ hs else hs ++ es)).getD (.next s)

/-! What stands at the end of every move: the pc is in the code region (01 R15; log 24), a WAYSET waits only where its hart is at it. -/

/-- A hart that has run past the last word of a code region of n bytes: its pc names that word, and it is past it. -/
def Hart.bounded (n : Nat) (h : Hart) : Hart :=
  if n ≠ 0 ∧ n ≤ h.pc.toNat then { h with pc := BitVec.ofNat 64 (n - 4), pastEnd := true } else h

def Core.bounded (k : Core) : Core := { k with harts := vmap (Hart.bounded k.codesz.toNat) k.harts }

/-- The harts of a core that are at a blocking point have been there in a cycle of their mode (21 R419, event 0x04). -/
def Core.stalls (k : Core) (atBlock : BitVec 2 → Bool) : Core :=
  { k with harts := vmapIdx (fun i h => if atBlock (BitVec.ofNat 2 i) then { h with stalled := h.stalled ||| modeBit h.mode } else h) k.harts }

/-- Hart h of core c is at a WAYSET. -/
def State.atWayset (s : State) (c : Nat) (h : BitVec 2) : Bool :=
  (s.hartOf c h).block.isNone && !(s.hartOf c h).pastEnd && (match decodeWord (s.as c h).word with
    | some (.wayset _ _) => true
    | _ => false)

/-- A WAYSET waits no more where its hart has left it, by its own trap, an interrupt or a debug write: it holds no access then (08 R187). -/
def State.keepWait (s : State) (c : Nat) (k : Core) : Core :=
  { k with wayWait := k.wayWait.filter (fun w => s.atWayset c w.1) }

/-- No pc lies outside its code region, no WAYSET waits where its hart is not, and the harts that are at a blocking point are noted. -/
def State.bounded (s : State) : State :=
  let s : State := { s with cores := s.cores.map (fun e => (e.1, e.2.bounded)) }
  { s with cores := s.cores.map (fun e => (e.1, (s.keepWait e.1 e.2).stalls (s.atBlock e.1))) }

/-! The moves of one cycle (12 R303; log 6). -/

/-- The hart would issue a BWAIT, which samples its object behind the updates of the cycle (08 R202). -/
def State.samples (s : State) (c : Nat) (h : BitVec 2) : Bool :=
  match (s.as c h).current with
  | .bwait _ _ => true
  | _ => false

/-- The place of a move in its cycle (R303): the harts and all that reaches no barrier, the sequencers, completions of the copy engines,
arrivals from other cores, samples. -/
def State.rank (s : State) : Move → Nat
  | .hart c h => if s.samples c h then 4 else 0
  | .sequencer _ => 1
  | .event (.engineCommandComplete _ .copy) | .event (.cpyrPush _) => 2
  | .event (.remoteScratchAccess _) | .event (.evictedAccess _) => 3
  | .event (.bwaitWake _ _) => 4
  | .event _ | .cycle _ => 0

/-- The moves of a cycle in their order; those of one place stay as the agenda names them, harts of one core in the order of 01 R27
(`firstReady`). -/
def State.inCycle (s : State) (ms : List Move) : List Move := ([0, 1, 2, 3, 4] : List Nat).flatMap (fun n => ms.filter (fun m => s.rank m == n))

/-- Moves one after another, each with what stands at its end. -/
def State.makeAll (s : State) : List Move → Out
  | [] => .next s
  | m :: ms =>
    match s.makeOne m with
    | .next t => t.bounded.makeAll ms
    | o => o

/-- What a move of the agenda does: one move, or those of a cycle. -/
def State.make (s : State) : Move → Out
  | .cycle n => State.makeAll { s with agenda := s.agenda.drop n } (s.inCycle (s.agenda.take n))
  | m => s.makeOne m

/-! The state in which a word is fetched next (log 1). -/

/-- A launch of partition 0 with one group of one hart: the stand-in for the launch that places a program. -/
def probeLaunch : Launch :=
  { id := 1, vf := 0, record := 0, spec := 0, submitter := .host 0 0 0, image := 0, order := 0, state := .running, placed := 1,
    groups := [{ num := 0, vcore := 0, base := 0, harts := 1 }] }

/-- A hart at code offset 0 of that group, with nothing that would come before its next instruction. -/
def Hart.atProbe (h : Hart) : Hart :=
  { h with pc := 0, pastEnd := false, group := some ⟨1, 0, 0⟩, exited := false, stopping := false, halted := false, held := false, block := none, outst := [],
           vposts := [], arrPend := 0, arecOver := [], haltPend := false, poisonPend := [], watchPend := [], stepPend := false, ovf := 0, ibkSuppress := true,
           stale := [] }

/-- A core of partition 0 with a code region of 512 bytes that starts with these bytes. -/
def Core.atProbe (k : Core) (bs : List Byte) : Core :=
  let k := { k with vf := some 0, codesz := 512, launch := 1, sleep := .awake, marked := false, draining := false, wayWait := none, last := 3, codePoison := [], codeStall := [] }
  (k.modHart 0 Hart.atProbe).putBytes 0 bs

/-- Core 0 of cluster (0, 0), with partition 0 on it, is the next to move, and its hart 0 fetches the word w. -/
def State.probe (s : State) (bs : List Byte) : State :=
  let s := s.modCore 0 (fun k => k.atProbe bs)
  { s with cur := ⟨0, 0⟩, launches := s.launches.filter (fun l => l.id != 1) ++ [probeLaunch], agenda := [.hart 0 0] }

end Sys2Proof.Machine
end

