-- ==== Sys2Proof/Machine/Step.lean ====
section
/-! DEFINITION. One step of the module, and the state in which a given word is fetched next. -/

namespace Sys2Proof.Machine

/-- One step: the move that the agenda names first, or a turn of the module's own (log 6); no pc is left outside its code region
(01 R15). -/
def step (s : State) : Host.Outcome State Fault Refusal :=
  mapNext State.bounded
    (match s.agenda with
     | m :: ms => State.make { s with agenda := ms } m
     | [] => s.turn)

/-- s with the instruction whose bits are w stored where the next step fetches it (log 1): hart 0 of core 0, which hosts a
group of a launch of partition 0. Bits of w from nbits up are taken as 0. -/
def State.withFetchWord (s : State) (nbits w : Nat) : State := s.probe (wordBytes (BitVec.ofNat 32 (w % 2 ^ nbits)))

end Sys2Proof.Machine
end

