-- ==== Sys2Proof/Safety.lean ====
section
/-! DEFINITION. The terms in which the statements speak of a run: what keeps an instruction from its own effect, what a
retired instruction leaves unchanged, and the properties that every step keeps. -/

namespace Sys2Proof.Machine

/-- No binding keeps register d from being written (05 R148); g0 is always writable. -/
abbrev State.writable (s : State) (d : BitVec 5) : Prop := d = 0 ∨ s.hart.slotOf d = none

/-- The hart binds nothing. -/
abbrev Hart.unbound (h : Hart) : Prop := ∀ k, (h.slot k).valid = false

/-- A trap of the executing hart is taken at once, since nothing is outstanding and nothing stops the hart, and its handler lies in
the code region (02 R50, 06 R173, 18 R374). -/
abbrev State.trapReady (s : State) : Prop := s.hart.outst = [] ∧ s.hart.stopping = false ∧ s.hart.xvec.toNat < s.cc.codesz.toNat

/-- The offset lies in scratch beyond the code region, which is made of whole lines (02 R34, 08 R182). -/
abbrev Core.beyondCode (k : Core) (off : Nat) : Prop := k.codesz.toNat % 512 = 0 ∧ k.codesz.toNat ≤ off

/-- s and t agree in everything but the executing hart, and there in everything but the general registers, the flags with
their record and its age, the pc, the event counters, the binding table, the credit of outstanding instructions, and the marks of a
single step, a suppressed breakpoint and a blocking point. -/
def RetireFrame (s t : State) : Prop :=
  t = s.mapHart (fun h =>
    { h with
      g := t.hart.g, aflags := t.hart.aflags, arec := t.hart.arec, arecOver := t.hart.arecOver, pc := t.hart.pc, cnt := t.hart.cnt, ovf := t.hart.ovf,
      binds := t.hart.binds, outst := t.hart.outst, ibkSuppress := t.hart.ibkSuppress, block := t.hart.block, wantsQ := t.hart.wantsQ,
      stepPend := t.hart.stepPend, stepArm := t.hart.stepArm, halted := t.hart.halted, stepOnce := t.hart.stepOnce }) ∧
  t.hart.outst.map (fun o => { o with credit := 0 }) = s.hart.outst.map (fun o => { o with credit := 0 })

/-- AREC after an instruction at the hart's pc sets flags (05 R152, R153). -/
def arecAfter (h : Hart) (fl : Flags) : Word :=
  if fl = 0 ∨ h.arec.msb = true then h.arec else (1#64 <<< 63) ||| (fl.setWidth 64 <<< 24) ||| arecInstr h.pc

/-- The executing hart of s retires an instruction that writes the registers `ws` in their order and sets the flags `fl`,
and goes on at `next`. A register that a binding holds may change through its binding; without bindings the flags and the
binding table are as said here. -/
structure Wrote (s t : State) (ws : List (BitVec 5 × Word)) (next : Word) (fl : Flags) : Prop where
  frame : RetireFrame s t
  pc : t.hart.pc = next
  unblocked : t.hart.block = none
  regs : ∀ r, s.writable r → t.hart.rg r = (s.hart.writeAll ws).rg r
  flags : s.hart.unbound → t.hart.aflags = s.hart.aflags ||| fl.setWidth 64 ∧ t.hart.arec = arecAfter s.hart fl ∧ t.hart.binds = s.hart.binds

/-- The instruction i answers a next state in which it has retired after 4 bytes with these writes and flags, and has done
nothing else (`Wrote`). -/
def Retires (i : Instr) (s : State) (ws : List (BitVec 5 × Word)) (fl : Flags) : Prop :=
  ∃ t, exec i s = .next t ∧ Wrote s t ws (s.hart.pc + 4) fl

/-- The instruction i answers a next state in which the trap has been taken by the executing hart: the mode, the pc and the
four X registers are as 06 R173 says, and the general registers, the flags, the memories and the other harts are as before. -/
def Traps (i : Instr) (s : State) (cause : BitVec 8) (addr info : Word) : Prop :=
  exec i s = .next (s.modHart s.cur.core s.cur.hart (fun h =>
    { h with xcause := BitVec.ofNat 64 (b2n (h.mode == .supervisor) * 2 ^ 63 + cause.toNat), xpc := h.at &&& 0x1FFFC, xaddr := addr, xinfo := info,
             mode := .supervisor, ran := h.ran ||| 2, pc := h.xvec, pastEnd := false, block := none, wantsQ := none, stepArm := false, ibkSuppress := false,
             halted := h.halted || h.stepOnce, stepOnce := false }))

/-- As `Traps`, where the instruction has also made the core's other parts those of f (08 R201, R208). -/
def TrapsOn (i : Instr) (s : State) (f : Core → Core) (cause : BitVec 8) (addr info : Word) : Prop :=
  exec i s = .next ((s.mapCore f).modHart s.cur.core s.cur.hart (fun h =>
    { h with xcause := BitVec.ofNat 64 (b2n (h.mode == .supervisor) * 2 ^ 63 + cause.toNat), xpc := h.at &&& 0x1FFFC, xaddr := addr, xinfo := info,
             mode := .supervisor, ran := h.ran ||| 2, pc := h.xvec, pastEnd := false, block := none, wantsQ := none, stepArm := false, ibkSuppress := false,
             halted := h.halted || h.stepOnce, stepOnce := false }))

/-- The executing hart blocks at the instruction i (18 R378): its pc stays and nothing else changes. -/
def Blocks (i : Instr) (s : State) (b : Block) : Prop := exec i s = .next (s.mapHart (fun h => { h with block := some b }))

/-- The instruction i has put the request r on its way and blocks until its answer, which the block names by the request's
number; nothing else changes. -/
def Waits (i : Instr) (s : State) (r : Req) (b : Nat → Block) : Prop :=
  exec i s = .next ({ s with net := s.net ++ [{ r with id := s.nextId }], nextId := s.nextId + 1 }.mapHart (fun h => { h with block := some (b s.nextId) }))

/-- The instruction i writes the vector registers `vs` and these registers and flags, and retires. -/
def RetiresV (i : Instr) (s : State) (vs : List (BitVec 5 × Tile)) (fl : Flags) : Prop :=
  ∃ t, exec i s = .next t ∧ Wrote (s.mapHart (fun h => vs.foldl (fun h w => h.wv w.1 w.2) h)) t [] (s.hart.pc + 4) fl

/-- The instruction i writes vector register d element by element and retires (09 R215, R216): an active element that the mask
does not hide is f of its row and column, one that is hidden or outside the shape is as before or, under its policy, all ones;
the flags are those of the computed elements. -/
def Elementwise (i : Instr) (s : State) (d : BitVec 5) (e : BitVec 4) (m p t : BitVec 1) (f : Nat → Nat → Fl Nat) : Prop :=
  let w := etBits e
  let h := s.hart
  let inside := fun (r c : Nat) => r < h.rows ∧ maskCol e c < min h.vlen (perRow e)
  let hidden := fun (r c : Nat) => m = 1 ∧ maskBit (h.rv 0) e r c = false
  let kept := fun (pol : BitVec 1) (r c : Nat) => if pol = 1 then 2 ^ w - 1 else tileEl (h.rv d) w r c
  ∃ v fl, RetiresV i s [(d, v)] fl ∧
    (∀ r c, r < 8 → c < 128 / w →
      (¬inside r c → tileEl v w r c = kept t r c) ∧ (inside r c → hidden r c → tileEl v w r c = kept p r c) ∧
      (inside r c → ¬hidden r c → tileEl v w r c = (f r c).val % 2 ^ w)) ∧
    (∀ k, k < 8 → (fl.getLsbD k = true ↔ ∃ r c, r < 8 ∧ c < 128 / w ∧ inside r c ∧ ¬hidden r c ∧ (f r c).fl.getLsbD k = true))

/-- The executing hart of s issues a long-latency instruction and goes on at `next`: its request r is on its way under a new
number, and the instruction is outstanding with its destinations and its credit (02 R45); nothing else changes. -/
structure Asked (s t : State) (r : Req) (dests : List (BitVec 5)) (la : Nat) (acq : Bool) (next : Word) : Prop where
  net : t.net = s.net ++ [{ r with id := s.nextId }]
  outst : t.hart.outst = s.hart.outst.map (fun o => { o with credit := o.credit - 1 }) ++
    [{ id := s.nextId, pc := s.hart.pc, dests := dests, credit := if (s.hart.stepArm || s.hart.stepOnce) = true then 0 else la, passed := false, acq := acq }]
  frame : t = { s.mapHart (fun h => { h with pc := next, outst := t.hart.outst, ibkSuppress := false, block := none }) with
    net := t.net, nextId := s.nextId + 1 }

/-- The instruction i issues as a long-latency instruction of 4 bytes (`Asked`). -/
def Asks (i : Instr) (s : State) (r : Req) (dests : List (BitVec 5)) (la : Nat) (acq : Bool) : Prop :=
  ∃ t, exec i s = .next t ∧ Asked s t r dests la acq (s.hart.pc + 4)

/-- The executing hart of s posts the access r and goes on at `next`: the request is on its way under a new number, the count of
ORSCNT for its kind of target and the sent count of its launch have risen by one, and the rest is as `Wrote` says of an instruction
that writes nothing. -/
def PostsTo (i : Instr) (s : State) (r : Req) (fab : Bool) (next : Word) : Prop :=
  ∃ t, exec i s = .next t ∧
    Wrote ({ (s.mapHart (fun h => { h with orsLocal := if fab then h.orsLocal else h.orsLocal + 1, orsFab := if fab then h.orsFab + 1 else h.orsFab })) with
      net := s.net ++ [{ r with id := s.nextId }], nextId := s.nextId + 1,
      launches := updWhere (fun l => l.id == r.launch) (fun l => { l with sentCount := l.sentCount + 1 }) s.launches }) t [] next 0

/-- The instruction i posts the access r and retires after 4 bytes (`PostsTo`). -/
def Posts (i : Instr) (s : State) (r : Req) (fab : Bool) : Prop := PostsTo i s r fab (s.hart.pc + 4)

/-- The instruction i works on the executing core, whose other parts become those of k, and retires with these writes and
flags. -/
def RetiresOn (i : Instr) (s : State) (f : Core → Core) (ws : List (BitVec 5 × Word)) (fl : Flags) : Prop :=
  ∃ t, exec i s = .next t ∧ Wrote (s.mapCore f) t ws (s.hart.pc + 4) fl

/-- The instruction i hands the command to the engine of its core and retires: the command is the last of the queue under the
hart's next number for that engine (10 R243, R247), and nothing else changes. Where the queue is full the hart waits. -/
def Commands (i : Instr) (s : State) (e : Engine) (op : CmdOp) (cs : Word) : Prop :=
  ((s.cc.eng e).queue.length < Config.engineQueue → ¬(s.cc.cas.wantsQ = some e ∧ (s.cc.eng e).lastHart = true) →
    RetiresOn i s (fun k =>
      let n := (k.issuer s.issuerNo e).seq + 1
      (k.modIssuer s.issuerNo e (fun u => { u with seq := n })).setEng e
        { queue := (k.eng e).queue ++ [{ issuer := s.issuerNo, seq := n, off := s.hart.pc, op := op, cs := cs, mark := s.nextId }],
          run := (k.eng e).run, lastHart := k.cas.wantsQ == some e || (k.eng e).lastHart }) [] 0) ∧
  (Config.engineQueue ≤ (s.cc.eng e).queue.length → exec i s = .next (s.mapHart (fun h => { h with wantsQ := some e })))

/-- The microword i runs on the sequencer of the executing core: the core becomes f of itself and nothing else changes. -/
def Micros (i : Instr) (s : State) (f : Core → Core) : Prop := exec i s = .next (s.mapCore f)

/-- No replacement waits for core c to be free of contexts (13 R306, 15 R326). -/
abbrev State.noReplacement (s : State) (c : Nat) : Prop :=
  (s.cluster (keyX c) (keyY c)).retiring.contains (keyP c) = false ∧ ∀ e ∈ s.dies, (s.die e.1).colNext = none

/-- The event i changes the module to t. -/
def Becomes (i : Instr) (s t : State) : Prop := exec i s = .next t

/-- The memory of the module is in canonical form: addresses strictly rising and no byte listed that reads as 0 (log 3). -/
abbrev State.memOk (s : State) : Prop := Memory.wf s.mem = true

end Sys2Proof.Machine
end

