-- ==== Sys2Proof/Certificates/Slice0/Obligations.lean ====
section
/-! DEFINITION. The statements for the provers. Each follows the rules of spec/ that its docstring names; the words it uses of a
run are those of Sys2Proof/Safety.lean. -/

open Sys2Proof Sys2Proof.Machine

/-- 04 R99: the integer operations of two sources. Each writes g[d] and retires; no other register, flag, memory or
special register changes (`Retires`). A and B may be message registers (R96).
04 R99, R101: the integer operations of one source. -/
def Obligations.IntegerResults : Prop :=
  (∀ (s : State) (d a b : BitVec 5) (m n : BitVec 1), s.writable d →
    let A := s.hart.operand (.of a m)
    let B := s.hart.operand (.of b n)
    Retires (.add d a b m n) s [(d, A + B)] 0 ∧
    Retires (.sub d a b m n) s [(d, A - B)] 0 ∧
    Retires (.and d a b m n) s [(d, A &&& B)] 0 ∧
    Retires (.or d a b m n) s [(d, A ||| B)] 0 ∧
    Retires (.xor d a b m n) s [(d, A ^^^ B)] 0 ∧
    Retires (.andn d a b m n) s [(d, A &&& ~~~B)] 0 ∧
    Retires (.shl d a b m n) s [(d, BitVec.ofNat 64 (A.toNat * 2 ^ (B.toNat % 64)))] 0 ∧
    Retires (.shr d a b m n) s [(d, BitVec.ofNat 64 (A.toNat / 2 ^ (B.toNat % 64)))] 0 ∧
    Retires (.sra d a b m n) s [(d, BitVec.ofInt 64 (A.toInt / 2 ^ (B.toNat % 64)))] 0 ∧
    Retires (.mul d a b m n) s [(d, BitVec.ofInt 64 (A.toInt * B.toInt))] 0 ∧
    Retires (.mulh d a b m n) s [(d, BitVec.ofInt 64 (A.toInt * B.toInt / 2 ^ 64))] 0 ∧
    Retires (.mulhu d a b m n) s [(d, BitVec.ofNat 64 (A.toNat * B.toNat / 2 ^ 64))] 0 ∧
    Retires (.min d a b m n) s [(d, if A.toInt ≤ B.toInt then A else B)] 0 ∧
    Retires (.max d a b m n) s [(d, if B.toInt ≤ A.toInt then A else B)] 0 ∧
    Retires (.minu d a b m n) s [(d, if A.toNat ≤ B.toNat then A else B)] 0 ∧
    Retires (.maxu d a b m n) s [(d, if B.toNat ≤ A.toNat then A else B)] 0 ∧
    Retires (.slt d a b m n) s [(d, if A.toInt < B.toInt then 1 else 0)] 0 ∧
    Retires (.sltu d a b m n) s [(d, if A.toNat < B.toNat then 1 else 0)] 0 ∧
    Retires (.seq d a b m n) s [(d, if A = B then 1 else 0)] 0 ∧
    Retires (.sne d a b m n) s [(d, if A = B then 0 else 1)] 0 ∧
    Retires (.sel d a b m n) s [(d, if s.rg d = 0 then B else A)] 0 ∧
    Retires (.addv d a b m n) s [(d, A + B)]
      (if A.toInt + B.toInt < -(2 ^ 63) ∨ 2 ^ 63 - 1 < A.toInt + B.toInt then 0x80 else 0)) ∧
  (∀ (s : State) (d a : BitVec 5) (m : BitVec 1), s.writable d →
    let A := s.hart.operand (.of a m)
    (∃ k, k ≤ 64 ∧ A.toNat < 2 ^ (64 - k) ∧ (k < 64 → 2 ^ (63 - k) ≤ A.toNat) ∧ Retires (.clz d a m) s [(d, BitVec.ofNat 64 k)] 0) ∧
    (∃ k, k ≤ 64 ∧ A.toNat % 2 ^ k = 0 ∧ (k < 64 → A.getLsbD k = true) ∧ Retires (.ctz d a m) s [(d, BitVec.ofNat 64 k)] 0) ∧
    Retires (.popc d a m) s [(d, BitVec.ofNat 64 ((List.range 64).filter (fun k => A.getLsbD k)).length)] 0 ∧
    Retires (.abs d a m) s [(d, BitVec.ofInt 64 |A.toInt|)] 0)

/-- 04 R100: quotients and remainders, with NV (0x10), DZ (0x08) and IOV (0x80).
That the result is bound at issue is the model's choice (log 6). -/
def Obligations.DivisionResults : Prop :=
  ∀ (s : State) (d a b : BitVec 5) (m n : BitVec 1) (l : BitVec 4), s.writable d →
    let A := s.hart.operand (.of a m)
    let B := s.hart.operand (.of b n)
    let byZero : Flags := if A = 0 then 0x10 else 0x08
    (B = 0 →
      Retires (.div d a b m n l) s [(d, 0xFFFFFFFFFFFFFFFF)] byZero ∧ Retires (.divu d a b m n l) s [(d, 0xFFFFFFFFFFFFFFFF)] byZero ∧
      Retires (.rem d a b m n l) s [(d, A)] byZero ∧ Retires (.remu d a b m n l) s [(d, A)] byZero) ∧
    (A = 0x8000000000000000 → B = 0xFFFFFFFFFFFFFFFF →
      Retires (.div d a b m n l) s [(d, 0x8000000000000000)] 0x80 ∧ Retires (.rem d a b m n l) s [(d, 0)] 0) ∧
    (B ≠ 0 → ¬(A = 0x8000000000000000 ∧ B = 0xFFFFFFFFFFFFFFFF) →
      Retires (.div d a b m n l) s [(d, BitVec.ofInt 64 (A.toInt.tdiv B.toInt))] 0 ∧
      Retires (.rem d a b m n l) s [(d, BitVec.ofInt 64 (A.toInt - A.toInt.tdiv B.toInt * B.toInt))] 0) ∧
    (B ≠ 0 →
      Retires (.divu d a b m n l) s [(d, BitVec.ofNat 64 (A.toNat / B.toNat))] 0 ∧
      Retires (.remu d a b m n l) s [(d, BitVec.ofNat 64 (A.toNat % B.toNat))] 0)

/-- 04 R103 to R105: the operations with an immediate.
02 R53, 04 R103, R105: the pair of an IMX and an immediate operation executes as one instruction of 8 bytes whose
immediate is the 42-bit value of x above imm16.
02 R53, R54: the pair of an IMX and a load or store executes as one instruction of 8 bytes whose offset is the 35-bit value of x above
off9, in units of the access size: on the core's own scratch; and elsewhere outside the core's regions, where a load asks, and a store is
posted, or waits while ORSCNT and the log leave no room (13 R320).
02 R43, R54: an IMX before a word that takes no extension, or at the end of the code region, takes ILLEGAL at itself, with both words in
XINFO. What stands in XINFO for the missing word is the model's choice (log 58), and so is that an own-scratch access is bound at issue (log 6). -/
def Obligations.ImmediateResults : Prop :=
  (∀ (s : State) (d a : BitVec 5) (i : BitVec 16) (k : BitVec 6), s.writable d →
    let A := s.rg a
    Retires (.addi d a i) s [(d, A + i.signExtend 64)] 0 ∧
    Retires (.andi d a i) s [(d, A &&& i.signExtend 64)] 0 ∧
    Retires (.ori d a i) s [(d, A ||| i.setWidth 64)] 0 ∧
    Retires (.xori d a i) s [(d, A ^^^ i.setWidth 64)] 0 ∧
    Retires (.slti d a i) s [(d, if A.toInt < i.toInt then 1 else 0)] 0 ∧
    Retires (.sltiu d a i) s [(d, if A.toNat < (i.signExtend 64).toNat then 1 else 0)] 0 ∧
    Retires (.shli d a k) s [(d, BitVec.ofNat 64 (A.toNat * 2 ^ k.toNat))] 0 ∧
    Retires (.shri d a k) s [(d, BitVec.ofNat 64 (A.toNat / 2 ^ k.toNat))] 0 ∧
    Retires (.srai d a k) s [(d, BitVec.ofInt 64 (A.toInt / 2 ^ k.toNat))] 0 ∧
    Retires (.movi d i) s [(d, i.signExtend 64)] 0) ∧
  (∀ (s : State) (x : BitVec 26) (d a : BitVec 5) (i : BitVec 16), s.writable d → s.hart.pc.toNat + 4 < s.cc.codesz.toNat →
    let w := fetchWord s.cc s.hart (s.hart.pc.toNat + 4)
    let I : BitVec 42 := x ++ i
    let pair := fun (v : Word) => ∃ t, exec (.imx x) s = .next t ∧ Wrote s t [(d, v)] (s.hart.pc + 8) 0
    (decodeWord w = some (.addi d a i) → pair (s.rg a + I.signExtend 64)) ∧
    (decodeWord w = some (.andi d a i) → pair (s.rg a &&& I.signExtend 64)) ∧
    (decodeWord w = some (.ori d a i) → pair (s.rg a ||| I.setWidth 64)) ∧
    (decodeWord w = some (.xori d a i) → pair (s.rg a ^^^ I.setWidth 64)) ∧
    (decodeWord w = some (.slti d a i) → pair (if (s.rg a).toInt < I.toInt then 1 else 0)) ∧
    (decodeWord w = some (.sltiu d a i) → pair (if (s.rg a).toNat < (I.signExtend 64).toNat then 1 else 0)) ∧
    (decodeWord w = some (.movi d i) → pair (I.signExtend 64))) ∧
  (∀ (s : State) (x : BitVec 26) (d a : BitVec 5) (l : BitVec 4) (z : BitVec 3) (y : BitVec 2) (u : BitVec 1) (o : BitVec 9) (off : Nat) (p : Place),
    s.hart.pc.toNat + 4 < s.cc.codesz.toNat →
    let w := fetchWord s.cc s.hart (s.hart.pc.toNat + 4)
    let ea := fun (n : Nat) => s.resolve (s.rg a + BitVec.ofInt 64 ((x ++ o).toInt * n))
    let at_ := fun (m n : Nat) (win ld : Bool) (q : Place) => s.classify (ea m) n n win = .ok q ∧ s.waitsFor q (ea m) n = false ∧ s.watchNow (ea m) n ld (!ld) = none
    let loads := fun (ws : List (BitVec 5 × Word)) => ∃ t, exec (.imx x) s = .next t ∧ Wrote s t ws (s.hart.pc + 8) 0
    let stores := fun (n v : Nat) => ∃ t, exec (.imx x) s = .next t ∧ Wrote (s.mapCore (fun k => (k.noteCodeStore off n).swrite off n v)) t [] (s.hart.pc + 8) 0
    let low := fun (r : BitVec 5) (n : Nat) => (s.rg r).toNat % 2 ^ (8 * n)
    let free := s.hart.outst = [] ∧ s.hart.orsLocal = 0 ∧ s.hart.orsFab = 0
    let far := fun (m n : Nat) (win : Bool) => s.classify (ea m) n n win = .ok p ∧ s.waitsFor p (ea m) n = false ∧
      ((p = .global ∧ s.cc.regionAt (ea m).toNat = none) ∨ p = .remote ∨ (p = .fabric ∧ addrOff (ea m) < 0x800000))
    let asks := fun (m n : Nat) (dst : LoadDst) (ds : List (BitVec 5)) (acq : Bool) =>
      ∃ t, exec (.imx x) s = .next t ∧ Asked s t (s.reqOf .request (.load n dst) (ea m)) ds l.toNat acq (s.hart.pc + 8)
    let posts := fun (m n v : Nat) (release : Bool) =>
      (s.hart.postRoom = true → PostsTo (.imx x) s (s.reqOf .posted (.store n (BitVec.ofNat 128 v) release) (ea m)) (p == .fabric) (s.hart.pc + 8)) ∧
      (s.hart.postRoom = false → exec (.imx x) s = .next s)
    (let n := 2 ^ (z.toNat % 4)
     decodeWord w = some (.ld d a l z o) → s.writable d →
       (at_ n n false true (.own off) → s.cc.spoisoned off n = false →
         loads [(d, if z.msb then BitVec.ofNat 64 (s.cc.sread off n) else sext64 (s.cc.sread off n) (8 * n))]) ∧
       (far n n false → asks n n (.one d n (!z.msb)) [d] false)) ∧
    (let n := 2 ^ y.toNat
     (decodeWord w = some (.lda d a l y o) → s.writable d → at_ n n false true (.own off) → s.cc.spoisoned off n = false →
       loads [(d, BitVec.ofNat 64 (s.cc.sread off n))]) ∧
     (decodeWord w = some (.lda d a l y o) → s.writable d → far n n false → asks n n (.one d n false) [d] true) ∧
     (decodeWord w = some (.st d a y o) → at_ n n (n == 8) false (.own off) → stores n (low d n)) ∧
     (decodeWord w = some (.st d a y o) → far n n (n == 8) → posts n n (low d n) false) ∧
     (decodeWord w = some (.str d a y o) → at_ n n (n == 8) false (.own off) → free → (n = 8 → s.cc.header off = none) → stores n (low d n)) ∧
     (decodeWord w = some (.str d a y o) → far n n (n == 8) → free → posts n n (low d n) true)) ∧
    (let n := if u = 1 then 8 else 4
     (decodeWord w = some (.ldp d a l u o) → s.writable d → s.writable (d + 1) → at_ n (2 * n) false true (.own off) → s.cc.spoisoned off (2 * n) = false →
       loads [(d, BitVec.ofNat 64 (s.cc.sread off n)), (d + 1, BitVec.ofNat 64 (s.cc.sread (off + n) n))]) ∧
     (decodeWord w = some (.ldp d a l u o) → s.writable d → s.writable (d + 1) → far n (2 * n) false → asks n (2 * n) (.pair d n) [d, d + 1] false) ∧
     (decodeWord w = some (.stp d a u o) → at_ n (2 * n) false false (.own off) → stores (2 * n) (low d n + low (d + 1) n * 2 ^ (8 * n))) ∧
     (decodeWord w = some (.stp d a u o) → far n (2 * n) false → posts n (2 * n) (low d n + low (d + 1) n * 2 ^ (8 * n)) false))) ∧
  (∀ (s : State) (x : BitVec 26), s.trapReady → s.hart.pastEnd = false →
    let here := fetchWord s.cc s.hart s.hart.pc.toNat
    let w := fetchWord s.cc s.hart (s.hart.pc.toNat + 4)
    let takes := fun (i : Instr) => match i with
      | .addi .. | .andi .. | .ori .. | .xori .. | .slti .. | .sltiu .. | .movi .. | .ld .. | .st .. | .lda .. | .str .. | .ldp .. | .stp .. => True
      | _ => False
    decodeWord here = some (.imx x) →
    (s.hart.pc.toNat + 4 < s.cc.codesz.toNat → (∀ i, decodeWord w = some i → ¬takes i) → Traps (.imx x) s 0x01 0 (w ++ here)) ∧
    (s.cc.codesz.toNat ≤ s.hart.pc.toNat + 4 → Traps (.imx x) s 0x01 0 (here.setWidth 64)))

/-- 04 R106 to R109: the floating-point operations write the value and raise the flags that the format's arithmetic
(`Alu`) gives for their operands, the rounding mode being the instruction's or, for DYN, that of AFLAGS.
04 R111 to R113: the SLI operations read bits [31:0] of their operands and write the value and raise the flags that
the SLI arithmetic (`Alu`) gives.
That an SLI result is bound at issue is the model's choice (log 6); how a value next to a midpoint is
decided is the model's reading of R83 (log 12). -/
def Obligations.FloatAndSliResults : Prop :=
  (∀ (s : State) (d a b : BitVec 5) (m n p : BitVec 1) (r : BitVec 3) (c : BitVec 4), s.writable d →
    let A := s.hart.operand (.of a m)
    let B := s.hart.operand (.of b n)
    let rm := Alu.rmOf r s.hart.drm
    let R := fun (i : Instr) (v : Fl Word) => Retires i s [(d, v.val)] v.fl
    R (.fadd d a b m n r p) (Alu.fadd p rm A B) ∧ R (.fsub d a b m n r p) (Alu.fsub p rm A B) ∧
    R (.fmul d a b m n r p) (Alu.fmul p rm A B) ∧ R (.fdiv d a b m n r p) (Alu.fdiv p rm A B) ∧
    R (.fsqrt d a m r p) (Alu.fsqrt p rm A) ∧
    R (.fma d a b m n r p) (Alu.fma p rm A B (s.rg d)) ∧ R (.fms d a b m n r p) (Alu.fms p rm A B (s.rg d)) ∧
    R (.fmin d a b m n p) (Alu.fmin p A B) ∧ R (.fmax d a b m n p) (Alu.fmax p A B) ∧
    R (.feq d a b m n p) (Alu.feq p A B) ∧ R (.flt d a b m n p) (Alu.flt p A B) ∧ R (.fle d a b m n p) (Alu.fle p A B) ∧
    R (.fclass d a m p) (Alu.fclass p A) ∧ R (.fcvt d a c m r) (Alu.fcvt c rm A)) ∧
  (∀ (s : State) (d a b : BitVec 5) (m n t : BitVec 1) (l c : BitVec 4), s.writable d →
    let A := s.hart.operand (.of a m)
    let B := s.hart.operand (.of b n)
    let R := fun (i : Instr) (v : Fl Word) => Retires i s [(d, v.val)] v.fl
    R (.ladd d a b m n l) (Alu.ladd A B) ∧ R (.lsub d a b m n l) (Alu.lsub A B) ∧ R (.lmul d a b m n l) (Alu.lmul A B) ∧
    R (.ldiv d a b m n l) (Alu.ldiv A B) ∧ R (.leq d a b m n l) (Alu.leq A B) ∧ R (.llt d a b m n l) (Alu.llt A B) ∧
    R (.lcvt d a t c m l) (Alu.lcvt t c A) ∧ R (.llevel d a m l) (Alu.llevel A))

/-- 04 R97, 05 R148: an instruction of 04 whose destination is bound takes BOUND_WRITE before any other effect; XINFO names
the register and the slot that binds it. One instruction of each format stands for it; of a pair either register may be bound, and
JAL writes g31. -/
def Obligations.BoundDestinationTraps : Prop :=
  ∀ (s : State) (d e a b : BitVec 5) (m n p w : BitVec 1) (r : BitVec 3) (l z : BitVec 4) (z3 : BitVec 3) (o : BitVec 9) (i : BitVec 16) (k : BitVec 4)
    (j26 : BitVec 26),
    d ≠ 0 → s.hart.slotOf d = some k → s.trapReady →
    let T := fun (j : Instr) => Traps j s 0x0E 0 (BitVec.ofNat 64 (d.toNat + 2 ^ 8 * k.toNat))
    (d = 31 → T (.jal j26)) ∧ T (.ldp d a l w o) ∧ (s.writable e → e + 1 = d → T (.ldp e a l w o)) ∧
    T (.add d a b m n) ∧ T (.div d a b m n l) ∧ T (.clz d a m) ∧ T (.addi d a i) ∧ T (.movi d i) ∧ T (.fadd d a b m n r p) ∧
    T (.fcvt d a z m r) ∧ T (.ladd d a b m n l) ∧ T (.jalr d a i) ∧ T (.ld d a l z3 o) ∧ T (.mtake d (z : BitVec 4)) ∧ T (.mpeek d z) ∧ T (.wait d a)

/-- 04 R116 to R118: branches and jumps. The target counts from the instruction in words; a branch that is not taken is
not checked; JAL and JALR link to pc + 4.
04 R116 to R118: where a taken transfer leaves the code region it takes BOUNDS with XADDR the target, and a JALR to an
address that is no multiple of 4 takes ALIGN; no link is written. -/
def Obligations.ControlTransfers : Prop :=
  (∀ (s : State) (d a b : BitVec 5) (o : BitVec 13) (j : BitVec 26) (i : BitVec 16),
    let A := s.rg a
    let B := s.rg b
    let inside := fun (t : Int) => 0 ≤ t ∧ t < s.cc.codesz.toNat
    let goes := fun (q : Instr) (t : Int) (ws : List (BitVec 5 × Word)) => ∃ u, exec q s = .next u ∧ Wrote s u ws (BitVec.ofInt 64 t) 0
    let br := fun (q : Instr) (taken : Prop) =>
      (taken → inside (s.hart.pc.toNat + o.toInt * 4) → goes q (s.hart.pc.toNat + o.toInt * 4) []) ∧ (¬taken → Retires q s [] 0)
    br (.beq a b o) (A = B) ∧ br (.bne a b o) (A ≠ B) ∧ br (.blt a b o) (A.toInt < B.toInt) ∧ br (.bge a b o) (B.toInt ≤ A.toInt) ∧
    br (.bltu a b o) (A.toNat < B.toNat) ∧ br (.bgeu a b o) (B.toNat ≤ A.toNat) ∧
    (inside (s.hart.pc.toNat + j.toInt * 4) → goes (.jmp j) (s.hart.pc.toNat + j.toInt * 4) []) ∧
    (inside (s.hart.pc.toNat + j.toInt * 4) → s.writable 31 → goes (.jal j) (s.hart.pc.toNat + j.toInt * 4) [(31, s.hart.pc + 4)]) ∧
    (let t := A + i.signExtend 64
     t.toNat % 4 = 0 → t.toNat < s.cc.codesz.toNat → s.writable d → goes (.jalr d a i) t.toNat [(d, s.hart.pc + 4)])) ∧
  (∀ (s : State) (d a b : BitVec 5) (o : BitVec 13) (j : BitVec 26) (i : BitVec 16), s.trapReady →
    let A := s.rg a
    let B := s.rg b
    let outside := fun (t : Int) => t < 0 ∨ (s.cc.codesz.toNat : Int) ≤ t
    let br := fun (q : Instr) (taken : Prop) =>
      taken → outside (s.hart.pc.toNat + o.toInt * 4) → Traps q s 0x04 (BitVec.ofInt 64 (s.hart.pc.toNat + o.toInt * 4)) 0
    br (.beq a b o) (A = B) ∧ br (.bne a b o) (A ≠ B) ∧ br (.blt a b o) (A.toInt < B.toInt) ∧ br (.bge a b o) (B.toInt ≤ A.toInt) ∧
    br (.bltu a b o) (A.toNat < B.toNat) ∧ br (.bgeu a b o) (B.toNat ≤ A.toNat) ∧
    (outside (s.hart.pc.toNat + j.toInt * 4) → Traps (.jmp j) s 0x04 (BitVec.ofInt 64 (s.hart.pc.toNat + j.toInt * 4)) 0) ∧
    (outside (s.hart.pc.toNat + j.toInt * 4) → s.writable 31 → Traps (.jal j) s 0x04 (BitVec.ofInt 64 (s.hart.pc.toNat + j.toInt * 4)) 0) ∧
    (let t := A + i.signExtend 64
     s.writable d →
       (t.toNat % 4 ≠ 0 → Traps (.jalr d a i) s 0x03 t 0) ∧
       (t.toNat % 4 = 0 → s.cc.codesz.toNat ≤ t.toNat → Traps (.jalr d a i) s 0x04 t 0)))

/-- 04 R121: at issue, before anything is accessed, a load or store that is misaligned takes ALIGN, a global address above
2^48 takes XLATE, and a partitioned address outside its form takes BOUNDS, with XADDR the address: cluster bits, an offset in neither
window, a message window for anything but ST.D and STR.D, own scratch beyond its size. STR stands here with its hart's accesses performed.
That ALIGN comes first is the model's choice (log 60). -/
def Obligations.AddressFaults : Prop :=
  ∀ (s : State) (d a : BitVec 5) (l : BitVec 4) (z : BitVec 3) (y : BitVec 2) (w : BitVec 1) (o : BitVec 9),
    s.trapReady → s.writable d →
    let T := fun (m n : Nat) (win : Bool) (i : Instr) =>
      let ea := s.resolve (s.rg a + BitVec.ofInt 64 (o.toInt * m))
      let cluster := bits ea.toNat 32 24 = 0 ∧ bits ea.toNat 43 37 ≤ 99
      (ea.toNat % n ≠ 0 → Traps i s 0x03 ea 0) ∧
      (ea.toNat % n = 0 → ea.msb = false → 2 ^ 48 ≤ ea.toNat → Traps i s 0x05 ea 0) ∧
      (ea.toNat % n = 0 → ea.msb = true → (bits ea.toNat 32 24 ≠ 0 ∨ 99 < bits ea.toNat 43 37) → Traps i s 0x04 ea 0) ∧
      (ea.toNat % n = 0 → ea.msb = true → cluster →
        (0x05FFFF < addrOff ea ∧ addrOff ea < 0x800000 ∨ 0x8001FF < addrOff ea ∨ (win = false ∧ 0x800000 ≤ addrOff ea)) → Traps i s 0x04 ea 0) ∧
      (ea.toNat % n = 0 → ea.msb = true → cluster → addrOff ea ≤ 0x05FFFF → addrMod ea = 2047 → bits ea.toNat 51 33 = s.cc.corxy.toNat % 2 ^ 19 →
        s.cc.scratchSize < addrOff ea + n → Traps i s 0x04 ea 0)
    T (2 ^ (z.toNat % 4)) (2 ^ (z.toNat % 4)) false (.ld d a l z o) ∧ T (2 ^ y.toNat) (2 ^ y.toNat) false (.lda d a l y o) ∧
    T (2 ^ y.toNat) (2 ^ y.toNat) (y == 3) (.st d a y o) ∧
    (s.hart.orsLocal = 0 → s.hart.orsFab = 0 → T (2 ^ y.toNat) (2 ^ y.toNat) (y == 3) (.str d a y o)) ∧
    (let n := if w = 1 then 8 else 4
     (s.writable (d + 1) → T n (2 * n) false (.ldp d a l w o)) ∧ T n (2 * n) false (.stp d a w o))

/-- 04 R122, R127, R129: a load from the core's own scratch binds the bytes it names, sign- or zero-extended, and retires;
no memory changes. The address is g[a] plus the offset in units of the access size (R120).
04 R120, R122, R130; 02 R45: a load of a global address outside the core's regions, or of another core's scratch or
another module, sends one request of class request and stays outstanding; its destination keeps its value.
08 R191: a load in a bound region reads a sector that is present in the cache ways, and asks the home for the sector that is not.
That an own-scratch load, or one of a sector that is present, is bound at issue is the model's choice (log 6). -/
def Obligations.Loads : Prop :=
  (∀ (s : State) (d a : BitVec 5) (l : BitVec 4) (z : BitVec 3) (y : BitVec 2) (w : BitVec 1) (o : BitVec 9) (off : Nat), s.writable d →
    let ea := fun (n : Nat) => s.resolve (s.rg a + BitVec.ofInt 64 (o.toInt * n))
    let ok := fun (m n : Nat) => s.classify (ea m) n n false = .ok (.own off) ∧ s.waitsFor (.own off) (ea m) n = false ∧
      s.watchNow (ea m) n true false = none ∧ s.cc.spoisoned off n = false
    (let n := 2 ^ (z.toNat % 4)
     ok n n → Retires (.ld d a l z o) s [(d, if z.msb then BitVec.ofNat 64 (s.cc.sread off n) else sext64 (s.cc.sread off n) (8 * n))] 0) ∧
    (let n := 2 ^ y.toNat
     ok n n → Retires (.lda d a l y o) s [(d, BitVec.ofNat 64 (s.cc.sread off n))] 0) ∧
    (let n := if w = 1 then 8 else 4
     s.writable (d + 1) → ok n (2 * n) →
       Retires (.ldp d a l w o) s [(d, BitVec.ofNat 64 (s.cc.sread off n)), (d + 1, BitVec.ofNat 64 (s.cc.sread (off + n) n))] 0)) ∧
  (∀ (s : State) (d a : BitVec 5) (l : BitVec 4) (z : BitVec 3) (y : BitVec 2) (w : BitVec 1) (o : BitVec 9) (p : Place), s.writable d →
    let ea := fun (n : Nat) => s.resolve (s.rg a + BitVec.ofInt 64 (o.toInt * n))
    let far := fun (m n : Nat) => s.classify (ea m) n n false = .ok p ∧ s.waitsFor p (ea m) n = false ∧
      ((p = .global ∧ s.cc.regionAt (ea m).toNat = none) ∨ p = .remote ∨ p = .fabric)
    (let n := 2 ^ (z.toNat % 4)
     far n n → Asks (.ld d a l z o) s (s.reqOf .request (.load n (.one d n (!z.msb))) (ea n)) [d] l.toNat false) ∧
    (let n := 2 ^ y.toNat
     far n n → Asks (.lda d a l y o) s (s.reqOf .request (.load n (.one d n false)) (ea n)) [d] l.toNat true) ∧
    (let n := if w = 1 then 8 else 4
     s.writable (d + 1) → far n (2 * n) →
       Asks (.ldp d a l w o) s (s.reqOf .request (.load (2 * n) (.pair d n)) (ea n)) [d, d + 1] l.toNat false)) ∧
  (∀ (s : State) (d a : BitVec 5) (l : BitVec 4) (z : BitVec 3) (y : BitVec 2) (w : BitVec 1) (o : BitVec 9), s.writable d →
    let ea := fun (n : Nat) => s.resolve (s.rg a + BitVec.ofInt 64 (o.toInt * n))
    let at_ := fun (m n : Nat) => s.classify (ea m) n n false = .ok .global ∧ s.waitsFor .global (ea m) n = false ∧ s.cc.regionAt (ea m).toNat ≠ none
    let hits := fun (m n : Nat) (ws : Nat → List (BitVec 5 × Word)) (i : Instr) => ∀ x, s.cc.sectorAt (ea m).toNat = some x → x.poison = false →
      s.watchNow (ea m) n true false = none → Retires i s (ws (x.data.toNat / 2 ^ (8 * ((ea m).toNat % 128)) % 2 ^ (8 * n))) 0
    let misses := fun (m n : Nat) (dst : LoadDst) (ds : List (BitVec 5)) (acq : Bool) (i : Instr) => s.cc.sectorAt (ea m).toNat = none →
      Asks i s (s.reqOf .request (.fillLoad n dst) (ea m)) ds l.toNat acq
    (let n := 2 ^ (z.toNat % 4)
     at_ n n → hits n n (fun v => [(d, if z.msb then BitVec.ofNat 64 v else sext64 v (8 * n))]) (.ld d a l z o) ∧
       misses n n (.one d n (!z.msb)) [d] false (.ld d a l z o)) ∧
    (let n := 2 ^ y.toNat
     at_ n n → hits n n (fun v => [(d, BitVec.ofNat 64 v)]) (.lda d a l y o) ∧ misses n n (.one d n false) [d] true (.lda d a l y o)) ∧
    (let n := if w = 1 then 8 else 4
     s.writable (d + 1) → at_ n (2 * n) →
       hits n (2 * n) (fun v => [(d, BitVec.ofNat 64 (v % 2 ^ (8 * n))), (d + 1, BitVec.ofNat 64 (v / 2 ^ (8 * n)))]) (.ldp d a l w o) ∧
       misses n (2 * n) (.pair d n) [d, d + 1] false (.ldp d a l w o)))

/-- 04 R123, R125, R128, R129: a store to the core's own scratch writes exactly the bytes it names, with the low bytes of its
register or registers, and retires; where it names words of the code region, each hart keeps what it fetches there until its
next ISYNC (`noteCodeStore`). STR waits, with nothing changed, until the hart's earlier accesses are performed; where it
names no header word of a watched ring it only stores (08 R206).
04 R123, R124, 13 R317, R320: a store elsewhere is posted while ORSCNT and the log leave room: to a global address
outside the core's regions, to another core's scratch or to another module with class posted, to a message window with class
message. Without room it waits, with nothing changed.
08 R191: a store in a bound region writes a sector that is present and marks its bytes dirty; else, with room, it asks the home for the
sector.
08 R206: an STR.D to the header word of a watched ring stores and publishes its slot, filling published slots in slot order; where the slot
is filled and not yet popped it takes RING_ERROR with code 4 and stores nothing. Which of two watched rings that share a header word takes the
publication (`header`) is the model's choice (log 61). -/
def Obligations.Stores : Prop :=
  (∀ (s : State) (t a : BitVec 5) (y : BitVec 2) (w : BitVec 1) (o : BitVec 9) (off : Nat),
    let ea := fun (n : Nat) => s.resolve (s.rg a + BitVec.ofInt 64 (o.toInt * n))
    let ok := fun (m n : Nat) (win : Bool) => s.classify (ea m) n n win = .ok (.own off) ∧ s.waitsFor (.own off) (ea m) n = false ∧
      s.watchNow (ea m) n false true = none
    let low := fun (r : BitVec 5) (n : Nat) => (s.rg r).toNat % 2 ^ (8 * n)
    (let n := 2 ^ y.toNat
     ok n n (n == 8) → RetiresOn (.st t a y o) s (fun k => (k.noteCodeStore off n).swrite off n (low t n)) [] 0) ∧
    (let n := 2 ^ y.toNat
     ok n n (n == 8) → s.hart.outst = [] → s.hart.orsLocal = 0 → s.hart.orsFab = 0 → (n = 8 → s.cc.header off = none) →
       RetiresOn (.str t a y o) s (fun k => (k.noteCodeStore off n).swrite off n (low t n)) [] 0) ∧
    (let n := if w = 1 then 8 else 4
     ok n (2 * n) false → RetiresOn (.stp t a w o) s (fun k => (k.noteCodeStore off (2 * n)).swrite off (2 * n) (low t n + low (t + 1) n * 2 ^ (8 * n))) [] 0)) ∧
  (∀ (s : State) (t a : BitVec 5) (y : BitVec 2) (w : BitVec 1) (o : BitVec 9) (p : Place),
    let ea := fun (n : Nat) => s.resolve (s.rg a + BitVec.ofInt 64 (o.toInt * n))
    let far := fun (m n : Nat) (win : Bool) => s.classify (ea m) n n win = .ok p ∧ s.waitsFor p (ea m) n = false ∧
      ((p = .global ∧ s.cc.regionAt (ea m).toNat = none) ∨ p = .remote ∨ (p = .fabric ∧ addrOff (ea m) < 0x800000))
    let low := fun (r : BitVec 5) (n : Nat) => (s.rg r).toNat % 2 ^ (8 * n)
    let free := s.hart.outst = [] ∧ s.hart.orsLocal = 0 ∧ s.hart.orsFab = 0
    let P := fun (i : Instr) (r : Req) (fab : Bool) => (s.hart.postRoom = true → Posts i s r fab) ∧ (s.hart.postRoom = false → exec i s = .next s)
    (let n := 2 ^ y.toNat
     far n n (n == 8) → P (.st t a y o) (s.reqOf .posted (.store n (BitVec.ofNat 128 (low t n)) false) (ea n)) (p == .fabric)) ∧
    (let n := 2 ^ y.toNat
     far n n (n == 8) → free → P (.str t a y o) (s.reqOf .posted (.store n (BitVec.ofNat 128 (low t n)) true) (ea n)) (p == .fabric)) ∧
    (let n := if w = 1 then 8 else 4
     far n (2 * n) false → P (.stp t a w o) (s.reqOf .posted (.store (2 * n) (BitVec.ofNat 128 (low t n + low (t + 1) n * 2 ^ (8 * n))) false) (ea n)) (p == .fabric)) ∧
    (s.classify (ea 8) 8 8 true = .ok p → s.waitsFor p (ea 8) 8 = false → (p = .window ∨ (p = .fabric ∧ 0x800000 ≤ addrOff (ea 8))) →
       P (.st t a 3 o) (s.reqOf .message (.message (s.rg t)) (ea 8)) (p == .fabric) ∧
       (free → P (.str t a 3 o) (s.reqOf .message (.message (s.rg t)) (ea 8)) (p == .fabric)))) ∧
  (∀ (s : State) (t a : BitVec 5) (y : BitVec 2) (w : BitVec 1) (o : BitVec 9),
    let ea := fun (n : Nat) => s.resolve (s.rg a + BitVec.ofInt 64 (o.toInt * n))
    let low := fun (r : BitVec 5) (n : Nat) => (s.rg r).toNat % 2 ^ (8 * n)
    let free := s.hart.outst = [] ∧ s.hart.orsLocal = 0 ∧ s.hart.orsFab = 0
    let caches := fun (m n v : Nat) (win : Bool) (i : Instr) =>
      let A := (ea m).toNat
      s.classify (ea m) n n win = .ok .global → s.waitsFor .global (ea m) n = false → s.cc.regionAt A ≠ none →
      (s.cc.sectorAt A ≠ none → s.watchNow (ea m) n false true = none →
        RetiresOn i s (fun k => { k with cache := k.cache.map (fun x => if x.addr = A / 128 * 128 then
          { x with data := BitVec.ofNat 1024 (setBits x.data.toNat (8 * (A % 128) + 8 * n - 1) (8 * (A % 128)) v),
                   dirty := x.dirty ||| BitVec.ofNat 128 ((2 ^ n - 1) * 2 ^ (A % 128)) } else x) }) [] 0) ∧
      (s.cc.sectorAt A = none → s.hart.postRoom = true → Asks i s (s.reqOf .request (.fillStore n (BitVec.ofNat 128 v)) (ea m)) [] 0 false) ∧
      (s.cc.sectorAt A = none → s.hart.postRoom = false → exec i s = .next s)
    (let n := 2 ^ y.toNat
     caches n n (low t n) (n == 8) (.st t a y o) ∧ (free → caches n n (low t n) (n == 8) (.str t a y o))) ∧
    (let n := if w = 1 then 8 else 4
     caches n (2 * n) (low t n + low (t + 1) n * 2 ^ (8 * n)) false (.stp t a w o))) ∧
  (∀ (s : State) (t a : BitVec 5) (o : BitVec 9) (off obj slot : Nat),
    let ea := s.resolve (s.rg a + BitVec.ofInt 64 (o.toInt * 8))
    let r := s.cc.sread obj 32
    let count := 2 ^ bits r 95 91
    let widx := bits r 63 32
    let ahead := (slot + count - widx % count) % count
    let full := count ≤ (widx + 2 ^ 32 - bits r 31 0) % 2 ^ 32 + ahead
    s.classify ea 8 8 true = .ok (.own off) → s.waitsFor (.own off) ea 8 = false → s.hart.outst = [] → s.hart.orsLocal = 0 → s.hart.orsFab = 0 →
    s.cc.header off = some (obj, slot) →
    (¬full → s.watchNow ea 8 false true = none → RetiresOn (.str t a 3 o) s (fun k =>
      ((k.noteCodeStore off 8).swrite off 8 (s.rg t).toNat).putRing obj (ringFill 64 (setBits r (192 + slot) (192 + slot) 1))) [] 0) ∧
    (full → s.trapReady → Traps (.str t a 3 o) s 0x10 ea 4)) ∧
  (∀ (s : State) (t a : BitVec 5) (y : BitVec 2) (o : BitVec 9),
    (s.hart.outst ≠ [] ∨ s.hart.orsLocal ≠ 0 ∨ s.hart.orsFab ≠ 0) → exec (.str t a y o) s = .next s)

/-- 08 R182: a read of the scratch bytes that a write has just named gives the written value, and every other byte of
scratch reads as before.
The canonical form of a memory (`Memory.wf`, premise and last clause) is no rule of the spec: it is the model's choice (log 3). -/
def Obligations.ScratchReadAfterWrite : Prop :=
  ∀ (k : Core) (o n v : Nat), Memory.wf k.lmem = true → o + n ≤ k.scratchSize →
    (k.swrite o n v).sread o n = v % 2 ^ (8 * n) ∧
    (∀ o' n', o' + n' ≤ k.scratchSize → (o' + n' ≤ o ∨ o + n ≤ o') → (k.swrite o n v).sread o' n' = k.sread o' n') ∧
    Memory.wf (k.swrite o n v).lmem = true

/-- 13 R314, R315: an atomic on the core's own scratch outside the code region reads the old bytes into g[d] and writes the
new ones in one access; CAS writes only where the old bytes are those of g[d]. FADD and LADD are the F32 and the SLI32
addition, with their flags.
13 R315: an atomic elsewhere in the module sends one request and stays outstanding; g[d] keeps its value until the old
bytes come back.
That an own-scratch atomic is performed at issue is the model's choice (log 6); that one into the own code region takes PROT is the
model's reading (log 31), and no case of it is stated here. -/
def Obligations.Atomics : Prop :=
  (∀ (s : State) (d a b : BitVec 5) (l op : BitVec 4) (q r z : BitVec 1) (off : Nat), s.writable d →
    let n := if z = 1 then 8 else 4
    let ea := s.resolve (s.rg a)
    let old := s.cc.sread off n
    let B := (s.rg b).toNat % 2 ^ (8 * n)
    let S := fun (x : Nat) => (BitVec.ofNat (8 * n) x).toInt
    let new : Fl Nat :=
      match op.toNat with
      | 0 => ⟨(old + B) % 2 ^ (8 * n), 0⟩
      | 1 => ⟨old &&& B, 0⟩
      | 2 => ⟨old ||| B, 0⟩
      | 3 => ⟨old ^^^ B, 0⟩
      | 4 => ⟨if S old ≤ S B then old else B, 0⟩
      | 5 => ⟨if S old ≤ S B then B else old, 0⟩
      | 6 => ⟨if old ≤ B then old else B, 0⟩
      | 7 => ⟨if old ≤ B then B else old, 0⟩
      | 8 => ⟨B, 0⟩
      | 9 => fmtF32.add .rne old B
      | _ => sliAdd 27 old B
    s.classify ea n n false = .ok (.own off) → s.waitsFor (.own off) ea n = false → s.watchNow ea n true true = none → s.cc.beyondCode off →
    s.cc.spoisoned off n = false → (r = 1 → s.hart.outst = [] ∧ s.hart.orsLocal = 0 ∧ s.hart.orsFab = 0) →
    RetiresOn (.amo d a b l q r z op) s (fun k => k.swrite off n new.val) [(d, BitVec.ofNat 64 old)] new.fl ∧
    RetiresOn (.cas d a b l q r z) s (fun k => if old = (s.rg d).toNat % 2 ^ (8 * n) then k.swrite off n B else k) [(d, BitVec.ofNat 64 old)] 0) ∧
  (∀ (s : State) (d a b : BitVec 5) (l op : BitVec 4) (q r z : BitVec 1) (p : Place), s.writable d →
    let n := if z = 1 then 8 else 4
    let ea := s.resolve (s.rg a)
    s.classify ea n n false = .ok p → s.waitsFor p ea n = false →
    ((p = .global ∧ s.sectorMoving ea = false ∧ (s.cc.regionAt ea.toNat = none ∨ s.cc.sectorAt ea.toNat = none)) ∨ p = .remote) →
    (r = 1 → s.hart.outst = [] ∧ s.hart.orsLocal = 0 ∧ s.hart.orsFab = 0) →
    Asks (.amo d a b l q r z op) s (s.reqOf .request (.amo op n (s.rg b) d) ea) [d] l.toNat (q == 1) ∧
    Asks (.cas d a b l q r z) s (s.reqOf .request (.cas n (s.rg d) (s.rg b) d) ea) [d] l.toNat (q == 1))

/-- 06 R164, R165, R166; 13 R321: with nothing outstanding and, for FENCE and FENCE.S, no posted access unperformed, the
fences retire; ISYNC also forgets what the hart fetched before, and TFENCE also clears AREC.
06 R164: a FENCE waits, with nothing changed, while an earlier access of its hart is not performed.
06 R166: where AFLAGS and TRAPEN share a set bit, TFENCE retires, clears AREC, and takes ARITH with XPC after it and
XINFO the AREC it found.
13 R321: with an entry in the log, FENCE.S takes STORE_REJECT for the first aligned piece of the oldest entry, with its address,
its cause, its size and its data, and removes that piece from the log. -/
def Obligations.Fences : Prop :=
  (∀ (s : State) (c : BitVec 3) (f : BitVec 1), s.hart.outst = [] →
    (s.hart.orsLocal = 0 → s.hart.orsFab = 0 → Retires (.fence c) s [] 0) ∧
    (s.hart.orsLocal = 0 → (f = 1 → s.hart.orsFab = 0) → s.hart.rejLog = [] → Retires (.fenceS f) s [] 0) ∧
    (∃ t, exec .isync s = .next t ∧ Wrote (s.mapHart (fun h => { h with stale := [] })) t [] (s.hart.pc + 4) 0) ∧
    (s.hart.aflags.setWidth 8 &&& s.hart.trapen.setWidth 8 = 0#8 →
      ∃ t, exec .tfence s = .next t ∧ Wrote (s.mapHart (fun h => { h with arec := 0 })) t [] (s.hart.pc + 4) 0)) ∧
  (∀ (s : State) (c : BitVec 3) (f : BitVec 1),
    ((s.hart.outst ≠ [] ∨ s.hart.orsLocal ≠ 0 ∨ s.hart.orsFab ≠ 0) → exec (.fence c) s = .next s) ∧
    ((s.hart.outst ≠ [] ∨ s.hart.orsLocal ≠ 0 ∨ (f = 1 ∧ s.hart.orsFab ≠ 0)) → exec (.fenceS f) s = .next s) ∧
    (s.hart.outst ≠ [] → exec .isync s = .next s ∧ exec .tfence s = .next s)) ∧
  (∀ (s : State), s.trapReady → s.hart.unbound → s.hart.aflags.setWidth 8 &&& s.hart.trapen.setWidth 8 ≠ 0#8 →
    ∃ t, exec .tfence s = .next t ∧ t.hart.xcause = BitVec.ofNat 64 (b2n (s.hart.mode == .supervisor) * 2 ^ 63 + 0x09) ∧
      t.hart.xpc = (s.hart.pc + 4) &&& 0x1FFFC ∧ t.hart.xinfo = s.hart.arec ∧ t.hart.xaddr = 0 ∧ t.hart.arec = 0 ∧ t.hart.mode = .supervisor ∧
      t.hart.pc = s.hart.xvec ∧ t.hart.aflags = s.hart.aflags ∧ (∀ r, t.hart.rg r = s.hart.rg r) ∧ t.mem = s.mem ∧ t.cc.lmem = s.cc.lmem) ∧
  (∀ (s : State) (f : BitVec 1) (e : RejEntry) (es : List RejEntry) (o z : Nat), s.trapReady → s.hart.orsLocal = 0 → (f = 1 → s.hart.orsFab = 0) →
    s.hart.rejLog = e :: es →
    let set := fun (k : Nat) => bit e.mask.toNat k = true
    let piece := fun (y : Nat) => o % y = 0 ∧ ∀ k, k < y → set (o + k)
    set o → (∀ k, k < o → ¬set k) → (z = 4 ∧ piece 4 ∨ z = 2 ∧ ¬piece 4 ∧ piece 2 ∨ z = 1 ∧ ¬piece 4 ∧ ¬piece 2) →
    let mask := e.mask &&& ~~~(BitVec.ofNat 16 ((2 ^ z - 1) * 2 ^ o))
    let left := if mask = 0 then es else { e with mask := mask } :: es
    exec (.fenceS f) s = .next (s.mapHart (fun h =>
      { h with rejLog := left, xcause := BitVec.ofNat 64 (b2n (h.mode == .supervisor) * 2 ^ 63 + 0x08), xpc := h.at &&& 0x1FFFC, xaddr := e.addr + BitVec.ofNat 64 o,
               xinfo := BitVec.ofNat 64 (left.length * 2 ^ 48 + e.cause.toNat * 2 ^ 40 + Nat.log2 z * 2 ^ 32 + e.data.toNat / 2 ^ (8 * o) % 2 ^ (8 * z)),
               mode := .supervisor, ran := h.ran ||| 2, pc := h.xvec, pastEnd := false, block := none, wantsQ := none, stepArm := false, ibkSuppress := false,
               halted := h.halted || h.stepOnce, stepOnce := false })))

/-- 01 R18, 06 R168: in supervisor mode RDC reads each readable control register; the value is written to g[d] and nothing
else changes; HARTID, CORXY and VFID are the hart's place and partition, or what the debug path has written (06 R179; log 74). The cycle counters
are in `ControlRegisterWrites`.
01 R18, 06 R168: in program mode an access that only supervisor mode has takes PRIV, with the instruction's word in
XINFO; a number that is in no table, and an access that neither mode has, takes ILLEGAL. -/
def Obligations.ControlRegisterReads : Prop :=
  (∀ (s : State) (d : BitVec 5), s.writable d → s.hart.outst = [] → s.hart.mode = .supervisor →
    let R := fun (c : BitVec 12) (v : Word) => Retires (.rdc d c) s [(d, v)] 0
    let h := s.hart
    let p := s.part (s.cc.vf.getD 0)
    R 0x000 (mapGet h.ids 0 (s.cur.hart.setWidth 64)) ∧ R 0x001 (mapGet h.ids 1 s.cc.corxy) ∧
    R 0x002 (mapGet h.ids 2 ((s.cc.vf.getD 0).setWidth 64)) ∧ R 0x003 h.dmemb ∧
    R 0x010 h.aflags ∧ R 0x011 h.trapen ∧ R 0x012 h.arec ∧ R 0x018 h.shape ∧
    R 0x019 (BitVec.ofNat 64 (h.orsFab.toNat * 2 ^ 16 + h.orsLocal.toNat)) ∧
    R 0x020 h.xpc ∧ R 0x021 h.xcause ∧ R 0x022 h.xaddr ∧ R 0x023 h.xinfo ∧ R 0x024 h.xvec ∧ R 0x028 h.sleepd ∧ R 0x029 h.rotpart ∧
    R 0x034 (h.cntsel.get 0) ∧ R 0x035 (h.cntsel.get 1) ∧ R 0x036 (h.cntsel.get 2) ∧ R 0x037 (h.cntsel.get 3) ∧
    R 0x040 (h.ibk.get 0) ∧ R 0x041 (h.ibk.get 1) ∧ R 0x042 (h.ibk.get 2) ∧ R 0x043 (h.ibk.get 3) ∧
    R 0x044 (p.dwt.get 0) ∧ R 0x045 (p.dwt.get 1) ∧ R 0x046 (p.dwt.get 2) ∧ R 0x047 (p.dwt.get 3) ∧ R 0x051 s.cc.cas.casst) ∧
  (∀ (s : State) (d a : BitVec 5) (c : BitVec 12), s.trapReady →
    let n := c.toNat
    let word := (fetchWord s.cc s.hart s.hart.pc.toNat).setWidth 64
    (s.hart.mode = .program → (0x020 ≤ n ∧ n ≤ 0x024 ∨ 0x040 ≤ n ∧ n ≤ 0x047) →
      Traps (.rdc d c) s 0x02 0 word ∧ Traps (.wrc a c) s 0x02 0 word) ∧
    (s.hart.mode = .program → (n = 0x012 ∨ 0x030 ≤ n ∧ n ≤ 0x037) → Traps (.wrc a c) s 0x02 0 word) ∧
    ((n ≤ 3 ∨ n = 0x018 ∨ n = 0x019 ∨ n = 0x051) → Traps (.wrc a c) s 0x01 0 s.illegalInfo) ∧
    (n = 0x050 → Traps (.rdc d c) s 0x01 0 s.illegalInfo) ∧
    ((0x004 ≤ n ∧ n ≤ 0x00F ∨ 0x013 ≤ n ∧ n ≤ 0x017 ∨ 0x01A ≤ n ∧ n ≤ 0x01F ∨ 0x025 ≤ n ∧ n ≤ 0x027 ∨ 0x02A ≤ n ∧ n ≤ 0x02F ∨
      0x038 ≤ n ∧ n ≤ 0x03F ∨ 0x048 ≤ n ∧ n ≤ 0x04F ∨ 0x052 ≤ n) →
        Traps (.rdc d c) s 0x01 0 s.illegalInfo ∧ Traps (.wrc a c) s 0x01 0 s.illegalInfo))

/-- 01 R18, 06 R168: in supervisor mode WRC retires and writes the defined bits of g[a] to the register it names, and to no
other; a watchpoint register is its partition's. 01 R29: a WRC of 3 to SLEEPD takes ILLEGAL.
21 R418 to R421: while no counter of the hart counts cycles in a mode that it has been in since it last brought them up to date (`ran`; for
event 0x04 `stalled`, the modes in which it has been at a blocking point), RDC of a counter gives its value, or 0 where its EVENT is a port event, and WRC sets a counter or its selection. What a cycle counter has gained is a
free value (log 11). -/
def Obligations.ControlRegisterWrites : Prop :=
  (∀ (s : State) (a : BitVec 5), s.hart.outst = [] → s.hart.mode = .supervisor →
    let v := s.rg a
    let W := fun (c : BitVec 12) (f : Hart → Hart) => ∃ u, Wrote s u [] (s.hart.pc + 4) 0 ∧ exec (.wrc a c) s = .next (u.mapHart f)
    let D := fun (c : BitVec 12) (f : Partition → Partition) =>
      ∃ u, Wrote s u [] (s.hart.pc + 4) 0 ∧ exec (.wrc a c) s = .next (u.modPart (s.cc.vf.getD 0) f)
    W 0x010 (fun h => { h with aflags := v &&& 0x3FF }) ∧ W 0x011 (fun h => { h with trapen := v &&& 0xFF }) ∧
    W 0x012 (fun h => { h with arec := v &&& 0xE0000000FF1FFFFF }) ∧ W 0x020 (fun h => { h with xpc := v &&& 0x1FFFC }) ∧
    W 0x021 (fun h => { h with xcause := v &&& 0xC0000000000000FF }) ∧ W 0x022 (fun h => { h with xaddr := v }) ∧
    W 0x023 (fun h => { h with xinfo := v }) ∧ W 0x024 (fun h => { h with xvec := v &&& 0x1FFFC }) ∧
    (v.toNat % 4 ≠ 3 → W 0x028 (fun h => { h with sleepd := v &&& 3 })) ∧ W 0x029 (fun h => { h with rotpart := v &&& 0xFFFF }) ∧
    W 0x040 (fun h => { h with ibk := h.ibk.set 0 (v &&& 0xC00000000001FFFC) }) ∧
    W 0x041 (fun h => { h with ibk := h.ibk.set 1 (v &&& 0xC00000000001FFFC) }) ∧
    W 0x042 (fun h => { h with ibk := h.ibk.set 2 (v &&& 0xC00000000001FFFC) }) ∧
    W 0x043 (fun h => { h with ibk := h.ibk.set 3 (v &&& 0xC00000000001FFFC) }) ∧
    D 0x044 (fun p => { p with dwt := p.dwt.set 0 (v &&& 0xFF80FFFFFFFFFFFF) }) ∧ D 0x045 (fun p => { p with dwt := p.dwt.set 1 (v &&& 0xFF80FFFFFFFFFFFF) }) ∧
    D 0x046 (fun p => { p with dwt := p.dwt.set 2 (v &&& 0xFF80FFFFFFFFFFFF) }) ∧ D 0x047 (fun p => { p with dwt := p.dwt.set 3 (v &&& 0xFF80FFFFFFFFFFFF) })) ∧
  (∀ (s : State) (d a : BitVec 5) (k : Fin 4), s.writable d → s.hart.outst = [] → s.hart.mode = .supervisor →
    (∀ j : Fin 4, cyclesIn (s.hart.cntsel.get j) (s.hart.modesOf (s.hart.cntsel.get j)) = false) →
    let now := { s with freeCtr := s.freeCtr + 1 }.mapHart (fun h => { h with ran := modeBit .supervisor, stalled := 0 })
    (let e := bits (s.hart.cntsel.get k).toNat 7 0
     let v := if 0x20 ≤ e ∧ e ≤ 0x27 then 0 else s.hart.cnt.get k
     ∃ t, exec (.rdc d (BitVec.ofNat 12 (0x030 + k.val))) s = .next t ∧ Wrote now t [(d, v)] (s.hart.pc + 4) 0) ∧
    (∃ u, Wrote now u [] (s.hart.pc + 4) 0 ∧
      exec (.wrc a (BitVec.ofNat 12 (0x030 + k.val))) s = .next (u.mapHart (fun h => { h with cnt := h.cnt.set k.val (s.rg a &&& 0xFFFFFFFFFFFF) k.isLt }))) ∧
    (∃ u, Wrote now u [] (s.hart.pc + 4) 0 ∧
      exec (.wrc a (BitVec.ofNat 12 (0x034 + k.val))) s = .next (u.mapHart (fun h => { h with cntsel := h.cntsel.set k.val (s.rg a &&& 0xE0FF) k.isLt })))) ∧
  (∀ (s : State) (a : BitVec 5), s.trapReady → (s.rg a).toNat % 4 = 3 → Traps (.wrc a 0x028) s 0x01 0 s.illegalInfo)

/-- 06 R169, R173: TRAP retires and takes SYSCALL with XPC at the next instruction and XINFO its code; BRK takes BREAK with
XPC at itself; a word that is no defined encoding takes ILLEGAL with XINFO the word (02 R43).
06 R170, R178: in supervisor mode ERET and ERET.S restore the mode that XCAUSE[63] records and the pc from XPC, suppress
a breakpoint match on the next instruction, and for ERET.S arm STEP; no other register changes. In program mode they take PRIV. -/
def Obligations.TrapsAndReturns : Prop :=
  (∀ (s : State) (k : BitVec 12) (w : BitVec 32), s.trapReady →
    (∃ u, Wrote s u [] (s.hart.pc + 4) 0 ∧ exec (.trap k) s = .next (u.mapHart (fun h =>
      { h with xcause := BitVec.ofNat 64 (b2n (h.mode == .supervisor) * 2 ^ 63 + 0x18), xpc := (s.hart.pc + 4) &&& 0x1FFFC, xaddr := 0, xinfo := k.setWidth 64,
               mode := .supervisor, ran := h.ran ||| 2, pc := h.xvec, pastEnd := false, block := none, wantsQ := none, stepArm := false, ibkSuppress := false,
               halted := h.halted || h.stepOnce, stepOnce := false }))) ∧
    Traps (.brk k) s 0x15 0 (k.setWidth 64) ∧ Traps (.undefinedEncoding w) s 0x01 0 (w.setWidth 64)) ∧
  (∀ (s : State), s.hart.outst = [] →
    let back := fun (step : Bool) => s.mapHart (fun h =>
      { h.count 2 1 with mode := if h.xcause.msb then .supervisor else .program,
                         ran := h.ran ||| (if h.xcause.msb then modeBit .supervisor else modeBit .program), pc := h.xpc, ibkSuppress := true, block := none, stepArm := step,
                         stepPend := h.stepPend || h.stepArm, halted := h.halted || h.stepOnce, stepOnce := false })
    (s.hart.mode = .supervisor → s.hart.xpc.toNat < s.cc.codesz.toNat → exec .eret s = .next (back false) ∧ exec .eretS s = .next (back true)) ∧
    (s.hart.mode = .supervisor → s.cc.codesz.toNat ≤ s.hart.xpc.toNat → s.trapReady →
      Traps .eret s 0x04 s.hart.xpc 0 ∧ Traps .eretS s 0x04 s.hart.xpc 0) ∧
    (s.hart.mode = .program → s.trapReady →
      let word := (fetchWord s.cc s.hart s.hart.pc.toNat).setWidth 64
      Traps .eret s 0x02 0 word ∧ Traps .eretS s 0x02 0 word))

/-- 06 R171, 02 R56, 18 R379: SLEEP, a HINT of any kind but the prefetches, and the issue of a prefetch of a partitioned
address change nothing but the pc. -/
def Obligations.NoEffectInstructions : Prop :=
  ∀ (s : State) (a : BitVec 5) (k : BitVec 6) (p : BitVec 20), s.hart.outst = [] →
    Retires (.sleep a) s [] 0 ∧ (k ≠ 1 → k ≠ 2 → Retires (.hint k p) s [] 0) ∧
    ((s.rg (BitVec.ofNat 5 (p.toNat / 2 ^ 15)) + wrap (toS p.toNat 15 * 128)).msb = true → Retires (.hint k p) s [] 0)

/-- 11 R282, R300: with the hart's earlier accesses performed and the sequencer not running, CASGO starts it at UPC = g[a][7:0] for
this hart with its status cleared, and loads a0 to a15 from scratch where g[a][63] is set. -/
def Obligations.CasgoStarts : Prop :=
  ∀ (s : State) (a : BitVec 5), s.hart.outst = [] → s.hart.orsLocal = 0 → s.hart.orsFab = 0 → s.cc.cas.state ≠ .running →
    let v := (s.rg a).toNat
    let p := bits v 55 32
    (bit v 63 = true → p % 64 = 0 ∧ p + 64 ≤ s.cc.scratchSize ∧ s.wayHeld (.own p) 0 64 = false) →
    RetiresOn (.casgo a) s (fun k => { k with
      cas := { k.cas with state := .running, upc := BitVec.ofNat 8 v, casUpc := BitVec.ofNat 8 v, starter := s.cur.hart, flags := 0, foff := 0,
                          cause := 0, mrows := 0, waiting := none, fault := none, wantsQ := none,
                          a := if bit v 63 then Vector.ofFn (fun i : Fin 16 => BitVec.ofNat 32 (k.sread (p + 4 * i.val) 4)) else k.cas.a },
      issuers := k.issuers.set 4 (Vector.replicate 3 {}) }) [] 0

/-- 06 R158 to R160: MTAKE reads a message register and clears its full bit, MPEEK only reads it; WAIT returns the full bits
where one it selects is set or it selects none, and else blocks; MSEND posts a message to a window of this module or another, or waits
while ORSCNT and the log leave no room (13 R320).
06 R158: MSEND takes ALIGN at an address that is not aligned, and after it BOUNDS at one that names no message window. -/
def Obligations.MessageResults : Prop :=
  (∀ (s : State) (d a b : BitVec 5) (r : BitVec 4), s.writable d →
    let mask : BitVec 16 := (s.rg a).setWidth 16
    let t := s.resolve (s.rg a)
    (∃ u, exec (.mtake d r) s = .next u ∧ Wrote (s.mapHart (fun h => { h with full := h.full &&& ~~~(1#16 <<< r.toNat) })) u [(d, s.hart.rm r)] (s.hart.pc + 4) 0) ∧
    Retires (.mpeek d r) s [(d, s.hart.rm r)] 0 ∧
    (s.hart.outst = [] → (mask = 0 ∨ s.hart.full &&& mask ≠ 0) → Retires (.wait d a) s [(d, s.hart.full.setWidth 64)] 0) ∧
    (s.hart.outst = [] → mask ≠ 0 → s.hart.full &&& mask = 0 → exec (.wait d a) s = .next (s.mapHart (fun h => { h with block := some (.wait d mask) }))) ∧
    (t.toNat % 8 = 0 → t.msb = true → bits t.toNat 32 24 = 0 → 0x800000 ≤ addrOff t → addrOff t ≤ 0x8001FF → addrY t ≤ 99 → s.overlapping t 8 = false →
      (s.hart.postRoom = true → Posts (.msend a b) s (s.reqOf .message (.message (s.rg b)) t) (addrMod t != 2047)) ∧
      (s.hart.postRoom = false → exec (.msend a b) s = .next s))) ∧
  (∀ (s : State) (a b : BitVec 5), s.trapReady →
    let t := s.resolve (s.rg a)
    (t.toNat % 8 ≠ 0 → Traps (.msend a b) s 0x03 t 0) ∧
    (t.toNat % 8 = 0 → (t.msb = false ∨ bits t.toNat 32 24 ≠ 0 ∨ addrOff t < 0x800000 ∨ 0x8001FF < addrOff t ∨ 99 < addrY t) →
      Traps (.msend a b) s 0x04 t 0))

/-- 05 R138, R139, R143: a BIND whose checks pass takes the lowest free slot, captures the words after it and goes on behind
them; for a hart without other bindings g[d] then holds the formula's value, whose flags are raised and kept in the slot.
05 R138: three of the checks of BIND: BOUNDS for words beyond the code region, and after it BIND_FORM for g0 and BIND_FULL's code
for a register already bound.
Among several faults of one captured word the order is the model's (log 16); no case of it is stated here. -/
def Obligations.BindCaptures : Prop :=
  (∀ (s : State) (d : BitVec 5) (n : BitVec 2) (k : BitVec 4),
    let c := n.toNat + 1
    let pc := s.hart.pc.toNat
    let ws := wordsFrom s.cc s.hart (pc + 4) c
    s.hart.outst = [] → (∀ i, i < c → codeLine (pc + 4 + 4 * i) ∉ s.cc.codeStall) → (s.bindChecks d c ws).findSome? id = none →
    s.hart.freeSlot = some k → (s.hart.withBinding k d n ws).greatestLevel.1 ≤ 8 →
    ∃ t, exec (.bind d n) s = .next t ∧ RetireFrame s t ∧ t.hart.pc = BitVec.ofNat 64 (pc + 4 + 4 * c) ∧
      (t.hart.slot k).valid = true ∧ (t.hart.slot k).dest = d ∧ (t.hart.slot k).nm1 = n ∧ (t.hart.slot k).words = packWords ws ∧
      (∀ r, r ≠ d → s.hart.slotOf r = none → t.hart.rg r = s.hart.rg r) ∧
      (s.hart.unbound →
        let v := evalSteps s.hart d (stepsOf ws) 0 0
        t.hart.rg d = v.val ∧ (t.hart.slot k).status = v.fl ∧ (t.hart.slot k).dirty = false ∧ t.hart.aflags = s.hart.aflags ||| v.fl.setWidth 64)) ∧
  (∀ (s : State) (d : BitVec 5) (n : BitVec 2) (k : BitVec 4), s.trapReady →
    let c := n.toNat + 1
    let pc := s.hart.pc.toNat
    (∀ i, i < c → codeLine (pc + 4 + 4 * i) ∉ s.cc.codeStall) →
    (s.cc.codesz.toNat < pc + 4 + 4 * c → Traps (.bind d n) s 0x04 (s.cc.codesz.setWidth 64) 0) ∧
    (pc + 4 + 4 * c ≤ s.cc.codesz.toNat → (∀ i, i < c → codeLine (pc + 4 + 4 * i) ∉ s.cc.codePoison) →
      (d = 0 → Traps (.bind d n) s 0x0A 0 0) ∧
      (d ≠ 0 → s.hart.slotOf d = some k → Traps (.bind d n) s 0x0D 0 ((1#64 <<< 56) ||| k.setWidth 64))))

/-- 05 R149 to R151: with nothing outstanding UNBIND, BSTAT and BCLR complete, BSTAT where its destination is not bound. UNBIND changes no
register and no flag; it frees the slot of a bound register, and does nothing for one that is not bound; BSTAT reads the status of a binding or, for
g0, the summary: free slots, the flags of all bindings, the slots in use; BCLR clears the STATUS of one binding or of all. -/
def Obligations.BindingManagement : Prop :=
  (∀ (s : State) (d a : BitVec 5), s.hart.outst = [] →
    (∃ t, exec (.unbind a) s = .next t ∧ RetireFrame s t ∧ t.hart.pc = s.hart.pc + 4 ∧ (∀ r, t.hart.rg r = s.hart.rg r) ∧
      t.hart.aflags = s.hart.aflags ∧ t.hart.arec = s.hart.arec) ∧
    (s.writable d → ∃ v, Retires (.bstat d a) s [(d, v)] 0) ∧
    (∃ t, exec (.bclr a) s = .next t ∧ RetireFrame s t ∧ t.hart.pc = s.hart.pc + 4)) ∧
  (∀ (s : State) (d a : BitVec 5) (k : BitVec 4), s.hart.outst = [] →
    (a ≠ 0 → s.hart.slotOf a = some k →
      (∃ t, exec (.unbind a) s = .next t ∧ RetireFrame s t ∧ t.hart.pc = s.hart.pc + 4 ∧ (t.hart.slot k).valid = false ∧ (∀ r, t.hart.rg r = s.hart.rg r) ∧
        (∀ j, j ≠ k → (t.hart.slot j).valid = (s.hart.slot j).valid ∧ (t.hart.slot j).dest = (s.hart.slot j).dest ∧ (t.hart.slot j).words = (s.hart.slot j).words)) ∧
      (s.writable d → Retires (.bstat d a) s [(d, BitVec.ofNat 64 (2 ^ 18 + k.toNat * 2 ^ 14 + (s.hart.slot k).level.toNat * 2 ^ 10 +
        (s.hart.slot k).nm1.toNat * 2 ^ 8 + (s.hart.slot k).status.toNat))] 0)) ∧
    (a ≠ 0 → s.hart.slotOf a = none → Retires (.unbind a) s [] 0 ∧ (s.writable d → Retires (.bstat d a) s [(d, 0)] 0)) ∧
    Retires (.unbind 0) s [] 0 ∧
    (s.writable d → ∃ v : Word, Retires (.bstat d 0) s [(d, v)] 0 ∧ v.toNat < 2 ^ 29 ∧
      bits v.toNat 28 24 + (slotNos.filter (fun j => (s.hart.slot j).valid)).length = 16 ∧
      (∀ j : BitVec 4, v.getLsbD j.toNat = (s.hart.slot j).valid) ∧
      (∀ b, b < 8 → (v.getLsbD (16 + b) = true ↔ ∃ j : BitVec 4, (s.hart.slot j).valid = true ∧ (s.hart.slot j).status.getLsbD b = true))) ∧
    (∃ t, exec (.bclr a) s = .next t ∧
      Wrote (s.mapHart (fun h => { h with binds := h.binds.map (fun sl => if a = 0 ∨ (sl.valid = true ∧ sl.dest = a) then { sl with status := 0 } else sl) })) t [] (s.hart.pc + 4) 0))

/-- 08 R186, R187, R195 to R198: where nothing that the instruction covers has dirty bytes or lies in a way that another hart's WAYSET
changes, and no write-back of the core is on its way, RBIND fills its entry and RUNBIND empties it, each after the sectors of the old range have left the cache ways; CWB leaves
the cache as it is and CINV removes what it covers; no older copy of what is removed, or newly bound, enters the cache ways from a fill
on its way back (16 R340, R346: `refetch`, log 25); ACQ and REL ask the home of their object and wait for its answer; WAYSET waits for what is in flight to the ways that it
changes (`wayBusy`, log 21), holding new accesses to them, and then changes the ways and returns the old mask. CWB and CINV of no byte at 2^48 take
XLATE like any other above it (log 33). -/
def Obligations.RegionInstructions : Prop :=
  ∀ (s : State) (e : BitVec 3) (d a b : BitVec 5),
    let G := s.resolve (s.rg a)
    let A := G.toNat
    let size := (s.rg b).toNat
    let obj := (s.resolve (s.rg (b + 1))).toNat
    let old := s.cc.region e
    let new := (s.rg a).toNat
    let clean := fun (p : Sector → Bool) => s.flushHeld p = false ∧ s.cc.anyDirty p = false ∧ s.backsPending s.cur.core = false
    let covered := fun (x : Sector) => x.within A size
    let drops := fun (i : Instr) (p q : Sector → Bool) (f : Core → Core) => ∃ t, exec i s = .next t ∧
      Wrote ((s.refetch s.cur.core q).mapCore (fun k => f { k with cache := k.cache.filter (fun x => !p x) })) t [] (s.hart.pc + 4) 0
    (A % 512 = 0 → size % 512 = 0 → 0 < size → obj % 8 = 0 → obj < 2 ^ 48 → A + size ≤ 2 ^ 48 →
      (∀ i : BitVec 3, i ≠ e → (s.cc.region i).valid = true → A + size ≤ (s.cc.region i).base ∨ (s.cc.region i).base + 512 * (s.cc.region i).size ≤ A) →
      clean old.covers →
      drops (.rbind e a b) old.covers (fun x => old.covers x || covered x) (fun k => { k with regions := k.regions.set e.toNat ⟨true, A, size / 512, obj⟩ e.isLt })) ∧
    (old.valid = true → clean old.covers →
      drops (.runbind e) old.covers old.covers (fun k => { k with regions := k.regions.set e.toNat {} e.isLt })) ∧
    (old.valid = false → Retires (.runbind e) s [] 0) ∧
    (A < 2 ^ 48 → A + size ≤ 2 ^ 48 → clean covered → Retires (.cwb a b) s [] 0 ∧ drops (.cinv a b) covered covered (fun k => k)) ∧
    (s.trapReady → A = 2 ^ 48 → size = 0 → Traps (.cwb a b) s 0x05 G 0 ∧ Traps (.cinv a b) s 0x05 G 0) ∧
    (s.hart.outst = [] → A % 8 = 0 → A < 2 ^ 48 →
      (s.overlapping G 8 = false →
        Waits (.acqX a) s (s.reqOf .request (.acq true) G) .acq ∧ Waits (.acqS a) s (s.reqOf .request (.acq false) G) .acq) ∧
      (s.hart.orsLocal = 0 → s.hart.orsFab = 0 → clean (s.cc.ofObj A) →
        Waits (.relX a) s (s.reqOf .request (.rel true) G) .rel ∧ Waits (.relS a) s (s.reqOf .request (.rel false) G) .rel)) ∧
    (s.hart.outst = [] → s.writable d → new < 2 ^ 12 → lowestWays new ((s.cc.codesz.toNat + 32767) / 32768) =
        lowestWays s.cc.waymask.toNat ((s.cc.codesz.toNat + 32767) / 32768) → (∀ w, s.cc.wayWait = some w → w.1 = s.cur.hart) →
      let stays := fun (w : Nat) => bit s.cc.waymask.toNat w == bit new w
      (s.wayBusy (BitVec.ofNat 12 new) = true → exec (.wayset d a) s = .next (s.mapCore (fun k => { k with wayWait := some (s.cur.hart, BitVec.ofNat 12 new) }))) ∧
      (s.wayBusy (BitVec.ofNat 12 new) = false →
        RetiresOn (.wayset d a) s (fun k =>
          { k with waymask := BitVec.ofNat 12 new, lmem := k.lmem.filter (fun c => stays (c.1 / 32768)),
                   lpoison := k.lpoison.filter (fun x => stays (128 * x / 32768)), cache := k.cache.filter (fun x => stays x.way), wayWait := none })
          [(d, s.cc.waymask.setWidth 64)] 0))

/-- 08 R194, R195, R197, R198: where dirty bytes are covered, RBIND, RUNBIND, CWB, CINV and REL send one write-back for each
covered sector with dirty bytes, which carries its bytes and its mask, and wait at the instruction. 08 R187: while another hart's WAYSET
waits to change the way of a covered sector, they are held with nothing done. -/
def Obligations.WriteBacksFirst : Prop :=
  ∀ (s : State) (e : BitVec 3) (a b : BitVec 5),
    let A := (s.resolve (s.rg a)).toNat
    let size := (s.rg b).toNat
    let waits := fun (i : Instr) (p : Sector → Bool) => (s.flushHeld p = true → exec i s = .next s) ∧ (s.flushHeld p = false → s.cc.anyDirty p = true →
      ∃ t, exec i s = .next t ∧ t.hart.block = some (.writeBack none) ∧ t.hart.pc = s.hart.pc ∧ (∀ r, t.hart.rg r = s.hart.rg r) ∧ t.mem = s.mem ∧
        (∀ x ∈ s.cc.cache, p x = true → x.dirty ≠ 0 → ∃ r ∈ t.net, r.src = .core s.cur.core ∧ r.kind = .writeBack x.data x.dirty x.poison ∧
          r.ea = BitVec.ofNat 64 x.addr))
    ((s.cc.region e).valid = true → waits (.runbind e) (s.cc.region e).covers) ∧
    ((s.rbindChecks e (s.resolve (s.rg a)) (s.rg b) (s.resolve (s.rg (b + 1)))).findSome? id = none → waits (.rbind e a b) (s.cc.region e).covers) ∧
    (A < 2 ^ 48 → A + size ≤ 2 ^ 48 → waits (.cwb a b) (fun x => x.within A size) ∧ waits (.cinv a b) (fun x => x.within A size)) ∧
    (s.hart.outst = [] → s.hart.orsLocal = 0 → s.hart.orsFab = 0 → A % 8 = 0 → A < 2 ^ 48 →
      waits (.relX a) (s.cc.ofObj A) ∧ waits (.relS a) (s.cc.ofObj A))

/-- 08 R199 to R201: the barrier instructions on an object of the core's own scratch, whose 16 bytes are read and written in
one access, with the harts that wait for its phase woken as it flips (`barFlip`). Every fault bit that BARR or BEXP sets is kept, and the
trap BARRIER names the object and the bit. A BARR of an object in another core asks that core.
That a BARR on the own scratch is performed at issue is the model's choice (log 6). -/
def Obligations.BarrierResults : Prop :=
  ∀ (s : State) (d a b : BitVec 5) (l : BitVec 4) (off : Nat), s.writable d →
    let ea := s.resolve (s.rg a)
    let x := s.cc.sread off 16
    let pending := bits x 35 0
    let expected := bits x 79 64
    let arrived := bits x 95 80
    let phase := bit x 100
    let faults := bits x 103 101
    let n := (s.rg b).toNat
    let obj := fun (p e r : Nat) (ph : Bool) (f : Nat) => p + e * 2 ^ 64 + r * 2 ^ 80 + b2n ph * 2 ^ 100 + f * 2 ^ 101
    let put := fun (v : Nat) (k : Core) =>
      let k := (k.noteCodeStore off 16).swrite off 16 v
      { k with harts := k.harts.map (Hart.barFlip off v) }
    let next := (arrived + 1) % 2 ^ 16
    let full := next = expected ∧ pending = 0
    (s.classify ea 16 16 false = .ok (.own off) → s.wayHeld (.own off) ea 16 = false →
      RetiresOn (.binit a b) s (put (obj 0 (n % 2 ^ 16) 0 false 0)) [] 0 ∧
      (faults = 0 → arrived ≠ expected →
        (full → RetiresOn (.barr d a l) s (put (obj 0 expected 0 (!phase) 0)) [(d, BitVec.ofNat 64 (b2n phase + 2))] 0) ∧
        (¬full → RetiresOn (.barr d a l) s (put (obj pending expected next phase 0)) [(d, BitVec.ofNat 64 (b2n phase))] 0)) ∧
      (s.trapReady → faults ≠ 0 → TrapsOn (.barr d a l) s (put x) 0x11 ea (BitVec.ofNat 64 faults)) ∧
      (s.trapReady → faults = 0 → arrived = expected → TrapsOn (.barr d a l) s (put (obj pending expected arrived phase 4)) 0x11 ea 4) ∧
      (pending + n < 2 ^ 36 → RetiresOn (.bexp d a b) s (put (obj (pending + n) expected arrived phase faults)) [(d, BitVec.ofNat 64 (b2n phase))] 0) ∧
      (s.trapReady → 2 ^ 36 ≤ pending + n → TrapsOn (.bexp d a b) s (put (obj pending expected arrived phase (faults ||| 1))) 0x11 ea 1) ∧
      (faults = 0 → phase ≠ bit n 0 → Retires (.bwait a b) s [] 0) ∧
      (faults = 0 → phase = bit n 0 → Blocks (.bwait a b) s (.bwait off phase false)) ∧
      (s.trapReady → faults ≠ 0 → Traps (.bwait a b) s 0x11 ea (BitVec.ofNat 64 faults)) ∧
      Retires (.btest d a) s [(d, BitVec.ofNat 64 (x / 2 ^ 64))] 0) ∧
    (s.classify ea 16 16 false = .ok .remote → s.overlapping ea 16 = false →
      Asks (.barr d a l) s (s.reqOf .request (.barr d) ea) [d] l.toNat false)

/-- 08 R203 to R205, R207 to R209: the ring instructions complete on an object r of the core's own scratch. RINIT with LSCNT 0 writes
zero, else with valid fields sets the ring up empty, in header-publish mode with a watcher; RPUSH answers 2 for a ring that is faulted or not set up and 1 for a full
one, else copies a slot in; RPOP copies the oldest slot out where its type is allowed, and waits while there is none; RFIX sets
RIDX; RSTAT reads.
That a poisoned slot takes its poison along is the model's reading (log 32). -/
def Obligations.RingResults : Prop :=
  ∀ (s : State) (d a b : BitVec 5) (off buf : Nat), s.writable d →
    let ea := s.resolve (s.rg a)
    let r := s.cc.sread off 32
    let up := s.cc.ringUp r = true
    let ridx := bits r 31 0
    let widx := bits r 63 32
    let filled := bits r 176 160
    let count := 2 ^ bits r 95 91
    let n := 2 ^ bits r 90 87
    let slot := fun (i : Nat) => bits r 151 128 + i % count * n
    let put := fun (v : Nat) (k : Core) => (k.noteCodeStore off 32).swrite off 32 v
    let c := (s.rg b).toNat
    let base := (s.rg (b + 1)).toNat % 2 ^ 24
    let buffer := s.classify (s.resolve (s.rg b)) 16 (if s.cc.ringUp r then n else 16) false = .ok (.own buf)
    let type := bits (s.cc.sread (slot ridx + 8 * bits r 111 103) 8) (bits r 102 97 + 3) (bits r 102 97)
    let fix := (widx + 2 ^ 32 - c % 2 ^ 32) % 2 ^ 32
    s.classify ea 32 32 false = .ok (.own off) → s.wayHeld (.own off) ea 32 = false →
      (bits c 31 27 = 0 → RetiresOn (.rinit a b) s (fun k => put 0 (k.freeWatcher off)) [] 0) ∧
      (bits c 31 27 ≠ 0 → ringFieldsOk s.cc.scratchSize c base = true → bit c 0 = false → bit c 32 = false →
        RetiresOn (.rinit a b) s (fun k => put (bits c 63 23 * 2 ^ 87 + base * 2 ^ 128) (k.freeWatcher off)) [] 0) ∧
      (bits c 31 27 ≠ 0 → ringFieldsOk s.cc.scratchSize c base = true → bit c 0 = false → bit c 32 = true → s.cc.watcherFor off ≠ none →
        RetiresOn (.rinit a b) s (fun k => put (bits c 63 23 * 2 ^ 87 + base * 2 ^ 128) (k.watch off)) [] 0) ∧
      (buffer → s.ringHeld r buf = false →
        (¬up → Retires (.rpush d a b) s [(d, 2)] 0) ∧
        (up → bit r 96 = false → bit r 64 = true → Retires (.rpush d a b) s [(d, 2)] 0) ∧
        (up → bit r 96 = false → bit r 64 = false → filled = count → Retires (.rpush d a b) s [(d, 1)] 0) ∧
        (up → bit r 96 = false → bit r 64 = false → filled ≠ count →
          RetiresOn (.rpush d a b) s (fun k =>
            (((k.noteCodeStore (slot widx) n).swrite (slot widx) n (s.cc.sread buf n)).putRing off (ringAdvance r)).poisonFrom buf (slot widx) n)
            [(d, 0)] 0) ∧
        (up → bit r 64 = false → filled = 0 → Blocks (.rpop d a b) s (.rpop d off buf)) ∧
        (up → bit r 64 = false → filled ≠ 0 → bit (bits r 127 112) type = true →
          RetiresOn (.rpop d a b) s (fun k =>
            (((k.noteCodeStore buf n).swrite buf n (s.cc.sread (slot ridx) n)).poisonFrom (slot ridx) buf n).putRing off
              (setBits (setBits r 31 0 (ridx + 1)) 176 160 (filled - 1)))
            [(d, BitVec.ofNat 64 ridx)] 0)) ∧
      (up → fix ≤ count → ∃ pub, (64 < count → pub = bits r 255 192) ∧
        (count ≤ 64 → ∀ i, i < 64 → bit pub i = (bit (bits r 255 192) i && !(List.range fix).any (fun j => (c % 2 ^ 32 + j) % count == i))) ∧
        RetiresOn (.rfix a b) s (fun k =>
          k.putRing off (setBits (setBits (setBits (setBits r 31 0 c) 176 160 fix) 64 64 0) 255 192 pub)) [] 0) ∧
      Retires (.rstat d a) s [(d, BitVec.ofNat 64 (b2n (bit r 64) * 2 ^ 63 + filled * 2 ^ 32 + ridx))] 0

/-- 08 R186, R195 to R198: the checks, the first that fails being the trap.
08 R200, R204, R208, R209: an object whose address is not aligned takes ALIGN, and one that is not in the core's own
scratch takes BOUNDS; RING_ERROR carries 5 for a ring that is not set up, 1 for a faulted one, 2 for RPUSH on a released ring,
3 for RFIX beyond COUNT; a slot of a type that VMASK does not allow takes RING_TYPE and faults the ring. RINIT takes BOUNDS
where its fields do not hold, its STATE bit is set, or its header-publish ring finds no watcher.
Where an object is both misaligned and outside the core's own scratch, that ALIGN is taken is the model's choice (log 60); so is the check of a
CWB or CINV of no byte (log 33). -/
def Obligations.RegionAndObjectTraps : Prop :=
  (∀ (s : State) (e : BitVec 3) (d a b : BitVec 5), s.trapReady →
    let A := s.resolve (s.rg a)
    let size := s.rg b
    let obj := s.resolve (s.rg (b + 1))
    let range := A
    let new := (s.rg a).toNat
    let T := fun (i : Instr) (c : BitVec 8) (x : Word) => Traps i s c x 0
    let lines := A.toNat % 512 = 0 ∧ size.toNat % 512 = 0 ∧ size ≠ 0
    let far := 2 ^ 48 ≤ A.toNat ∨ 2 ^ 48 ≤ obj.toNat ∨ 2 ^ 48 < A.toNat + size.toNat
    (¬lines → T (.rbind e a b) 0x03 A) ∧
    (lines → obj.toNat % 8 ≠ 0 → T (.rbind e a b) 0x03 obj) ∧
    (lines → obj.toNat % 8 = 0 → far → T (.rbind e a b) 0x05 A) ∧
    (lines → obj.toNat % 8 = 0 → ¬far → (∃ i : BitVec 3, i ≠ e ∧ (s.cc.region i).valid = true ∧
      (s.cc.region i).base < A.toNat + size.toNat ∧ A.toNat < (s.cc.region i).base + 512 * (s.cc.region i).size) → T (.rbind e a b) 0x04 A) ∧
    (A.toNat % 8 ≠ 0 → T (.acqX a) 0x03 A ∧ T (.acqS a) 0x03 A ∧ T (.relX a) 0x03 A ∧ T (.relS a) 0x03 A) ∧
    (A.toNat % 8 = 0 → 2 ^ 48 ≤ A.toNat → T (.acqX a) 0x05 A ∧ T (.acqS a) 0x05 A ∧ T (.relX a) 0x05 A ∧ T (.relS a) 0x05 A) ∧
    (range.msb = true → T (.cwb a b) 0x04 range ∧ T (.cinv a b) 0x04 range) ∧
    (range.msb = false → (2 ^ 48 ≤ range.toNat ∨ 2 ^ 48 < range.toNat + size.toNat) → T (.cwb a b) 0x05 range ∧ T (.cinv a b) 0x05 range) ∧
    (s.writable d → (2 ^ 12 ≤ new ∨ lowestWays new ((s.cc.codesz.toNat + 32767) / 32768) ≠
      lowestWays s.cc.waymask.toNat ((s.cc.codesz.toNat + 32767) / 32768)) → T (.wayset d a) 0x04 0)) ∧
  (∀ (s : State) (d a b : BitVec 5) (l : BitVec 4) (off buf : Nat), s.trapReady → s.writable d →
    let ea := s.resolve (s.rg a)
    let r := s.cc.sread off 32
    let up := s.cc.ringUp r = true
    let count := 2 ^ bits r 95 91
    let n := 2 ^ bits r 90 87
    let at_ := bits r 151 128 + bits r 31 0 % count * n
    let type := bits (s.cc.sread (at_ + 8 * bits r 111 103) 8) (bits r 102 97 + 3) (bits r 102 97)
    let T := fun (i : Instr) (c : BitVec 8) (x : Word) (y : Word) => Traps i s c x y
    let fix := (bits r 63 32 + 2 ^ 32 - (s.rg b).toNat % 2 ^ 32) % 2 ^ 32
    let c := (s.rg b).toNat
    let gb := s.resolve (s.rg b)
    let m := if s.cc.ringUp r then n else 16
    (ea.toNat % 16 ≠ 0 → T (.binit a b) 0x03 ea 0 ∧ T (.barr d a l) 0x03 ea 0 ∧ T (.bexp d a b) 0x03 ea 0 ∧ T (.bwait a b) 0x03 ea 0 ∧ T (.btest d a) 0x03 ea 0) ∧
    (ea.toNat % 16 = 0 → (∀ o, s.classify ea 16 16 false ≠ .ok (.own o)) → s.classify ea 16 16 false ≠ .ok .remote → T (.barr d a l) 0x04 ea 0) ∧
    (ea.toNat % 16 = 0 → (∀ o, s.classify ea 16 16 false ≠ .ok (.own o)) →
      T (.binit a b) 0x04 ea 0 ∧ T (.bexp d a b) 0x04 ea 0 ∧ T (.bwait a b) 0x04 ea 0 ∧ T (.btest d a) 0x04 ea 0) ∧
    (ea.toNat % 32 ≠ 0 → T (.rinit a b) 0x03 ea 0 ∧ T (.rpush d a b) 0x03 ea 0 ∧ T (.rpop d a b) 0x03 ea 0 ∧ T (.rfix a b) 0x03 ea 0 ∧ T (.rstat d a) 0x03 ea 0) ∧
    (ea.toNat % 32 = 0 → (∀ o, s.classify ea 32 32 false ≠ .ok (.own o)) →
      T (.rinit a b) 0x04 ea 0 ∧ T (.rpush d a b) 0x04 ea 0 ∧ T (.rpop d a b) 0x04 ea 0 ∧ T (.rfix a b) 0x04 ea 0 ∧ T (.rstat d a) 0x04 ea 0) ∧
    (s.classify ea 32 32 false = .ok (.own off) → s.wayHeld (.own off) ea 32 = false →
      (bits c 31 27 ≠ 0 → (ringFieldsOk s.cc.scratchSize c ((s.rg (b + 1)).toNat % 2 ^ 24) = false ∨ bit c 0 = true ∨
        (bit c 32 = true ∧ s.cc.watcherFor off = none)) → T (.rinit a b) 0x04 ea 0) ∧
      (¬up → T (.rfix a b) 0x10 ea 5) ∧ (up → count < fix → T (.rfix a b) 0x10 ea 3) ∧
      (gb.toNat % 16 ≠ 0 → T (.rpush d a b) 0x03 gb 0 ∧ T (.rpop d a b) 0x03 gb 0) ∧
      (gb.toNat % 16 = 0 → (∀ o, s.classify gb 16 m false ≠ .ok (.own o)) → T (.rpush d a b) 0x04 gb 0 ∧ T (.rpop d a b) 0x04 gb 0) ∧
      (s.classify gb 16 m false = .ok (.own buf) → s.ringHeld r buf = false →
        (¬up → T (.rpop d a b) 0x10 ea 5) ∧ (up → bit r 64 = true → T (.rpop d a b) 0x10 ea 1) ∧ (up → bit r 96 = true → T (.rpush d a b) 0x10 ea 2) ∧
        (up → bit r 64 = false → bits r 176 160 ≠ 0 → bit (bits r 127 112) type = false →
          TrapsOn (.rpop d a b) s (fun k => k.putRing off (setBits r 64 64 1)) 0x0F (BitVec.ofNat 64 at_)
            (BitVec.ofNat 64 (bits r 31 0 * 2 ^ 32 + type))))))

/-- 09 R229 to R232: the element operations of two operands, for each element type that they take. S types are signed, N types
unsigned; IEEE results are rounded by the mode of AFLAGS; integer division sets NV (0x10), DZ (0x08) and IOV (0x80).
Hidden elements under an agnostic policy are all ones on this device (log 26). -/
def Obligations.VectorArithmetic : Prop :=
  ∀ (s : State) (d a b : BitVec 5) (e : BitVec 4) (m p t : BitVec 1),
    let w := etBits e
    let E := fun (q : Instr) (f : Nat → Nat → Fl Nat) =>
      Elementwise q s d e m p t (fun i j => f (tileEl (s.hart.rv a) w i j) (tileEl (s.hart.rv b) w i j))
    let S := fun (x : Nat) => (BitVec.ofNat w x).toInt
    let V := fun (x : Nat) => if e.toNat < 4 then S x else (x : Int)
    let N := fun (v : Int) => (v % 2 ^ w).toNat
    let rm := Rm.ofDrm (bits s.hart.aflags.toNat 9 8)
    let F := etFmt e
    (etInt e = true →
      E (.vadd d a b e m p t) (fun x y => ⟨N (V x + V y), 0⟩) ∧ E (.vsub d a b e m p t) (fun x y => ⟨N (V x - V y), 0⟩) ∧
      E (.vmul d a b e m p t) (fun x y => ⟨N (V x * V y), 0⟩) ∧ E (.vmulh d a b e m p t) (fun x y => ⟨N (V x * V y / 2 ^ w), 0⟩) ∧
      E (.vdiv d a b e m p t) (fun x y =>
        if y = 0 then ⟨2 ^ w - 1, if x = 0 then 0x10 else 0x08⟩
        else if e.toNat < 4 ∧ V x = -(2 ^ (w - 1)) ∧ V y = -1 then ⟨x, 0x80⟩ else ⟨N ((V x).tdiv (V y)), 0⟩) ∧
      E (.vmin d a b e m p t) (fun x y => ⟨if V x ≤ V y then x else y, 0⟩) ∧ E (.vmax d a b e m p t) (fun x y => ⟨if V y ≤ V x then x else y, 0⟩) ∧
      E (.vshl d a b e m p t) (fun x y => ⟨x * 2 ^ (y % w), 0⟩) ∧ E (.vshr d a b e m p t) (fun x y => ⟨x / 2 ^ (y % w), 0⟩) ∧
      E (.vsra d a b e m p t) (fun x y => ⟨N (S x / 2 ^ (y % w)), 0⟩)) ∧
    (etAny e = true →
      E (.vand d a b e m p t) (fun x y => ⟨x &&& y, 0⟩) ∧ E (.vor d a b e m p t) (fun x y => ⟨x ||| y, 0⟩) ∧ E (.vxor d a b e m p t) (fun x y => ⟨x ^^^ y, 0⟩)) ∧
    (etIeee e = true →
      E (.vadd d a b e m p t) (F.add rm) ∧ E (.vsub d a b e m p t) (F.sub rm) ∧ E (.vmul d a b e m p t) (F.mul rm) ∧ E (.vdiv d a b e m p t) (F.div rm) ∧
      E (.vmin d a b e m p t) (F.minmax false) ∧ E (.vmax d a b e m p t) (F.minmax true) ∧
      Elementwise (.vfma d a b e m p t) s d e m p t (fun i j => F.fma rm (tileEl (s.hart.rv a) w i j) (tileEl (s.hart.rv b) w i j) (tileEl (s.hart.rv d) w i j)) ∧
      E (.vsqrt d a e m p t) (fun x _ => F.sqrt rm x)) ∧
    (etSli e = true →
      E (.vladd d a b e m p t) (sliAdd (etP e)) ∧ E (.vlmul d a b e m p t) (sliMul (etP e)) ∧ E (.vldiv d a b e m p t) (sliDiv (etP e)))

/-- 09 R214, R234, R239 to R241: SHAPE, VSEL, VPERM, VBCAST, VEXT, VIOTA and VPOPC.
Hidden elements under an agnostic policy are all ones on this device (log 26). -/
def Obligations.VectorMovement : Prop :=
  ∀ (s : State) (d a b : BitVec 5) (e : BitVec 4) (m p t : BitVec 1) (k : BitVec 2),
    let h := s.hart
    let w := etBits e
    let n := 128 / w
    let X := fun (i j : Nat) => tileEl (h.rv a) w i j
    let Y := fun (i j : Nat) => tileEl (h.rv b) w i j
    let set := fun (q : Nat) => decide (q / n < h.rows) && decide (q % n < min h.vlen n) && (m == 0 || maskBit (h.rv 0) e (q / n) (q % n)) &&
      maskBit (h.rv a) e (q / n) (q % n)
    let shape := BitVec.ofNat 64 (min (s.rg a).toNat 8 * 2 ^ 16 + min (s.rg b).toNat (16 / 2 ^ k.toNat))
    (s.writable d → ∃ u, exec (.shape d a b k) s = .next u ∧ Wrote (s.mapHart (fun h => { h with shape := shape })) u [(d, shape)] (s.hart.pc + 4) 0) ∧
    (etWhole e = true →
      Elementwise (.vsel d a b e t) s d e 0 0 t (fun i j => ⟨if maskBit (h.rv 0) e i j then X i j else Y i j, 0⟩) ∧
      Elementwise (.vperm d a b e m p t) s d e m p t (fun i j => ⟨if Y i j < 8 * n then X (Y i j / n) (Y i j % n) else 0, 0⟩) ∧
      Elementwise (.vbcast d a e m p t) s d e m p t (fun _ _ => ⟨(s.rg a).toNat, 0⟩) ∧
      (s.writable d →
        (let q := (s.rg b).toNat
         let x := X (q / n) (q % n)
         (q < 8 * n → Retires (.vext d a b e) s [(d, if e.toNat < 4 then (BitVec.ofNat w x).signExtend 64 else BitVec.ofNat 64 x)] 0) ∧
         (8 * n ≤ q → Retires (.vext d a b e) s [(d, 0)] 0)) ∧
        Retires (.vpopc d a e m) s [(d, BitVec.ofNat 64 ((List.range (8 * n)).filter set).length)] 0)) ∧
    (etInt e = true → Elementwise (.viota d a e m p t) s d e m p t (fun i j => ⟨((List.range (i * n + j)).filter set).length, 0⟩))

/-- 09 R233, R235 to R238: VCMP writes a mask to row 0 and zero to the others; VCVT converts element by element, between a
register and a group where the widths differ; VREQ requantises a group of N32 sums; VRED reduces each row, or all of them.
Hidden elements under an agnostic policy are all ones on this device (log 26). -/
def Obligations.VectorConversions : Prop :=
  ∀ (s : State) (d a b : BitVec 5) (sb : BitVec 1) (src e : BitVec 4) (m p t : BitVec 1) (c : BitVec 2) (o : BitVec 3),
    let h := s.hart
    let w := etBits e
    let n := 128 / w
    let rm := Rm.ofDrm (bits h.aflags.toNat 9 8)
    let inside := fun (f : BitVec 4) (r q : Nat) => r < h.rows ∧ maskCol f q < min h.vlen (perRow f)
    let hidden := fun (f : BitVec 4) (r q : Nat) => m = 1 ∧ maskBit (h.rv 0) f r q = false
    (etInt e = true ∨ etIeee e = true ∨ etSli e = true →
      ∃ v fl, RetiresV (.vcmp d a b e m p t c) s [(d, v)] fl ∧ v.toNat < 2 ^ 128 ∧
        (∀ r q, r < 8 → q < 16 →
          let old := bit (h.rv d).toNat (16 * r + q)
          (¬inside e r q → bit v.toNat (16 * r + q) = (t == 1 || old)) ∧ (inside e r q → hidden e r q → bit v.toNat (16 * r + q) = (p == 1 || old)) ∧
          (inside e r q → ¬hidden e r q → bit v.toNat (16 * r + q) = (vCmp e c (tileEl (h.rv a) w r q) (tileEl (h.rv b) w r q)).val))) ∧
    (etBits src < w → etAny src = true → etAny e = true →
      ∃ (vs : List Tile) (fl : Flags), vs.length = w / etBits src ∧
        RetiresV (.vcvt d a sb src e m p t) s ((List.range (w / etBits src)).map (fun k => (d + BitVec.ofNat 5 k, vs.getD k 0))) fl ∧
        (∀ k r q, k < w / etBits src → r < 8 → q < n → inside src r (k * n + q) → ¬hidden src r (k * n + q) →
          tileEl (vs.getD k 0) w r q = (vCvt src e (sb == 1) rm (tileEl (h.rv a) (etBits src) r (k * n + q))).val % 2 ^ w)) ∧
    (w ≤ etBits src → etAny src = true → etAny e = true →
      Elementwise (.vcvt d a sb src e m p t) s d e m p t (fun r q =>
        vCvt src e (sb == 1) rm (tileEl (h.rv (a + BitVec.ofNat 5 (q / (128 / etBits src)))) (etBits src) r (q % (128 / etBits src))))) ∧
    (let g := (s.rg b).toNat
     let f : BitVec 4 := if bit g 48 then 8 else 0
     a.toNat + (if bit g 48 then 8 else 4) ≤ 32 →
       Elementwise (.vreq d a b m p t) s d f m p t (fun r q =>
         let x := (BitVec.ofNat 32 (tileEl (h.rv (a + BitVec.ofNat 5 (q / 4))) 32 r (q % 4))).toInt
         let y := (x * (BitVec.ofNat 32 g).toInt + 2 ^ (30 + bits g 37 32)) / 2 ^ (31 + bits g 37 32) + (BitVec.ofNat 8 (g / 2 ^ 40)).toInt
         satTo f y)) ∧
    (let part := fun (r : Nat) => ((List.range n).filter (fun q => decide (r < h.rows) && decide (q < min h.vlen n) && (m == 0 || maskBit (h.rv 0) e r q))).map
       (tileEl (h.rv a) w r)
     (etInt e = true ∨ (o.toNat ≤ 2 ∧ (etIeee e = true ∨ etSli e = true))) →
     (∃ v fl, RetiresV (.vred d a 0 o e m t) s [(d, v)] fl ∧
       (∀ r, r < 8 → r < h.rows → tileEl v w r 0 = (reduce o e rm (part r)).val % 2 ^ w) ∧
       (∀ r q, r < 8 → q < n → ¬(q = 0 ∧ r < h.rows) → tileEl v w r q = if t = 1 then 2 ^ w - 1 else tileEl (h.rv d) w r q)) ∧
     (∃ v fl, RetiresV (.vred d a 1 o e m t) s [(d, v)] fl ∧ tileEl v w 0 0 = (reduce o e rm ((List.range 8).flatMap part)).val % 2 ^ w ∧
       (∀ r q, r < 8 → q < n → ¬(q = 0 ∧ r = 0) → tileEl v w r q = if t = 1 then 2 ^ w - 1 else tileEl (h.rv d) w r q)))

/-- 09 R222 to R224, R227, R211: a vector load all of whose elements lie in the core's own scratch writes the bytes it names.
VLD strides, VLDM follows the map at its address, VLDX adds offsets; S4 and N4 elements are bytes here. Where the core does not hold an
element, its request, or in a bound region the fill of its sector, goes on its way, and the hart waits for all of them with no register
written. -/
def Obligations.VectorLoads : Prop :=
  ∀ (s : State) (d a b : BitVec 5) (e : BitVec 4) (m p t : BitVec 1) (map : Nat), etAny e = true →
    let f : BitVec 4 := if etNibble e then 0 else e
    let n := etBytes f
    let h := s.hart
    let loads := fun (q : Instr) (at_ : Nat → Nat → Word) =>
      let picked := fun (i j : Nat) => i < h.rows ∧ i < 8 ∧ j < min h.vlen (16 / n) ∧ (m = 1 → maskBit (h.rv 0) f i j = true)
      let ea := fun (i j : Nat) => s.resolve (at_ i j)
      ((∀ i j, picked i j → s.classify (ea i j) n n false = .ok (.own (addrOff (ea i j))) ∧ s.waitsFor (.own (addrOff (ea i j))) (ea i j) n = false ∧
         s.watchNow (ea i j) n true false = none ∧ s.cc.spoisoned (addrOff (ea i j)) n = false) →
       Elementwise q s d f m p t (fun i j => ⟨s.cc.sread (addrOff (ea i j)) n, 0⟩)) ∧
      (s.vform false n (s.vaddrs f m at_) = none → s.vbusy n (s.vaddrs f m at_) = false → (∃ x ∈ s.vaddrs f m at_, s.vnear x.2 n = none) →
       ∃ u base es, exec q s = .next u ∧ u.hart.block = some (.vload n d base es) ∧ u.hart.pc = s.hart.pc ∧ u.hart.g = s.hart.g ∧
         u.hart.v = s.hart.v ∧ u.mem = s.mem ∧ u.cc.lmem = s.cc.lmem ∧ es.map (fun e => (e.pos, e.ea)) = s.vaddrs f m at_ ∧
         (∀ e ∈ es, match s.vnear e.ea n with
           | some v => e.wait = none ∧ e.val = v.1 ∧ e.poison = v.2
           | none => ∃ r ∈ u.net, e.wait = some r.id ∧ s.nextId ≤ r.id ∧ r.src = .hart s.cur.core s.cur.hart ∧
               (if s.inRegion e.ea then (r.kind = .vfill false n ∨ r.kind = .velem n) ∧ sectorAddr r.ea.toNat = sectorAddr e.ea.toNat
                else r.kind = .velem n ∧ r.ea = e.ea)))
    loads (.vld d a b e m p t) (fun i j => s.rg a + BitVec.ofNat 64 i * (if b = 0 then 16 else s.rg b) + BitVec.ofNat 64 (n * j)) ∧
    loads (.vldx d a b e m p t) (fun i j =>
      s.rg a + (BitVec.ofNat 32 (tileEl (h.rv (b + BitVec.ofNat 5 (j / 4))) 32 i (j % 4))).signExtend 64) ∧
    ((∃ off, s.classify (s.resolve (s.rg a)) 16 16 false = .ok (.own off) ∧ s.wayHeld (.own off) 0 16 = false ∧ map = s.cc.sread off 16) →
      loads (.vldm d a b e m p t) (fun i j =>
        let row := bits map 127 96 + ((s.rg b).toNat % 2 ^ 32 + i)
        let row := if bits map 95 80 = 0 then row else row % bits map 95 80
        BitVec.ofNat 64 (bits map 63 0 + row * (bits map 79 64 * 16)) + BitVec.ofNat 64 (n * j)))

/-- 09 R222 to R225: a vector store all of whose elements lie in the core's own scratch writes them in row-major order and
retires; one to other cores, other modules or memory outside the core's regions sends one posted access for each 16-byte granule,
for VSTX for each element, while there is room for them; one to sectors that are present in the cache ways writes them there; one that
touches a sector of a bound region that is not present first asks for each such sector, and writes nothing before. -/
def Obligations.VectorStores : Prop :=
  ∀ (s : State) (d a b : BitVec 5) (e : BitVec 4) (m : BitVec 1) (map : Nat), etAny e = true →
    let f : BitVec 4 := if etNibble e then 0 else e
    let n := etBytes f
    let h := s.hart
    let stores := fun (q : Instr) (index : Bool) (at_ : Nat → Nat → Word) =>
      let xs := s.vaddrs f m at_
      let el := fun (x : Nat × Word) => tileEl (h.rv d) (etBits f) (x.1 / (16 / n)) (x.1 % (16 / n))
      let ok := fun (pl : Place) (x : Nat × Word) => s.classify x.2 n n false = .ok pl ∧ s.waitsFor pl x.2 n = false
      (∀ x ∈ xs, s.watchNow x.2 n false true = none) →
      ((∀ x ∈ xs, ok (.own (addrOff x.2)) x) →
        ∃ u, exec q s = .next u ∧
          Wrote ((s.mapCore (fun k => xs.foldl (fun k x => (k.noteCodeStore (addrOff x.2) n).swrite (addrOff x.2) n (el x)) k)).mapHart
            (fun h => { h with vposts := [] })) u [] (s.hart.pc + 4) 0) ∧
      (let parts := postedParts n index (xs.map (fun x => (x.1, x.2, el x)))
       (∀ x ∈ xs, ∃ pl, ok pl x ∧ ((pl = .global ∧ s.cc.regionAt x.2.toNat = none) ∨ pl = .remote ∨ pl = .fabric)) →
        h.orsLocal.toNat + h.orsFab.toNat + h.rejLog.length + parts.length ≤ 8 →
        ∃ u, exec q s = .next u ∧ u.hart.pc = s.hart.pc + 4 ∧ u.hart.block = none ∧ u.mem = s.mem ∧ u.cc.lmem = s.cc.lmem ∧
          (∀ r, s.writable r → u.hart.rg r = s.hart.rg r) ∧
          u.net = s.net ++ parts.zipIdx.map (fun x => { s.reqOf .posted x.1.1 x.1.2.1 with id := s.nextId + x.2 })) ∧
      ((∀ x ∈ xs, ok .global x ∧ s.cc.regionAt x.2.toNat ≠ none ∧ s.cc.sectorAt x.2.toNat ≠ none) →
        ∃ u, exec q s = .next u ∧
          Wrote ((s.mapCore (fun k => xs.foldl (fun k x => k.cacheStore x.2.toNat n (el x)) k)).mapHart (fun h => { h with vposts := [] })) u []
            (s.hart.pc + 4) 0) ∧
      ((∀ x ∈ xs, ∃ pl, ok pl x ∧ pl ≠ .window) → (∃ x ∈ xs, s.inRegion x.2 = true ∧ s.cc.sectorAt x.2.toNat = none) →
        ∃ u v, exec q s = .next u ∧ u.hart.block = some (.vstore v) ∧ u.hart.pc = s.hart.pc ∧ u.hart.g = s.hart.g ∧ u.mem = s.mem ∧
          u.cc.lmem = s.cc.lmem ∧ u.cc.cache = s.cc.cache ∧
          (∀ x ∈ xs, s.inRegion x.2 = true → s.cc.sectorAt x.2.toNat = none →
            ∃ r ∈ u.net, r.src = .hart s.cur.core s.cur.hart ∧ r.kind = .vfill true n ∧ sectorAddr r.ea.toNat = sectorAddr x.2.toNat))
    stores (.vst d a b e m) false (fun i j => s.rg a + BitVec.ofNat 64 i * (if b = 0 then 16 else s.rg b) + BitVec.ofNat 64 (n * j)) ∧
    stores (.vstx d a b e m) true (fun i j =>
      s.rg a + (BitVec.ofNat 32 (tileEl (h.rv (b + BitVec.ofNat 5 (j / 4))) 32 i (j % 4))).signExtend 64) ∧
    ((∃ off, s.classify (s.resolve (s.rg a)) 16 16 false = .ok (.own off) ∧ s.wayHeld (.own off) 0 16 = false ∧ map = s.cc.sread off 16) →
      stores (.vstm d a b e m) false (fun i j =>
        let row := bits map 127 96 + ((s.rg b).toNat % 2 ^ 32 + i)
        let row := if bits map 95 80 = 0 then row else row % bits map 95 80
        BitVec.ofNat 64 (bits map 63 0 + row * (bits map 79 64 * 16)) + BitVec.ofNat 64 (n * j)))

/-- 10 R258 to R263: a matrix command whose checks pass enters the queue; the tile, the vectors and the codebooks are own
scratch, the slots are the hart's own. MCLAIM gives the lowest run of free slots, or all ones.
10 R276 to R279, 11 R284: the exponent commands enter their queue; XROT carries the ROTPART of its issue; CASLD loads
microwords while the sequencer does not run. -/
def Obligations.MatrixAndExponentCommands : Prop :=
  (∀ (s : State) (d a b : BitVec 5) (q l : BitVec 4),
    let mine := fun (x : Nat) => s.cc.claimed x s.cur.hart = true
    let own := fun (r : BitVec 5) (al n : Nat) => s.addrCheck (s.rg r) al n true = none
    let off := fun (r : BitVec 5) => addrOff (s.resolve (s.rg r))
    let A := (s.rg a).toNat
    let B := (s.rg b).toNat
    let D := (s.rg d).toNat
    let slot := D % 32
    let line := bits D 11 8
    let cb4 := s.cur.core / 17 % 256 % 4 ≠ 0
    (s.writable d → 1 ≤ A → A ≤ 32 →
      (∀ base, base + A ≤ 32 → (∀ k, k < 32 → base ≤ k → k < base + A → s.cc.slotsFree k 1 = true) →
        (∀ j, j < base → ∃ k, j ≤ k ∧ k < j + A ∧ s.cc.slotsFree k 1 = false) →
        RetiresOn (.mclaim d a l) s (fun k => k.ownSlots base A (some s.cur.hart)) [(d, BitVec.ofNat 64 base)] 0) ∧
      ((∀ j, ∃ k, j ≤ k ∧ k < j + A ∧ s.cc.slotsFree k 1 = false) → Retires (.mclaim d a l) s [(d, 0xFFFFFFFFFFFFFFFF)] 0)) ∧
    (A + B ≤ 32 → B ≠ 0 → (∀ k, k < B → mine (A + k)) → Commands (.mrel a b l) s .matrix (.mrel A B) 0) ∧
    (a.toNat + q.toNat + 1 ≤ 32 → bits D 63 12 = 0 → bits D 7 5 = 0 → mine slot → line + q.toNat + 1 ≤ 16 →
      Commands (.mput d a q l) s .matrix (.mput slot line (q.toNat + 1) a none) 0) ∧
    (let c := B % 32
     let stride := bits B 47 16
     bits D 63 12 = 0 → bits D 7 5 = 0 → bits B 63 48 = 0 → bits B 15 5 = 0 → mine slot → 1 ≤ c → c ≤ 16 → stride % 16 = 0 → line + c ≤ 16 →
       own a 16 ((c - 1) * stride + 128) → Commands (.mload d a b l) s .matrix (.mload slot line c stride (off a)) 0) ∧
    (let k := bits B 24 16
     let n := bits B 12 8
     let m := B % 32
     let k0 := bits B 40 32
     bits B 63 53 = 0 → bits B 47 41 = 0 → bits B 31 25 = 0 → bits B 15 13 = 0 → bits B 7 5 = 0 → bits A 63 13 = 0 → bits A 7 5 = 0 →
       ((cb4 ∧ bits B 52 50 = 1 ∧ k ≤ 256 ∧ k0 % 32 = 0) ∨ (¬cb4 ∧ bits B 52 50 = 0 ∧ k ≤ 64 ∧ k0 % 16 = 0)) → bits B 49 48 ≤ 1 → k0 ≤ k →
       m ≤ 16 → n ≤ 16 → mine (A % 32) → mine (bits A 12 8) → own d 64 1024 →
       Commands (.mma d a b l) s .matrix (.mma (off d) (A % 32) (bits A 12 8) (bits B 52 50 == 1) (bits B 49 48 == 1) k0 k n m) 0) ∧
    (cb4 → own a 32 32 → own b 32 32 → Commands (.mcbk a b l) s .matrix (.mcbk (off a) (off b)) 0)) ∧
  (∀ (s : State) (d a b : BitVec 5) (l : BitVec 4),
    let own := fun (r : BitVec 5) (al n : Nat) => s.addrCheck (s.rg r) al n true = none
    let off := fun (r : BitVec 5) => addrOff (s.resolve (s.rg r))
    let B := (s.rg b).toNat
    (bits B 63 49 = 0 → own d 16 (max 1 (4 * bits B 47 32)) → own a 16 (max 1 (4 * bits B 47 32)) →
      Commands (.xexp d a b l) s .exponent (.xexp (off d) (off a) (s.rg b)) 0) ∧
    (let T := (s.rg (b + 1)).toNat
     let pairs := bits B 23 16
     let rows := bits B 15 0
     let rp := s.hart.rotpart.toNat
     bits B 63 24 = 0 → bits T 63 56 = 0 → bits T 31 24 = 0 → 1 ≤ pairs → pairs ≤ 128 → bits rp 7 0 ≤ bits rp 15 8 → bits rp 15 8 ≤ pairs →
       own d 16 (max 1 (8 * pairs * rows)) → own a 16 (max 1 (8 * pairs * rows)) →
       bits T 55 32 % 16 = 0 → bits T 55 32 + max 1 (16 * rows) ≤ s.cc.scratchSize → bits T 23 0 % 16 = 0 → bits T 23 0 + 4 * pairs ≤ s.cc.scratchSize →
       Commands (.xrot d a b l) s .exponent (.xrot (off d) (off a) (s.rg b) (s.rg (b + 1)) s.hart.rotpart 0) 0) ∧
    (let n := bits B 8 0
     let f := bits B 23 16
     bits B 63 24 = 0 → bits B 15 9 = 0 → 1 ≤ n → f + n ≤ 256 → s.cc.cas.state ≠ .running → own a 8 (8 * n) → s.wayHeld (.own (off a)) 0 (8 * n) = false →
       RetiresOn (.casld a b l) s (fun k => { k with cas := { k.cas with
         store := (List.range n).foldl (fun m q => mapSet m (f + q) (BitVec.ofNat 64 (k.sread (off a + 8 * q) 8))) k.cas.store } }) [] 0))

/-- 10 R267 to R275: a copy command whose checks pass enters the queue with its completion specification. -/
def Obligations.CopyCommands : Prop :=
  ∀ (s : State) (d a b : BitVec 5) (l : BitVec 4),
    let addr := fun (r : BitVec 5) (al n : Nat) (own : Bool) => s.addrCheck (s.rg r) al n own = none
    let ea := fun (r : BitVec 5) => s.resolve (s.rg r)
    let cs := fun (r : BitVec 5) => bits (s.rg r).toNat 57 40 = 0 ∧ s.csCheck (s.rg r) = none
    let B := (s.rg b).toNat
    (cs (b + 1) → B % 16 = 0 → B < 2 ^ 32 → addr d 16 (max B 1) false → addr a 16 (max B 1) false →
      Commands (.cpy d a b l) s .copy (.cpy (ea d) (ea a) B) (s.rg (b + 1))) ∧
    (let dmap := bit B 63
     let smap := bit B 62
     let strides := (s.rg (b + 1)).toNat
     let side := fun (r : BitVec 5) (isMap : Bool) => if isMap then addr r 16 16 true else addr r 1 1 false
     cs (b + 2) → bits B 61 48 = 0 → bits B 31 0 % 16 = 0 → (smap = false → bits strides 31 0 % 16 = 0) → (dmap = false → bits strides 63 32 % 16 = 0) →
       bits B 47 32 * bits B 31 0 < 2 ^ 36 → side d dmap → side a smap →
       Commands (.cpy2 d a b l) s .copy (.cpy2 (if dmap then ea d else s.rg d) (if smap then ea a else s.rg a) (s.rg b) (s.rg (b + 1)) none) (s.rg (b + 2))) ∧
    (let code := bit B 20
     let n := bits B 15 0
     cs (b + 2) → bits B 63 40 = 0 → bits B 23 21 = 0 →
       (if code then ((blockOf (bits B 31 24)).bind BlockFmt.codeBytes).isSome = true else etWhole (BitVec.ofNat 4 (bits B 19 16)) = true ∧ addr (b + 1) 32 512 true) →
       addr d 16 (max 1 (if code then n * (((blockOf (bits B 31 24)).bind BlockFmt.codeBytes).getD 0) else 0)) true → addr a 64 (max 1 (64 * n)) false →
       Commands (.cxp d a b l) s .copy (.cxp (addrOff (ea d)) (ea a) (s.rg b) (addrOff (ea (b + 1)))) (s.rg (b + 2))) ∧
    (let st : BitVec 4 := BitVec.ofNat 4 (bits B 19 16)
     let n := bits B 15 0
     let elems := n * (((blockOf (bits B 31 24)).map BlockFmt.count).getD 0)
     cs (b + 1) → bits B 63 40 = 0 → bits B 23 20 = 0 → cpkOk (bits B 31 24) st (bits B 39 32) = true → addr d 64 (max 1 (64 * n)) false →
       addr a 16 (max 1 (if etNibble st then (elems + 1) / 2 else elems * etBytes st)) true →
       Commands (.cpk d a b l) s .copy (.cpk (ea d) (addrOff (ea a)) (s.rg b)) (s.rg (b + 1))) ∧
    (let P := (s.rg (d + 1)).toNat
     let idx := s.hart.indices (s.hart.rv b)
     let size := 2 ^ bits P 35 32
     let reach := idx.foldl (fun n x => max n ((x.2 + 1) * size)) 1
     cs (d + 2) → bits P 63 36 = 0 → 4 ≤ bits P 35 32 → bits P 35 32 ≤ 12 → addr d 16 (max 1 (idx.length * size)) true → addr a 16 reach false →
       (∀ x ∈ idx, x.2 < bits P 31 0) →
       Commands (.cgthb d a b l) s .copy (.cgthb (addrOff (ea d)) (ea a) (idx.map (fun x => x.2)) size) (s.rg (d + 2))) ∧
    (cs b → s.ringAddr (s.rg d) = none → addr a 16 1 true → Commands (.cpyr d a b l) s .copy (.cpyr (ea d) (addrOff (ea a))) (s.rg b))

/-- 10 R252, R253; 11 R285: a wait whose commands have all ended covers the flags kept for it and answers the number of the last
command, or takes the trap of the fault that is kept; else it blocks. MSTAT and CSTAT read the fault record. CASWAIT answers
CASST once the run has ended. -/
def Obligations.EngineWaits : Prop :=
  ∀ (s : State) (d : BitVec 5) (l : BitVec 4), s.writable d →
    let waits := fun (i : Instr) (e : Engine) =>
      let u := s.cc.issuer s.issuerNo e
      let covered := (s.mapCore (fun k => k.modIssuer s.issuerNo e (fun u => { u with flags := [], faulted := false }))).mapHart
        (fun h => u.flags.foldl (fun h x => h.raiseFlags x.1 (arecInstr x.2)) h)
      (s.cc.engineDone s.issuerNo e = true → u.faulted = false →
        ∃ t, exec i s = .next t ∧ Wrote covered t [(d, BitVec.ofNat 64 (u.seq.toNat * 2 ^ 32))] (s.hart.pc + 4) 0) ∧
      (s.cc.engineDone s.issuerNo e = true → u.faulted = true → s.trapReady →
        ∃ t, exec i s = .next t ∧ t.hart.xcause = BitVec.ofNat 64 (b2n (s.hart.mode == .supervisor) * 2 ^ 63 + bits u.record.toNat 31 24) ∧
          t.hart.xpc = s.hart.at &&& 0x1FFFC ∧ t.hart.xaddr = u.addr ∧ t.hart.xinfo = u.record ∧ t.hart.pc = s.hart.xvec ∧ t.hart.mode = .supervisor ∧
          (t.cc.issuer s.issuerNo e).faulted = false ∧ (t.cc.issuer s.issuerNo e).flags = [] ∧ (∀ r, t.hart.rg r = s.hart.rg r)) ∧
      (s.cc.engineDone s.issuerNo e = false → Blocks i s (.engine e d))
    waits (.mwait d l) .matrix ∧ waits (.cwait d l) .copy ∧ waits (.xwait d l) .exponent ∧
    (s.writable (d + 1) →
      Retires (.mstat d l) s [(d, (s.cc.issuer s.issuerNo .matrix).record), (d + 1, (s.cc.issuer s.issuerNo .matrix).addr)] 0 ∧
      Retires (.cstat d l) s [(d, (s.cc.issuer s.issuerNo .copy).record), (d + 1, (s.cc.issuer s.issuerNo .copy).addr)] 0) ∧
    (s.cc.cas.state ≠ .running → Retires (.caswait d l) s [(d, s.cc.cas.casst)] 0) ∧ (s.cc.cas.state = .running → Blocks (.caswait d l) s (.caswait d))

/-- 10 R246, R258 to R263, R270 to R277: the reason that ENGINE carries where a check of a command fails before its addresses:
6 for a reserved bit, 1 for a slot that is not the hart's, 2 for a count or length, 5 for lines beyond the slot, 4 for a type, 8 for a
running sequencer. The queue of the command has a free entry: without one the hart is not ready (01 R26). -/
def Obligations.EngineCommandTraps : Prop :=
  ∀ (s : State) (d a b : BitVec 5) (q l : BitVec 4), s.trapReady → s.writable d → (∀ e : Engine, s.queueShut e = false) →
    let T := fun (i : Instr) (reason : Nat) => Traps i s 0x12 0 (BitVec.ofNat 64 reason)
    let A := (s.rg a).toNat
    let B := (s.rg b).toNat
    let D := (s.rg d).toNat
    ((A = 0 ∨ 32 < A) → T (.mclaim d a l) 2) ∧
    ((32 < A + B ∨ B = 0 ∨ ∃ k, k < B ∧ s.cc.claimed (A + k) s.cur.hart = false) → T (.mrel a b l) 1) ∧
    (a.toNat + q.toNat + 1 ≤ 32 → (bits D 63 12 ≠ 0 ∨ bits D 7 5 ≠ 0) → T (.mput d a q l) 6) ∧
    (a.toNat + q.toNat + 1 ≤ 32 → bits D 63 12 = 0 → bits D 7 5 = 0 →
      (s.cc.claimed (D % 32) s.cur.hart = false → T (.mput d a q l) 1) ∧
      (s.cc.claimed (D % 32) s.cur.hart = true → 16 < bits D 11 8 + q.toNat + 1 → T (.mput d a q l) 5)) ∧
    (32 < a.toNat + q.toNat + 1 → Traps (.mput d a q l) s 0x01 0 s.illegalInfo) ∧
    (s.cur.core / 17 % 256 % 4 = 0 → T (.mcbk a b l) 4) ∧
    (bits (s.rg (b + 1)).toNat 57 40 ≠ 0 → T (.cpy d a b l) 6) ∧
    (bits (s.rg (b + 1)).toNat 57 40 = 0 → (B % 16 ≠ 0 ∨ 2 ^ 32 ≤ B) → T (.cpy d a b l) 2) ∧
    (bits B 63 49 ≠ 0 → T (.xexp d a b l) 6) ∧
    (s.cc.cas.state = .running → bits B 63 24 = 0 → bits B 15 9 = 0 → 1 ≤ bits B 8 0 → bits B 23 16 + bits B 8 0 ≤ 256 → T (.casld a b l) 8)

/-- 19 R387 to R395: a Sash instruction whose operands pass sends its request to a unit and stays outstanding for its result in
g[d]; storage is 4 KiB aligned, state is own scratch aligned to 128. -/
def Obligations.SashRequests : Prop :=
  ∀ (s : State) (d a b : BitVec 5) (l : BitVec 4), s.writable d →
    let asks := fun (i : Instr) (op : SashOp) (handle : Word) => Asks i s (s.reqOf .request (.sash op handle d) 0) [d] l.toNat false
    let unit := dieOf (s.cur.core / 17 % 256) (s.cur.core / 17 / 256)
    let scratch := fun (r : BitVec 5) => s.addrCheck (s.rg r) 128 1 true = none
    let ea := fun (r : BitVec 5) => s.resolve (s.rg r)
    let off := fun (r : BitVec 5) => addrOff (ea r)
    ((ea a).toNat % 4096 = 0 → asks (.ssopen d a b l) (.open (ea a).toNat (s.rg b) unit) 0) ∧
    (scratch (b + 1) → asks (.ssload d a b l) (.load (s.rg b) (off (b + 1))) (s.rg a)) ∧
    (scratch (b + 2) → asks (.sscommit d a b l) (.commit (s.rg b) (s.rg (b + 1)) (off (b + 2))) (s.rg a)) ∧
    asks (.sssnap d a l) .snap (s.rg a) ∧ asks (.ssfind d a b l) (.find (s.rg b)) (s.rg a) ∧ asks (.ssroll d a b l) (.roll (s.rg b)) (s.rg a) ∧
    asks (.sspin d a b l) (.pin (s.rg b)) (s.rg a) ∧ asks (.ssunpin d a b l) (.unpin (s.rg b)) (s.rg a) ∧
    ((ea (b + 1)).toNat % 4096 = 0 → asks (.ssfork d a b l) (.fork (s.rg b) (ea (b + 1)).toNat unit) (s.rg a)) ∧
    Asks (.ssclose a l) s (s.reqOf .request (.sash .close (s.rg a) 0) 0) [0] l.toNat false ∧
    (s.trapReady → (ea a).toNat % 4096 ≠ 0 → Traps (.ssopen d a b l) s 0x03 (ea a) 0) ∧
    (s.trapReady → (ea (b + 1)).toNat % 4096 ≠ 0 → Traps (.ssfork d a b l) s 0x03 (ea (b + 1)) 0)

/-- 20 R398, R405 to R408: on an estimate e of the hart's launch, ENEXT hands out the next position with its item, answers all
ones when the estimate has stopped or every position is out, and waits for a merge; EACC closes the hart's position, with its
value unless its round is cancelled; ESTAT reads. Without an estimate, with a position open, or for another position they take
ESTIMATE.
That the answers are bound at issue is the model's choice (log 6). -/
def Obligations.PeepholeResults : Prop :=
  ∀ (s : State) (d a b : BitVec 5) (l : BitVec 4) (g : GroupRef) (x : Launch) (e : Estimate),
    s.writable d → s.writable (d + 1) → s.writable (d + 2) → s.writable (d + 3) → s.hart.group = some g →
    s.launches.find? (fun y => y.id == g.launch) = some x →
    let T := fun (i : Instr) (reason : Word) => s.trapReady → Traps i s 0x1B 0 reason
    let with_ := fun (f : Estimate → Estimate) (pos : Option Nat) =>
      ({ s with launches := updWhere (fun y => y.id == g.launch) (fun y => { y with est := some (f e) }) s.launches }).mapHart (fun h => { h with openPos := pos })
    let out := e.status ≠ .running ∨ e.n ≤ e.next
    (x.est = none → T (.enext d l) 1 ∧ T (.eacc d a b l) 1 ∧ T (.estat d l) 1) ∧
    (x.est = some e →
      (s.hart.openPos ≠ none → T (.enext d l) 2) ∧
      (s.hart.openPos = none →
        (out → Retires (.enext d l) s [(d, 0xFFFFFFFFFFFFFFFF), (d + 1, 0xFFFFFFFFFFFFFFFF)] 0) ∧
        (¬out → e.next / 2 ^ e.lw < e.rounds + 2 →
          ∃ t, exec (.enext d l) s = .next t ∧
            Wrote (with_ (fun e => { e with next := e.next + 1, opened := e.opened ++ [e.next] }) (some e.next)) t
              [(d, BitVec.ofNat 64 (louvre e.seed.toNat e.n e.next)), (d + 1, BitVec.ofNat 64 e.next)] (s.hart.pc + 4) 0) ∧
        (¬out → e.rounds + 2 ≤ e.next / 2 ^ e.lw → Blocks (.enext d l) s .enext)) ∧
      (let p := (s.rg a).toNat
       (s.hart.openPos ≠ some p → T (.eacc d a b l) 3) ∧
       (s.hart.openPos = some p →
         let gone := e.status ≠ .running ∧ e.rounds ≤ p / 2 ^ e.lw
         (gone → ∃ t, exec (.eacc d a b l) s = .next t ∧
           Wrote (with_ (fun e => { e with opened := setDel e.opened p }) none) t [(d, 1)] (s.hart.pc + 4) 0) ∧
         (¬gone → ∃ t, exec (.eacc d a b l) s = .next t ∧
           Wrote (with_ (fun e => { e with opened := setDel e.opened p, values := mapSet e.values p (s.rg b) }) none) t [(d, 0)] (s.hart.pc + 4) 0))) ∧
      Retires (.estat d l) s [(d, BitVec.ofNat 64 e.count), (d + 1, e.mean), (d + 2, e.m2),
        (d + 3, BitVec.ofNat 64 ((e.status.code * 2 ^ 32) ||| e.rounds))] 0)

/-- 18 R364 to R366, R372: LAUNCH of a valid record submits it to its queue and answers its ID, or 0 where the queue is full;
an invalid record takes LAUNCH with its reason and byte.
Reading the record takes the machine from s to u, which differ at most in its home slice (`recordAt`); a record in own scratch is read
there. The requests of the submitter that the submission releases are kept with it (log 44). -/
def Obligations.LaunchResults : Prop :=
  ∀ (s u : State) (d a b : BitVec 5) (r : Nat), s.hart.outst = [] → s.writable d →
    let ea := s.resolve (s.rg a)
    let vf := u.cc.vf.getD 0
    let p := u.part vf
    let q : BitVec 3 := BitVec.ofNat 3 (bits r 82 80)
    let id := vf.toNat * 2 ^ 28 + p.serial % (2 ^ 28 - 1) + 1
    let spec := s.rg b
    let new : Launch :=
      { id := id, vf := vf, record := BitVec.ofNat 512 r, spec := spec,
        submitter := .hart vf u.cc.vcore u.cur.hart (u.hart.group.getD ⟨0, 0, 0⟩),
        image := if bits r 255 192 = 0 then u.cc.image else BitVec.ofNat 64 (bits r 255 192), order := u.order, after := u.unperformed }
    s.recordAt ea = .ok (u, r, false) → s.recordWaits ea = false →
    (∀ reason byte, s.recordFault s.cvf r false = some (reason, byte) → u.trapReady →
      exec (.launch d a b) s = .next (u.modHart u.cur.core u.cur.hart (fun h =>
        { h with xcause := BitVec.ofNat 64 (b2n (h.mode == .supervisor) * 2 ^ 63 + 0x1C), xpc := h.at &&& 0x1FFFC, xaddr := ea,
                 xinfo := BitVec.ofNat 64 (byte * 2 ^ 8 + reason), mode := .supervisor, ran := h.ran ||| 2, pc := h.xvec, pastEnd := false, block := none, wantsQ := none,
                 stepArm := false, ibkSuppress := false, halted := h.halted || h.stepOnce, stepOnce := false }))) ∧
    (s.recordFault s.cvf r false = none → bit spec.toNat 62 = false → bits spec.toNat 57 48 = 0 → bits spec.toNat 5 0 = 0 →
      (64 ≤ (p.queue q).length → ∃ t, exec (.launch d a b) s = .next t ∧ Wrote u t [(d, 0)] (u.hart.pc + 4) 0) ∧
      ((p.queue q).length < 64 → ∃ t, exec (.launch d a b) s = .next t ∧
        Wrote (let w := u.modPart vf (fun p =>
            { p with queues := p.queues.set q.toNat (p.queue q ++ [id]) q.isLt, serial := p.serial + 1, sinceCheckpoint := p.sinceCheckpoint ++ [new] })
          { w with launches := u.launches.filter (fun x => x.id != id) ++ [new], order := u.order + 1 }) t [(d, BitVec.ofNat 64 id)] (u.hart.pc + 4) 0)) ∧
    (∀ off, s.classify ea 64 64 false = .ok (.own off) → (ea.msb && (addrMod ea != 2047 || bits ea.toNat 51 33 != s.cc.corxy.toNat % 2 ^ 19 || inWindow ea)) = false →
      s.recordAt ea = .ok (s, s.cc.sread off 64, s.cc.spoisoned off 64))

/-- 18 R370, R374 to R376: TRIG and EXIT wait, with nothing changed, for the hart's engine commands, TRIG also for its accesses, EXIT for the
Casement run it started; a DSYNC that has not arrived waits for the accesses; none of them runs while an access is outstanding (02 R47). TRIG marks its hart in its group; EXIT ends it, and with a code other than 0 fails the launch with FINFO the code; DSYNC
arrives at its domain and retires after the phase has flipped; YIELD retires where its core is not marked for eviction.
The posted accesses on their way at an EXIT are kept with the group (log 44). -/
def Obligations.GroupInstructions : Prop :=
  (∀ (s : State) (a : BitVec 5) (v : BitVec 3), s.hart.outst ≠ [] →
    exec .trig s = .next s ∧ exec (.exit a) s = .next s ∧ exec (.dsync v) s = .next s ∧ exec .yield s = .next s) ∧
  (∀ (s : State) (a : BitVec 5) (v : BitVec 3) (g : GroupRef), s.hart.outst = [] → s.hart.group = some g →
    let idle := s.cc.engineDone s.issuerNo .matrix = true ∧ s.cc.engineDone s.issuerNo .copy = true ∧ s.cc.engineDone s.issuerNo .exponent = true
    let still := s.hart.orsLocal = 0 ∧ s.hart.orsFab = 0
    let group := fun (f : GroupSt → GroupSt) =>
      { s with launches := updWhere (fun l => l.id == g.launch) (fun l => { l with groups := updWhere (fun x => x.num == g.group) f l.groups }) s.launches }
    let w := s.hart.dmemb.toNat
    let n := v.toNat
    (still → idle → ∃ t, exec .trig s = .next t ∧
      Wrote ((group (fun x => { x with triggered := x.triggered ||| (1#4 <<< g.index) })).mapHart (fun h => { h with triggered := true })) t [] (s.hart.pc + 4) 0) ∧
    (¬still → exec .trig s = .next s) ∧
    (¬idle → exec .trig s = .next s ∧ exec (.exit a) s = .next s) ∧
    (s.cc.cas.state = .running → s.cc.cas.starter = s.cur.hart → exec (.exit a) s = .next s) ∧
    (idle → ¬(s.cc.cas.state = .running ∧ s.cc.cas.starter = s.cur.hart) →
      (∀ e : Engine, (s.cc.issuer s.issuerNo e).faulted = false) → s.hart.openPos = none →
      ∃ t, exec (.exit a) s = .next t ∧ t.hart.exited = true ∧ t.hart.block = none ∧ t.hart.pc = s.hart.pc ∧ (∀ r, t.hart.rg r = s.hart.rg r) ∧ t.mem = s.mem ∧
        (s.rg a = 0 → t.launches = (group (fun x =>
          { x with exited := x.exited ||| (1#4 <<< g.index),
                   after := x.after ++ (s.net.filter (fun r => r.src == .hart s.cur.core s.cur.hart && r.kind.posted)).map (fun r => r.id) })).launches) ∧
        (s.rg a ≠ 0 → ∀ x, s.launches.find? (fun l => l.id == g.launch) = some x → x.failure = none →
          ∃ y, t.launches.find? (fun l => l.id == g.launch) = some y ∧
            y.failure = some (0, (s.rg a).setWidth 32, BitVec.ofNat 32 g.group) ∧ (x.status = .completed → y.status = .failed))) ∧
    (1 ≤ n → bit w (n - 1) = true →
      (bits w 15 13 = 0 → ¬still → exec (.dsync v) s = .next s) ∧
      (bits w 15 13 = 0 → still → exec (.dsync v) s = .next (s.mapHart (fun h =>
        { h with dmemb := BitVec.ofNat 64 (setBits (setBits w 15 13 n) 12 12 (b2n (s.myPhase n))), block := some .dsync }))) ∧
      (bits w 15 13 = n → n ≠ 0 → s.myPhase n = bit w 12 → Blocks (.dsync v) s .dsync) ∧
      (bits w 15 13 = n → n ≠ 0 → s.myPhase n ≠ bit w 12 → ∃ t, exec (.dsync v) s = .next t ∧
        Wrote (s.mapHart (fun h => { h with dmemb := BitVec.ofNat 64 (setBits (setBits w 15 13 0) 12 12 (b2n (bit w 12))) })) t [] (s.hart.pc + 4) 0)) ∧
    (s.trapReady → 1 ≤ n →
      (bit w (n - 1) = false → Traps (.dsync v) s 0x1C 0 8) ∧
      (bit w (n - 1) = true → bits w 15 13 ≠ 0 → bits w 15 13 ≠ n → Traps (.dsync v) s 0x1C 0 9)) ∧
    (s.cc.marked = false → Retires .yield s [] 0) ∧ (s.cc.marked = true → s.hart.block ≠ some .yield → Blocks .yield s .yield))

/-- 11 R286, R287, R290: the register and control microwords. A jump counts from the microword itself, modulo 256; ADDM leaves the
sum where g[b] is 0; SIG arrives at a barrier or delivers a message, or fails the run where the barrier holds a fault.
11 R290, R299, R453: a microword whose form is not as its row says, or an operand out of its range, fails the run before any
effect: the record keeps the cause, the microword's number and FOFF. The wait of WAITE ends when the commands that it names have
ended; STOP then ends the run; a run that failed stops FAULTED once all its commands have ended.
A SIG that meets a barrier fault ends the run before any effect. A SIG of a message waits, with the next microword, while neither the register
nor the overflow queue takes it behind what waits already; at a core that sleeps it is kept for the wake where they would take it then (01 R33). -/
def Obligations.MicroControl : Prop :=
  (∀ (s : State) (u : Micro),
    let cas := fun (f : Casement → Casement) (k : Core) => { k with cas := f k.cas }
    let R := s.cc.cas.reg
    let set := fun (v : BitVec 32) (c : Casement) => { c with a := c.a.set u.d.toNat v u.d.isLt }
    let step := fun (c : Casement) => { c with upc := c.upc + 1 }
    let jump := fun (c : Casement) => { c with upc := c.upc + u.imm.setWidth 8 }
    ((Instr.microMovi u).wf = true → Micros (.microMovi u) s (cas (fun c => step (set u.imm c)))) ∧
    ((Instr.microAdd u).wf = true → Micros (.microAdd u) s (cas (fun c => step (set (R u.a + u.imm + (if u.x = 1 then R u.b else 0)) c)))) ∧
    ((Instr.microAddm u).wf = true → Micros (.microAddm u) s (cas (fun c =>
      step (set (if R u.b = 0 then R u.a + u.imm else BitVec.ofNat 32 ((R u.a + u.imm).toNat % (R u.b).toNat)) c)))) ∧
    ((Instr.microDjnz u).wf = true → Micros (.microDjnz u) s (cas (fun c =>
      if R u.d = 1 then step (set 0 c) else jump (set (R u.d - 1) c)))) ∧
    ((Instr.microBnz u).wf = true → Micros (.microBnz u) s (cas (fun c => if R u.a = 0 then step c else jump c))) ∧
    ((Instr.microWaite u).wf = true → Micros (.microWaite u) s (cas (fun c => { c with waiting := some (u.imm.setWidth 3, false) }))) ∧
    ((Instr.microStop u).wf = true → Micros (.microStop u) s (cas (fun c => { c with waiting := some (7, true) }))) ∧
    (let off := (R u.a).toNat % 2 ^ 24
     let x := s.cc.sread off 16
     (Instr.microSig u).wf = true → off % 16 = 0 → bits (R u.a).toNat 31 24 = 0 → off + 16 ≤ s.cc.scratchSize →
       (bits x 103 101 = 0 → bits x 95 80 ≠ bits x 79 64 →
         Micros (.microSig u) s (fun k => cas step (k.putOwnBar off (barComplete
           (bits x 35 0 + bits x 79 64 * 2 ^ 64 + (bits x 95 80 + 1) % 2 ^ 16 * 2 ^ 80 + b2n (bit x 100) * 2 ^ 100))))) ∧
       (bits x 103 101 ≠ 0 ∨ bits x 95 80 = bits x 79 64 → Micros (.microSig u) s (cas (fun c =>
         { c with fault := some (0x11, c.upc, BitVec.ofNat 24 off), waiting := none, wantsQ := none })))) ∧
    (let m : Msg := ⟨BitVec.ofNat 2 (bits u.imm.toNat 5 4), BitVec.ofNat 4 u.imm.toNat, (R u.b).setWidth 64⟩
     (Instr.microSigMessage u).wf = true → (s.cc.hart m.hart).group.isSome = true →
       (s.cc.sleep = .awake → s.cc.tokens = [] →
         (∀ k, s.cc.deliver m = some k → Micros (.microSigMessage u) s (fun _ => cas step k)) ∧
         (s.cc.deliver m = none → exec (.microSigMessage u) s = .next s)) ∧
       (s.cc.sleep = .awake → s.cc.tokens ≠ [] → exec (.microSigMessage u) s = .next s) ∧
       (s.cc.sleep ≠ .awake →
         let woken := s.cc.giveTokens
         (woken.tokens = [] → (woken.deliver m).isSome = true → Micros (.microSigMessage u) s (fun k => cas step { k with tokens := k.tokens ++ [m] })) ∧
         ((woken.tokens ≠ [] ∨ woken.deliver m = none) → exec (.microSigMessage u) s = .next s)))) ∧
  (∀ (s : State) (c : Nat) (u : Micro) (m : BitVec 3) (cause upc : BitVec 8) (foff : BitVec 24),
    let k := s.core c
    let cas := fun (f : Casement → Casement) => s.modCore c (fun k => { k with cas := f k.cas })
    let fails := fun (x : BitVec 8) (o : Nat) (k : Core) =>
      { k with cas := { k.cas with fault := some (x, k.cas.upc, BitVec.ofNat 24 o), waiting := none, wantsQ := none } }
    let off := (s.cc.cas.reg u.d).toNat % 2 ^ 24
    ((Instr.microMovi u).wf = false → Micros (.microMovi u) s (fails 0x01 0)) ∧
    ((Instr.microMask u).wf = true → off % 64 ≠ 0 → Micros (.microMask u) s (fails 0x03 off)) ∧
    ((Instr.microMask u).wf = true → off % 64 = 0 → (bits (s.cc.cas.reg u.d).toNat 31 24 ≠ 0 ∨ s.cc.scratchSize < off + 1024) →
      Micros (.microMask u) s (fails 0x04 off)) ∧
    (k.cas.state = .running → k.casDone m = true → k.casFaulted m = none →
      (k.cas.waiting = some (m, false) → Becomes (.waiteReturn c) s (cas (fun x => { x with upc := x.upc + 1, waiting := none }))) ∧
      (k.cas.waiting = some (m, true) → Becomes (.runStop c) s (cas (fun x => { x with waiting := none, state := .stopped, casUpc := x.upc })))) ∧
    (k.cas.state = .running → k.casDone 7 = true → k.cas.fault = some (cause, upc, foff) →
      Becomes (.runFault c) s (cas (fun x => { x with fault := none, state := .faulted, cause := cause, casUpc := upc, foff := foff }))) ∧
    (k.cas.state = .running → k.casDone m = false →
      (k.cas.waiting = some (m, false) → Becomes (.waiteReturn c) s s) ∧ (k.cas.waiting = some (m, true) → Becomes (.runStop c) s s)))

/-- 11 R288, R289, R291 to R298: a command microword enters its engine's queue for the sequencer under its own number; an attention
microword works row by row: it reads the operands of a row, writes its results to scratch (MASK the invisible entries alone) and adds
its flags to CASST.FLAGS. That RMAX, LCOMB and NORM compute each element from what stands in scratch when its turn comes, where their operands
overlap, is the model's reading (log 20). -/
def Obligations.MicroOperations : Prop :=
  ∀ (s : State) (u : Micro),
    let R := s.cc.cas.reg
    let off := fun (r : BitVec 4) => (R r).toNat % 2 ^ 24
    let at_ := fun (r : BitVec 4) (al n : Nat) => off r % al = 0 ∧ bits (R r).toNat 31 24 = 0 ∧ off r + n ≤ s.cc.scratchSize
    let mine := fun (x : Nat) => s.cc.claimed x s.cc.cas.starter = true
    let I := u.imm.toNat
    let A := (R u.a).toNat
    let D := (R u.d).toNat
    let queued := fun (i : Instr) (e : Engine) (op : CmdOp) (cs : Word) =>
      (s.cc.eng e).queue.length < Config.engineQueue → s.cc.hartWants e = false →
      Micros i s (fun k =>
        let n := (k.issuer 4 e).seq + 1
        let k1 := (k.modIssuer 4 e (fun u => { u with seq := n })).setEng e
          { k.eng e with queue := (k.eng e).queue ++ [{ issuer := 4, seq := n, off := k.cas.upc.setWidth 64, op := op, cs := cs, mark := s.nextId }] }
        { k1 with cas := { k1.cas with upc := k1.cas.upc + 1, wantsQ := none } })
    let put := fun (k : Core) (o : Nat) (v : Nat) => (k.noteCodeStore o 4).swrite o 4 (packEls 32 [v])
    let word := fun (k : Core) (o i : Nat) => k.sread (o + 4 * i) 4
    let each := fun (o n : Nat) (f : Core → Nat → Fl Nat) (a : Core × Flags) =>
      (List.range n).foldl (fun a i => (put a.1 (o + 4 * i) (f a.1 i).val, a.2 ||| (f a.1 i).fl)) a
    let ends := fun (a : Core × Flags) (_ : Core) =>
      { a.1 with cas := { a.1.cas with upc := a.1.cas.upc + 1, flags := a.1.cas.flags ||| a.2.setWidth 6 } }
    let w := s.cur.core / 17 % 256 % 4 = 0
    ((Instr.microMm u).wf = true → bits I 15 13 = 0 → bits I 7 5 = 0 → bits A 31 13 = 0 → bits A 7 5 = 0 → (bit u.x.toNat 3 = true ↔ ¬w) →
      mine (A % 32) → mine (bits A 12 8) → I % 32 ≤ 16 → bits I 12 8 ≤ 16 → bits I 24 16 ≤ (if w then 64 else 256) → at_ u.d 64 1024 →
      queued (.microMm u) .matrix (.mma (off u.d) (A % 32) (bits A 12 8) (bit u.x.toNat 3) (bit u.x.toNat 2) 0 (bits I 24 16) (bits I 12 8) (I % 32)) 0) ∧
    ((Instr.microMmMload u).wf = true → D < 2 ^ 12 → bits D 7 5 = 0 → mine (D % 32) → 1 ≤ I % 32 → I % 32 ≤ 16 → bits D 11 8 + I % 32 ≤ 16 →
      at_ u.a 16 ((I % 32 - 1) * (16 * bits I 31 16) + 128) →
      queued (.microMmMload u) .matrix (.mload (D % 32) (bits D 11 8) (I % 32) (16 * bits I 31 16) (off u.a)) 0) ∧
    ((Instr.microXp u).wf = true → D < 32 → mine D → at_ u.a 64 1024 → at_ u.b 64 128 → queued (.microXp u) .exponent (.xp D (off u.a) (off u.b) u.imm) 0) ∧
    ((Instr.microCp u).wf = true → I % 16 = 0 → at_ u.d 16 (max 1 I) → at_ u.a 16 (max 1 I) → (u.x = 1 → at_ u.b 16 16) →
      queued (.microCp u) .copy (.cpy (s.cc.ownAddr (off u.d)) (s.cc.ownAddr (off u.a)) I) (if u.x = 1 then BitVec.ofNat 64 (2 ^ 63 + off u.b) else 0)) ∧
    ((Instr.microMask u).wf = true → at_ u.d 64 1024 → Micros (.microMask u) s (ends ((List.range 256).foldl (fun a n =>
      let q := (R u.a).toInt + (n / 16 : Nat)
      let k := (R u.b).toInt + (n % 16 : Nat)
      let visible := decide (n % 16 < u.x.toNat % 32) && (!bit u.x.toNat 5 || (decide (k ≤ q) && (decide (I = 0) || decide (q - (I : Int) < k))))
      if visible then a else (put a.1 (off u.d + 4 * n) 0xFF800000, a.2 ||| 0)) (s.cc, 0)))) ∧
    ((Instr.microRmax u).wf = true → at_ u.d 64 128 → at_ u.a 64 1024 → Micros (.microRmax u) s (ends (each (off u.d) 16 (fun k i =>
      rowMax ((List.range 16).map (fun j => word k (off u.a) (16 * i + j))) I) (s.cc, 0)))) ∧
    ((Instr.microRsum u).wf = true → A < 32 → mine A → at_ u.d 64 128 → Micros (.microRsum u) s (ends (each (off u.d + 64) 16 (fun k i =>
      rowSum (k.getLine A i)) (s.cc, 0)))) ∧
    ((Instr.microLcomb u).wf = true → at_ u.d 64 1088 → at_ u.a 64 128 → at_ u.b 64 1024 →
      Micros (.microLcomb u) s (ends ((List.range 16).foldl (fun a i =>
        let w := rowWeight (word a.1 (off u.a) i)
        let l := combine (word a.1 (off u.d) i) w.val (word a.1 (off u.a + 64) i)
        each (off u.d + 64 + 64 * i) 16 (fun k j => combine (word k (off u.d + 64) (16 * i + j)) w.val (word k (off u.b) (16 * i + j)))
          (put a.1 (off u.d + 4 * i) l.val, a.2 ||| w.fl ||| l.fl)) (s.cc, 0)))) ∧
    ((Instr.microNorm u).wf = true → at_ u.d 16 512 → at_ u.a 64 1088 → (u.x = 1 → at_ u.b 16 64) →
      let outs := fun (i l : Nat) (a : Core × Flags) => (List.range 16).foldl (fun (a : Core × Flags) j =>
        let o := off u.d + 32 * i + 2 * j
        let r := normElement l (word a.1 (off u.a + 64) (16 * i + j))
        ((a.1.noteCodeStore o 2).swrite o 2 r.val, a.2 ||| r.fl)) a
      let r := (List.range 16).foldl (fun (r : (Core × Flags) × Nat) i =>
        let l := word r.1.1 (off u.a) i
        let a := outs i l r.1
        let a' := if u.x = 1 then (put a.1 (off u.b + 4 * i) (normLse l).val, a.2 ||| (normLse l).fl) else a
        (a', r.2 + (if SVal.decode 27 l = .zero then 1 else 0))) ((s.cc, 0), 0)
      Micros (.microNorm u) s (fun k =>
        let k1 := ends r.1 k
        { k1 with cas := { k1.cas with mrows := BitVec.ofNat 16 (min 65535 (k1.cas.mrows.toNat + r.2)) } }))

/-- 15 R328, R330; 13 R313, R316, R448; 08 R449; 23 R437; 21 R426: the source router sends a request to the core that holds its virtual
core, or to Beline where the context is saved; the local-memory controller there performs a load, a store or an atomic, refuses
one that leaves scratch with BOUNDS, a store to the code region with PROT, and any where no group is hosted with PROT; it holds one
that targets a way which a waiting WAYSET changes (08 R187); the port lets out what the peer entry allows, and there the access has
passed its fault point. A posted access that is refused carries its rejection back; a load or an atomic that is refused faults its hart,
once the core is awake (01 R32): the refusal of another core travels to it with that core's other answers (13 R308). That one of its own
router or port reaches a hart that is awake in the same step is the model's choice (log 87). -/
def Obligations.RequestRouting : Prop :=
  ∀ (s : State) (id : Nat) (r : Req), s.reqNext id = some r →
    let v := addrVcore r.ea
    let here := r.ea.msb = true ∧ addrMod r.ea = 2047
    let o := addrOff r.ea
    let w := s.reqWatch r
    let arrives := fun (i : Instr) => (i = .remoteScratchAccess id ∧ ∃ c, r.stage = .toCore c) ∨ (i = .evictedAccess id ∧ ∃ vf x, r.stage = .toEvicted vf x)
    let peer := mapGet (s.part r.vf).peers (addrMod r.ea) 0
    let waits := (∃ n dst, r.kind = .load n dst) ∨ ∃ op n b d, r.kind = .amo op n b d
    let late := fun (t : State) (i : Instr) (cause : BitVec 8) (site : Nat) => ∀ c h, r.src = .hart c h →
      ((t.core c).sleep = .awake → Becomes i s ((t.dropReq r.id).lateFault c h r.id ⟨cause, r.ea, 0⟩)) ∧
      ((t.core c).sleep ≠ .awake → Becomes i s (t.moveReq { r with stage := .rejected cause, notice := true, info := 0, site := site, cls := .response }))
    let noted := fun (t : State) (i : Instr) (cause : BitVec 8) (site : Nat) => (∃ c h, r.src = .hart c h) → site ≠ r.ownSite →
      Becomes i s (t.moveReq { r with stage := .rejected cause, notice := true, info := 0, site := site, cls := .response })
    (waits →
      (r.stage = .sent → here → s.placed r.vf r.ea = false → late s (.sourceRouterRemap id) 0x04 r.ownSite) ∧
      (∀ i, arrives i →
        (s.spot r.vf v = none → noted s i 0x06 (2 ^ 20)) ∧
        (∀ p, s.spot r.vf v = some p → (s.spotCore r.vf p).affected o r.kind.size = false →
          let k := s.spotCore r.vf p
          (k.scratchSize < o + r.kind.size → noted (s.putSpot r.vf p k) i 0x04 p.site) ∧
          ((∃ op n b d, r.kind = .amo op n b d) → o + r.kind.size ≤ k.scratchSize → o < k.codesz.toNat → noted (s.putSpot r.vf p k) i 0x06 p.site))) ∧
      (r.stage = .sent → r.ea.msb = true → addrMod r.ea ≠ 2047 →
        (peer.msb = false → late s (.fabricPortCheck id) 0x04 r.ownSite) ∧
        (peer.msb = true → bit peer.toNat 61 = false → late s (.fabricPortCheck id) 0x06 r.ownSite))) ∧
    (r.stage = .sent → here → s.placed r.vf r.ea = true →
      (∀ c, s.locate r.vf v = some c → Becomes (.sourceRouterRemap id) s (s.stageTo r (.toCore c))) ∧
      (s.locate r.vf v = none →
        ((s.part r.vf).savedAt v ≠ none → Becomes (.sourceRouterRemap id) s (s.stageTo r (.toEvicted r.vf v))) ∧
        ((s.part r.vf).savedAt v = none → ∀ c, s.physCore r.vf (vcX v) (vcY v) (vcC v) = some c → Becomes (.sourceRouterRemap id) s (s.stageTo r (.toCore c))))) ∧
    (r.stage = .sent → here → s.placed r.vf r.ea = false → r.kind.posted = true → Becomes (.sourceRouterRemap id) s (s.answer r r.ownSite (.rejected 0x04))) ∧
    (∀ i, arrives i →
      (s.spot r.vf v = none → r.kind.posted = true → r.kind.isMessage = false → Becomes i s (s.answer r (2 ^ 20) (.rejected 0x06))) ∧
      (∀ p, s.spot r.vf v = some p → r.kind.isMessage = false → (s.spotCore r.vf p).affected o r.kind.size = true → Becomes i s s) ∧
      (∀ p, s.spot r.vf v = some p → (s.spotCore r.vf p).affected o r.kind.size = false →
        let k := s.spotCore r.vf p
        (∀ n dst, r.kind = .load n dst → o + n ≤ k.scratchSize →
          Becomes i s (((s.putSpot r.vf p k).passed r).answer r p.site (.reply (BitVec.ofNat 1024 (k.sread o n)) (k.spoisoned o n) 0 w))) ∧
        (∀ n x rel, r.kind = .store n x rel →
          (k.scratchSize < o + n → Becomes i s ((s.putSpot r.vf p k).answer r p.site (.rejected 0x04))) ∧
          (o + n ≤ k.scratchSize → o < k.codesz.toNat → Becomes i s ((s.putSpot r.vf p k).answer r p.site (.rejected 0x06))) ∧
          (o + n ≤ k.scratchSize → k.codesz.toNat ≤ o → (rel = true → n = 8 → k.header o = none) →
            Becomes i s ((s.putSpot r.vf p (k.swrite o n x.toNat)).answer r p.site (.acknowledged w)))) ∧
        (∀ op n b d, r.kind = .amo op n b d → o + n ≤ k.scratchSize → k.codesz.toNat ≤ o → k.spoisoned o n = false →
          let new := amoNew op n (k.sread o n) (b.toNat % 2 ^ (8 * n))
          Becomes i s (((s.putSpot r.vf p (k.swrite o n new.val)).passed r).answer r p.site (.reply (BitVec.ofNat 1024 (k.sread o n)) false new.fl w))))) ∧
    (r.stage = .sent → r.ea.msb = true → addrMod r.ea ≠ 2047 →
      (peer.msb = true → (if r.kind.posted then bit peer.toNat 62 else bit peer.toNat 61) = true → Becomes (.fabricPortCheck id) s ((s.passed r).stageTo r .onFabric)) ∧
      (peer.msb = false → r.kind.posted = true → Becomes (.fabricPortCheck id) s (s.answer r r.ownSite (.rejected 0x04))) ∧
      (peer.msb = true → r.kind.posted = true → bit peer.toNat 62 = false → Becomes (.fabricPortCheck id) s (s.answer r r.ownSite (.rejected 0x06)))) ∧
    Becomes (.linkRetry id) s { s with belineLog := s.belineLog ++ [.corrected id] }

/-- 06 R156, R162; 05 R146; 13 R448; 01 R33: a message goes into its register where that is empty and nothing older waits for it, else
into the overflow queue, else it is refused and sent again; one for an evicted hart is held with its context; one for a hart that
hosts no group is rejected with PROT; one for a sleeping core waits at its router. An empty register takes the oldest queued message for it.
An arrival that changes the VALUE of a source waits for the next instruction boundary (05 R146), here with its full bit: until its pass runs the
register counts as taken, and takes it then (log 59); any other arrival writes at once (log 28). A hart hosts its group until the group has
ended (log 35). -/
def Obligations.MessageDelivery : Prop :=
  ∀ (s : State) (id c : Nat) (r : Req) (value : Word) (h : BitVec 2) (q : BitVec 4),
    let k := s.core c
    let m : Msg := ⟨h, q, value⟩
    let arrive := fun (k : Core) => k.modHart h (fun x => x.arrive q value)
    let arrives := fun (i : Instr) => (i = .messageArrival id ∧ ∃ x, r.stage = .toCore x) ∨ (i = .messageRetry id ∧ ∃ x, r.stage = .refusedFull x)
    (∀ x : Hart,
      let source := x.rm q ≠ value ∧ ∃ n, (x.slot n).valid = true ∧ (x.slot n).sources.contains (.m q) = true
      (¬source → (x.arrive q value).rm q = value ∧ (x.arrive q value).isFull q = true) ∧
      (source → (x.arrive q value).rm q = x.rm q ∧ (x.arrive q value).taken q = true ∧
        ((x.arrive q value).arrivalPass.rm q = value ∧ (x.arrive q value).arrivalPass.isFull q = true)) ∧
      ∀ j, j ≠ q → (x.arrive q value).rm j = x.rm j ∧ (x.arrive q value).isFull j = x.isFull j) ∧
    (s.reqNext id = some r → r.kind = .message value → h = winHart (addrOff r.ea) → q = winReg (addrOff r.ea) →
      (s.locate r.vf (addrVcore r.ea) = some c → ∀ i, arrives i →
        ((k.hostsPart r.vf = false ∨ (k.hart h).group = none) → Becomes i s (s.answer r (2 ^ 16 + c) (.rejected 0x06))) ∧
        (k.hostsPart r.vf = true → (k.hart h).group ≠ none →
          (k.sleep ≠ .awake → Becomes i s (s.putReq { r with stage := .toCore c })) ∧
          (k.sleep = .awake → k.hold = [] →
            let queued := k.overflow.any (fun o => o.hart == h && o.reg == q)
            ((k.hart h).taken q = false → queued = false → Becomes i s ((s.setCore c (arrive k)).answer r (2 ^ 16 + c) (.acknowledged (s.reqWatch r)))) ∧
            (((k.hart h).taken q = true ∨ queued = true) →
              (k.overflow.length < 8 → Becomes i s ((s.setCore c { k with overflow := k.overflow ++ [m] }).answer r (2 ^ 16 + c) (.acknowledged (s.reqWatch r)))) ∧
              (8 ≤ k.overflow.length → Becomes i s (s.putReq { r with stage := .refusedFull c })))))) ∧
      (s.locate r.vf (addrVcore r.ea) = none → (∃ vf x, r.stage = .toEvicted vf x) → ∀ j x, (s.part r.vf).savedAt (addrVcore r.ea) = some j →
        (s.part r.vf).saved[j]? = some x → (x.core.hart h).group ≠ none → x.hold.length < Config.holdSize →
        Becomes (.evictedMessageHold id) s ((s.modPart r.vf (fun p =>
          { p with saved := p.saved.mapIdx (fun n y => if n = j then { y with hold := y.hold ++ [m] } else y) })).answer r (2 ^ 20) (.acknowledged (s.reqWatch r))))) ∧
    (k.live = true → (k.hart h).taken q = false → k.hold = [] → k.tokens = [] → ∀ rest, k.overflow = m :: rest →
      Becomes (.overflowDelivery c h q) s (s.setCore c (arrive { k with overflow := rest }))) ∧
    (k.live = true → (k.hart h).taken q = false → k.tokens = [] → k.overflow = [] → k.hold = [m] →
      Becomes (.overflowDelivery c h q) s (s.setCore c (arrive { k with hold := [] })))

/-- 15 R330 to R337; 16 R342; 17 R361, R362; 13 R309 to R312; 21 R424, R425; 08 R191: a translating slice admits a request by its
cached leaf or waits for a walk, whose leaf it then keeps; a request without its right is refused with PROT, an address without a
leaf with XLATE, a slice outside the context's rectangle with BOUNDS, and what refuses a load or an atomic reaches its hart as
a notice; a translating slice that is the home accepts what it admits, and admits
it only when it can; at its home a request whose sector is present is performed in the slice, any other waits for the fill. What a slice holds
reads back, and a write leaves the other bytes alone; so does HBM where the slice holds no line for them (13 R323).
That the stored check value is compared when the home reads for a consumer is the model's choice (log 56). -/
def Obligations.HomeAccesses : Prop :=
  (∀ (s : State) (x y pa n v : Nat) (vf : BitVec 4) (poison : Bool), s.sliceHit x y pa vf = true ∨ (s.lineAt x y (pa / 512) = none ∧ s.memOk) →
    0 < n → pa % 128 + n ≤ 128 →
    ((s.homeWrite x y pa n v poison).homeRead x y pa n).1 = v % 2 ^ (8 * n) ∧
    (∀ a m, a % 128 + m ≤ 128 → 0 < m → (a + m ≤ pa ∨ pa + n ≤ a) →
      ((s.homeWrite x y pa n v poison).homeRead x y a m).1 = (s.homeRead x y a m).1)) ∧
  ∀ (s : State) (id x y pa : Nat) (r : Req),
    let va := r.ea.toNat
    let page := va / 2 ^ 16
    let noticed := { r with notice := r.noticed }
    let waits := ((∃ n dst, r.kind = .load n dst) ∨ ∃ op n b d, r.kind = .amo op n b d) ∧ ∃ c h, r.src = .hart c h
    let refuses := fun (t : State) (r : Req) (cause : BitVec 8) (site : Nat) =>
      t.moveReq { r with stage := .rejected cause, notice := true, info := 0, site := site, cls := .response }
    let admitted := fun (s' : State) (i : Instr) (l : Leaf) (a b : Nat) =>
      let may := l.permits r.vf (r.kind.need l.cacheable)
      (∀ home, s.homeSlice r.vf l (l.phys va) = some home → may = true → r.kind.isFill = false → home ≠ (a, b) →
        Becomes i s (s'.stageTo noticed (.toHome home.1 home.2 (l.phys va)))) ∧
      (s.homeSlice r.vf l (l.phys va) = some (a, b) → may = true → r.kind.isFill = false →
        (s.mustWait r a b l = false → Becomes i s (s'.acceptHome noticed a b (l.phys va))) ∧
        (s.mustWait r a b l = true → Becomes i s (s'.keepLeaf r.id l))) ∧
      (s.homeSlice r.vf l (l.phys va) = none → may = true → r.kind.posted = true → Becomes i s (s'.answer noticed (siteSlice a b) (.rejected 0x04))) ∧
      (may = false → r.kind.posted = true → Becomes i s (s'.answer r (siteSlice a b) (.rejected 0x06))) ∧
      (may = false → waits → Becomes i s (refuses s' r 0x06 (siteSlice a b))) ∧
      (s.homeSlice r.vf l (l.phys va) = none → may = true → waits → s.mustWait r a b l = false → Becomes i s (refuses s' noticed 0x04 (siteSlice a b)))
    let w := s.reqWatch r
    let hit := fun (b : Bool) => { r with hit := some (r.hit.getD b) }
    let here := siteSlice x y
    let leaf := fun (a b : Nat) => if r.leaf = none then s.cachedLeaf a b r.vf va else r.leaf
    (s.reqNext id = some r → r.stage = .sent → r.translated = true →
      (s.translatingSlice r.vf va = none → r.kind.posted = true → Becomes (.globalAdmission id) s (s.answer r r.ownSite (.rejected 0x04))) ∧
      (∀ a b, s.translatingSlice r.vf va = some (a, b) →
        (leaf a b = none → Becomes (.globalAdmission id) s (s.stageTo r (.walking a b))) ∧
        (∀ l, leaf a b = some l → admitted s (.globalAdmission id) l a b))) ∧
    (s.reqNext id = some r → r.stage = .walking x y →
      (∀ l, leaf x y = some l → admitted s (.globalAdmission id) l x y) ∧
      (leaf x y = none → Becomes (.globalAdmission id) s s)) ∧
    (∀ bad, s.reqAt id = some r → r.stage = .walking x y → leaf x y ≠ none → Becomes (.pageWalk id bad) s s) ∧
    (∀ bad, s.reqAt id = some r → r.stage = .walking x y → leaf x y = none → s.merged r = [r] →
      (∀ l, s.walk r.vf va bad = .ok l → (s.trans.filter (fun e => e.x == x && e.y == y)).length < 512 →
        admitted { s with trans := s.trans ++ [⟨x, y, r.vf, page, l⟩] } (.pageWalk id bad) l x y) ∧
      (waits → s.walk r.vf va bad = .error .invalid → Becomes (.pageWalk id bad) s (refuses s r 0x05 here)) ∧
      (r.kind.posted = true →
        (s.walk r.vf va bad = .error .invalid → Becomes (.pageWalk id bad) s (s.answer r here (.rejected 0x05))) ∧
        (∀ a, s.walk r.vf va bad = .error (.unreadable a) →
          Becomes (.pageWalk id bad) s ({ s with belineLog := s.belineLog ++ [BelineEvent.tableError a] }.answer r here (.rejected 0x05))))) ∧
    (s.reqNext id = some r → r.stage = .toHome x y pa → (r.kind.posted = true → s.postedAhead r x y pa = false) →
      (s.sliceHit x y pa r.vf = true → s.fillWaiters x y pa = [] →
        let c := s.checkedAt x y pa
        (∀ n dst, r.kind = .load n dst →
          let v := c.homeRead x y pa n
          Becomes (.forwardedRequest id) s (c.answer (hit true) here (.reply (BitVec.ofNat 1024 v.1) v.2 0 w))) ∧
        (∀ n v rel, r.kind = .store n v rel → (s.part r.vf).doorbell ≠ some va →
          Becomes (.forwardedRequest id) s ((s.homeWrite x y pa n v.toNat).answer (hit true) here (.acknowledged w))) ∧
        (∀ op n b d, r.kind = .amo op n b d → (c.homeRead x y pa n).2 = false →
          let old := (c.homeRead x y pa n).1
          let new := amoNew op n old (b.toNat % 2 ^ (8 * n))
          Becomes (.forwardedRequest id) s ((c.homeWrite x y pa n new.val).answer (hit true) here (.reply (BitVec.ofNat 1024 old) false new.fl w))) ∧
        (∀ data dirty p, r.kind = .writeBack data dirty p →
          Becomes (.writeBackArrival id) s ((s.homeMerge x y pa dirty.toNat data.toNat p).answer (hit true) here (.acknowledged none)))) ∧
      (s.sliceHit x y pa r.vf = false ∨ s.fillWaiters x y pa ≠ [] → r.kind.isWriteBack = false →
        Becomes (.forwardedRequest id) s (s.moveReq { r with stage := .atFill x y pa, hit := some false }))) ∧
    (s.reqNext id = some r → r.stage = .toHome x y pa → r.kind.posted = true → s.postedAhead r x y pa = true → Becomes (.forwardedRequest id) s s) ∧
    (s.reqAt id = some r → r.stage = .atFill x y pa → s.fillWaiters x y pa = [r] → ∀ n dst, r.kind = .load n dst →
      let f := s.sliceFill x y pa r.vf
      let c := f.1.checkedAt x y pa
      let v := c.homeRead x y pa n
      Becomes (.sectorFillReturn id) s (c.answer { hit false with ownVictim := f.2 } here (.reply (BitVec.ofNat 1024 v.1) v.2 0 w))) ∧
    (s.reqAt id = some r → r.stage = .atFill x y pa → s.fillWaiters x y pa = [r] → r.kind.isFill = true → s.net.any r.after = true →
      let f := s.sliceFill x y pa r.vf
      Becomes (.sectorFillReturn id) s (f.1.stageTo { r with ownVictim := f.2 } (.toHome x y pa)))

/-- 02 R45 to R49; 13 R317 to R319; 17 R361; 08 R191, R196; 19 R388: what comes back to a hart. Data binds the destination of a load;
an acknowledgement counts ORSCNT down; a rejection is logged; a fill enters the cache ways, and the load or store that asked for it is made in the
sector; a grant takes the object at its home, its answer retires the ACQ, and a refusal traps there; a Sash unit performs its operation
whole. That answers wait while their core sleeps is the model's choice (log 72), as are the two firings of a grant (log 85) and that a
Sash unit performs an operation in one step (log 41). -/
def Obligations.Returns : Prop :=
  ∀ (s : State) (id c : Nat) (h : BitVec 2) (r : Req) (cause : BitVec 8),
    let k := s.core c
    let x := s.hartOf c h
    let gone := s.net.filter (fun q => q.id != id)
    (s.reqAt id = some r → r.src = .hart c h → k.live = true → r.notice = true →
      ((∀ f, r.stage ≠ .rejected f) → Becomes (.admissionNotice id) s ((s.passed r).putReq { r with notice := false })) ∧
      (r.stage = .rejected cause →
        (s.inOrder r = true → Becomes (.admissionNotice id) s ((s.dropReq id).lateFault c h id ⟨cause, r.ea, r.info⟩)) ∧
        (s.inOrder r = false → Becomes (.admissionNotice id) s s))) ∧
    (s.reqNext id = some r → r.src = .hart c h →
      (k.live = true → (∀ o ∈ x.outst, o.fault = none) → x.unbound → (∃ o, x.outst.find? (fun o => o.id == id) = some o) →
        let binds := fun (i : Instr) (ws : List (BitVec 5 × Word)) => ∃ t, exec i s = .next t ∧ t.net = gone ∧ t.mem = s.mem ∧
          (t.hartOf c h).outst = x.outst.filter (fun o => o.id != id) ∧ (t.hartOf c h).pc = x.pc ∧ (∀ j, (t.hartOf c h).rg j = (x.writeAll ws).rg j)
        (∀ n dst data, r.kind = .load n dst → r.stage = .reply data false 0 none → binds (.loadDataReturn id .here) (dst.writes data.toNat)) ∧
        (∀ op handle d data, r.kind = .sash op handle d → r.stage = .reply data false 0 none →
          binds (.sashResult id) [(d, BitVec.ofNat 64 data.toNat)])) ∧
      (k.sleep = .awake → r.kind.posted = true → r.stage = .acknowledged none →
        ∃ t, exec (.storeAck id) s = .next t ∧ t.net = gone ∧ t.mem = s.mem ∧
          (t.hartOf c h).orsLocal = (if r.ea.msb = true ∧ addrMod r.ea ≠ 2047 then x.orsLocal else x.orsLocal - 1) ∧
          (t.hartOf c h).orsFab = (if r.ea.msb = true ∧ addrMod r.ea ≠ 2047 then x.orsFab - 1 else x.orsFab) ∧
          t.launches = updWhere (fun l => l.id == r.launch) (fun l => { l with recvCount := l.recvCount + 1 }) s.launches) ∧
      (k.sleep = .awake → r.kind.posted = true → r.stage = .rejected cause →
        ∃ t, exec (.storeRejection id cause) s = .next t ∧ t.net = gone ∧ t.mem = s.mem ∧ (t.hartOf c h).rejLog = x.rejLog ++ [rejEntry r cause]) ∧
      (∀ excl data p f w, r.kind = .rel excl → r.stage = .reply data p f w → k.live = true → x.block = some (.rel id) →
        ∃ t, exec (.loadDataReturn id .here) s = .next t ∧ t.net = gone ∧ t.mem = s.mem ∧ (t.hartOf c h).pc = x.pc + 4 ∧ (t.hartOf c h).block = none ∧
          (x.unbound → (t.hartOf c h).g = x.g)) ∧
      (k.sleep ≠ .awake → (r.kind.posted = true → r.stage = .acknowledged none → Becomes (.storeAck id) s s) ∧
        (r.kind.posted = true → r.stage = .rejected cause → Becomes (.storeRejection id cause) s s)) ∧
      (∀ op handle d, r.kind = .sash op handle d → r.stage = .sent → s.sashReady r = true →
        (∀ t v, s.sashOp c r.vf handle op = .ok (t, v) →
          Becomes (.sashAccept id) s ((t.passed r).answer r (siteUnit (op.unitOf handle)) (.reply (BitVec.ofNat 1024 v) false 0 none))) ∧
        (∀ f, s.sashOp c r.vf handle op = .error f →
          Becomes (.sashAccept id) s ((if f.cause = 0x05 then s.walked r.vf f.addr.toNat else s).moveReq
            { r with ea := f.addr, info := f.info, stage := .rejected f.cause, notice := true, site := siteUnit (op.unitOf handle), cls := .response })))) ∧
    (s.reqNext id = some r → r.src = .core c → k.sleep = .awake → ∀ data dirty p w, r.kind = .writeBack data dirty p → r.stage = .acknowledged w →
      ∃ t, exec (.writeBackAcknowledgement id) s = .next t ∧ t.net = gone ∧
        (s.net.any (fun q => q.id != id && q.src == .core c && q.kind.isWriteBack) = false → x.block = some (.writeBack none) → (t.hartOf c h).block = none)) ∧
    (s.reqNext id = some r → r.src = .core c → k.sleep = .awake → r.kind = .prefetch true h → ∀ data p f w, r.stage = .reply data p f w →
      (k.regionAt r.ea.toNat).isSome = true → k.sectorAt r.ea.toNat = none → k.cacheWays ≠ [] →
      ∃ t y, exec (.cacheFill id) s = .next t ∧ (t.core c).sectorAt r.ea.toNat = some y ∧ y.data = data ∧ y.dirty = 0 ∧ y.poison = p) ∧
    (s.reqNext id = some r → r.src = .hart c h → k.live = true → (k.regionAt r.ea.toNat).isSome = true → k.sectorAt r.ea.toNat = none → k.cacheWays ≠ [] →
      (∀ o ∈ x.outst, o.fault = none) → x.unbound → (∃ o, x.outst.find? (fun o => o.id == id) = some o) →
      ∀ data, r.stage = .reply data false 0 none →
      let A := r.ea.toNat
      let fills := fun (y : Sector) (ws : List (BitVec 5 × Word)) => ∃ t, exec (.cacheFill id) s = .next t ∧ (t.core c).sectorAt A = some y ∧ t.mem = s.mem ∧
        (t.hartOf c h).outst = x.outst.filter (fun o => o.id != id) ∧ (t.hartOf c h).pc = x.pc ∧ (∀ j, (t.hartOf c h).rg j = (x.writeAll ws).rg j)
      (∀ n dst, r.kind = .fillLoad n dst → 0 < n → ∃ w, fills { way := w, addr := A / 128 * 128, data := data, dirty := 0, poison := false }
        (dst.writes (data.toNat / 2 ^ (8 * (A % 128)) % 2 ^ (8 * n)))) ∧
      (∀ n v, r.kind = .fillStore n v → 0 < n → ∃ w,
        let d := BitVec.ofNat 1024 (setBits data.toNat (8 * (A % 128) + 8 * n - 1) (8 * (A % 128)) v.toNat)
        fills { way := w, addr := A / 128 * 128, data := d, dirty := BitVec.ofNat 128 ((2 ^ n - 1) * 2 ^ (A % 128)), poison := false } [])) ∧
    (∀ a b pa excl, s.reqAt id = some r → r.kind = .acq excl → r.stage = .syncQueue a b pa → s.syncWaiters pa = [r] →
      let obj := s.objectAt pa
      let answers := fun (f : State → State) => s.fillWaiters a b pa = [] →
        (s.sliceHit a b pa r.vf = true → Becomes (.acqGrant id) s (f s)) ∧
        (let u := (s.sliceFill a b pa r.vf).1
         s.sliceHit a b pa r.vf = false → u.objectAt pa = obj → Becomes (.acqGrant id) s (f u))
      let grants := fun (v : Nat) => answers (fun s => (s.homeWrite a b pa 8 v).answer r (siteSlice a b) (.reply 0 false 0 none))
      let fails := answers (fun s => s.answer r (siteSlice a b) (.rejected 0x06))
      (excl = true → obj = 0 → grants (2 ^ 63)) ∧ (excl = false → obj < 2 ^ 32 - 1 → grants (obj + 1)) ∧
      (excl = true → obj ≠ 0 → obj < 2 ^ 32 → Becomes (.acqGrant id) s s) ∧
      (bits obj 62 32 ≠ 0 → fails) ∧ (excl = false → bits obj 31 0 = 2 ^ 32 - 1 → fails)) ∧
    (∀ excl, s.reqNext id = some r → r.src = .hart c h → r.kind = .acq excl → k.live = true → x.block = some (.acq id) →
      (∀ data p f w, r.stage = .reply data p f w → k.cache = [] → s.backsPending c = false →
        ∃ t, exec (.acqGrant id) s = .next t ∧ t.mem = s.mem ∧ ((∀ q ∈ s.net, 4 ≤ q.stage.kind → q.kind.isFill = false) → t.net = gone) ∧
          (t.hartOf c h).pc = x.pc + 4 ∧ (t.hartOf c h).block = none) ∧
      (r.stage = .rejected cause → x.stopping = false → x.xvec.toNat < k.codesz.toNat → x.arrPend = 0 →
        ∃ t, exec (.acqGrant id) s = .next t ∧ t.net = gone ∧ t.mem = s.mem ∧ (t.hartOf c h).pc = x.xvec ∧ (t.hartOf c h).block = none ∧
          (t.hartOf c h).xcause = BitVec.ofNat 64 (b2n (x.mode == .supervisor) * 2 ^ 63 + cause.toNat) ∧
          (t.hartOf c h).xpc = x.pc &&& 0x1FFFC ∧ (t.hartOf c h).xaddr = r.ea ∧ (∀ j, (t.hartOf c h).rg j = x.rg j)))

/-- 05 R146; 06 R160, R173, R175; 08 R202, R208; 10 R252; 11 R285; 21 R422; 01 R30 to R32: arrival passes, interrupts, wakes
from blocking points, and sleep. A wake writes what its instruction answers and retires it; an interrupt saves the pc and the mode with INT
set and leaves the blocking point, whose requests are withdrawn; POISON comes before WATCH and both may be taken in either mode, STEP and
COUNTER_OVF in program mode alone. A cycle counter may wrap in the modes that its MODE counts, event 0x04 at a blocking point and event 0x03
elsewhere (21 R419). What waited for the registers of a core that slept is written as it wakes.
WATCH in supervisor mode is the model's reading (log 52), as are the value of a cycle counter after a wrap (log 11), that an arrival's
pass comes before an interrupt (log 70) and that answers wake a sleeping core (log 72). -/
def Obligations.HartEvents : Prop :=
  ∀ (s : State) (c : Nat) (h k : BitVec 2) (captured : Bool) (elapsed : BitVec 2),
    let x := s.hartOf c h
    let core := s.core c
    let u := s.as c h
    let enters := fun (f : Hart → Hart) (cause : BitVec 8) (addr info : Word) =>
      Becomes (.interruptEntry c h) s (((s.modHart c h f).abandon c h).modHart c h (fun y =>
        { y with xcause := BitVec.ofNat 64 (b2n (y.mode == .supervisor) * 2 ^ 63 + 2 ^ 62 + cause.toNat), xpc := y.at &&& 0x1FFFC, xaddr := addr, xinfo := info,
                 mode := .supervisor, ran := y.ran ||| 2, pc := y.xvec, pastEnd := false, block := none, wantsQ := none, stepArm := false,
                 ibkSuppress := false }))
    (s.mayPass c h = true →
      Becomes (.arrivalPass c h) s (s.modHart c h (fun y =>
        let rs := slotNos.filter (fun r => bit y.arrPend.toNat r.toNat)
        let t := rs.foldl (fun t r => (t.wm r (t.arrVal.get ⟨r.toNat, r.isLt⟩)).setFull r true) y
        ({ t with arrPend := 0 }.markFor (rs.map .m)).evaluateBindings true t.pc))) ∧
    (s.mayPass c h = false → Becomes (.arrivalPass c h) s s) ∧
    (s.mayInterrupt c h = true → x.xvec.toNat < core.codesz.toNat → x.haltPend = false →
      (∀ p ps, x.poisonPend = p :: ps → enters (fun y => { y with poisonPend := ps }) 0x07 p.1 p.2) ∧
      (x.poisonPend = [] → ∀ p ps, x.watchPend = p :: ps → enters (fun y => { y with watchPend := ps }) 0x17 p.1 p.2) ∧
      (x.poisonPend = [] → x.watchPend = [] →
        (x.mode = .supervisor → Becomes (.interruptEntry c h) s s) ∧
        (x.mode = .program → x.stepPend = true → enters (fun y => { y with stepPend := false }) 0x16 0 0) ∧
        (x.mode = .program → x.stepPend = false → x.ovf ≠ 0 →
          enters (fun y => { y with ovf := 0, ovfHeld := false }) 0x19 0 (BitVec.ofNat 64 (x.ovf.toNat + 16 * b2n x.ovfHeld))))) ∧
    (s.mayInterrupt c h = true → x.haltPend = true → ∃ t, exec (.interruptEntry c h) s = .next t ∧ (t.hartOf c h).halted = true ∧ (t.hartOf c h).pc = x.pc ∧
      (t.hartOf c h).mode = x.mode ∧ (t.hartOf c h).g = x.g) ∧
    (let sel := x.cntsel.get ⟨k.toNat, k.isLt⟩
     let event := bits sel.toNat 7 0
     let mode := if x.mode = .program then 13 else 14
     let counts := bit sel.toNat 15 = true ∧ bit sel.toNat mode = true ∧
       (event = 1 ∨ (event = 3 ∧ s.atBlock c h = false) ∨ (event = 4 ∧ s.atBlock c h = true))
     core.vf ≠ none → x.group ≠ none →
       (counts → Becomes (.counterWrap c h k) s (s.modHart c h (fun y => { y with cnt := y.cnt.set k.toNat 0 k.isLt, ovf := y.ovf ||| (1#4 <<< k.toNat) }))) ∧
       (¬counts → Becomes (.counterWrap c h k) s s)) ∧
    (s.mayWake c h = true →
      (∀ d mask, x.block = some (.wait d mask) → (mask = 0 ∨ x.full &&& mask ≠ 0) →
        ∃ t, exec (.waitWake c h) s = .next t ∧ Wrote u t [(d, x.full.setWidth 64)] (x.pc + 4) 0) ∧
      (∀ off phase woken, x.block = some (.bwait off phase woken) → bits (core.sread off 16) 103 101 = 0 →
        (bit (core.sread off 16) 100 ≠ phase ∨ woken = true → ∃ t, exec (.bwaitWake c h) s = .next t ∧ Wrote u t [] (x.pc + 4) 0) ∧
        (bit (core.sread off 16) 100 = phase → woken = false → Becomes (.bwaitWake c h) s s)) ∧
      (∀ d off dst, x.block = some (.rpop d off dst) → core.wayWait = none →
        let r := core.sread off 32
        let n := 2 ^ bits r 90 87
        let a := bits r 151 128 + bits r 31 0 % 2 ^ bits r 95 91 * n
        let type := bits (core.sread (a + 8 * bits r 111 103) 8) (bits r 102 97 + 3) (bits r 102 97)
        core.ringUp r = true → bit r 64 = false → bits r 176 160 ≠ 0 → bit (bits r 127 112) type = true → dst + n ≤ core.scratchSize →
        ∃ t, exec (.rpopWake c h) s = .next t ∧
          Wrote (u.mapCore (fun k => (((k.noteCodeStore dst n).swrite dst n (core.sread a n)).poisonFrom a dst n).putRing off
            (setBits (setBits r 31 0 (bits r 31 0 + 1)) 176 160 (bits r 176 160 - 1)))) t [(d, BitVec.ofNat 64 (bits r 31 0))] (x.pc + 4) 0) ∧
      (∀ e d, x.block = some (.engine e d) → core.engineDone (h.setWidth 3) e = true → (core.issuer (h.setWidth 3) e).faulted = false →
        (core.issuer (h.setWidth 3) e).flags = [] →
        ∃ t, exec (.engineWaitReturn c h) s = .next t ∧ Wrote u t [(d, BitVec.ofNat 64 ((core.issuer (h.setWidth 3) e).seq.toNat * 2 ^ 32))] (x.pc + 4) 0) ∧
      (∀ d, x.block = some (.caswait d) → core.cas.state ≠ .running →
        ∃ t, exec (.engineWaitReturn c h) s = .next t ∧ Wrote u t [(d, core.cas.casst)] (x.pc + 4) 0)) ∧
    (core.live = true → core.working ≠ [] → s.allBlocked c = true → s.anyWake c = false →
      Becomes (.coreSleepEntry c elapsed) s (s.modCore c (fun k => { k with sleep := .asleep (s.sleepDepth c elapsed) }))) ∧
    (core.live = true → s.allBlocked c = false ∨ s.anyWake c = true → Becomes (.coreSleepEntry c elapsed) s s) ∧
    (∀ d, core.sleep = .asleep d → s.anyWake c = true → Becomes (.coreWake c) s (s.modCore c (fun k => { k with sleep := .waking d }))) ∧
    (∀ d, core.sleep = .waking d →
      let t := (s.modCore c (fun k => { k with sleep := .awake }.giveOverflow.promoteHold.giveTokens)).giveMessages c
      (d ≠ 2 ∨ captured = true → Becomes (.wakeComplete c captured) s t) ∧
      (d = 2 → captured = false → Becomes (.wakeComplete c captured) s (t.contextError c))) ∧
    Becomes (.sleepPauseEnd c h) s s

/-- 10 R243, R245, R247 to R251, R254, R270, R275, R277; 11 R299: the head of a queue starts once its issuer's earlier accesses are
performed, or is skipped where the issuer is faulted on the engine, with SKIP one higher; MREL, MLOAD, XEXP and CPY end with their effect; a
CPY that ends without a fault subtracts its bytes from its barrier and writes its token, which waits while the core sleeps (01 R33); a
CPYR pushes its slot once the ring has room, by a request where the ring is on another core. A copy command that targets a way which a
waiting WAYSET changes is held, and one whose own-scratch range has left scratch faults when it starts, with nothing moved (08 R187).
The other commands end with the effect of 10 R260 (MPUT, its registers captured at the start), R262 (MCBK), R263 to R265 (MMA, a block of
k at a time), R271 (CPY2, here of two rows), R272 (CXP), R273 (CPK), R274 (CGTHB), R279 (XROT) and R250, R266 (what stops one is recorded).
In how many steps a command has its effect is the model's choice (log 8); that XROT reads every source first is log 79's, that CXP reads its
table for each block log 81's, and that of two operands outside scratch the source is recorded log 90's. -/
def Obligations.EngineSteps : Prop :=
  ∀ (s : State) (c : Nat) (e : Engine) (cmd : Cmd) (rest : List Cmd),
    let k := s.core c
    let issuer := k.issuer cmd.issuer e
    let plain := csBEN cmd.cs = false ∧ csMEN cmd.cs = false
    let runs := fun (e' : Engine) (op : CmdOp) (w : CopyWork) => e = e' ∧ (k.eng e').run = some cmd ∧ (k.eng e').work = w ∧ cmd.op = op
    let ends := fun (e : Engine) (p : State → Prop) =>
      ∃ t, exec (.engineCommandComplete c e) s = .next t ∧ ((t.core c).eng e).run = none ∧ t.mem = s.mem ∧ p t
    let recorded := fun (e : Engine) (cause opnd : Nat) (ea : Word) (t : State) =>
      let i := (t.core c).issuer cmd.issuer e
      i.faulted = true ∧ i.record = BitVec.ofNat 64 (cmd.seq.toNat * 2 ^ 32 + cause * 2 ^ 24 + opnd * 2 ^ 20) ∧ i.addr = ea
    let own := fun (ea : Word) (n o : Nat) => classifyAt k.corxy k.scratchSize ea 1 n false = .ok (.own o)
    let scratch := fun (t : State) (k' : Core) => (t.core c).lmem = k'.lmem
    let line := fun (slot i : Nat) => memLE k.opmem (2048 * slot + 128 * i) 128
    ((k.eng e).run = none → (k.eng e).queue = cmd :: rest →
      (k.skips e cmd = false → s.targets c cmd.op = false → s.issuerReady c cmd = true →
        let o := k.startOp cmd.issuer cmd.op
        Becomes (.engineCommandStart c e) s (s.setCore c (k.setEng e
          { k.eng e with run := some { cmd with op := o.1 }, queue := rest, work := { stop := o.2, ended := o.2.isSome } })) ∧
        (∀ dst src len, cmd.op = .cpy dst src len → len ≠ 0 →
          let left := fun (ea : Word) => ea.msb = true ∧ bits ea.toNat 51 33 = k.corxy.toNat % 2 ^ 19 ∧ k.scratchSize < addrOff ea + len
          (left src → o.2 = some ⟨0x04, 1, 0, k.ownAddr (addrOff src)⟩) ∧
          (¬left src → left dst → o.2 = some ⟨0x04, 2, 0, k.ownAddr (addrOff dst)⟩) ∧
          (¬left src → ¬left dst → o.2 = none))) ∧
      (k.skips e cmd = false → s.targets c cmd.op = true ∨ s.issuerReady c cmd = false → Becomes (.engineCommandStart c e) s s) ∧
      (issuer.faulted = true → csMEN cmd.cs = false →
        ∃ t, exec (.engineCommandStart c e) s = .next t ∧ ((t.core c).eng e).queue = rest ∧ ((t.core c).eng e).run = none ∧ (t.core c).lmem = k.lmem ∧
          ((t.core c).issuer cmd.issuer e).record = BitVec.ofNat 64 (setBits issuer.record.toNat 16 9 (min 255 (bits issuer.record.toNat 16 9 + 1))))) ∧
    (cmd.issuer.toNat < 4 → e = .copy → k.copy.run = some cmd → k.copy.work = {} → ∀ dst src a b, cmd.op = .cpy dst src 16 → k.corxy.toNat < 2 ^ 19 →
      classifyAt k.corxy k.scratchSize src 1 16 false = .ok (.own a) → classifyAt k.corxy k.scratchSize dst 1 16 false = .ok (.own b) →
      k.codesz.toNat ≤ b → k.spoisoned a 16 = false →
      let w := k.swrite b 16 (k.sread a 16)
      let o := bits cmd.cs.toNat 23 0
      let x := w.sread o 16
      let h : BitVec 2 := cmd.issuer.setWidth 2
      let m : BitVec 4 := BitVec.ofNat 4 (bits cmd.cs.toNat 61 58)
      (csBEN cmd.cs = true → csMEN cmd.cs = false → o + 16 ≤ k.scratchSize → w.spoisoned o 16 = false → bits x 103 101 = 0 → 16 ≤ bits x 35 0 →
        ∃ t, exec (.engineCommandComplete c e) s = .next t ∧ (t.core c).copy.run = none ∧ t.mem = s.mem ∧
          (t.core c).lmem = (w.swrite o 16 (barComplete
            (bits x 35 0 - 16 + bits x 79 64 * 2 ^ 64 + bits x 95 80 * 2 ^ 80 + b2n (bit x 100) * 2 ^ 100))).lmem) ∧
      (csBEN cmd.cs = false → csMEN cmd.cs = true → (k.hart h).group ≠ none → (k.hart h).stopping = false → k.tokens = [] →
        let token := BitVec.ofNat 64 (cmd.seq.toNat * 2 ^ 32 + bits cmd.cs.toNat 39 24)
        ∃ t, exec (.engineCommandComplete c e) s = .next t ∧ t.mem = s.mem ∧ (t.core c).lmem = w.lmem ∧
          (k.hold = [] → (k.hart h).taken m = false → k.overflow = [] → (t.core c).copy.run = none ∧
            (k.sleep = .awake → (t.core c).hart h = (k.hart h).arrive m token) ∧
            (k.sleep ≠ .awake → (t.core c).hart h = k.hart h ∧ (t.core c).tokens = [⟨h, m, token⟩])) ∧
          (k.sleep = .awake → k.hold = [] → (k.hart h).taken m = true → 8 ≤ k.overflow.length → (t.core c).copy.run = some cmd ∧ (t.core c).hart h = k.hart h))) ∧
    (cmd.issuer.toNat < 4 → plain →
      (∀ base n, e = .matrix → k.matrix.run = some cmd → k.matrix.work = {} → cmd.op = .mrel base n → (∀ h, (k.hart h).exited = false) →
        ∃ t, exec (.engineCommandComplete c e) s = .next t ∧ (t.core c).matrix.run = none ∧ (t.core c).lmem = k.lmem ∧ t.mem = s.mem ∧
          ∀ i : Fin 32, (t.core c).slotOwner.get i = if base ≤ i.val ∧ i.val < base + n then none else k.slotOwner.get i) ∧
      (∀ slot line n stride src, e = .matrix → k.matrix.run = some cmd → k.matrix.work = {} → cmd.op = .mload slot line n stride src → n = 1 →
        src + 128 ≤ k.scratchSize → k.spoisoned src 128 = false → Memory.wf k.opmem = true →
        ∃ t, exec (.engineCommandComplete c e) s = .next t ∧ (t.core c).matrix.run = none ∧ (t.core c).lmem = k.lmem ∧
          memLE (t.core c).opmem (2048 * slot + 128 * line) 128 = k.sread src 128) ∧
      (∀ dst src p, e = .exponent → k.exponent.run = some cmd → k.exponent.work = {} → cmd.op = .xexp dst src p → bits p.toNat 47 32 ≠ 0 →
        let n := bits p.toNat 47 32
        src + 4 * n ≤ k.scratchSize → dst + 4 * n ≤ k.scratchSize → k.spoisoned src (4 * n) = false →
        let ws := xexpWords (k.sread src (4 * n)) (bits p.toNat 31 0) n (bit p.toNat 48)
        ∃ t, exec (.engineCommandComplete c e) s = .next t ∧ (t.core c).exponent.run = none ∧
          (t.core c).lmem = ((k.noteCodeStore dst (4 * n)).swrite dst (4 * n) (packEls 32 (ws.map Fl.val))).lmem) ∧
      (∀ dst src, e = .copy → k.copy.run = some cmd → k.copy.work = {} → cmd.op = .cpy dst src 16 → ∀ a b v bad, k.corxy.toNat < 2 ^ 19 →
        classifyAt k.corxy k.scratchSize src 1 16 false = .ok (.own a) → classifyAt k.corxy k.scratchSize dst 1 16 false = .ok (.own b) →
        k.codesz.toNat ≤ b → k.sread a 16 = v → k.spoisoned a 16 = bad → bad = false →
        ∃ t, exec (.engineCommandComplete c e) s = .next t ∧ (t.core c).copy.run = none ∧ (t.core c).lmem = (k.swrite b 16 v).lmem ∧ t.mem = s.mem) ∧
      (∀ ring src, k.copy.run = some cmd → k.copy.work = {} → cmd.op = .cpyr ring src →
        let o := addrOff ring
        let r := k.sread o 32
        let n := 2 ^ bits r 90 87
        let slot := bits r 151 128 + bits r 63 32 % 2 ^ bits r 95 91 * n
        (bits ring.toNat 51 33 = k.corxy.toNat % 2 ^ 19 → o + 32 ≤ k.scratchSize → k.codesz.toNat ≤ o → k.spoisoned o 32 = false →
          k.ringUp r = true → bit r 96 = false → bit r 64 = false → src + n ≤ k.scratchSize →
          (bits r 176 160 = 2 ^ bits r 95 91 → Becomes (.cpyrPush c) s (s.setCore c k) ∧ Becomes (.engineCommandComplete c .copy) s (s.setCore c k)) ∧
          (bits r 176 160 ≠ 2 ^ bits r 95 91 → k.codesz.toNat ≤ slot → k.spoisoned src n = false →
            ∃ u, exec (.cpyrPush c) s = .next u ∧ exec (.engineCommandComplete c .copy) s = .next u ∧ (u.core c).copy.run = none ∧
              (u.core c).lmem = (k.ringPut o (k.sread src n)).lmem)) ∧
        (bits ring.toNat 51 33 ≠ k.corxy.toNat % 2 ^ 19 →
          let asks := ({ s with
            net := s.net ++ [{ id := s.nextId, src := .engine c, cls := .posted, kind := .push src, ea := ring, vf := k.vf.getD 0, launch := k.launch,
                               off := 0, prog := false, stage := .sent }],
            nextId := s.nextId + 1 } : State).setCore c { k with copy := { k.copy with work := { wait := some s.nextId } } }
          Becomes (.cpyrPush c) s asks ∧ Becomes (.engineCommandComplete c .copy) s asks))) ∧
    (∀ slot l n va held, cmd.op = .mput slot l n va held →
      (k.startOp cmd.issuer cmd.op).1 = .mput slot l n va (some ((List.range n).map (fun q => (k.hart (cmd.issuer.setWidth 2)).rv (va + BitVec.ofNat 5 q))))) ∧
    (cmd.issuer.toNat < 4 → plain →
      (∀ slot l n va vs, runs .matrix (.mput slot l n va (some vs)) {} → Memory.wf k.opmem = true →
        ends .matrix (fun t => scratch t k ∧ ∀ i v, vs[i]? = some v → memLE (t.core c).opmem (2048 * slot + 128 * (l + i)) 128 = v.toNat)) ∧
      (∀ a b, runs .matrix (.mcbk a b) {} →
        let products := fun (t : State) => (t.core c).products.get (issuerIdx cmd.issuer)
        (a + 32 ≤ k.scratchSize → b + 32 ≤ k.scratchSize → k.spoisoned a 32 = false → k.spoisoned b 32 = false →
          ends .matrix (fun t => scratch t k ∧ ∀ x y, x < 16 → y < 16 → (mapFind (products t) (16 * x + y)).getD 0 = BitVec.ofNat 32
            (fmtF32.mulV .rne (fmtBF16.decode (bits (k.sread a 32) (16 * x + 15) (16 * x))) (fmtBF16.decode (bits (k.sread b 32) (16 * y + 15) (16 * y)))).val)) ∧
        (k.scratchSize < a + 32 → ends .matrix (fun t => scratch t k ∧ products t = k.products.get (issuerIdx cmd.issuer) ∧ recorded .matrix 4 4 (k.ownAddr a) t))) ∧
      (∀ tile sA sB cb4 ovw kst kk n m w, runs .matrix (.mma tile sA sB cb4 ovw kst kk n m) w → w.ended = false → w.wait = none →
        tile + 1024 ≤ k.scratchSize → 0 < n → 0 < m →
        let B := if cb4 = true then 32 else 16
        let b0 := kst + w.unit * B
        let ow := ovw = true ∧ b0 = 0
        let p := fun (i j q : Nat) => if cb4 = true then
            ((mapFind (k.products.get (issuerIdx cmd.issuer)) (16 * bits (line sA i) (4 * q + 3) (4 * q) + bits (line sB j) (4 * q + 3) (4 * q))).getD 0).toNat
          else (fmtF32.mulV .rne (fmtBF16.decode (bits (line sA i) (16 * q + 15) (16 * q))) (fmtBF16.decode (bits (line sB j) (16 * q + 15) (16 * q)))).val
        let S := fun (i j : Nat) => (List.range' (b0 + 1) (min kk (b0 + B) - b0 - 1)).foldl (fun z q => (fmtF32.add .rne z (p i j q)).val) (p i j b0)
        let cell := fun (a : Core) (x : Nat) =>
          let o := tile + 64 * (x / n) + 4 * (x % n)
          (a.noteCodeStore o 4).swrite o 4 (if ow then S (x / n) (x % n) else (fmtF32.add .rne (a.sread o 4) (S (x / n) (x % n))).val)
        (b0 < kk → (∀ i, i < m → 16 * sA + i ∉ k.opPoison) → (∀ i, i < n → 16 * sB + i ∉ k.opPoison) →
          (¬ow → ∀ i, i < m → k.spoisoned (tile + 64 * i) (4 * n) = false) →
          ∃ t, exec (.engineCommandComplete c .matrix) s = .next t ∧ t.mem = s.mem ∧ scratch t ((List.range (m * n)).foldl cell k) ∧
            (kk ≤ b0 + B → (t.core c).matrix.run = none) ∧
            (b0 + B < kk → (t.core c).matrix.run = some cmd ∧ (t.core c).matrix.work.unit = w.unit + 1)) ∧
        (kk = 0 → ovw = true → ends .matrix (fun t => scratch t ((List.range m).foldl (fun a i =>
          (a.noteCodeStore (tile + 64 * i) (4 * n)).swrite (tile + 64 * i) (4 * n) 0) k))) ∧
        (kk = 0 → ovw = false → ends .matrix (fun t => scratch t k))) ∧
      (∀ dst src shape strides ms md, ∀ sr dr : Nat → Word, ∀ a b : Nat → Nat, runs .copy (.cpy2 dst src shape strides (some (ms, md))) {} →
        bits shape.toNat 47 32 = 2 → bits shape.toNat 31 0 = 16 →
        (∀ i, sr i = resolveAddr s.fabricNo k.corxy (if bit shape.toNat 62 = true then tmapRow ms.toNat (bits strides.toNat 31 0 + i)
          else src + BitVec.ofNat 64 i * (strides.extractLsb' 0 32).signExtend 64)) →
        (∀ i, dr i = resolveAddr s.fabricNo k.corxy (if bit shape.toNat 63 = true then tmapRow md.toNat (bits strides.toNat 63 32 + i)
          else dst + BitVec.ofNat 64 i * (strides.extractLsb' 32 32).signExtend 64)) →
        (sr 0).toNat % 16 = 0 → (dr 0).toNat % 16 = 0 → own (sr 0) 16 (a 0) → own (dr 0) 16 (b 0) → k.codesz.toNat ≤ b 0 → k.spoisoned (a 0) 16 = false →
        let w := k.swrite (b 0) 16 (k.sread (a 0) 16)
        ((sr 1).toNat % 16 = 0 → (dr 1).toNat % 16 = 0 → own (sr 1) 16 (a 1) → own (dr 1) 16 (b 1) → k.codesz.toNat ≤ b 1 → w.spoisoned (a 1) 16 = false →
          ends .copy (fun t => scratch t (w.swrite (b 1) 16 (w.sread (a 1) 16)))) ∧
        ((sr 1).toNat % 16 ≠ 0 → ends .copy (fun t => scratch t w ∧ recorded .copy 3 1 (sr 1) t))) ∧
      (∀ dst src params table a, runs .copy (.cxp dst src params table) {} → bits params.toNat 15 0 = 1 → own src 64 a → k.spoisoned a 64 = false →
        (bit params.toNat 20 = false → table + 512 ≤ k.scratchSize ∧ k.spoisoned table 512 = false) →
        let block := k.sread a 64
        (expandBlock params.toNat block (k.sread table 512) = none → ends .copy (fun t => scratch t k ∧ recorded .copy 0x14 1 src t)) ∧
        (∀ v m fl b, expandBlock params.toNat block (k.sread table 512) = some (v, m, fl) → 0 < m → own (k.ownAddr dst) m b → k.codesz.toNat ≤ b →
          ends .copy (fun t => scratch t (k.swrite b m v))) ∧
        (∀ b, bit params.toNat 20 = true → bits params.toNat 31 24 = 1 → block % 2 ^ 16 = 1 + bits params.toNat 39 32 * 2 ^ 8 → bits params.toNat 39 32 ≠ 128 →
          own (k.ownAddr dst) 62 b → k.codesz.toNat ≤ b → ends .copy (fun t => scratch t (k.swrite b 62 (block / 2 ^ 16 % 2 ^ 496))))) ∧
      (∀ dst src params f b, runs .copy (.cpk dst src params) {} → bits params.toNat 15 0 = 1 → blockOf (bits params.toNat 31 24) = some f →
        let n := cpkBytes (BitVec.ofNat 4 (bits params.toNat 19 16)) f.count
        src + n ≤ k.scratchSize → k.spoisoned src n = false → own dst 64 b → k.codesz.toNat ≤ b →
        ends .copy (fun t => scratch t (k.swrite b 64
          (packBlock params.toNat (k.elementsAt src (BitVec.ofNat 4 (bits params.toNat 19 16)) 0 f.count) f).1))) ∧
      (∀ dst base x y a1 a2 b1 b2, runs .copy (.cgthb dst base [x, y] 16) {} → own (base + BitVec.ofNat 64 (16 * x)) 16 a1 →
        own (base + BitVec.ofNat 64 (16 * y)) 16 a2 → own (k.ownAddr dst) 16 b1 → own (k.ownAddr (dst + 16)) 16 b2 →
        k.codesz.toNat ≤ b1 → k.codesz.toNat ≤ b2 → k.spoisoned a1 16 = false →
        let w := k.swrite b1 16 (k.sread a1 16)
        w.spoisoned a2 16 = false → ends .copy (fun t => scratch t (w.swrite b2 16 (w.sread a2 16)))) ∧
      (∀ dst src params tabs rp freqs, runs .exponent (.xrot dst src params tabs rp freqs) {} →
        let pairs := bits params.toNat 23 16
        let rows := bits params.toNat 15 0
        let pos := bits tabs.toNat 55 32
        0 < pairs → 0 < rows → src + 8 * pairs * rows ≤ k.scratchSize → dst + 8 * pairs * rows ≤ k.scratchSize → pos + 16 * rows ≤ k.scratchSize →
        k.spoisoned src (8 * pairs * rows) = false → k.spoisoned pos (16 * rows) = false →
        let ws := (List.range rows).flatMap (fun r => (List.range pairs).flatMap (fun i =>
          let axis := if i < bits rp.toNat 7 0 then 0 else if i < bits rp.toNat 15 8 then 1 else 2
          let q := ((BitVec.ofNat 128 (k.sread (pos + 16 * r) 12)).extractLsb' (32 * axis) 32).toInt
          let th := (fmtF32.mulV .rne (.fin (decide (q < 0)) q.natAbs 0) (fmtF32.decode (bits freqs (32 * i + 31) (32 * i)))).val
          let raw := k.sread (src + 8 * pairs * r) (8 * pairs)
          let y := rotate (bits raw (64 * i + 31) (64 * i)) (bits raw (64 * i + 63) (64 * i + 32)) (cosSinF32 th).1.val (cosSinF32 th).2.val
          [y.1.val, y.2.val]))
        ends .exponent (fun t => scratch t ((k.noteCodeStore dst (8 * pairs * rows)).swrite dst (8 * pairs * rows) (packEls 32 ws))))) ∧
    (∀ (id src : Nat) (r : Req) (p : Spot) (x : Nat), s.reqNext id = some r → r.kind = .push src → r.src = .engine c → r.stage = .toCore x →
      s.spot r.vf (addrVcore r.ea) = some p → (s.spotCore r.vf p).affected (addrOff r.ea) 32 = false →
      (pushRing k (s.spotCore r.vf p) (addrOff r.ea) src = .wait → Becomes (.remoteScratchAccess id) s s) ∧
      (∀ t n bad, pushRing k (s.spotCore r.vf p) (addrOff r.ea) src = .done t n bad →
        Becomes (.remoteScratchAccess id) s ((s.putSpot r.vf p t).answer r p.site (.reply (BitVec.ofNat 1024 n) bad 0 none))))

/-- 23 R435, R442, R443; 18 R364 to R369, R378; 02 R67; 06 R173; 21 R429: a host's submission completes in every state: it is answered
with 16 bytes (ID, status, zeros), and a valid one is the last of its queue; one over an unsupported delivery is a Transport error.
GROUP_PLACEMENT completes in every state: the chosen ready head is placed on the first core that qualifies: min(4 / HARTS, remaining)
consecutive groups, whose harts start at ENTRY with ARG, group and index, and the digest of its image joins the measurement log; where
a ready head cannot be placed, one unmarked core of a kind that it lacks, of the lowest PRIO among those below its own, is marked to be
freed where there is such a core, and else nothing changes; a bad image ends the launch FAILED, and one of domains that cannot fit is REFUSED.
Which head is chosen (log 66), that one core is marked at a time and which of equal PRIO (log 45), how often an image is measured (log
67) and the cause of the Transport error (log 68) are the model's readings. -/
def Obligations.SubmissionAndPlacement : Prop :=
  (∀ (s : State) (vf : BitVec 4) (endpoint : Nat) (send : HostSend),
    let p := s.part vf
    let n := leOfBytes send.bytes
    let r := n % 2 ^ 512
    let told := fun (m : HostMsg) => exec (.hostSubmission vf endpoint send) s = .next { s with hostOut := s.hostOut ++ [m] }
    let answer := fun (id status : Nat) => HostMsg.answer endpoint (bytesOfLE 4 id ++ bytesOfLE 4 status ++ bytesOfLE 8 0)
    (∃ t, exec (.hostSubmission vf endpoint send) s = .next t) ∧
    ((p.valid = false ∨ endpoint ∉ p.endpoints) → told (.transportError endpoint 0x06)) ∧
    (p.valid = true → endpoint ∈ p.endpoints →
      (send.delivery ≠ .rud ∨ send.bytes.length ≠ 80 → told (.transportError endpoint 0x04)) ∧
      (send.delivery = .rud → send.bytes.length = 80 →
        (∀ reason byte, s.recordFault vf r true = some (reason, byte) → told (answer 0 reason)) ∧
        (s.recordFault vf r true = none →
          let j : BitVec 3 := BitVec.ofNat 3 (bits r 82 80)
          let id := vf.toNat * 2 ^ 28 + p.serial % (2 ^ 28 - 1) + 1
          let new : Launch :=
            { id := id, vf := vf, record := BitVec.ofNat 512 r, spec := 0,
              submitter := .host endpoint (BitVec.ofNat 64 (bits n 575 512)) (BitVec.ofNat 64 (bits n 639 576)),
              image := BitVec.ofNat 64 (bits r 255 192), order := s.order }
          (64 ≤ (p.queue j).length → told (answer 0 16)) ∧
          ((p.queue j).length < 64 → exec (.hostSubmission vf endpoint send) s = .next
            { s.modPart vf (fun p =>
                { p with queues := p.queues.set j.toNat (p.queue j ++ [id]) j.isLt, serial := p.serial + 1, sinceCheckpoint := p.sinceCheckpoint ++ [new] }) with
              launches := s.launches.filter (fun x => x.id != id) ++ [new], order := s.order + 1,
              hostOut := s.hostOut ++ [answer id 0] }))))) ∧
  (∀ (s : State) (vf : BitVec 4) (q : BitVec 3), ∃ t, exec (.groupPlacement vf q) s = .next t) ∧
  ∀ (s : State) (vf : BitVec 4) (q : BitVec 3) (l : Launch),
    let p := s.part vf
    s.headOf vf q = some l → s.ready l = true → l.vf = vf → p.resident = true → p.requested = none → p.switchTo = none →
      let place : Instr := .groupPlacement vf q
      (l.dlev ≠ 0 → s.fits l = false →
        ∃ t y, exec place s = .next t ∧ t.launches.find? (fun x => x.id == l.id) = some y ∧ y.status = .refused ∧ y.state = .ended) ∧
      (l.dlev = 0 ∨ s.fits l = true → s.placeable l = false →
        let frees := fun (e : Nat × Core) => e.2.vf = some vf ∧ e.2.hostsPart vf = true ∧ e.2.marked = false ∧ s.corePrio e.2 < l.prio ∧
          s.lacksCore l (isW e.1) = true
        ((∀ e ∈ s.cores, ¬frees e) → exec place s = .next s) ∧
        ((∃ e ∈ s.cores, frees e) → ∃ e ∈ s.cores, frees e ∧ (∀ d ∈ s.cores, frees d → s.corePrio e.2 ≤ s.corePrio d.2) ∧
          exec place s = .next (s.modCore e.1 (fun k => { k with marked := true })))) ∧
      (l.dlev = 0 ∨ s.fits l = true → s.placeable l = true → (s.chosen vf).map Launch.id ≠ some l.id → exec place s = .next s) ∧
      (s.chosen vf = some l → l.dlev = 0 → ∀ v c, s.nextCore l = some (v, c) →
        (∀ o, s.loadImage l = .error o → ∃ t y, exec place s = .next t ∧ t.core c = (s.core c).stopLaunch l.id ∧
          t.launches.find? (fun x => x.id == l.id) = some y ∧ (l.status = .completed → y.status = .failed) ∧
          (l.failure = none → y.failure = some (0x1C, BitVec.ofNat 32 o, 0))) ∧
        (∀ img, s.loadImage l = .ok img → l.placed ≠ 0 ∨ l.pparam = 0 → l.fclass = 0 →
          let k := min (4 / l.hartsPer) (l.groupsTotal - l.placed)
          ∃ t y, exec place s = .next t ∧ t.mem = s.mem ∧ t.measured = s.measured ++ [sha512 (s.imageBytes l)] ∧
            t.launches.find? (fun x => x.id == l.id) = some y ∧ y.state = .running ∧
            y.placed = l.placed + k ∧ y.groups = l.groups ++ (List.range k).map (fun i => { num := l.placed + i, vcore := v, base := i * l.hartsPer, harts := l.hartsPer }) ∧
            (∀ j, (t.part vf).queue j = if l.placed + k = l.groupsTotal then (p.queue j).filter (fun x => x != l.id) else p.queue j) ∧
            (t.core c).vf = some vf ∧ (t.core c).vcore = v % (256 * 128 * 16) ∧ (t.core c).codesz.toNat = l.codesz % 2 ^ 18 ∧ (t.core c).waymask = l.waymask ∧
            ∀ h : BitVec 2, h.toNat < k * l.hartsPer →
              let x := (t.core c).hart h
              let n := l.placed + h.toNat / l.hartsPer
              let i := h.toNat % l.hartsPer
              x.pc = BitVec.ofNat 64 l.entry ∧ x.mode = .program ∧ x.full = 0 ∧ x.group = some ⟨l.id, n, i⟩ ∧
              ∀ r, x.rg r = if r = 1 then l.arg else if r = 2 then BitVec.ofNat 64 n else if r = 3 then BitVec.ofNat 64 i
                else if r = 28 then 0xFFFFFFFFFF000000 else 0))

/-- 18 R367, R370, R373 to R375, R377; 20 R401, R402, R404: a group ends when its harts have exited or stopped and have nothing in progress;
a domain's phase flips when every member has arrived, and its waiting harts run on; a launch ends after two sweeps that agree,
which the host is told; a waiting head of a failed predecessor is CANCELLED; the lowest unmerged round of an estimate is merged when
it is complete, and none after its launch has failed.
When an access counts as received (log 40) and that an exited member stays a member (log 47) are the model's readings. -/
def Obligations.EndsAndMerges : Prop :=
  ∀ (s : State) (l : Launch) (id group level domain c : Nat) (k : Core) (n : BitVec 3),
    (s.cores.find? (fun e => !(e.2.hartsOf id group).isEmpty) = some (c, k) →
      let hs := k.hartsOf id group
      let rest := hs.all (fun h => (k.hart h).atRest) && s.enginesRest c hs
      (rest = false → Becomes (.groupEnd id group) s s) ∧
      (rest = true → s.core c = k → s.launches.find? (fun x => x.id == id) = some l → s.noReplacement c →
        ∃ t y, exec (.groupEnd id group) s = .next t ∧ t.mem = s.mem ∧ (∀ h ∈ hs, ((t.core c).hart h).group = none) ∧
          (∀ d, d ≠ c → t.core d = s.core d) ∧
          t.launches.find? (fun x => x.id == id) = some y ∧ y.groups = l.groups.map (fun g => if g.num = group then { g with ended := true } else g) ∧
          ((∀ h, h ∉ hs → (k.hart h).group = none) → (t.core c).vf = none))) ∧
    (s.launches.find? (fun x => x.id == id) = some l → n.toNat = level →
      let key := level + 8 * domain
      let size := s.domainSize l level domain
      let there := s.domainArrivals l level domain (l.phase key)
      let flip : Instr := .domainPhaseFlip id n domain
      ((size = 0 ∨ there ≠ size) → Becomes flip s s) ∧
      (size ≠ 0 → there = size → ∃ t y, exec flip s = .next t ∧ t.mem = s.mem ∧ t.net = s.net ∧
        t.launches.find? (fun x => x.id == id) = some y ∧ y.phase key = !l.phase key ∧
        ∀ e ∈ s.cores, ∃ e' ∈ t.cores, e'.1 = e.1 ∧ ∀ h, e'.2.hart h = { e.2.hart h with
          block := if ((e.2.hart h).group.map (fun g => g.launch)) = some id ∧ (e.2.hart h).block = some .dsync then none else (e.2.hart h).block })) ∧
    (s.launches = [l] → l.state = .running → l.groupsTotal ≤ l.placed →
      ((∃ g ∈ l.groups, g.ended = false) → Becomes .sweep s s) ∧
      ((∀ g ∈ l.groups, g.ended = true) → (l.status = .failed ∨ ∀ e, l.est = some e → e.status ≠ .running) →
        (l.sentCount ≠ l.recvCount → Becomes .sweep s { s with launches := [{ l with agreed := 0 }] }) ∧
        (l.sentCount = l.recvCount → l.agreed = 0 → Becomes .sweep s { s with launches := [{ l with agreed := 1 }] }) ∧
        (l.sentCount = l.recvCount → l.agreed ≠ 0 → ∀ e key offset, l.submitter = .host e key offset →
          let ended := { s with launches := [{ l with state := .ended }] }
          Becomes .sweep s (if key = 0 then ended else { ended with hostOut := s.hostOut ++ [.completion e key offset (BitVec.ofNat 512 l.completion)] })))) ∧
    (∀ m q, s.launches = [l, m] → l.state = .ended → l.status ≠ .completed → m.state = .queued → m.placed = 0 → l.id ≠ m.id →
      ((s.part m.vf).queue q).head? = some m.id → l.id ∈ m.preds → (∃ a, (s.part m.vf).age (l.id % 2 ^ 28) = some a ∧ a < 1024) →
      ∃ t y, exec .sweep s = .next t ∧ t.launches = [l, y] ∧ y.status = .cancelled ∧ y.state = .ended ∧ m.id ∉ (t.part m.vf).queue q) ∧
    (∀ e, s.launches.find? (fun x => x.id == id) = some l → l.est = some e → l.state = .running → l.status ≠ .completed → Becomes (.roundMerge id) s s) ∧
    (∀ e, s.launches.find? (fun x => x.id == id) = some l → l.est = some e → l.state = .running → l.status = .completed → e.status = .running →
      let vs := e.roundValues e.rounds
      (e.complete e.rounds = false → Becomes (.roundMerge id) s s) ∧
      (e.complete e.rounds = true → ∃ t y e', exec (.roundMerge id) s = .next t ∧ t.mem = s.mem ∧ t.launches.find? (fun x => x.id == id) = some y ∧
        y.est = some e' ∧ e'.rounds = e.rounds + 1 ∧ e'.count = e.count + vs.length ∧ e'.next = e.next ∧ e'.opened = e.opened ∧
        (e.count = 0 → e'.mean = BitVec.ofNat 64 (welford vs (0, 0, 0)).2.1 ∧ e'.m2 = BitVec.ofNat 64 (welford vs (0, 0, 0)).2.2) ∧
        ((e'.rounds < e.minr ∨ e'.count < 2) → e'.status ≠ .converged ∧ e'.hw = e.hw) ∧
        (e.minr ≤ e'.rounds → 2 ≤ e'.count →
          let var := fdiv64 (fdiv64 e'.m2.toNat (fcount64 (e'.count - 1))) (fcount64 e'.count)
          let hw := fmul64 e.z.toNat (f64.sqrt .rne var).val
          e'.hw = BitVec.ofNat 64 hw ∧ (e'.status = .converged ↔ (f64.le hw e.tau.toNat).val = true)) ∧
        (e'.status ≠ .converged → (e'.status = .exhausted ↔ e.n ≤ e'.rounds * 2 ^ e.lw))))

/-- 18 R378, R379; 06 R162; 08 R212; 21 R422: a marked core whose harts are all at blocking points drains: once its queues have, its dirty bytes
are written back, and when they are home and ORSCNT is zero its cycle counters count up to the save (22 R434), its context with scratch,
operand memory, sequencer and messages joins the save area, and the core is free. A
saved context returns to the same virtual core once that is free, its messages are delivered first, and the harts whose wake conditions
are true are woken before any hart issues.
What the drain waits for and withdraws is the model's reading where 18 R379 is silent (log 46); how much a cycle counter gains is a free
value (log 11). -/
def Obligations.EvictionAndResume : Prop :=
  ∀ (s : State) (c slot : Nat) (vf : BitVec 4) (x : Saved),
    let k := s.core c
    let p := s.part vf
    (k.vf = some vf → k.marked = true → k.draining = false → p.rolledBack = false →
      (s.allBlocked c = true → Becomes (.eviction c) s (s.modCore c (fun k => { k with draining := true }))) ∧
      (s.allBlocked c = false → Becomes (.eviction c) s s)) ∧
    (k.vf = some vf → k.draining = true → p.rolledBack = false →
      (s.drained c = false → Becomes (.contextSave c) s s) ∧
      (s.drained c = true → (∃ y ∈ k.cache, y.dirty ≠ 0) → ∃ t, exec (.contextSave c) s = .next t ∧ t.mem = s.mem ∧ t.part vf = p ∧
        (t.core c).vf = some vf ∧ (t.core c).harts = k.harts ∧ (t.core c).lmem = k.lmem ∧ (t.core c).draining = true ∧ ∀ y ∈ (t.core c).cache, y.dirty = 0) ∧
      (s.drained c = true → (∀ y ∈ k.cache, y.dirty = 0) → s.backsPending c = true ∨ s.postedDone c = false → Becomes (.contextSave c) s s) ∧
      (s.drained c = true → (∀ y ∈ k.cache, y.dirty = 0) → s.backsPending c = false → s.postedDone c = true → s.noReplacement c →
        (∀ h id eb d base es, (k.hart h).block ≠ some (.acq id) ∧ (k.hart h).block ≠ some (.vload eb d base es)) →
        ∃ t y, exec (.contextSave c) s = .next t ∧ t.core c = {} ∧ (t.part vf).saved = p.saved ++ [y] ∧ t.mem = s.mem ∧
          t.net = s.net.filter (fun r => !r.unawaited c) ∧
          (∃ f : BitVec 2 → Nat → Nat, ∀ h, y.core.hart h = (k.hart h).accrued (f h)) ∧ y.core.lmem = k.lmem ∧ y.core.lpoison = k.lpoison ∧ y.core.opmem = k.opmem ∧ y.core.cas = k.cas ∧
          y.core.slotOwner = k.slotOwner ∧ y.core.vcore = k.vcore ∧ y.core.regions = k.regions ∧ y.core.cache = [] ∧ y.core.overflow = k.overflow ∧ y.hold = k.hold)) ∧
    (p.saved[slot]? = some x → p.resident = true → p.requested = none → p.switchTo = none →
      s.physCore vf x.core.vx.toNat x.core.vy.toNat x.core.vc.toNat = some c →
      (k.vf ≠ none → Becomes (.resume vf slot) s s) ∧
      (∀ q l, s.headOf vf q = some l → s.ready l = true → s.corePrio x.core < l.prio → (l.needs l.placed = none ∨ l.needs l.placed = some (isW c)) →
        Becomes (.resume vf slot) s s) ∧
      (k.vf = none → s.usable c = true → s.outranked vf c (s.corePrio x.core) = false →
        let harts := x.core.harts.map (fun h => { h with ovfHeld := h.ovfHeld || h.ovf != 0 })
        let t := s.modPart vf (fun p => { p with saved := p.saved.eraseIdx slot })
        let idle := x.core.tokens = [] ∧ ∀ h, (x.core.hart h).block = none ∧ (x.core.hart h).arrPend = 0
        Becomes (.resume vf slot) s (hartNos.foldl (fun t h => t.rearm c h) (t.setCore c x.restored)) ∧
        (x.core.overflow = [] → x.hold = [] → idle → Becomes (.resume vf slot) s (t.setCore c { x.core with harts := harts, hold := [] })) ∧
        (∀ m, x.core.overflow = [m] → x.hold = [] → idle → (x.core.hart m.hart).isFull m.reg = false →
          (∀ n, ((x.core.hart m.hart).slot n).valid = true → ((x.core.hart m.hart).slot n).sources.contains (.m m.reg) = false) →
          ∃ t, exec (.resume vf slot) s = .next t ∧ (t.part vf).saved = p.saved.eraseIdx slot ∧ (t.core c).overflow = [] ∧
            ((t.core c).hart m.hart).rm m.reg = m.value ∧ ((t.core c).hart m.hart).isFull m.reg = true)))

/-- 21 R412, R414 to R417, R423: a world switch marks the cores of A, and when they are saved makes B resident with its remap entry; past
the deadline the unsaved cores stop and A goes back to its last checkpoint, which the host is told; a checkpoint holds the saved
contexts, the launches and the listed regions, and CKSEQ is written to the doorbell page.
That an event fires twice, once to begin and once to end, is the model's choice (log 38); so is how a region and the doorbell are named (log 49). -/
def Obligations.SwitchesAndCheckpoints : Prop :=
  ∀ (s : State) (a b : BitVec 4) (ck : Checkpoint) (n : BitVec 32),
    let p := s.part a
    let q := s.part b
    let live := s.cores.filter (fun e => e.2.vf == some a)
    let marked := { s with cores := s.cores.map (fun e => (e.1, if e.2.vf == some a then { e.2 with marked := true } else e.2)) }
    let switched := (s.modPart a (fun p => { p with resident := false, switchTo := none })).modPart b
      (fun q => { q with resident := true, remap := BitVec.ofNat 64 (2 ^ 63 + q.hm1.toNat * 2 ^ 23 + q.wm1.toNat * 2 ^ 15 + q.py0.toNat * 2 ^ 8 + q.px0.toNat) })
    (a ≠ b → p.valid = true → q.valid = true → p.resident = true → p.sameRect q = true →
      (p.switchTo = none → Becomes (.worldSwitch a b) s (marked.modPart a (fun p => { p with switchTo := some b }))) ∧
      (p.switchTo = some b → live ≠ [] → Becomes (.worldSwitch a b) s s) ∧
      (p.switchTo = some b → p.rolledBack = false → live = [] →
        (q.restore = false → Becomes (.worldSwitch a b) s switched) ∧
        (q.restore = true → q.checkpoint = some ck → q.counters = [] → q.sinceCheckpoint = [] →
          ∃ t, exec (.worldSwitch a b) s = .next t ∧ (t.part a).resident = false ∧ (t.part b).resident = true ∧ (t.part b).saved = ck.contexts ∧
            (t.part b).queues = ck.queues ∧
            t.launches = s.launches.filter (fun l => l.vf != b) ++ ck.launches.map (fun l => { l with sentCount := 0, recvCount := 0, agreed := 0 }) ∧
            (let u := ck.regions.foldl State.restoreRegion switched
             t.mem = u.mem ∧ t.slices = u.slices ∧ t.hbmPoison = u.hbmPoison)))) ∧
    (p.switchTo = none → Becomes (.switchDeadline a) s s) ∧
    (p.switchTo ≠ none →
      (p.rolledBack = false → live = [] → Becomes (.switchDeadline a) s s) ∧
      (p.rolledBack = false → live ≠ [] → ∃ t, exec (.switchDeadline a) s = .next t ∧ (t.part a).rolledBack = true ∧ t.mem = s.mem ∧
        ∀ e ∈ live, (t.core e.1).draining = true ∧ (t.core e.1).matrix.queue = [] ∧ (t.core e.1).copy.queue = [] ∧ (t.core e.1).exponent.queue = [] ∧
          (t.core e.1).cas.state ≠ .running) ∧
      (p.rolledBack = true → (∃ e ∈ live, s.quiesced e.1 = false) → Becomes (.switchDeadline a) s s) ∧
      (p.rolledBack = true → (∀ e ∈ live, s.quiesced e.1 = true) →
        ∃ t ms, exec (.switchDeadline a) s = .next t ∧ t.hostOut = s.hostOut ++ ms ++ [.rollback a (bytesOfLE 4 0xFFFFFFFF ++ bytesOfLE 4 a.toNat ++ bytesOfLE 8 p.ckseq.toNat)] ∧ (p.ckseq ≠ 0 → ms = []) ∧
          (t.part a).saved = [] ∧ (t.part a).requested = none ∧ (t.part a).rolledBack = false ∧ (t.part a).restore = (p.ckseq != 0) ∧
          (∀ e ∈ live, (t.core e.1).vf = none) ∧ (p.ckseq = 0 → ∀ l ∈ t.launches, l.vf = a → l.state ≠ .queued))) ∧
    (p.requested = none → Becomes (.checkpointRequest a) s s ∧ Becomes (.checkpointComplete a) s s) ∧
    (p.requested = some n → Becomes (.checkpointRequest a) s marked ∧ (live ≠ [] → Becomes (.checkpointComplete a) s s) ∧
      (p.restore = true ∨ p.rolledBack = true → Becomes (.checkpointComplete a) s s) ∧
      (live = [] → p.restore = false → p.rolledBack = false → ∀ va, p.doorbell = some va →
        let t := s.modPart a (fun p =>
          { p with ckseq := n, requested := none, sinceCheckpoint := [],
                   checkpoint := some { seq := n, contexts := p.saved, launches := s.launches.filter (fun l => l.vf == a), queues := p.queues, serial := p.serial,
                                        regions := p.checkpointList.map (fun r => (r.1, s.physBytes r.1 r.2, s.regionPoison r.1 r.2)),
                                        areas := s.areas.filter (fun e => e.1 / 2 ^ 48 == a.toNat) } })
        Becomes (.checkpointComplete a) s (t.onHomeWrite a (va + 8) ⟨false, true⟩ t (fun t x y pa => t.homeWrite x y pa 8 n.toNat))))

/-- 21 R411, R412, R417, R428, R429, R431; 13 R304, R305, R311; 15 R325, R329, R333, R336; 23 R436, R442: partitions are created where their
rectangle coincides with the others' or lies apart from them, and destroyed when nothing of them is left; tables change only while
no context of theirs is on a core; firmware is taken only with a valid signature and a version that the fused counter admits; a quote signs
the nonce and the digest of the measurement log.
What a creation sets and what it waits for are the model's readings (log 49, 50, 53), and so are the fused keys and what an image's digest
covers (log 13). -/
def Obligations.Management : Prop :=
  ∀ (s : State) (ps : PartitionSpec) (vf : BitVec 4) (k : BitVec 3) (n : BitVec 2) (v : Word) (us : BitVec 24) (i : FirmwareImage)
    (e x y pa : Nat) (m : BitVec 11) (regions : List (Nat × Nat)) (nonce : List Byte) (c : BitVec 4),
    let new : Partition :=
      { valid := true, px0 := ps.px0, py0 := ps.py0, wm1 := ps.wm1, hm1 := ps.hm1, deadline := ps.deadline, ptroot := ps.ptroot &&& 0x3FFFFE00000,
        masks := (Vector.replicate 8 0).set 0 (ps.mask0 &&& 0x800000003FFFFFFF), trapVector := ps.trapVector &&& 0x1FFFC, doorbell := some ps.doorbell.toNat }
    let entry : Word := BitVec.ofNat 64 (2 ^ 63 + ps.hm1.toNat * 2 ^ 23 + ps.wm1.toNat * 2 ^ 15 + ps.py0.toNat * 2 ^ 8 + ps.px0.toNat)
    let bounds := 100 ≤ ps.deadline.toNat ∧ ps.deadline.toNat ≤ 1000000
    let fits := ps.px0.toNat + ps.wm1.toNat ≤ 255 ∧ ps.py0.toNat + ps.hm1.toNat ≤ 99
    let others := fun (f : Partition → Prop) => ∀ j : BitVec 4, (s.part j).valid = true → f (s.part j)
    let create : Instr := .partitionCreate ps
    let w := fun (i : ConfigWrite) (t : State) => Becomes (.belineConfigWrite i) s t
    let live := s.cores.filter (fun e => e.2.vf == some vf)
    let evicted := fun (f : Partition → Partition) => { s with trans := s.trans.filter (fun e => e.vf != vf) }.modPart vf f
    let digest := sha512 (bytesOfLE 4 i.version.toNat ++ i.code)
    let good := sha512 (bytesOfLE 32 i.publicKey.toNat) = Config.bootKeyHash ∧ ed25519Valid i.publicKey (bytesOfLE 64 digest.toNat) i.signature = true ∧
      Config.antiRollback ≤ i.version.toNat
    let loaded := { s with booted := true, firmware := i.version.toNat, measured := s.measured ++ [digest] }
    ((s.booted = false ∨ (s.part ps.vf).valid = true ∨ ¬bounds ∨ ¬fits ∨ (∃ j : BitVec 4, (s.part j).valid = true ∧ new.sameRect (s.part j) = false ∧ new.apart (s.part j) = false)) →
      Becomes create s s) ∧
    (s.booted = true → (s.part ps.vf).valid = false → bounds → fits → others (fun r => new.sameRect r = true ∨ new.apart r = true) → ps.mask0.msb = true →
      groupMaskOk ps.mask0 = true → doorbellOk ps = true →
      (others (fun r => r.resident = true → r.sameRect new = false) → Becomes create s
        (((s.mapDoorbell ps).setPart ps.vf { new with resident := true, remap := entry }).tellHost (.doorbellAt ps.vf ps.doorbell))) ∧
      ((∃ j : BitVec 4, (s.part j).valid = true ∧ (s.part j).resident = true ∧ (s.part j).sameRect new = true) →
        Becomes create s (((s.mapDoorbell ps).setPart ps.vf new).tellHost (.doorbellAt ps.vf ps.doorbell)))) ∧
    ((s.part vf).valid = true → live = [] → (∀ r ∈ s.net, r.vf ≠ vf) → Becomes (.partitionDestroy vf) s
      { s.setPart vf {} with launches := s.launches.filter (fun l => l.vf != vf), trans := s.trans.filter (fun e => e.vf != vf) }) ∧
    ((live ≠ [] ∨ ∃ r ∈ s.net, r.vf = vf) → Becomes (.partitionDestroy vf) s s) ∧
    (live ≠ [] → w (.remap vf v) s ∧ w (.ptroot vf v) s ∧ w (.groupMask vf k v) s ∧ w (.pageEntry vf pa v) s) ∧
    ((s.part vf).valid = true →
      (live = [] → w (.remap vf v) (evicted (fun p => { p with remap := v &&& 0x800000003FFFFFFF })) ∧
        w (.ptroot vf v) (evicted (fun p => { p with ptroot := v &&& 0x3FFFFE00000 })) ∧
        (groupMaskOk v = true → (k ≠ 0 ∨ v.msb = true) →
          w (.groupMask vf k v) (evicted (fun p => { p with masks := p.masks.set k.toNat (v &&& 0x800000003FFFFFFF) k.isLt }))) ∧
        (pa % 8 = 0 → pa + 8 ≤ 2560 * 10 ^ 9 → w (.pageEntry vf pa v) ({ s with trans := s.trans.filter (fun e => e.vf != vf) }.physPutBytes pa (bytesOfLE 8 v.toNat)))) ∧
      (100 ≤ us.toNat → us.toNat ≤ 1000000 → w (.deadline vf us) (s.modPart vf (fun p => { p with deadline := us }))) ∧
      w (.trapVector vf v) (s.modPart vf (fun p => { p with trapVector := v &&& 0x1FFFC })) ∧
      w (.checkpointList vf regions) (s.modPart vf (fun p => { p with checkpointList := regions })) ∧
      (m ≠ 2047 → w (.peer vf m v) (s.modPart vf (fun p => { p with peers := mapSet p.peers m.toNat (v &&& 0xE0F00000FFFFFFFF) }))) ∧
      w (.endpoint vf e) (s.modPart vf (fun p => { p with endpoints := setAdd p.endpoints e })) ∧
      w (.powerBudget vf e) (s.modPart vf (fun p => { p with budget := e }))) ∧
    w (.fabricNumber m) { s with fabricNo := m } ∧ (n ≠ 3 → w (.sleepCeiling n) { s with sleepCeiling := n }) ∧
    (x < 256 → y < 100 →
      (bits v.toNat 22 18 ≤ 16 ∨ bits v.toNat 22 18 = 31 → w (.cluster x y v) (s.modCluster x y (fun k =>
        { k with spslot := BitVec.ofNat 5 (bits v.toNat 22 18), health := BitVec.ofNat 17 (bits v.toNat 17 1) }))) ∧
      (¬(bits v.toNat 22 18 ≤ 16 ∨ bits v.toNat 22 18 = 31) → w (.cluster x y v) s) ∧
      w (.readCluster x y) { s with belineLog := s.belineLog ++ [.clusterRead x y (BitVec.ofNat 64
        ((s.cluster x y).spslot.toNat * 2 ^ 18 + (s.cluster x y).health.toNat * 2 + b2n (isW (coreKey x y 0))))] }) ∧
    w (.restoreWay x y c) (s.modCluster x y (fun k => { k with withdrawn := k.withdrawn.filter (fun z => z != c.toNat) })) ∧
    (s.booted = false → (good → Becomes (.boot i) s loaded) ∧ (¬good → Becomes (.boot i) s { s with belineLog := s.belineLog ++ [.rejectedBoot] }) ∧
      Becomes (.firmwareUpdate i) s s ∧ Becomes (.quoteRequest e nonce) s s) ∧
    (s.booted = true → (good → Becomes (.firmwareUpdate i) s loaded) ∧ (¬good → Becomes (.firmwareUpdate i) s { s with belineLog := s.belineLog ++ [.rejectedUpdate] }) ∧
      Becomes (.boot i) s s ∧
      Becomes (.quoteRequest e nonce) s { s with hostOut := s.hostOut ++
        [.quote e (ed25519Sign Config.identityKey (bytesOfLE 64 (sha512 (nonce ++ bytesOfLE 64 (sha512 (s.measured.flatMap (fun d => bytesOfLE 64 d.toNat))).toNat)).toNat))
          s.measured] })

/-- 06 R175, R176, R178, R179; 01 R15; 05 R154; 08 R183, R189; 11 R281: a debug halt is pending until the hart's next boundary; a halted hart
steps one instruction with the others of its group held at their boundaries, and resumes with no breakpoint match on the first; its
state is read, with all that its core holds and its partition's watchpoints, and written through the debug path, and nothing of a hart that
is not halted. A read, and a write of a control register, bring the hart's cycle counters up to date first, with free counts (log 11); what
is written to HARTID, CORXY or VFID is what RDC reads from then on. That the hart stays where it is, and what a queue's status is when it
is written, are the model's choices (log 74). -/
def Obligations.DebugPath : Prop :=
  ∀ (s : State) (c : Nat) (h : BitVec 2) (v : Word) (b : Bool) (r : BitVec 5) (q : BitVec 4) (t : Tile) (num : BitVec 12) (slot : BitVec 192)
    (off n : Nat) (bs : List Byte) (u : BitVec 32) (w : BitVec 8) (x : DebugAccess),
    let k := s.core c
    let a := s.hartOf c h
    let entry : Slot :=
      { valid := slot.getLsbD 0, dest := slot.extractLsb' 4 5, dirty := slot.getLsbD 9, nm1 := slot.extractLsb' 10 2, level := slot.extractLsb' 12 4,
        status := slot.extractLsb' 16 8, words := slot.extractLsb' 64 128 }
    let hosts := k.vf ≠ none ∧ a.group ≠ none ∧ a.exited = false
    let does := fun (x : DebugAccess) (t : State) => Becomes (.debugAccess c h x) s t
    let status := fun (st : RunState) (up cu : BitVec 8) => s.modCore c (fun k => { k with cas := { k.cas with
      mrows := v.extractLsb' 48 16, cause := v.extractLsb' 40 8, foff := v.extractLsb' 8 24, flags := v.extractLsb' 2 6, state := st, upc := up, casUpc := cu } })
    let hart := fun (f : Hart → Hart) => s.modHart c h f
    (hosts → a.halted = false →
      Becomes (.debugHalt c h) s (hart (fun a => { a with haltPend := true })) ∧ Becomes (.debugStep c h) s s ∧ Becomes (.debugResume c h) s s ∧ does x s) ∧
    (¬hosts → Becomes (.debugHalt c h) s s ∧ does x s) ∧
    (hosts → a.halted = true → Becomes (.debugHalt c h) s s ∧
      ((∃ i ∈ k.others h, (k.hart i).completing = true) → ∃ t, exec (.debugStep c h) s = .next t ∧ (t.core c).hart h = a ∧
        ∀ i, i ≠ h → (t.core c).hart i = { k.hart i with held := (k.hart i).held || (k.others h).contains i }) ∧
      ((∀ i ∈ k.others h, (k.hart i).completing = false) →
        ∃ t, exec (.debugStep c h) s = .next t ∧ t.mem = s.mem ∧ (t.core c).lmem = k.lmem ∧
          (t.core c).hart h = { a with halted := false, stepOnce := true, ibkSuppress := true } ∧
          ∀ i, i ≠ h → (t.core c).hart i = { k.hart i with held := (k.hart i).held || (k.others h).contains i }) ∧
      (∃ t, exec (.debugResume c h) s = .next t ∧ t.mem = s.mem ∧ (t.core c).lmem = k.lmem ∧
        (t.core c).hart h = { a with halted := false, stepOnce := false, ibkSuppress := true } ∧
        ∀ i, i ≠ h → (t.core c).hart i = { k.hart i with held := (k.hart i).held && !(k.others h).contains i }) ∧
      (let u := s.accrueAt c h
       does .read { u with belineLog := u.belineLog ++ [.debugRead c h (u.core c) (s.part (k.vf.getD 0)).dwt] } ∧
       (∀ i : Nat, i < 3 → num.toNat = i →
         does (.writeControl num v) (u.modHart c h (fun a => { a with ids := mapSet a.ids i (v &&& ([3, 0x7FFFF, 0xF] : List Word).getD i 0) })))) ∧
      (off + n ≤ k.scratchSize → does (.readObject off n) { s with belineLog := s.belineLog ++ [.debugObject c off (bytesOfLE n (k.sread off n))] }) ∧
      ((v &&& 0x1FFFC).toNat < k.codesz.toNat → does (.writePc v) (hart (fun a => { a with pc := v &&& 0x1FFFC, pastEnd := false }))) ∧
      (k.codesz.toNat ≤ (v &&& 0x1FFFC).toNat → does (.writePc v) s) ∧ does (.writeMode true) (hart (fun a => { a with mode := .supervisor, ran := a.ran ||| 2 })) ∧
      does (.writeMode false) (hart (fun a => { a with mode := .program, ran := a.ran ||| 1 })) ∧
      (r ≠ 0 → does (.writeG r v) (hart (fun a => { a with g := a.g.set r.toNat v r.isLt }))) ∧ does (.writeG 0 v) (hart (fun a => a)) ∧
      (∃ t, exec (.debugAccess c h (.writeM q v b)) s = .next t ∧ (t.hartOf c h).rm q = v ∧ (t.hartOf c h).isFull q = b ∧ (t.hartOf c h).pc = a.pc ∧
        (t.hartOf c h).g = a.g ∧ (t.hartOf c h).arrPend = a.arrPend ∧ ∀ j, j ≠ q → (t.hartOf c h).rm j = a.rm j ∧ (t.hartOf c h).isFull j = a.isFull j) ∧
      does (.writeV r t) (hart (fun a => { a with v := a.v.set r.toNat t r.isLt })) ∧
      (debugWritable num.toNat = false → does (.writeControl num v) s) ∧
      does (.writeSlot q slot) (hart (fun a => { a with binds := a.binds.set q.toNat entry q.isLt })) ∧
      does (.writeOrscnt v) (hart (fun a => { a with orsLocal := v.extractLsb' 0 16, orsFab := v.extractLsb' 16 16 })) ∧
      (off + bs.length ≤ k.scratchSize → ∃ t, exec (.debugAccess c h (.writeScratch off bs)) s = .next t ∧ (t.core c).harts = k.harts ∧ t.mem = s.mem ∧
        (t.core c).lmem = (k.swrite off bs.length (leOfBytes bs)).lmem) ∧
      (k.scratchSize < off + bs.length → does (.writeScratch off bs) (s.modCore c (fun k => k))) ∧
      does (.writeSequencer q u) (s.modCore c (fun k => { k with cas := { k.cas with a := k.cas.a.set q.toNat u q.isLt } })) ∧
      does (.writeMicroword w v) (s.modCore c (fun k => { k with cas := { k.cas with store := mapSet k.cas.store w.toNat v } })) ∧
      does (.writeUpc w) (s.modCore c (fun k => { k with cas := { k.cas with upc := w } })) ∧
      (∀ i, does (.writeStarter i) (s.modCore c (fun k => { k with cas := { k.cas with starter := i } }))) ∧
      (∀ e f rec_ addr, does (.writeEngine e u f rec_ addr) (s.modCore c (fun k =>
        k.modIssuer (h.setWidth 3) e (fun y => { y with seq := u, faulted := f, record := rec_, addr := addr })))) ∧
      does (.writeQueue .matrix n true) (s.modCore c (fun k => { k with matrix := { k.matrix with queue := k.matrix.queue.take n } })) ∧
      does (.writeQueue .copy n true) (s.modCore c (fun k => { k with copy := { k.copy with queue := k.copy.queue.take n } })) ∧
      does (.writeQueue .exponent n false) (s.modCore c (fun k =>
        { k with exponent := { k.exponent with queue := k.exponent.queue.take n, run := none, work := {} } })) ∧
      (v.extractLsb' 0 2 = 0 → does (.writeCasst v) (status .idle k.cas.upc (v.extractLsb' 32 8))) ∧
      (v.extractLsb' 0 2 = 1 → does (.writeCasst v) (status .running (v.extractLsb' 32 8) k.cas.casUpc)) ∧
      (v.extractLsb' 0 2 = 2 → does (.writeCasst v) (status .stopped k.cas.upc (v.extractLsb' 32 8))) ∧
      (v.extractLsb' 0 2 = 3 → does (.writeCasst v) (status .faulted k.cas.upc (v.extractLsb' 32 8))))

/-- 01 R32; 08 R189, R190; 13 R306, R323; 15 R326; 21 R425 to R427, R430: what an error of a code line, of local memory, of a slice, a core, a
column or a die changes; a code line that the core has not written waits for its repair from the image; a context error fails every group on the core; a failed core
gives its number to the spare of its cluster. At a tag error the way goes out of service: a line of that set in it is lost, and its other
lines go to HBM. A column that already waits to move to its spare is left as it is.
The extent of a tag error and when a spare takes over are the model's readings (log 50), and so are the scrubber's numbers of the lines
of the operand memory (log 73). -/
def Obligations.ErrorContainment : Prop :=
  ∀ (s : State) (c line x y die way channel : Nat) (sector : BitVec 2) (l : SliceLine) (p : BitVec 5),
    let k := s.core c
    let logged := fun (t : State) (e : BelineEvent) => { t with belineLog := t.belineLog ++ [e] }
    let n := 4 * line + sector.toNat
    let off := 32768 * Alu.ones (k.waymask.toNat % 2 ^ (line / 64)) 12 + line % 64 * 512
    let invalid := s.slices.map (fun z => if z.x = x ∧ z.y = y ∧ z.line = line then
      { z with valid := z.valid &&& ~~~(1#4 <<< sector.toNat), checks := mapErase z.checks sector.toNat } else z)
    let bad := s.slices.map (fun z => if z.x = x ∧ z.y = y ∧ z.line = line then { z with poison := z.poison ||| (1#4 <<< sector.toNat) } else z)
    let fails := fun (i : Instr) (on : Nat → Prop) => ∃ t, exec i s = .next t ∧
      ∀ d h g z, on d → (s.core d).vf ≠ none → ((s.core d).hart h).group = some g → s.launches.find? (fun x => x.id == g.launch) = some z → z.status = .completed →
        ∃ z', t.launches.find? (fun x => x.id == g.launch) = some z' ∧ z'.status = .failed
    let onDie := fun d => dieOf (keyX d) (keyY d) = die
    let inWay := fun (z : SliceLine) => z.x = x ∧ z.y = y ∧ z.way = way % 16
    let spareOf := fun (i : BitVec 5) => if i.toNat % 4 = 0 then 32 else 33
    let replaced := fun (k : ClusterSt) (p : Nat) =>
      { k with coreMap := k.coreMap.map (fun v => if v.toNat = p then k.spslot else v), spslot := 31, health := k.health &&& ~~~(1#17 <<< p) }
    (k.vf ≠ none → line % 512 = 0 → line < k.codesz.toNat →
      (line ∈ k.codeWritten → Becomes (.codeLineError c line) s ((logged s (.codeError c line)).modCore c (fun k => { k with codePoison := setAdd k.codePoison line }))) ∧
      (line ∉ k.codeWritten → Becomes (.codeLineError c line) s ((logged s (.codeError c line)).modCore c (fun k => { k with codeStall := setAdd k.codeStall line })))) ∧
    (line ∉ k.codeStall → Becomes (.codeRepair c line true) s s) ∧
    (line ∈ k.codeStall →
      Becomes (.codeRepair c line false) s (s.modCore c (fun k => { k with codeStall := k.codeStall.filter (fun z => z != line), codePoison := setAdd k.codePoison line })) ∧
      ∀ code, s.goodCode c = some code → ∃ t, exec (.codeRepair c line true) s = .next t ∧ t.mem = s.mem ∧ (t.core c).harts = k.harts ∧
        (t.core c).lmem = (k.putBytes line ((code.drop line).take 512)).lmem ∧ line ∉ (t.core c).codeStall ∧ (t.core c).codePoison = k.codePoison) ∧
    (k.vf ≠ none → line < 768 →
      Becomes (.scrub c line .clean) s s ∧ Becomes (.scrub c line .correctable) s (logged s (.corrected line)) ∧
      (bit k.waymask.toNat (line / 64) = true → k.codesz.toNat ≤ off →
        Becomes (.scrub c line (.uncorrectable sector)) s (logged (s.modCore c (fun k => { k with lpoison := setAdd k.lpoison n })) (.poisoned n))) ∧
      (bit k.waymask.toNat (line / 64) = false → ∃ t, exec (.scrub c line (.uncorrectable sector)) s = .next t ∧ (t.core c).lmem = k.lmem ∧ t.mem = s.mem ∧
        ∀ z ∈ k.cache,
          let hit := z.way = line / 64 ∧ z.addr / 512 % 64 = line % 64 ∧ z.addr / 128 % 4 = sector.toNat
          (¬hit → z ∈ (t.core c).cache) ∧ (hit → z.dirty ≠ 0 → { z with poison := true } ∈ (t.core c).cache) ∧
          (hit → z.dirty = 0 → z.poison = false → z ∉ (t.core c).cache))) ∧
    (s.lineAt x y line = some l → bit l.valid.toNat sector.toNat = true →
      (bit l.dirty.toNat sector.toNat = false → Becomes (.sliceError x y (.cleanSector line sector)) s (logged { s with slices := invalid } (.corrected (512 * line)))) ∧
      (bit l.dirty.toNat sector.toNat = true →
        Becomes (.sliceError x y (.dirtySector line sector)) s (logged { s with slices := bad } (.poisoned (512 * line + 128 * sector.toNat))))) ∧
    (∃ t, exec (.sliceError x y (.tag line (BitVec.ofNat 4 way))) s = .next t ∧ way % 16 ∈ (t.cluster x y).withdrawn ∧
      (∀ z ∈ t.slices, ¬inWay z) ∧
      (∀ z ∈ s.slices, (∀ z' ∈ s.slices, inWay z' → z.line ≠ z'.line) → z ∈ t.slices) ∧
      (∀ z ∈ s.slices, inWay z → sliceSet z.line = sliceSet line → ∀ i, i < 4 → 4 * z.line + i ∈ t.hbmPoison) ∧
      ∀ a, (∀ z ∈ s.slices, inWay z → z.line ≠ a / 512) → memByte t.mem a = memByte s.mem a) ∧
    Becomes (.sliceError x y (.corrected line)) s (logged s (.corrected (512 * line))) ∧
    (k.vf ≠ none → 768 ≤ line → line < 1280 → Becomes (.scrub c line (.uncorrectable sector)) s
      (logged (s.modCore c (fun k => { k with opPoison := setAdd k.opPoison (line - 768) })) (.poisoned line))) ∧
    fails (.coreFailure c) (fun d => d = c) ∧ fails (.columnFailure die) onDie ∧ fails (.dieOvertemp die) onDie ∧
    (∃ t, exec (.columnFailure die) s = .next t ∧ t.mem = s.mem ∧ (t.die die).outOfService = true ∧ ∀ d, d ≠ die → t.die d = s.die d) ∧
    (∃ t, exec (.dieOvertemp die) s = .next t ∧ t.mem = s.mem ∧ (t.die die).stopped = true ∧ ∀ d, d ≠ die → t.die d = s.die d) ∧
    (let z := s.cluster (keyX c) (keyY c)
     let spare := z.spslot.toNat < 17 ∧ z.spslot.toNat ≠ keyP c ∧ z.retiring = [] ∧ (∃ v, z.coreMap.get v = BitVec.ofNat 5 (keyP c))
     k.vf = none → spare →
       (∃ t, exec (.coreFailure c) s = .next t ∧ t.cluster (keyX c) (keyY c) = replaced z (keyP c) ∧ t.cores = s.cores) ∧
       (p.toNat < 17 → x < 256 → c = coreKey x y p.toNat →
         ∃ t, exec (.spareRemap (.core x y p)) s = .next t ∧ t.cluster x y = replaced z p.toNat ∧ t.cores = s.cores)) ∧
    ((s.die die).next p.toNat = spareOf p → (s.die die).col p.toNat ≠ spareOf p → Becomes (.spareRemap (.column die p)) s s) ∧
    Becomes (.spareRemap (.meshLane x y)) s (logged s (.laneReplaced (.meshLane x y))) ∧ Becomes (.hbmChannelCopy channel) s (logged s (.channelCopied channel)) ∧
    Becomes (.thermalThrottle die) s (s.modDie die (fun d => { d with clockSteps := d.clockSteps + 1 }))

/-- 23 R435, R437, R438, R441, R442; 21 R424, R425; 08 R187: a request of another module that its peer entry admits goes on as a request of
this module, another is answered with PROT, one whose target hosts no group of the partition with PROT before its offset is checked, one whose
address form fails with BOUNDS, and an atomic or an unsupported delivery is refused; a host's operation under a key of its own partition is performed whole in scratch, a message register or global memory, or
refused with nothing changed; poison never leaves. Global bytes are read and written at their homes, here within one sector; an unreadable table entry that refuses an
operation is logged (15 R335).
Which cause a refusal carries is the model's reading where the rules leave it open (log 48, 68). -/
def Obligations.OutsideRequests : Prop :=
  ∀ (s : State) (r : FabricReq) (o : HostOp) (data : List Byte) (len : Nat) (at_ : Spot) (off : Nat) (cause : BitVec 8),
    let p := s.part r.rvf
    let entry := mapGet p.peers r.module.toNat 0
    let isLoad := match r.kind with
      | .load _ => true
      | _ => false
    let admits := entry.msb = true ∧ bits entry.toNat 55 52 = r.senderVf.toNat ∧ (if isLoad = true then bit entry.toNat 61 else bit entry.toNat 62) = true
    let own : Word := BitVec.ofNat 64 (r.addr.toNat % 2 ^ 52 + 2 ^ 63 + 2047 * 2 ^ 52)
    let fab := fun (t : State) => Becomes (.fabricRequest r) s t
    let error := fun (x : BitVec 8) => ({ s with fabricOut := s.fabricOut ++ [FabricMsg.error r.module x] } : State)
    let goes := fun (src : Src) (cls : Machine.Class) (kind : ReqKind) (ea : Word) (vf : BitVec 4) =>
      let q : Req := { id := s.nextId, src := src, cls := cls, kind := kind, ea := ea, vf := vf, launch := 0, off := 0, prog := false, stage := .sent }
      { s with nextId := s.nextId + 1, net := s.net ++ [q] }
    let vf : BitVec 4 := BitVec.ofNat 4 (bits o.key.toNat 63 60)
    let told := fun (m : HostMsg) => { s with hostOut := s.hostOut ++ [m] }
    let refused := fun (x : BitVec 8) => told (.transportError o.endpoint x)
    let mine := (s.part vf).valid = true ∧ o.endpoint ∈ (s.part vf).endpoints
    let write : Instr := .hostRmaWrite o data
    let read : Instr := .hostRmaRead o len
    let supported := r.delivery = .rud ∧ ∀ n, r.kind ≠ .atomic n
    (¬supported → fab (error 0x04)) ∧
    (supported → (p.valid = false ∨ ¬admits) → fab (error 0x06)) ∧
    (supported → p.valid = true → admits →
      (s.placed r.rvf own = false → fab (error 0x04)) ∧
      (s.placed r.rvf own = true → s.hostsTarget r.rvf own = false → fab (error 0x06)) ∧
      (s.placed r.rvf own = true → s.hostsTarget r.rvf own = true →
        (formOk own (fabricShape r.kind).2.2.1 (fabricShape r.kind).2.2.2 = false → fab (error 0x04)) ∧
        (∀ data mask, r.kind = .masked data mask →
          (own.toNat % 16 = 0 → formOk own 16 false = true → fab (goes (.fabric r.module) .posted (.granule data mask 1) own r.rvf)) ∧
          (own.toNat % 16 ≠ 0 → fab (error 0x04))) ∧
        (∀ n, r.kind = .load n → 1 ≤ n → n ≤ 16 → formOk own n false = true → fab (goes (.fabric r.module) .request (.load n (.one 0 n false)) own r.rvf)) ∧
        (∀ bs rel, r.kind = .store bs rel → 1 ≤ bs.length → bs.length ≤ 16 → formOk own bs.length false = true →
          fab (goes (.fabric r.module) .posted (.store bs.length (BitVec.ofNat 128 (leOfBytes bs)) rel) own r.rvf)) ∧
        (∀ v, r.kind = .message v → formOk own 8 true = true → fab (goes (.fabric r.module) .message (.message v) own r.rvf)))) ∧
    (¬mine → Becomes write s (refused 0x06) ∧ Becomes read s (refused 0x06)) ∧
    (mine → o.atomic = true ∨ o.delivery ≠ .rud ∨ bits o.key.toNat 58 0 ≠ 0 → Becomes write s (refused 0x04) ∧ Becomes read s (refused 0x04)) ∧
    (mine → o.atomic = false → o.delivery = .rud → bits o.key.toNat 58 0 = 0 →
      (2 ^ 20 < data.length → Becomes write s (refused 0x04)) ∧ (2 ^ 20 < len → Becomes read s (refused 0x04)) ∧
      (data.length ≤ 2 ^ 20 → s.hostHeld o data.length = true → Becomes write s s) ∧ (len ≤ 2 ^ 20 → s.hostHeld o len = true → Becomes read s s) ∧
      (bit o.key.toNat 59 = true → s.hostHeld o data.length = false → s.hostHeld o len = false →
        (data.length ≤ 2 ^ 20 → namesWindow o.addr = false →
          (∀ x, s.hostSpot vf o.addr data.length true = .error x → Becomes write s (refused x)) ∧
          (s.hostSpot vf o.addr data.length true = .ok (at_, off) →
            Becomes write s ((s.putSpot vf at_ ((s.spotCore vf at_).swrite off data.length (leOfBytes data))).tellHost (.done o.endpoint)))) ∧
        (namesWindow o.addr = true → data.length ≤ 2 ^ 20 → s.namesHere o.addr = true → s.placed vf o.addr = true →
          (s.hostsTarget vf o.addr = false → Becomes write s (refused 0x06)) ∧
          (s.hostsTarget vf o.addr = true → data.length ≠ 8 → Becomes write s (refused 0x04))) ∧
        (data.length = 8 → namesWindow o.addr = true → formOk o.addr 8 true = true → s.namesHere o.addr = true → s.placed vf o.addr = true →
          s.hostsTarget vf o.addr = true → Becomes write s (goes (.host o.endpoint) .message (.message (BitVec.ofNat 64 (leOfBytes data)))
            (BitVec.ofNat 64 (o.addr.toNat % 2 ^ 52 + 2 ^ 63 + 2047 * 2 ^ 52)) vf)) ∧
        (len ≤ 2 ^ 20 → s.hostSpot vf o.addr len false = .ok (at_, off) →
          let k := s.spotCore vf at_
          Becomes read s (if k.spoisoned off len = true then refused 0x07 else told (.readData o.endpoint (bytesOfLE len (k.sread off len)))))) ∧
      (bit o.key.toNat 59 = false →
        let a := o.addr.toNat
        let need := fun (wr : Bool) => (⟨!wr, wr⟩ : Need)
        let here := fun (x y pa : Nat) => if s.sliceHit x y pa vf = true then s else (s.sliceFill x y pa vf).1
        let fails := fun (z : State) (x : BitVec 8) => z.tellHost (.transportError o.endpoint x)
        (data.length ≤ 2 ^ 20 → s.piecesFault vf (need true) (piecesOf a data.length) = some cause →
          Becomes write s (fails (s.piecesWalked vf (need true) (piecesOf a data.length)) cause)) ∧
        (len ≤ 2 ^ 20 → s.piecesFault vf (need false) (piecesOf a len) = some cause →
          Becomes read s (fails (s.piecesWalked vf (need false) (piecesOf a len)) cause)) ∧
        (1 ≤ data.length → a % 128 + data.length ≤ 128 → (s.part vf).doorbell ≠ some a →
          (s.homeOf vf a (need true) = .error cause → Becomes write s (fails (s.walked vf a) cause)) ∧
          (∀ x y pa, s.homeOf vf a (need true) = .ok (x, y, pa) → s.fillWaiters x y pa = [] →
            Becomes write s (((here x y pa).homeWrite x y pa data.length (leOfBytes data)).tellHost (.done o.endpoint)))) ∧
        (1 ≤ len → a % 128 + len ≤ 128 →
          (s.homeOf vf a (need false) = .error cause → Becomes read s (fails (s.walked vf a) cause)) ∧
          (∀ x y pa, s.homeOf vf a (need false) = .ok (x, y, pa) → s.fillWaiters x y pa = [] →
            let c := (here x y pa).checkedAt x y pa
            let v := c.homeRead x y pa len
            Becomes read s (if v.2 = true then c.tellHost (.transportError o.endpoint 0x07) else c.tellHost (.readData o.endpoint (bytesOfLE len v.1)))))))

/-- 02 R34 to R43; 11 R286; 24 R445, R447: decoding the word of a well-formed instruction gives it back, with every operand at every value
that its encoding admits, and so for the microwords of the sequencer.
24 R445: words that decode are well formed, and no two words decode to one instruction: encoding what a word decodes to gives the word back. -/
def Obligations.EncodingsAgree : Prop :=
  (∀ i : Instr, i.WellFormed → (∀ w, encode i = some w → decodeWord w = some i) ∧ (∀ w, encodeMicro i = some w → decodeMicro w = some i)) ∧
  (∀ i : Instr, (∀ w, decodeWord w = some i → i.WellFormed ∧ encode i = some w) ∧ (∀ w, decodeMicro w = some i → i.WellFormed ∧ encodeMicro i = some w))

/-- Words written in the spec decode to the instructions that it names: 02, 04, 05, 06, 08, 09, 10, 18, 19, 20. -/
def Obligations.DecodedWords : Prop :=
  decodeWord 0x00A11002 = some (.sub 5 1 2 0 0) ∧ decodeWord 0x00822C01 = some (.add 4 2 5 1 0) ∧ decodeWord 0x1864FFFF = some (.sltiu 3 4 0xFFFF) ∧
  decodeWord 0x24853066 = some (.fma 4 5 6 0 0 1 1) ∧ decodeWord 0x28859807 = some (.lcvt 4 5 1 3 0 0) ∧ decodeWord 0x2C643FFD = some (.bne 3 4 0x1FFD) ∧
  decodeWord 0x406419FF = some (.ld 3 4 1 4 0x1FF) ∧ decodeWord 0x4CA21602 = some (.ldp 5 2 1 3 2) ∧ decodeWord 0x58000009 = some (.fence 1) ∧
  decodeWord 0x5C643001 = some (.rbind 3 4 6) ∧ decodeWord 0x60C40102 = some (.barr 6 4 2) ∧ decodeWord 0x64A44002 = some (.rpop 5 4 8) ∧
  decodeWord 0x68062801 = some (.msend 6 5) ∧ decodeWord 0x6CE00009 = some (.bind 7 1) ∧ decodeWord 0x786115C0 = some (.vadd 3 1 2 0xB 1 0 0) ∧
  decodeWord 0x80242D82 = some (.vcmp 1 4 5 0xB 0 0 0 2) ∧ decodeWord 0x90A63985 = some (.mma 5 6 7 3) ∧ decodeWord 0xA0A00001 = some (.enext 5 0) ∧
  decodeWord 0xA8061011 = some (.wrc 6 0x011) ∧ decodeWord 0xF8001234 = some (.imx 0x1234) ∧ decodeWord 0xFC138002 = some (.hint 1 0x38002) ∧
  decodeWord 0x9D045102 = some (.ssload 8 4 10 2) ∧ decodeWord 0xA4A63801 = some (.launch 5 6 7) ∧ decodeWord 0xA4090003 = some (.exit 9) ∧
  decodeWord 0xA4000014 = some (.dsync 2)

/-- 01 R14, R16, R18, R24; 03 R75, R76; 06 R172, R176; 13 R317; 21 R412, R418: what a hart that starts for a group holds, what its core holds beside its image, and the
partitions after reset. The values of a descriptor's other fields and of the clusters are the model's (log 2, 4). -/
def Obligations.ResetValues : Prop :=
  (∀ (l : Launch) (p : Partition) (n i : Nat),
    let h := l.startHart p n i
    h.mode = .program ∧ h.full = 0 ∧ (∀ r, h.rm r = 0) ∧ (∀ r, h.rv r = 0) ∧ (∀ r, r ≠ 1 → r ≠ 2 → r ≠ 3 → r ≠ 28 → h.rg r = 0) ∧
    h.aflags = 0 ∧ h.trapen = 0 ∧ h.arec = 0 ∧ h.shape = 0x00080010 ∧ h.orsLocal = 0 ∧ h.orsFab = 0 ∧ h.xpc = 0 ∧ h.xcause = 0 ∧ h.xaddr = 0 ∧ h.xinfo = 0 ∧
    h.xvec = p.trapVector &&& 0x1FFFC ∧ h.sleepd = 0 ∧ h.rotpart = 0 ∧ (∀ k : Fin 4, h.cnt.get k = 0 ∧ h.cntsel.get k = 0 ∧ h.ibk.get k = 0) ∧
    (∀ k, (h.slot k).valid = false) ∧ h.rejLog = [] ∧ h.outst = [] ∧ h.group = some ⟨l.id, n, i⟩) ∧
  (∀ (l : Launch) (p : Partition) (v n k : Nat) (img : List Byte × List Byte) (e : Fin 5) (u : Fin 3),
    let c := l.newCore p v n k img
    c.cas.casst = 0 ∧ c.overflow = [] ∧ (∀ r : Fin 8, (c.regions.get r).valid = false) ∧ c.cache = [] ∧ ((c.issuers.get e).get u).seq = 0 ∧
    (∀ i : Fin 32, c.slotOwner.get i = none) ∧ c.matrix.queue = [] ∧ c.copy.queue = [] ∧ c.exponent.queue = []) ∧
  (∀ vf, let p := State.reset.part vf
    p.valid = false ∧ p.resident = false ∧ p.deadline = 2000 ∧ p.ckseq = 0 ∧ p.hm1 = 0 ∧ p.wm1 = 0 ∧ p.px0 = 0 ∧ p.py0 = 0 ∧ (∀ q, p.queue q = [])) ∧
  State.reset.launches = [] ∧ State.reset.net = [] ∧ State.reset.mem = [] ∧ (∀ c, (State.reset.core c).live = false)

/-- Every step keeps the memory of the module, that of 15 R327, in canonical form, so that equal memories are equal data.
The canonical form (`Memory.wf`) is no rule of the spec: it is the model's choice (log 3). -/
def Obligations.MemoryStaysCanonical : Prop :=
  ∀ s t : State, s.memOk → step s = .next t → t.memOk

/-- The memory of the module is in canonical form at reset; the form (`Memory.wf`) is the model's choice (log 3). -/
def Obligations.MemoryCanonicalAtReset : Prop :=
  State.reset.memOk

/-- 01 R15, R26, R27; 02 R34, R41; 05 R146; 06 R175, R176; 11 R281: a step in which a hart has the turn and nothing comes before its
instruction executes the instruction that its word at the pc decodes to, or the undefined encoding that the word is; the hart is then
the one that issued most recently. A queued message for an empty register of the hart is written before that (06 R156). A step of a sequencer executes the microword at UPC, a step of another agent its event. Around
each a step leaves no pc outside its code region: one that runs past the last word names that word, marked as passed, and the next
step of the hart finds the undefined encoding of the zero word there; that is the model's choice (log 24). A WAYSET that waits holds
accesses only while its hart is at it (08 R187).
12 R303; 08 R202: of two moves that fall into one cycle those of harts come before those of the sequencers, then completions of the copy
engine, then arrivals from other cores, then samples of BWAIT.
Which agent moves, and what falls into one cycle, is the agenda's, the model's own field (log 6). -/
def Obligations.StepRunsDecoded : Prop :=
  (∀ (s : State) (c : Nat) (h : BitVec 2) (ms : List Move) (i : Instr),
    let x := s.hartOf c h
    let k := s.core c
    let t : State := { s with agenda := ms, cur := ⟨c, h⟩ }
    let w := fetchWord k x x.pc.toNat
    let runs := fun (i : Instr) => step s = mapNext State.bounded (mapNext (t.noteIssue i) (exec i t))
    (s.agenda = .hart c h :: ms → s.atBoundary c h = true → x.block = none → k.overdue h = none → s.mayPass c h = false → x.due = none →
      t.firstReady c h = true → t.held = false → t.locked = false → t.inLines k.codeStall = none → t.inLines k.codePoison = none → t.breakpoint = none →
      (x.pastEnd = false → x.pc.toNat < k.codesz.toNat → (decodeWord w = some i → runs i) ∧ (decodeWord w = none → runs (.undefinedEncoding w))) ∧
      (x.pastEnd = true → runs (.undefinedEncoding 0))) ∧
    (s.agenda = .hart c h :: ms → k.live = true → x.block = none → ∀ q, k.overdue h = some q →
      step s = mapNext State.bounded (exec (.overflowDelivery c h q) { s with agenda := ms })) ∧
    (s.agenda = .sequencer c :: ms → k.seqReady = true → decodeMicro (mapGet k.cas.store k.cas.upc.toNat 0) = some i →
      step s = mapNext State.bounded (exec i { s with agenda := ms, cur := ⟨c, k.cas.starter⟩ })) ∧
    (s.agenda = .event i :: ms → isEvent i = true → step s = mapNext State.bounded (exec i { s with agenda := ms }))) ∧
  (∀ (t u : State) (i : Instr),
    (t.issued i u = true → t.noteIssue i u = u.modCore t.cur.core (fun k => { k with last := t.cur.hart })) ∧
    (t.issued i u = false → t.noteIssue i u = u)) ∧
  (∀ (u : State) (c : Nat) (h : BitVec 2),
    let n := (u.core c).codesz.toNat
    let x := { u.hartOf c h with stalled := (u.bounded.hartOf c h).stalled }
    u.bounded.mem = u.mem ∧ u.bounded.core c = { u.core c with harts := (u.bounded.core c).harts, wayWait := (u.bounded.core c).wayWait } ∧
    (n ≤ (u.hartOf c h).pc.toNat → n ≠ 0 → u.bounded.hartOf c h = { x with pc := BitVec.ofNat 64 (n - 4), pastEnd := true }) ∧
    ((u.hartOf c h).pc.toNat < n ∨ n = 0 → u.bounded.hartOf c h = x) ∧
    (∀ w, (u.bounded.core c).wayWait = some w ↔ (u.core c).wayWait = some w ∧ u.bounded.atWayset c w.1 = true)) ∧
  (∀ (s : State) (a b : Move) (ms : List Move), s.agenda = .cycle 2 :: a :: b :: ms →
    let u : State := { s with agenda := a :: b :: ms }
    step s = mapNext State.bounded (State.makeAll { s with agenda := ms } (if u.rank b < u.rank a then [b, a] else [a, b]))) ∧
  (∀ (s : State) (c d id : Nat) (h : BitVec 2) (i : Instr),
    (decodeWord (s.as c h).word = some i → s.rank (.hart c h) = match i with
      | .bwait _ _ => 4
      | _ => 0) ∧
    s.rank (.sequencer c) = 1 ∧ s.rank (.event (.engineCommandComplete d .copy)) = 2 ∧ s.rank (.event (.remoteScratchAccess id)) = 3 ∧
    s.rank (.event (.bwaitWake c h)) = 4)
end

