-- ==== Sys2Proof/Laws/Maps.lean ====
section
/-! SUPPORT. Sparse maps and byte memory: a read after a write, and the canonical form that every write keeps. -/

namespace Sys2Proof.Machine

variable {α : Type}

theorem vmap_eq {β : Type} {n : Nat} (f : α → β) (v : Vector α n) : vmap f v = v.map f := by
  apply Vector.toList_inj.mp; simp [vmap, Vector.toList, Array.toList_map]

theorem vmapIdx_eq {β : Type} {n : Nat} (f : Nat → α → β) (v : Vector α n) : vmapIdx f v = v.mapIdx f := by
  apply Vector.toList_inj.mp; simp [vmapIdx, Vector.toList, Array.toList_mapIdx]

@[simp] theorem getElem_vmap {β : Type} {n i : Nat} (f : α → β) (v : Vector α n) (h : i < n) : (vmap f v)[i] = f v[i] := by
  simp [vmap_eq]

@[simp] theorem getElem_vmapIdx {β : Type} {n i : Nat} (f : Nat → α → β) (v : Vector α n) (h : i < n) :
    (vmapIdx f v)[i] = f i v[i] := by simp [vmapIdx_eq]

theorem mapFind_mapSet_same (m : List (Nat × α)) (k : Nat) (v : α) : mapFind (mapSet m k v) k = some v := by
  induction m with
  | nil => simp [mapSet, mapFind]
  | cons e t ih =>
    obtain ⟨j, w⟩ := e
    simp only [mapSet]
    split
    · simp [mapFind]
    · split
      · simp [mapFind]
      · rename_i h1 h2; simp [mapFind, h1, h2, ih]

theorem mapFind_mapSet_other (m : List (Nat × α)) {k k' : Nat} (v : α) (h : k' ≠ k) :
    mapFind (mapSet m k v) k' = mapFind m k' := by
  induction m with
  | nil => simp only [mapSet, mapFind]; split <;> [omega; (split <;> rfl)]
  | cons e t ih =>
    obtain ⟨j, w⟩ := e
    simp only [mapSet]
    split
    · simp only [mapFind]
      split
      · omega
      · split
        · split
          · omega
          · split <;> [rfl; omega]
        · rfl
    · split
      · subst_vars; simp only [mapFind]
        split
        · omega
        · rfl
      · simp only [mapFind, ih]

@[simp] theorem mapGet_mapSet_same (m : List (Nat × α)) (k : Nat) (v d : α) : mapGet (mapSet m k v) k d = v := by
  simp [mapGet, mapFind_mapSet_same]

theorem mapGet_mapSet_other (m : List (Nat × α)) {k k' : Nat} (v d : α) (h : k' ≠ k) :
    mapGet (mapSet m k v) k' d = mapGet m k' d := by
  simp [mapGet, mapFind_mapSet_other _ _ h]

@[simp] theorem mapSet_mapSet_same (m : List (Nat × α)) (k : Nat) (v w : α) : mapSet (mapSet m k v) k w = mapSet m k w := by
  induction m with
  | nil => simp [mapSet]
  | cons e t ih =>
    obtain ⟨j, u⟩ := e
    simp only [mapSet]
    split
    · simp [mapSet]
    · split
      · simp [mapSet]
      · rename_i h1 h2; simp [mapSet, h1, h2, ih]

/-! Strictly rising keys. -/

theorem risingFrom_mono {m : List (Nat × α)} {a b : Nat} (h : risingFrom b m = true) (hab : a ≤ b) : risingFrom a m = true := by
  cases m with
  | nil => rfl
  | cons e t => simp only [risingFrom, Bool.and_eq_true, decide_eq_true_eq] at *; exact ⟨by omega, h.2⟩

theorem risingFrom_mapSet {m : List (Nat × α)} {n k : Nat} (v : α) (h : risingFrom n m = true) (hk : n ≤ k) :
    risingFrom n (mapSet m k v) = true := by
  induction m generalizing n with
  | nil => simp [mapSet, risingFrom, hk]
  | cons e t ih =>
    obtain ⟨j, w⟩ := e
    simp only [risingFrom, Bool.and_eq_true, decide_eq_true_eq] at h
    simp only [mapSet]
    split
    · simp only [risingFrom, Bool.and_eq_true, decide_eq_true_eq]; exact ⟨hk, by omega, h.2⟩
    · split
      · subst_vars; simp only [risingFrom, Bool.and_eq_true, decide_eq_true_eq]; exact ⟨hk, h.2⟩
      · simp only [risingFrom, Bool.and_eq_true, decide_eq_true_eq]; exact ⟨h.1, ih h.2 (by omega)⟩

theorem risingFrom_mapErase {m : List (Nat × α)} {n : Nat} (k : Nat) (h : risingFrom n m = true) : risingFrom n (mapErase m k) = true := by
  induction m generalizing n with
  | nil => rfl
  | cons e t ih =>
    obtain ⟨j, w⟩ := e
    have h' := h
    simp only [risingFrom, Bool.and_eq_true, decide_eq_true_eq] at h
    simp only [mapErase]
    split
    · exact h'
    · split
      · exact risingFrom_mono h.2 (by omega)
      · simp only [risingFrom, Bool.and_eq_true, decide_eq_true_eq]; exact ⟨h.1, ih h.2⟩

theorem all_mapSet {p : Nat × α → Bool} {m : List (Nat × α)} {k : Nat} {v : α} (h : m.all p = true) (hv : p (k, v) = true) :
    (mapSet m k v).all p = true := by
  induction m with
  | nil => simp [mapSet, hv]
  | cons e t ih =>
    obtain ⟨j, w⟩ := e
    simp only [List.all_cons, Bool.and_eq_true] at h
    simp only [mapSet]
    split
    · simp [hv, h.1, h.2]
    · split
      · simp [hv, h.2]
      · simp [h.1, ih h.2]

theorem all_mapErase {p : Nat × α → Bool} {m : List (Nat × α)} (k : Nat) (h : m.all p = true) : (mapErase m k).all p = true := by
  induction m with
  | nil => rfl
  | cons e t ih =>
    obtain ⟨j, w⟩ := e
    simp only [List.all_cons, Bool.and_eq_true] at h
    simp only [mapErase]
    split
    · simp [h.1, h.2]
    · split
      · exact h.2
      · simp [h.1, ih h.2]

/-! Byte memory. -/

theorem wf_nil : Memory.wf [] = true := rfl

theorem wf_memPut {m : List Host.Cell} (a : Nat) (b : Byte) (h : Memory.wf m = true) : Memory.wf (memPut m a b) = true := by
  simp only [Memory.wf, Bool.and_eq_true] at *
  unfold memPut
  split
  · exact ⟨risingFrom_mapErase a h.1, all_mapErase a h.2⟩
  · rename_i hb; exact ⟨risingFrom_mapSet b h.1 (Nat.zero_le a), all_mapSet h.2 (bne_iff_ne.mpr hb)⟩

theorem wf_memPutLE {m : List Host.Cell} (a n v : Nat) (h : Memory.wf m = true) : Memory.wf (memPutLE m a n v) = true := by
  induction n generalizing m a v with
  | zero => exact h
  | succ n ih => exact ih _ _ (wf_memPut a _ h)

theorem wf_memPutMask {m : List Host.Cell} (a n mask v : Nat) (h : Memory.wf m = true) : Memory.wf (memPutMask m a n mask v) = true := by
  induction n generalizing m a mask v with
  | zero => exact h
  | succ n ih =>
    refine ih _ _ _ ?_
    split
    · exact wf_memPut a _ h
    · exact h

theorem wf_memPutBytes {m : List Host.Cell} (a : Nat) (bs : List Byte) (h : Memory.wf m = true) : Memory.wf (memPutBytes m a bs) = true := by
  induction bs generalizing m a with
  | nil => exact h
  | cons b bs ih => exact ih _ (wf_memPut a b h)

theorem risingFrom_filter {m : List (Nat × α)} {n : Nat} (p : Nat × α → Bool) (h : risingFrom n m = true) : risingFrom n (m.filter p) = true := by
  induction m generalizing n with
  | nil => rfl
  | cons e t ih =>
    obtain ⟨j, w⟩ := e
    simp only [risingFrom, Bool.and_eq_true, decide_eq_true_eq] at h
    simp only [List.filter_cons]
    split
    · simp only [risingFrom, Bool.and_eq_true, decide_eq_true_eq]; exact ⟨h.1, ih h.2⟩
    · exact risingFrom_mono (ih h.2) (by omega)

theorem wf_memClear {m : List Host.Cell} (a n : Nat) (h : Memory.wf m = true) : Memory.wf (memClear m a n) = true := by
  simp only [Memory.wf, Bool.and_eq_true] at *
  refine ⟨risingFrom_filter _ h.1, ?_⟩
  simp only [memClear, List.all_eq_true, List.mem_filter] at *
  exact fun x hx => h.2 x hx.1

theorem mapFind_none_of_rising {m : List (Nat × α)} {n k : Nat} (h : risingFrom n m = true) (hk : k < n) : mapFind m k = none := by
  cases m with
  | nil => rfl
  | cons e t =>
    obtain ⟨j, w⟩ := e
    simp only [risingFrom, Bool.and_eq_true, decide_eq_true_eq] at h
    simp only [mapFind]
    split
    · omega
    · split <;> [rfl; omega]

theorem mapFind_mapErase_same {m : List (Nat × α)} {n : Nat} (k : Nat) (h : risingFrom n m = true) : mapFind (mapErase m k) k = none := by
  induction m generalizing n with
  | nil => rfl
  | cons e t ih =>
    obtain ⟨j, w⟩ := e
    simp only [risingFrom, Bool.and_eq_true, decide_eq_true_eq] at h
    simp only [mapErase]
    split
    · rename_i hk; simp [mapFind, hk, show ¬ j = k by omega]
    · split
      · exact mapFind_none_of_rising h.2 (by omega)
      · rename_i h1 h2; simp [mapFind, h1, h2, ih h.2]

theorem mapFind_mapErase_other {m : List (Nat × α)} {n k k' : Nat} (h : risingFrom n m = true) (hk : k' ≠ k) :
    mapFind (mapErase m k) k' = mapFind m k' := by
  induction m generalizing n with
  | nil => rfl
  | cons e t ih =>
    obtain ⟨j, w⟩ := e
    simp only [risingFrom, Bool.and_eq_true, decide_eq_true_eq] at h
    simp only [mapErase]
    split
    · rfl
    · split
      · subst_vars
        simp only [mapFind]
        split
        · omega
        · split
          · exact mapFind_none_of_rising h.2 (by omega)
          · rfl
      · simp only [mapFind, ih h.2]

theorem memByte_memPut_same {m : List Host.Cell} (a : Nat) (b : Byte) (h : Memory.wf m = true) : memByte (memPut m a b) a = b := by
  simp only [Memory.wf, Bool.and_eq_true] at h
  unfold memPut memByte
  split
  · simp [mapGet, mapFind_mapErase_same a h.1, *]
  · simp

theorem memByte_memPut_other {m : List Host.Cell} {a a' : Nat} (b : Byte) (h : Memory.wf m = true) (ha : a' ≠ a) :
    memByte (memPut m a b) a' = memByte m a' := by
  simp only [Memory.wf, Bool.and_eq_true] at h
  unfold memPut memByte
  split
  · simp [mapGet, mapFind_mapErase_other h.1 ha]
  · exact mapGet_mapSet_other _ _ _ ha

/-- A write of n bytes leaves every byte outside them alone. -/
theorem memByte_memPutLE_other {m : List Host.Cell} {a a' n : Nat} (v : Nat) (h : Memory.wf m = true) (ha : a' < a ∨ a + n ≤ a') :
    memByte (memPutLE m a n v) a' = memByte m a' := by
  induction n generalizing m a v with
  | zero => rfl
  | succ n ih =>
    simp only [memPutLE]
    rw [ih _ (wf_memPut a _ h) (by omega), memByte_memPut_other _ h (by omega)]

/-- A read of the n bytes just written gives the low n bytes of the value. -/
theorem memLE_memPutLE {m : List Host.Cell} (a n v : Nat) (h : Memory.wf m = true) : memLE (memPutLE m a n v) a n = v % 2 ^ (8 * n) := by
  induction n generalizing m a v with
  | zero => simp [memLE, Nat.mod_one]
  | succ n ih =>
    simp only [memLE, memPutLE]
    rw [ih _ _ (wf_memPut a _ h), memByte_memPutLE_other _ (wf_memPut a _ h) (by omega), memByte_memPut_same a _ h]
    simp only [BitVec.toNat_ofNat]
    rw [show 8 * (n + 1) = 8 + 8 * n by omega, Nat.pow_add, Nat.mod_mul]

end Sys2Proof.Machine
end

