-- ==== Sys2Proof/Laws/State.lean ====
section
/-! SUPPORT. What an update of the state leaves alone, one lemma per field and update, and what it writes. -/

namespace Sys2Proof.Machine

/-! setCore -/

@[simp] theorem State.setCore_cur (s : State) (c : Nat) (k : Core) : (s.setCore c k).cur = s.cur := rfl
@[simp] theorem State.setCore_mem (s : State) (c : Nat) (k : Core) : (s.setCore c k).mem = s.mem := rfl
@[simp] theorem State.setCore_checks (s : State) (c : Nat) (k : Core) : (s.setCore c k).checks = s.checks := rfl
@[simp] theorem State.setCore_areas (s : State) (c : Nat) (k : Core) : (s.setCore c k).areas = s.areas := rfl
@[simp] theorem State.setCore_hbmPoison (s : State) (c : Nat) (k : Core) : (s.setCore c k).hbmPoison = s.hbmPoison := rfl
@[simp] theorem State.setCore_slices (s : State) (c : Nat) (k : Core) : (s.setCore c k).slices = s.slices := rfl
@[simp] theorem State.setCore_trans (s : State) (c : Nat) (k : Core) : (s.setCore c k).trans = s.trans := rfl
@[simp] theorem State.setCore_net (s : State) (c : Nat) (k : Core) : (s.setCore c k).net = s.net := rfl
@[simp] theorem State.setCore_clusters (s : State) (c : Nat) (k : Core) : (s.setCore c k).clusters = s.clusters := rfl
@[simp] theorem State.setCore_dies (s : State) (c : Nat) (k : Core) : (s.setCore c k).dies = s.dies := rfl
@[simp] theorem State.setCore_partitions (s : State) (c : Nat) (k : Core) : (s.setCore c k).partitions = s.partitions := rfl
@[simp] theorem State.setCore_launches (s : State) (c : Nat) (k : Core) : (s.setCore c k).launches = s.launches := rfl
@[simp] theorem State.setCore_fabricNo (s : State) (c : Nat) (k : Core) : (s.setCore c k).fabricNo = s.fabricNo := rfl
@[simp] theorem State.setCore_booted (s : State) (c : Nat) (k : Core) : (s.setCore c k).booted = s.booted := rfl
@[simp] theorem State.setCore_firmware (s : State) (c : Nat) (k : Core) : (s.setCore c k).firmware = s.firmware := rfl
@[simp] theorem State.setCore_measured (s : State) (c : Nat) (k : Core) : (s.setCore c k).measured = s.measured := rfl
@[simp] theorem State.setCore_sleepCeiling (s : State) (c : Nat) (k : Core) : (s.setCore c k).sleepCeiling = s.sleepCeiling := rfl
@[simp] theorem State.setCore_belineLog (s : State) (c : Nat) (k : Core) : (s.setCore c k).belineLog = s.belineLog := rfl
@[simp] theorem State.setCore_hostOut (s : State) (c : Nat) (k : Core) : (s.setCore c k).hostOut = s.hostOut := rfl
@[simp] theorem State.setCore_fabricOut (s : State) (c : Nat) (k : Core) : (s.setCore c k).fabricOut = s.fabricOut := rfl
@[simp] theorem State.setCore_order (s : State) (c : Nat) (k : Core) : (s.setCore c k).order = s.order := rfl
@[simp] theorem State.setCore_nextId (s : State) (c : Nat) (k : Core) : (s.setCore c k).nextId = s.nextId := rfl
@[simp] theorem State.setCore_freeCtr (s : State) (c : Nat) (k : Core) : (s.setCore c k).freeCtr = s.freeCtr := rfl
@[simp] theorem State.setCore_agenda (s : State) (c : Nat) (k : Core) : (s.setCore c k).agenda = s.agenda := rfl
@[simp] theorem State.setCore_hartTurn (s : State) (c : Nat) (k : Core) : (s.setCore c k).hartTurn = s.hartTurn := rfl
@[simp] theorem State.setCore_focus (s : State) (c : Nat) (k : Core) : (s.setCore c k).focus = s.focus := rfl

/-! modCore -/

@[simp] theorem State.modCore_cur (s : State) (c : Nat) (f : Core → Core) : (s.modCore c f).cur = s.cur := rfl
@[simp] theorem State.modCore_mem (s : State) (c : Nat) (f : Core → Core) : (s.modCore c f).mem = s.mem := rfl
@[simp] theorem State.modCore_checks (s : State) (c : Nat) (f : Core → Core) : (s.modCore c f).checks = s.checks := rfl
@[simp] theorem State.modCore_areas (s : State) (c : Nat) (f : Core → Core) : (s.modCore c f).areas = s.areas := rfl
@[simp] theorem State.modCore_hbmPoison (s : State) (c : Nat) (f : Core → Core) : (s.modCore c f).hbmPoison = s.hbmPoison := rfl
@[simp] theorem State.modCore_slices (s : State) (c : Nat) (f : Core → Core) : (s.modCore c f).slices = s.slices := rfl
@[simp] theorem State.modCore_trans (s : State) (c : Nat) (f : Core → Core) : (s.modCore c f).trans = s.trans := rfl
@[simp] theorem State.modCore_net (s : State) (c : Nat) (f : Core → Core) : (s.modCore c f).net = s.net := rfl
@[simp] theorem State.modCore_clusters (s : State) (c : Nat) (f : Core → Core) : (s.modCore c f).clusters = s.clusters := rfl
@[simp] theorem State.modCore_dies (s : State) (c : Nat) (f : Core → Core) : (s.modCore c f).dies = s.dies := rfl
@[simp] theorem State.modCore_partitions (s : State) (c : Nat) (f : Core → Core) : (s.modCore c f).partitions = s.partitions := rfl
@[simp] theorem State.modCore_launches (s : State) (c : Nat) (f : Core → Core) : (s.modCore c f).launches = s.launches := rfl
@[simp] theorem State.modCore_fabricNo (s : State) (c : Nat) (f : Core → Core) : (s.modCore c f).fabricNo = s.fabricNo := rfl
@[simp] theorem State.modCore_booted (s : State) (c : Nat) (f : Core → Core) : (s.modCore c f).booted = s.booted := rfl
@[simp] theorem State.modCore_firmware (s : State) (c : Nat) (f : Core → Core) : (s.modCore c f).firmware = s.firmware := rfl
@[simp] theorem State.modCore_measured (s : State) (c : Nat) (f : Core → Core) : (s.modCore c f).measured = s.measured := rfl
@[simp] theorem State.modCore_sleepCeiling (s : State) (c : Nat) (f : Core → Core) : (s.modCore c f).sleepCeiling = s.sleepCeiling := rfl
@[simp] theorem State.modCore_belineLog (s : State) (c : Nat) (f : Core → Core) : (s.modCore c f).belineLog = s.belineLog := rfl
@[simp] theorem State.modCore_hostOut (s : State) (c : Nat) (f : Core → Core) : (s.modCore c f).hostOut = s.hostOut := rfl
@[simp] theorem State.modCore_fabricOut (s : State) (c : Nat) (f : Core → Core) : (s.modCore c f).fabricOut = s.fabricOut := rfl
@[simp] theorem State.modCore_order (s : State) (c : Nat) (f : Core → Core) : (s.modCore c f).order = s.order := rfl
@[simp] theorem State.modCore_nextId (s : State) (c : Nat) (f : Core → Core) : (s.modCore c f).nextId = s.nextId := rfl
@[simp] theorem State.modCore_freeCtr (s : State) (c : Nat) (f : Core → Core) : (s.modCore c f).freeCtr = s.freeCtr := rfl
@[simp] theorem State.modCore_agenda (s : State) (c : Nat) (f : Core → Core) : (s.modCore c f).agenda = s.agenda := rfl
@[simp] theorem State.modCore_hartTurn (s : State) (c : Nat) (f : Core → Core) : (s.modCore c f).hartTurn = s.hartTurn := rfl
@[simp] theorem State.modCore_focus (s : State) (c : Nat) (f : Core → Core) : (s.modCore c f).focus = s.focus := rfl

/-! modHart -/

@[simp] theorem State.modHart_cur (s : State) (c : Nat) (h : BitVec 2) (f : Hart → Hart) : (s.modHart c h f).cur = s.cur := rfl
@[simp] theorem State.modHart_mem (s : State) (c : Nat) (h : BitVec 2) (f : Hart → Hart) : (s.modHart c h f).mem = s.mem := rfl
@[simp] theorem State.modHart_checks (s : State) (c : Nat) (h : BitVec 2) (f : Hart → Hart) : (s.modHart c h f).checks = s.checks := rfl
@[simp] theorem State.modHart_areas (s : State) (c : Nat) (h : BitVec 2) (f : Hart → Hart) : (s.modHart c h f).areas = s.areas := rfl
@[simp] theorem State.modHart_hbmPoison (s : State) (c : Nat) (h : BitVec 2) (f : Hart → Hart) : (s.modHart c h f).hbmPoison = s.hbmPoison := rfl
@[simp] theorem State.modHart_slices (s : State) (c : Nat) (h : BitVec 2) (f : Hart → Hart) : (s.modHart c h f).slices = s.slices := rfl
@[simp] theorem State.modHart_trans (s : State) (c : Nat) (h : BitVec 2) (f : Hart → Hart) : (s.modHart c h f).trans = s.trans := rfl
@[simp] theorem State.modHart_net (s : State) (c : Nat) (h : BitVec 2) (f : Hart → Hart) : (s.modHart c h f).net = s.net := rfl
@[simp] theorem State.modHart_clusters (s : State) (c : Nat) (h : BitVec 2) (f : Hart → Hart) : (s.modHart c h f).clusters = s.clusters := rfl
@[simp] theorem State.modHart_dies (s : State) (c : Nat) (h : BitVec 2) (f : Hart → Hart) : (s.modHart c h f).dies = s.dies := rfl
@[simp] theorem State.modHart_partitions (s : State) (c : Nat) (h : BitVec 2) (f : Hart → Hart) : (s.modHart c h f).partitions = s.partitions := rfl
@[simp] theorem State.modHart_launches (s : State) (c : Nat) (h : BitVec 2) (f : Hart → Hart) : (s.modHart c h f).launches = s.launches := rfl
@[simp] theorem State.modHart_fabricNo (s : State) (c : Nat) (h : BitVec 2) (f : Hart → Hart) : (s.modHart c h f).fabricNo = s.fabricNo := rfl
@[simp] theorem State.modHart_booted (s : State) (c : Nat) (h : BitVec 2) (f : Hart → Hart) : (s.modHart c h f).booted = s.booted := rfl
@[simp] theorem State.modHart_firmware (s : State) (c : Nat) (h : BitVec 2) (f : Hart → Hart) : (s.modHart c h f).firmware = s.firmware := rfl
@[simp] theorem State.modHart_measured (s : State) (c : Nat) (h : BitVec 2) (f : Hart → Hart) : (s.modHart c h f).measured = s.measured := rfl
@[simp] theorem State.modHart_sleepCeiling (s : State) (c : Nat) (h : BitVec 2) (f : Hart → Hart) : (s.modHart c h f).sleepCeiling = s.sleepCeiling := rfl
@[simp] theorem State.modHart_belineLog (s : State) (c : Nat) (h : BitVec 2) (f : Hart → Hart) : (s.modHart c h f).belineLog = s.belineLog := rfl
@[simp] theorem State.modHart_hostOut (s : State) (c : Nat) (h : BitVec 2) (f : Hart → Hart) : (s.modHart c h f).hostOut = s.hostOut := rfl
@[simp] theorem State.modHart_fabricOut (s : State) (c : Nat) (h : BitVec 2) (f : Hart → Hart) : (s.modHart c h f).fabricOut = s.fabricOut := rfl
@[simp] theorem State.modHart_order (s : State) (c : Nat) (h : BitVec 2) (f : Hart → Hart) : (s.modHart c h f).order = s.order := rfl
@[simp] theorem State.modHart_nextId (s : State) (c : Nat) (h : BitVec 2) (f : Hart → Hart) : (s.modHart c h f).nextId = s.nextId := rfl
@[simp] theorem State.modHart_freeCtr (s : State) (c : Nat) (h : BitVec 2) (f : Hart → Hart) : (s.modHart c h f).freeCtr = s.freeCtr := rfl
@[simp] theorem State.modHart_agenda (s : State) (c : Nat) (h : BitVec 2) (f : Hart → Hart) : (s.modHart c h f).agenda = s.agenda := rfl
@[simp] theorem State.modHart_hartTurn (s : State) (c : Nat) (h : BitVec 2) (f : Hart → Hart) : (s.modHart c h f).hartTurn = s.hartTurn := rfl
@[simp] theorem State.modHart_focus (s : State) (c : Nat) (h : BitVec 2) (f : Hart → Hart) : (s.modHart c h f).focus = s.focus := rfl

/-! mapCore -/

@[simp] theorem State.mapCore_cur (s : State) (f : Core → Core) : (s.mapCore f).cur = s.cur := rfl
@[simp] theorem State.mapCore_mem (s : State) (f : Core → Core) : (s.mapCore f).mem = s.mem := rfl
@[simp] theorem State.mapCore_checks (s : State) (f : Core → Core) : (s.mapCore f).checks = s.checks := rfl
@[simp] theorem State.mapCore_areas (s : State) (f : Core → Core) : (s.mapCore f).areas = s.areas := rfl
@[simp] theorem State.mapCore_hbmPoison (s : State) (f : Core → Core) : (s.mapCore f).hbmPoison = s.hbmPoison := rfl
@[simp] theorem State.mapCore_slices (s : State) (f : Core → Core) : (s.mapCore f).slices = s.slices := rfl
@[simp] theorem State.mapCore_trans (s : State) (f : Core → Core) : (s.mapCore f).trans = s.trans := rfl
@[simp] theorem State.mapCore_net (s : State) (f : Core → Core) : (s.mapCore f).net = s.net := rfl
@[simp] theorem State.mapCore_clusters (s : State) (f : Core → Core) : (s.mapCore f).clusters = s.clusters := rfl
@[simp] theorem State.mapCore_dies (s : State) (f : Core → Core) : (s.mapCore f).dies = s.dies := rfl
@[simp] theorem State.mapCore_partitions (s : State) (f : Core → Core) : (s.mapCore f).partitions = s.partitions := rfl
@[simp] theorem State.mapCore_launches (s : State) (f : Core → Core) : (s.mapCore f).launches = s.launches := rfl
@[simp] theorem State.mapCore_fabricNo (s : State) (f : Core → Core) : (s.mapCore f).fabricNo = s.fabricNo := rfl
@[simp] theorem State.mapCore_booted (s : State) (f : Core → Core) : (s.mapCore f).booted = s.booted := rfl
@[simp] theorem State.mapCore_firmware (s : State) (f : Core → Core) : (s.mapCore f).firmware = s.firmware := rfl
@[simp] theorem State.mapCore_measured (s : State) (f : Core → Core) : (s.mapCore f).measured = s.measured := rfl
@[simp] theorem State.mapCore_sleepCeiling (s : State) (f : Core → Core) : (s.mapCore f).sleepCeiling = s.sleepCeiling := rfl
@[simp] theorem State.mapCore_belineLog (s : State) (f : Core → Core) : (s.mapCore f).belineLog = s.belineLog := rfl
@[simp] theorem State.mapCore_hostOut (s : State) (f : Core → Core) : (s.mapCore f).hostOut = s.hostOut := rfl
@[simp] theorem State.mapCore_fabricOut (s : State) (f : Core → Core) : (s.mapCore f).fabricOut = s.fabricOut := rfl
@[simp] theorem State.mapCore_order (s : State) (f : Core → Core) : (s.mapCore f).order = s.order := rfl
@[simp] theorem State.mapCore_nextId (s : State) (f : Core → Core) : (s.mapCore f).nextId = s.nextId := rfl
@[simp] theorem State.mapCore_freeCtr (s : State) (f : Core → Core) : (s.mapCore f).freeCtr = s.freeCtr := rfl
@[simp] theorem State.mapCore_agenda (s : State) (f : Core → Core) : (s.mapCore f).agenda = s.agenda := rfl
@[simp] theorem State.mapCore_hartTurn (s : State) (f : Core → Core) : (s.mapCore f).hartTurn = s.hartTurn := rfl
@[simp] theorem State.mapCore_focus (s : State) (f : Core → Core) : (s.mapCore f).focus = s.focus := rfl

/-! mapHart -/

@[simp] theorem State.mapHart_cur (s : State) (f : Hart → Hart) : (s.mapHart f).cur = s.cur := rfl
@[simp] theorem State.mapHart_mem (s : State) (f : Hart → Hart) : (s.mapHart f).mem = s.mem := rfl
@[simp] theorem State.mapHart_checks (s : State) (f : Hart → Hart) : (s.mapHart f).checks = s.checks := rfl
@[simp] theorem State.mapHart_areas (s : State) (f : Hart → Hart) : (s.mapHart f).areas = s.areas := rfl
@[simp] theorem State.mapHart_hbmPoison (s : State) (f : Hart → Hart) : (s.mapHart f).hbmPoison = s.hbmPoison := rfl
@[simp] theorem State.mapHart_slices (s : State) (f : Hart → Hart) : (s.mapHart f).slices = s.slices := rfl
@[simp] theorem State.mapHart_trans (s : State) (f : Hart → Hart) : (s.mapHart f).trans = s.trans := rfl
@[simp] theorem State.mapHart_net (s : State) (f : Hart → Hart) : (s.mapHart f).net = s.net := rfl
@[simp] theorem State.mapHart_clusters (s : State) (f : Hart → Hart) : (s.mapHart f).clusters = s.clusters := rfl
@[simp] theorem State.mapHart_dies (s : State) (f : Hart → Hart) : (s.mapHart f).dies = s.dies := rfl
@[simp] theorem State.mapHart_partitions (s : State) (f : Hart → Hart) : (s.mapHart f).partitions = s.partitions := rfl
@[simp] theorem State.mapHart_launches (s : State) (f : Hart → Hart) : (s.mapHart f).launches = s.launches := rfl
@[simp] theorem State.mapHart_fabricNo (s : State) (f : Hart → Hart) : (s.mapHart f).fabricNo = s.fabricNo := rfl
@[simp] theorem State.mapHart_booted (s : State) (f : Hart → Hart) : (s.mapHart f).booted = s.booted := rfl
@[simp] theorem State.mapHart_firmware (s : State) (f : Hart → Hart) : (s.mapHart f).firmware = s.firmware := rfl
@[simp] theorem State.mapHart_measured (s : State) (f : Hart → Hart) : (s.mapHart f).measured = s.measured := rfl
@[simp] theorem State.mapHart_sleepCeiling (s : State) (f : Hart → Hart) : (s.mapHart f).sleepCeiling = s.sleepCeiling := rfl
@[simp] theorem State.mapHart_belineLog (s : State) (f : Hart → Hart) : (s.mapHart f).belineLog = s.belineLog := rfl
@[simp] theorem State.mapHart_hostOut (s : State) (f : Hart → Hart) : (s.mapHart f).hostOut = s.hostOut := rfl
@[simp] theorem State.mapHart_fabricOut (s : State) (f : Hart → Hart) : (s.mapHart f).fabricOut = s.fabricOut := rfl
@[simp] theorem State.mapHart_order (s : State) (f : Hart → Hart) : (s.mapHart f).order = s.order := rfl
@[simp] theorem State.mapHart_nextId (s : State) (f : Hart → Hart) : (s.mapHart f).nextId = s.nextId := rfl
@[simp] theorem State.mapHart_freeCtr (s : State) (f : Hart → Hart) : (s.mapHart f).freeCtr = s.freeCtr := rfl
@[simp] theorem State.mapHart_agenda (s : State) (f : Hart → Hart) : (s.mapHart f).agenda = s.agenda := rfl
@[simp] theorem State.mapHart_hartTurn (s : State) (f : Hart → Hart) : (s.mapHart f).hartTurn = s.hartTurn := rfl
@[simp] theorem State.mapHart_focus (s : State) (f : Hart → Hart) : (s.mapHart f).focus = s.focus := rfl

/-! setPart -/

@[simp] theorem State.setPart_cores (s : State) (vf : BitVec 4) (p : Partition) : (s.setPart vf p).cores = s.cores := rfl
@[simp] theorem State.setPart_cur (s : State) (vf : BitVec 4) (p : Partition) : (s.setPart vf p).cur = s.cur := rfl
@[simp] theorem State.setPart_mem (s : State) (vf : BitVec 4) (p : Partition) : (s.setPart vf p).mem = s.mem := rfl
@[simp] theorem State.setPart_checks (s : State) (vf : BitVec 4) (p : Partition) : (s.setPart vf p).checks = s.checks := rfl
@[simp] theorem State.setPart_areas (s : State) (vf : BitVec 4) (p : Partition) : (s.setPart vf p).areas = s.areas := rfl
@[simp] theorem State.setPart_hbmPoison (s : State) (vf : BitVec 4) (p : Partition) : (s.setPart vf p).hbmPoison = s.hbmPoison := rfl
@[simp] theorem State.setPart_slices (s : State) (vf : BitVec 4) (p : Partition) : (s.setPart vf p).slices = s.slices := rfl
@[simp] theorem State.setPart_trans (s : State) (vf : BitVec 4) (p : Partition) : (s.setPart vf p).trans = s.trans := rfl
@[simp] theorem State.setPart_net (s : State) (vf : BitVec 4) (p : Partition) : (s.setPart vf p).net = s.net := rfl
@[simp] theorem State.setPart_clusters (s : State) (vf : BitVec 4) (p : Partition) : (s.setPart vf p).clusters = s.clusters := rfl
@[simp] theorem State.setPart_dies (s : State) (vf : BitVec 4) (p : Partition) : (s.setPart vf p).dies = s.dies := rfl
@[simp] theorem State.setPart_launches (s : State) (vf : BitVec 4) (p : Partition) : (s.setPart vf p).launches = s.launches := rfl
@[simp] theorem State.setPart_fabricNo (s : State) (vf : BitVec 4) (p : Partition) : (s.setPart vf p).fabricNo = s.fabricNo := rfl
@[simp] theorem State.setPart_booted (s : State) (vf : BitVec 4) (p : Partition) : (s.setPart vf p).booted = s.booted := rfl
@[simp] theorem State.setPart_firmware (s : State) (vf : BitVec 4) (p : Partition) : (s.setPart vf p).firmware = s.firmware := rfl
@[simp] theorem State.setPart_measured (s : State) (vf : BitVec 4) (p : Partition) : (s.setPart vf p).measured = s.measured := rfl
@[simp] theorem State.setPart_sleepCeiling (s : State) (vf : BitVec 4) (p : Partition) : (s.setPart vf p).sleepCeiling = s.sleepCeiling := rfl
@[simp] theorem State.setPart_belineLog (s : State) (vf : BitVec 4) (p : Partition) : (s.setPart vf p).belineLog = s.belineLog := rfl
@[simp] theorem State.setPart_hostOut (s : State) (vf : BitVec 4) (p : Partition) : (s.setPart vf p).hostOut = s.hostOut := rfl
@[simp] theorem State.setPart_fabricOut (s : State) (vf : BitVec 4) (p : Partition) : (s.setPart vf p).fabricOut = s.fabricOut := rfl
@[simp] theorem State.setPart_order (s : State) (vf : BitVec 4) (p : Partition) : (s.setPart vf p).order = s.order := rfl
@[simp] theorem State.setPart_nextId (s : State) (vf : BitVec 4) (p : Partition) : (s.setPart vf p).nextId = s.nextId := rfl
@[simp] theorem State.setPart_freeCtr (s : State) (vf : BitVec 4) (p : Partition) : (s.setPart vf p).freeCtr = s.freeCtr := rfl
@[simp] theorem State.setPart_agenda (s : State) (vf : BitVec 4) (p : Partition) : (s.setPart vf p).agenda = s.agenda := rfl
@[simp] theorem State.setPart_hartTurn (s : State) (vf : BitVec 4) (p : Partition) : (s.setPart vf p).hartTurn = s.hartTurn := rfl
@[simp] theorem State.setPart_focus (s : State) (vf : BitVec 4) (p : Partition) : (s.setPart vf p).focus = s.focus := rfl

/-! modPart -/

@[simp] theorem State.modPart_cores (s : State) (vf : BitVec 4) (f : Partition → Partition) : (s.modPart vf f).cores = s.cores := rfl
@[simp] theorem State.modPart_cur (s : State) (vf : BitVec 4) (f : Partition → Partition) : (s.modPart vf f).cur = s.cur := rfl
@[simp] theorem State.modPart_mem (s : State) (vf : BitVec 4) (f : Partition → Partition) : (s.modPart vf f).mem = s.mem := rfl
@[simp] theorem State.modPart_checks (s : State) (vf : BitVec 4) (f : Partition → Partition) : (s.modPart vf f).checks = s.checks := rfl
@[simp] theorem State.modPart_areas (s : State) (vf : BitVec 4) (f : Partition → Partition) : (s.modPart vf f).areas = s.areas := rfl
@[simp] theorem State.modPart_hbmPoison (s : State) (vf : BitVec 4) (f : Partition → Partition) : (s.modPart vf f).hbmPoison = s.hbmPoison := rfl
@[simp] theorem State.modPart_slices (s : State) (vf : BitVec 4) (f : Partition → Partition) : (s.modPart vf f).slices = s.slices := rfl
@[simp] theorem State.modPart_trans (s : State) (vf : BitVec 4) (f : Partition → Partition) : (s.modPart vf f).trans = s.trans := rfl
@[simp] theorem State.modPart_net (s : State) (vf : BitVec 4) (f : Partition → Partition) : (s.modPart vf f).net = s.net := rfl
@[simp] theorem State.modPart_clusters (s : State) (vf : BitVec 4) (f : Partition → Partition) : (s.modPart vf f).clusters = s.clusters := rfl
@[simp] theorem State.modPart_dies (s : State) (vf : BitVec 4) (f : Partition → Partition) : (s.modPart vf f).dies = s.dies := rfl
@[simp] theorem State.modPart_launches (s : State) (vf : BitVec 4) (f : Partition → Partition) : (s.modPart vf f).launches = s.launches := rfl
@[simp] theorem State.modPart_fabricNo (s : State) (vf : BitVec 4) (f : Partition → Partition) : (s.modPart vf f).fabricNo = s.fabricNo := rfl
@[simp] theorem State.modPart_booted (s : State) (vf : BitVec 4) (f : Partition → Partition) : (s.modPart vf f).booted = s.booted := rfl
@[simp] theorem State.modPart_firmware (s : State) (vf : BitVec 4) (f : Partition → Partition) : (s.modPart vf f).firmware = s.firmware := rfl
@[simp] theorem State.modPart_measured (s : State) (vf : BitVec 4) (f : Partition → Partition) : (s.modPart vf f).measured = s.measured := rfl
@[simp] theorem State.modPart_sleepCeiling (s : State) (vf : BitVec 4) (f : Partition → Partition) : (s.modPart vf f).sleepCeiling = s.sleepCeiling := rfl
@[simp] theorem State.modPart_belineLog (s : State) (vf : BitVec 4) (f : Partition → Partition) : (s.modPart vf f).belineLog = s.belineLog := rfl
@[simp] theorem State.modPart_hostOut (s : State) (vf : BitVec 4) (f : Partition → Partition) : (s.modPart vf f).hostOut = s.hostOut := rfl
@[simp] theorem State.modPart_fabricOut (s : State) (vf : BitVec 4) (f : Partition → Partition) : (s.modPart vf f).fabricOut = s.fabricOut := rfl
@[simp] theorem State.modPart_order (s : State) (vf : BitVec 4) (f : Partition → Partition) : (s.modPart vf f).order = s.order := rfl
@[simp] theorem State.modPart_nextId (s : State) (vf : BitVec 4) (f : Partition → Partition) : (s.modPart vf f).nextId = s.nextId := rfl
@[simp] theorem State.modPart_freeCtr (s : State) (vf : BitVec 4) (f : Partition → Partition) : (s.modPart vf f).freeCtr = s.freeCtr := rfl
@[simp] theorem State.modPart_agenda (s : State) (vf : BitVec 4) (f : Partition → Partition) : (s.modPart vf f).agenda = s.agenda := rfl
@[simp] theorem State.modPart_hartTurn (s : State) (vf : BitVec 4) (f : Partition → Partition) : (s.modPart vf f).hartTurn = s.hartTurn := rfl
@[simp] theorem State.modPart_focus (s : State) (vf : BitVec 4) (f : Partition → Partition) : (s.modPart vf f).focus = s.focus := rfl

/-! modLaunch -/

@[simp] theorem State.modLaunch_cores (s : State) (id : Nat) (f : Launch → Launch) : (s.modLaunch id f).cores = s.cores := rfl
@[simp] theorem State.modLaunch_cur (s : State) (id : Nat) (f : Launch → Launch) : (s.modLaunch id f).cur = s.cur := rfl
@[simp] theorem State.modLaunch_mem (s : State) (id : Nat) (f : Launch → Launch) : (s.modLaunch id f).mem = s.mem := rfl
@[simp] theorem State.modLaunch_checks (s : State) (id : Nat) (f : Launch → Launch) : (s.modLaunch id f).checks = s.checks := rfl
@[simp] theorem State.modLaunch_areas (s : State) (id : Nat) (f : Launch → Launch) : (s.modLaunch id f).areas = s.areas := rfl
@[simp] theorem State.modLaunch_hbmPoison (s : State) (id : Nat) (f : Launch → Launch) : (s.modLaunch id f).hbmPoison = s.hbmPoison := rfl
@[simp] theorem State.modLaunch_slices (s : State) (id : Nat) (f : Launch → Launch) : (s.modLaunch id f).slices = s.slices := rfl
@[simp] theorem State.modLaunch_trans (s : State) (id : Nat) (f : Launch → Launch) : (s.modLaunch id f).trans = s.trans := rfl
@[simp] theorem State.modLaunch_net (s : State) (id : Nat) (f : Launch → Launch) : (s.modLaunch id f).net = s.net := rfl
@[simp] theorem State.modLaunch_clusters (s : State) (id : Nat) (f : Launch → Launch) : (s.modLaunch id f).clusters = s.clusters := rfl
@[simp] theorem State.modLaunch_dies (s : State) (id : Nat) (f : Launch → Launch) : (s.modLaunch id f).dies = s.dies := rfl
@[simp] theorem State.modLaunch_partitions (s : State) (id : Nat) (f : Launch → Launch) : (s.modLaunch id f).partitions = s.partitions := rfl
@[simp] theorem State.modLaunch_fabricNo (s : State) (id : Nat) (f : Launch → Launch) : (s.modLaunch id f).fabricNo = s.fabricNo := rfl
@[simp] theorem State.modLaunch_booted (s : State) (id : Nat) (f : Launch → Launch) : (s.modLaunch id f).booted = s.booted := rfl
@[simp] theorem State.modLaunch_firmware (s : State) (id : Nat) (f : Launch → Launch) : (s.modLaunch id f).firmware = s.firmware := rfl
@[simp] theorem State.modLaunch_measured (s : State) (id : Nat) (f : Launch → Launch) : (s.modLaunch id f).measured = s.measured := rfl
@[simp] theorem State.modLaunch_sleepCeiling (s : State) (id : Nat) (f : Launch → Launch) : (s.modLaunch id f).sleepCeiling = s.sleepCeiling := rfl
@[simp] theorem State.modLaunch_belineLog (s : State) (id : Nat) (f : Launch → Launch) : (s.modLaunch id f).belineLog = s.belineLog := rfl
@[simp] theorem State.modLaunch_hostOut (s : State) (id : Nat) (f : Launch → Launch) : (s.modLaunch id f).hostOut = s.hostOut := rfl
@[simp] theorem State.modLaunch_fabricOut (s : State) (id : Nat) (f : Launch → Launch) : (s.modLaunch id f).fabricOut = s.fabricOut := rfl
@[simp] theorem State.modLaunch_order (s : State) (id : Nat) (f : Launch → Launch) : (s.modLaunch id f).order = s.order := rfl
@[simp] theorem State.modLaunch_nextId (s : State) (id : Nat) (f : Launch → Launch) : (s.modLaunch id f).nextId = s.nextId := rfl
@[simp] theorem State.modLaunch_freeCtr (s : State) (id : Nat) (f : Launch → Launch) : (s.modLaunch id f).freeCtr = s.freeCtr := rfl
@[simp] theorem State.modLaunch_agenda (s : State) (id : Nat) (f : Launch → Launch) : (s.modLaunch id f).agenda = s.agenda := rfl
@[simp] theorem State.modLaunch_hartTurn (s : State) (id : Nat) (f : Launch → Launch) : (s.modLaunch id f).hartTurn = s.hartTurn := rfl
@[simp] theorem State.modLaunch_focus (s : State) (id : Nat) (f : Launch → Launch) : (s.modLaunch id f).focus = s.focus := rfl

/-! modCluster -/

@[simp] theorem State.modCluster_cores (s : State) (x y : Nat) (f : ClusterSt → ClusterSt) : (s.modCluster x y f).cores = s.cores := rfl
@[simp] theorem State.modCluster_cur (s : State) (x y : Nat) (f : ClusterSt → ClusterSt) : (s.modCluster x y f).cur = s.cur := rfl
@[simp] theorem State.modCluster_mem (s : State) (x y : Nat) (f : ClusterSt → ClusterSt) : (s.modCluster x y f).mem = s.mem := rfl
@[simp] theorem State.modCluster_checks (s : State) (x y : Nat) (f : ClusterSt → ClusterSt) : (s.modCluster x y f).checks = s.checks := rfl
@[simp] theorem State.modCluster_areas (s : State) (x y : Nat) (f : ClusterSt → ClusterSt) : (s.modCluster x y f).areas = s.areas := rfl
@[simp] theorem State.modCluster_hbmPoison (s : State) (x y : Nat) (f : ClusterSt → ClusterSt) : (s.modCluster x y f).hbmPoison = s.hbmPoison := rfl
@[simp] theorem State.modCluster_slices (s : State) (x y : Nat) (f : ClusterSt → ClusterSt) : (s.modCluster x y f).slices = s.slices := rfl
@[simp] theorem State.modCluster_trans (s : State) (x y : Nat) (f : ClusterSt → ClusterSt) : (s.modCluster x y f).trans = s.trans := rfl
@[simp] theorem State.modCluster_net (s : State) (x y : Nat) (f : ClusterSt → ClusterSt) : (s.modCluster x y f).net = s.net := rfl
@[simp] theorem State.modCluster_dies (s : State) (x y : Nat) (f : ClusterSt → ClusterSt) : (s.modCluster x y f).dies = s.dies := rfl
@[simp] theorem State.modCluster_partitions (s : State) (x y : Nat) (f : ClusterSt → ClusterSt) : (s.modCluster x y f).partitions = s.partitions := rfl
@[simp] theorem State.modCluster_launches (s : State) (x y : Nat) (f : ClusterSt → ClusterSt) : (s.modCluster x y f).launches = s.launches := rfl
@[simp] theorem State.modCluster_fabricNo (s : State) (x y : Nat) (f : ClusterSt → ClusterSt) : (s.modCluster x y f).fabricNo = s.fabricNo := rfl
@[simp] theorem State.modCluster_booted (s : State) (x y : Nat) (f : ClusterSt → ClusterSt) : (s.modCluster x y f).booted = s.booted := rfl
@[simp] theorem State.modCluster_firmware (s : State) (x y : Nat) (f : ClusterSt → ClusterSt) : (s.modCluster x y f).firmware = s.firmware := rfl
@[simp] theorem State.modCluster_measured (s : State) (x y : Nat) (f : ClusterSt → ClusterSt) : (s.modCluster x y f).measured = s.measured := rfl
@[simp] theorem State.modCluster_sleepCeiling (s : State) (x y : Nat) (f : ClusterSt → ClusterSt) : (s.modCluster x y f).sleepCeiling = s.sleepCeiling := rfl
@[simp] theorem State.modCluster_belineLog (s : State) (x y : Nat) (f : ClusterSt → ClusterSt) : (s.modCluster x y f).belineLog = s.belineLog := rfl
@[simp] theorem State.modCluster_hostOut (s : State) (x y : Nat) (f : ClusterSt → ClusterSt) : (s.modCluster x y f).hostOut = s.hostOut := rfl
@[simp] theorem State.modCluster_fabricOut (s : State) (x y : Nat) (f : ClusterSt → ClusterSt) : (s.modCluster x y f).fabricOut = s.fabricOut := rfl
@[simp] theorem State.modCluster_order (s : State) (x y : Nat) (f : ClusterSt → ClusterSt) : (s.modCluster x y f).order = s.order := rfl
@[simp] theorem State.modCluster_nextId (s : State) (x y : Nat) (f : ClusterSt → ClusterSt) : (s.modCluster x y f).nextId = s.nextId := rfl
@[simp] theorem State.modCluster_freeCtr (s : State) (x y : Nat) (f : ClusterSt → ClusterSt) : (s.modCluster x y f).freeCtr = s.freeCtr := rfl
@[simp] theorem State.modCluster_agenda (s : State) (x y : Nat) (f : ClusterSt → ClusterSt) : (s.modCluster x y f).agenda = s.agenda := rfl
@[simp] theorem State.modCluster_hartTurn (s : State) (x y : Nat) (f : ClusterSt → ClusterSt) : (s.modCluster x y f).hartTurn = s.hartTurn := rfl
@[simp] theorem State.modCluster_focus (s : State) (x y : Nat) (f : ClusterSt → ClusterSt) : (s.modCluster x y f).focus = s.focus := rfl

/-! modDie -/

@[simp] theorem State.modDie_cores (s : State) (d : Nat) (f : DieSt → DieSt) : (s.modDie d f).cores = s.cores := rfl
@[simp] theorem State.modDie_cur (s : State) (d : Nat) (f : DieSt → DieSt) : (s.modDie d f).cur = s.cur := rfl
@[simp] theorem State.modDie_mem (s : State) (d : Nat) (f : DieSt → DieSt) : (s.modDie d f).mem = s.mem := rfl
@[simp] theorem State.modDie_checks (s : State) (d : Nat) (f : DieSt → DieSt) : (s.modDie d f).checks = s.checks := rfl
@[simp] theorem State.modDie_areas (s : State) (d : Nat) (f : DieSt → DieSt) : (s.modDie d f).areas = s.areas := rfl
@[simp] theorem State.modDie_hbmPoison (s : State) (d : Nat) (f : DieSt → DieSt) : (s.modDie d f).hbmPoison = s.hbmPoison := rfl
@[simp] theorem State.modDie_slices (s : State) (d : Nat) (f : DieSt → DieSt) : (s.modDie d f).slices = s.slices := rfl
@[simp] theorem State.modDie_trans (s : State) (d : Nat) (f : DieSt → DieSt) : (s.modDie d f).trans = s.trans := rfl
@[simp] theorem State.modDie_net (s : State) (d : Nat) (f : DieSt → DieSt) : (s.modDie d f).net = s.net := rfl
@[simp] theorem State.modDie_clusters (s : State) (d : Nat) (f : DieSt → DieSt) : (s.modDie d f).clusters = s.clusters := rfl
@[simp] theorem State.modDie_partitions (s : State) (d : Nat) (f : DieSt → DieSt) : (s.modDie d f).partitions = s.partitions := rfl
@[simp] theorem State.modDie_launches (s : State) (d : Nat) (f : DieSt → DieSt) : (s.modDie d f).launches = s.launches := rfl
@[simp] theorem State.modDie_fabricNo (s : State) (d : Nat) (f : DieSt → DieSt) : (s.modDie d f).fabricNo = s.fabricNo := rfl
@[simp] theorem State.modDie_booted (s : State) (d : Nat) (f : DieSt → DieSt) : (s.modDie d f).booted = s.booted := rfl
@[simp] theorem State.modDie_firmware (s : State) (d : Nat) (f : DieSt → DieSt) : (s.modDie d f).firmware = s.firmware := rfl
@[simp] theorem State.modDie_measured (s : State) (d : Nat) (f : DieSt → DieSt) : (s.modDie d f).measured = s.measured := rfl
@[simp] theorem State.modDie_sleepCeiling (s : State) (d : Nat) (f : DieSt → DieSt) : (s.modDie d f).sleepCeiling = s.sleepCeiling := rfl
@[simp] theorem State.modDie_belineLog (s : State) (d : Nat) (f : DieSt → DieSt) : (s.modDie d f).belineLog = s.belineLog := rfl
@[simp] theorem State.modDie_hostOut (s : State) (d : Nat) (f : DieSt → DieSt) : (s.modDie d f).hostOut = s.hostOut := rfl
@[simp] theorem State.modDie_fabricOut (s : State) (d : Nat) (f : DieSt → DieSt) : (s.modDie d f).fabricOut = s.fabricOut := rfl
@[simp] theorem State.modDie_order (s : State) (d : Nat) (f : DieSt → DieSt) : (s.modDie d f).order = s.order := rfl
@[simp] theorem State.modDie_nextId (s : State) (d : Nat) (f : DieSt → DieSt) : (s.modDie d f).nextId = s.nextId := rfl
@[simp] theorem State.modDie_freeCtr (s : State) (d : Nat) (f : DieSt → DieSt) : (s.modDie d f).freeCtr = s.freeCtr := rfl
@[simp] theorem State.modDie_agenda (s : State) (d : Nat) (f : DieSt → DieSt) : (s.modDie d f).agenda = s.agenda := rfl
@[simp] theorem State.modDie_hartTurn (s : State) (d : Nat) (f : DieSt → DieSt) : (s.modDie d f).hartTurn = s.hartTurn := rfl
@[simp] theorem State.modDie_focus (s : State) (d : Nat) (f : DieSt → DieSt) : (s.modDie d f).focus = s.focus := rfl

/-! logBeline -/

@[simp] theorem State.logBeline_cores (s : State) (e : BelineEvent) : (s.logBeline e).cores = s.cores := rfl
@[simp] theorem State.logBeline_cur (s : State) (e : BelineEvent) : (s.logBeline e).cur = s.cur := rfl
@[simp] theorem State.logBeline_mem (s : State) (e : BelineEvent) : (s.logBeline e).mem = s.mem := rfl
@[simp] theorem State.logBeline_checks (s : State) (e : BelineEvent) : (s.logBeline e).checks = s.checks := rfl
@[simp] theorem State.logBeline_areas (s : State) (e : BelineEvent) : (s.logBeline e).areas = s.areas := rfl
@[simp] theorem State.logBeline_hbmPoison (s : State) (e : BelineEvent) : (s.logBeline e).hbmPoison = s.hbmPoison := rfl
@[simp] theorem State.logBeline_slices (s : State) (e : BelineEvent) : (s.logBeline e).slices = s.slices := rfl
@[simp] theorem State.logBeline_trans (s : State) (e : BelineEvent) : (s.logBeline e).trans = s.trans := rfl
@[simp] theorem State.logBeline_net (s : State) (e : BelineEvent) : (s.logBeline e).net = s.net := rfl
@[simp] theorem State.logBeline_clusters (s : State) (e : BelineEvent) : (s.logBeline e).clusters = s.clusters := rfl
@[simp] theorem State.logBeline_dies (s : State) (e : BelineEvent) : (s.logBeline e).dies = s.dies := rfl
@[simp] theorem State.logBeline_partitions (s : State) (e : BelineEvent) : (s.logBeline e).partitions = s.partitions := rfl
@[simp] theorem State.logBeline_launches (s : State) (e : BelineEvent) : (s.logBeline e).launches = s.launches := rfl
@[simp] theorem State.logBeline_fabricNo (s : State) (e : BelineEvent) : (s.logBeline e).fabricNo = s.fabricNo := rfl
@[simp] theorem State.logBeline_booted (s : State) (e : BelineEvent) : (s.logBeline e).booted = s.booted := rfl
@[simp] theorem State.logBeline_firmware (s : State) (e : BelineEvent) : (s.logBeline e).firmware = s.firmware := rfl
@[simp] theorem State.logBeline_measured (s : State) (e : BelineEvent) : (s.logBeline e).measured = s.measured := rfl
@[simp] theorem State.logBeline_sleepCeiling (s : State) (e : BelineEvent) : (s.logBeline e).sleepCeiling = s.sleepCeiling := rfl
@[simp] theorem State.logBeline_hostOut (s : State) (e : BelineEvent) : (s.logBeline e).hostOut = s.hostOut := rfl
@[simp] theorem State.logBeline_fabricOut (s : State) (e : BelineEvent) : (s.logBeline e).fabricOut = s.fabricOut := rfl
@[simp] theorem State.logBeline_order (s : State) (e : BelineEvent) : (s.logBeline e).order = s.order := rfl
@[simp] theorem State.logBeline_nextId (s : State) (e : BelineEvent) : (s.logBeline e).nextId = s.nextId := rfl
@[simp] theorem State.logBeline_freeCtr (s : State) (e : BelineEvent) : (s.logBeline e).freeCtr = s.freeCtr := rfl
@[simp] theorem State.logBeline_agenda (s : State) (e : BelineEvent) : (s.logBeline e).agenda = s.agenda := rfl
@[simp] theorem State.logBeline_hartTurn (s : State) (e : BelineEvent) : (s.logBeline e).hartTurn = s.hartTurn := rfl
@[simp] theorem State.logBeline_focus (s : State) (e : BelineEvent) : (s.logBeline e).focus = s.focus := rfl

/-! send -/

@[simp] theorem State.send_cores (s : State) (r : Req) : (s.send r).cores = s.cores := rfl
@[simp] theorem State.send_cur (s : State) (r : Req) : (s.send r).cur = s.cur := rfl
@[simp] theorem State.send_mem (s : State) (r : Req) : (s.send r).mem = s.mem := rfl
@[simp] theorem State.send_checks (s : State) (r : Req) : (s.send r).checks = s.checks := rfl
@[simp] theorem State.send_areas (s : State) (r : Req) : (s.send r).areas = s.areas := rfl
@[simp] theorem State.send_hbmPoison (s : State) (r : Req) : (s.send r).hbmPoison = s.hbmPoison := rfl
@[simp] theorem State.send_slices (s : State) (r : Req) : (s.send r).slices = s.slices := rfl
@[simp] theorem State.send_trans (s : State) (r : Req) : (s.send r).trans = s.trans := rfl
@[simp] theorem State.send_clusters (s : State) (r : Req) : (s.send r).clusters = s.clusters := rfl
@[simp] theorem State.send_dies (s : State) (r : Req) : (s.send r).dies = s.dies := rfl
@[simp] theorem State.send_partitions (s : State) (r : Req) : (s.send r).partitions = s.partitions := rfl
@[simp] theorem State.send_launches (s : State) (r : Req) : (s.send r).launches = s.launches := rfl
@[simp] theorem State.send_fabricNo (s : State) (r : Req) : (s.send r).fabricNo = s.fabricNo := rfl
@[simp] theorem State.send_booted (s : State) (r : Req) : (s.send r).booted = s.booted := rfl
@[simp] theorem State.send_firmware (s : State) (r : Req) : (s.send r).firmware = s.firmware := rfl
@[simp] theorem State.send_measured (s : State) (r : Req) : (s.send r).measured = s.measured := rfl
@[simp] theorem State.send_sleepCeiling (s : State) (r : Req) : (s.send r).sleepCeiling = s.sleepCeiling := rfl
@[simp] theorem State.send_belineLog (s : State) (r : Req) : (s.send r).belineLog = s.belineLog := rfl
@[simp] theorem State.send_hostOut (s : State) (r : Req) : (s.send r).hostOut = s.hostOut := rfl
@[simp] theorem State.send_fabricOut (s : State) (r : Req) : (s.send r).fabricOut = s.fabricOut := rfl
@[simp] theorem State.send_order (s : State) (r : Req) : (s.send r).order = s.order := rfl
@[simp] theorem State.send_freeCtr (s : State) (r : Req) : (s.send r).freeCtr = s.freeCtr := rfl
@[simp] theorem State.send_agenda (s : State) (r : Req) : (s.send r).agenda = s.agenda := rfl
@[simp] theorem State.send_hartTurn (s : State) (r : Req) : (s.send r).hartTurn = s.hartTurn := rfl
@[simp] theorem State.send_focus (s : State) (r : Req) : (s.send r).focus = s.focus := rfl

/-! dropReq -/

@[simp] theorem State.dropReq_cores (s : State) (id : Nat) : (s.dropReq id).cores = s.cores := rfl
@[simp] theorem State.dropReq_cur (s : State) (id : Nat) : (s.dropReq id).cur = s.cur := rfl
@[simp] theorem State.dropReq_mem (s : State) (id : Nat) : (s.dropReq id).mem = s.mem := rfl
@[simp] theorem State.dropReq_checks (s : State) (id : Nat) : (s.dropReq id).checks = s.checks := rfl
@[simp] theorem State.dropReq_areas (s : State) (id : Nat) : (s.dropReq id).areas = s.areas := rfl
@[simp] theorem State.dropReq_hbmPoison (s : State) (id : Nat) : (s.dropReq id).hbmPoison = s.hbmPoison := rfl
@[simp] theorem State.dropReq_slices (s : State) (id : Nat) : (s.dropReq id).slices = s.slices := rfl
@[simp] theorem State.dropReq_trans (s : State) (id : Nat) : (s.dropReq id).trans = s.trans := rfl
@[simp] theorem State.dropReq_clusters (s : State) (id : Nat) : (s.dropReq id).clusters = s.clusters := rfl
@[simp] theorem State.dropReq_dies (s : State) (id : Nat) : (s.dropReq id).dies = s.dies := rfl
@[simp] theorem State.dropReq_partitions (s : State) (id : Nat) : (s.dropReq id).partitions = s.partitions := rfl
@[simp] theorem State.dropReq_launches (s : State) (id : Nat) : (s.dropReq id).launches = s.launches := rfl
@[simp] theorem State.dropReq_fabricNo (s : State) (id : Nat) : (s.dropReq id).fabricNo = s.fabricNo := rfl
@[simp] theorem State.dropReq_booted (s : State) (id : Nat) : (s.dropReq id).booted = s.booted := rfl
@[simp] theorem State.dropReq_firmware (s : State) (id : Nat) : (s.dropReq id).firmware = s.firmware := rfl
@[simp] theorem State.dropReq_measured (s : State) (id : Nat) : (s.dropReq id).measured = s.measured := rfl
@[simp] theorem State.dropReq_sleepCeiling (s : State) (id : Nat) : (s.dropReq id).sleepCeiling = s.sleepCeiling := rfl
@[simp] theorem State.dropReq_belineLog (s : State) (id : Nat) : (s.dropReq id).belineLog = s.belineLog := rfl
@[simp] theorem State.dropReq_hostOut (s : State) (id : Nat) : (s.dropReq id).hostOut = s.hostOut := rfl
@[simp] theorem State.dropReq_fabricOut (s : State) (id : Nat) : (s.dropReq id).fabricOut = s.fabricOut := rfl
@[simp] theorem State.dropReq_order (s : State) (id : Nat) : (s.dropReq id).order = s.order := rfl
@[simp] theorem State.dropReq_nextId (s : State) (id : Nat) : (s.dropReq id).nextId = s.nextId := rfl
@[simp] theorem State.dropReq_freeCtr (s : State) (id : Nat) : (s.dropReq id).freeCtr = s.freeCtr := rfl
@[simp] theorem State.dropReq_agenda (s : State) (id : Nat) : (s.dropReq id).agenda = s.agenda := rfl
@[simp] theorem State.dropReq_hartTurn (s : State) (id : Nat) : (s.dropReq id).hartTurn = s.hartTurn := rfl
@[simp] theorem State.dropReq_focus (s : State) (id : Nat) : (s.dropReq id).focus = s.focus := rfl

/-! moveReq -/

@[simp] theorem State.moveReq_cores (s : State) (r : Req) : (s.moveReq r).cores = s.cores := rfl
@[simp] theorem State.moveReq_cur (s : State) (r : Req) : (s.moveReq r).cur = s.cur := rfl
@[simp] theorem State.moveReq_mem (s : State) (r : Req) : (s.moveReq r).mem = s.mem := rfl
@[simp] theorem State.moveReq_checks (s : State) (r : Req) : (s.moveReq r).checks = s.checks := rfl
@[simp] theorem State.moveReq_areas (s : State) (r : Req) : (s.moveReq r).areas = s.areas := rfl
@[simp] theorem State.moveReq_hbmPoison (s : State) (r : Req) : (s.moveReq r).hbmPoison = s.hbmPoison := rfl
@[simp] theorem State.moveReq_slices (s : State) (r : Req) : (s.moveReq r).slices = s.slices := rfl
@[simp] theorem State.moveReq_trans (s : State) (r : Req) : (s.moveReq r).trans = s.trans := rfl
@[simp] theorem State.moveReq_clusters (s : State) (r : Req) : (s.moveReq r).clusters = s.clusters := rfl
@[simp] theorem State.moveReq_dies (s : State) (r : Req) : (s.moveReq r).dies = s.dies := rfl
@[simp] theorem State.moveReq_partitions (s : State) (r : Req) : (s.moveReq r).partitions = s.partitions := rfl
@[simp] theorem State.moveReq_launches (s : State) (r : Req) : (s.moveReq r).launches = s.launches := rfl
@[simp] theorem State.moveReq_fabricNo (s : State) (r : Req) : (s.moveReq r).fabricNo = s.fabricNo := rfl
@[simp] theorem State.moveReq_booted (s : State) (r : Req) : (s.moveReq r).booted = s.booted := rfl
@[simp] theorem State.moveReq_firmware (s : State) (r : Req) : (s.moveReq r).firmware = s.firmware := rfl
@[simp] theorem State.moveReq_measured (s : State) (r : Req) : (s.moveReq r).measured = s.measured := rfl
@[simp] theorem State.moveReq_sleepCeiling (s : State) (r : Req) : (s.moveReq r).sleepCeiling = s.sleepCeiling := rfl
@[simp] theorem State.moveReq_belineLog (s : State) (r : Req) : (s.moveReq r).belineLog = s.belineLog := rfl
@[simp] theorem State.moveReq_hostOut (s : State) (r : Req) : (s.moveReq r).hostOut = s.hostOut := rfl
@[simp] theorem State.moveReq_fabricOut (s : State) (r : Req) : (s.moveReq r).fabricOut = s.fabricOut := rfl
@[simp] theorem State.moveReq_order (s : State) (r : Req) : (s.moveReq r).order = s.order := rfl
@[simp] theorem State.moveReq_nextId (s : State) (r : Req) : (s.moveReq r).nextId = s.nextId := rfl
@[simp] theorem State.moveReq_freeCtr (s : State) (r : Req) : (s.moveReq r).freeCtr = s.freeCtr := rfl
@[simp] theorem State.moveReq_agenda (s : State) (r : Req) : (s.moveReq r).agenda = s.agenda := rfl
@[simp] theorem State.moveReq_hartTurn (s : State) (r : Req) : (s.moveReq r).hartTurn = s.hartTurn := rfl
@[simp] theorem State.moveReq_focus (s : State) (r : Req) : (s.moveReq r).focus = s.focus := rfl

/-! stageTo -/

@[simp] theorem State.stageTo_cores (s : State) (r : Req) (g : Stage) : (s.stageTo r g).cores = s.cores := rfl
@[simp] theorem State.stageTo_cur (s : State) (r : Req) (g : Stage) : (s.stageTo r g).cur = s.cur := rfl
@[simp] theorem State.stageTo_mem (s : State) (r : Req) (g : Stage) : (s.stageTo r g).mem = s.mem := rfl
@[simp] theorem State.stageTo_checks (s : State) (r : Req) (g : Stage) : (s.stageTo r g).checks = s.checks := rfl
@[simp] theorem State.stageTo_areas (s : State) (r : Req) (g : Stage) : (s.stageTo r g).areas = s.areas := rfl
@[simp] theorem State.stageTo_hbmPoison (s : State) (r : Req) (g : Stage) : (s.stageTo r g).hbmPoison = s.hbmPoison := rfl
@[simp] theorem State.stageTo_slices (s : State) (r : Req) (g : Stage) : (s.stageTo r g).slices = s.slices := rfl
@[simp] theorem State.stageTo_trans (s : State) (r : Req) (g : Stage) : (s.stageTo r g).trans = s.trans := rfl
@[simp] theorem State.stageTo_clusters (s : State) (r : Req) (g : Stage) : (s.stageTo r g).clusters = s.clusters := rfl
@[simp] theorem State.stageTo_dies (s : State) (r : Req) (g : Stage) : (s.stageTo r g).dies = s.dies := rfl
@[simp] theorem State.stageTo_partitions (s : State) (r : Req) (g : Stage) : (s.stageTo r g).partitions = s.partitions := rfl
@[simp] theorem State.stageTo_launches (s : State) (r : Req) (g : Stage) : (s.stageTo r g).launches = s.launches := rfl
@[simp] theorem State.stageTo_fabricNo (s : State) (r : Req) (g : Stage) : (s.stageTo r g).fabricNo = s.fabricNo := rfl
@[simp] theorem State.stageTo_booted (s : State) (r : Req) (g : Stage) : (s.stageTo r g).booted = s.booted := rfl
@[simp] theorem State.stageTo_firmware (s : State) (r : Req) (g : Stage) : (s.stageTo r g).firmware = s.firmware := rfl
@[simp] theorem State.stageTo_measured (s : State) (r : Req) (g : Stage) : (s.stageTo r g).measured = s.measured := rfl
@[simp] theorem State.stageTo_sleepCeiling (s : State) (r : Req) (g : Stage) : (s.stageTo r g).sleepCeiling = s.sleepCeiling := rfl
@[simp] theorem State.stageTo_belineLog (s : State) (r : Req) (g : Stage) : (s.stageTo r g).belineLog = s.belineLog := rfl
@[simp] theorem State.stageTo_hostOut (s : State) (r : Req) (g : Stage) : (s.stageTo r g).hostOut = s.hostOut := rfl
@[simp] theorem State.stageTo_fabricOut (s : State) (r : Req) (g : Stage) : (s.stageTo r g).fabricOut = s.fabricOut := rfl
@[simp] theorem State.stageTo_order (s : State) (r : Req) (g : Stage) : (s.stageTo r g).order = s.order := rfl
@[simp] theorem State.stageTo_nextId (s : State) (r : Req) (g : Stage) : (s.stageTo r g).nextId = s.nextId := rfl
@[simp] theorem State.stageTo_freeCtr (s : State) (r : Req) (g : Stage) : (s.stageTo r g).freeCtr = s.freeCtr := rfl
@[simp] theorem State.stageTo_agenda (s : State) (r : Req) (g : Stage) : (s.stageTo r g).agenda = s.agenda := rfl
@[simp] theorem State.stageTo_hartTurn (s : State) (r : Req) (g : Stage) : (s.stageTo r g).hartTurn = s.hartTurn := rfl
@[simp] theorem State.stageTo_focus (s : State) (r : Req) (g : Stage) : (s.stageTo r g).focus = s.focus := rfl

/-! fresh -/

@[simp] theorem State.fresh_cores (s : State) : (s.fresh).cores = s.cores := rfl
@[simp] theorem State.fresh_cur (s : State) : (s.fresh).cur = s.cur := rfl
@[simp] theorem State.fresh_mem (s : State) : (s.fresh).mem = s.mem := rfl
@[simp] theorem State.fresh_checks (s : State) : (s.fresh).checks = s.checks := rfl
@[simp] theorem State.fresh_areas (s : State) : (s.fresh).areas = s.areas := rfl
@[simp] theorem State.fresh_hbmPoison (s : State) : (s.fresh).hbmPoison = s.hbmPoison := rfl
@[simp] theorem State.fresh_slices (s : State) : (s.fresh).slices = s.slices := rfl
@[simp] theorem State.fresh_trans (s : State) : (s.fresh).trans = s.trans := rfl
@[simp] theorem State.fresh_net (s : State) : (s.fresh).net = s.net := rfl
@[simp] theorem State.fresh_clusters (s : State) : (s.fresh).clusters = s.clusters := rfl
@[simp] theorem State.fresh_dies (s : State) : (s.fresh).dies = s.dies := rfl
@[simp] theorem State.fresh_partitions (s : State) : (s.fresh).partitions = s.partitions := rfl
@[simp] theorem State.fresh_launches (s : State) : (s.fresh).launches = s.launches := rfl
@[simp] theorem State.fresh_fabricNo (s : State) : (s.fresh).fabricNo = s.fabricNo := rfl
@[simp] theorem State.fresh_booted (s : State) : (s.fresh).booted = s.booted := rfl
@[simp] theorem State.fresh_firmware (s : State) : (s.fresh).firmware = s.firmware := rfl
@[simp] theorem State.fresh_measured (s : State) : (s.fresh).measured = s.measured := rfl
@[simp] theorem State.fresh_sleepCeiling (s : State) : (s.fresh).sleepCeiling = s.sleepCeiling := rfl
@[simp] theorem State.fresh_belineLog (s : State) : (s.fresh).belineLog = s.belineLog := rfl
@[simp] theorem State.fresh_hostOut (s : State) : (s.fresh).hostOut = s.hostOut := rfl
@[simp] theorem State.fresh_fabricOut (s : State) : (s.fresh).fabricOut = s.fabricOut := rfl
@[simp] theorem State.fresh_order (s : State) : (s.fresh).order = s.order := rfl
@[simp] theorem State.fresh_nextId (s : State) : (s.fresh).nextId = s.nextId := rfl
@[simp] theorem State.fresh_agenda (s : State) : (s.fresh).agenda = s.agenda := rfl
@[simp] theorem State.fresh_hartTurn (s : State) : (s.fresh).hartTurn = s.hartTurn := rfl
@[simp] theorem State.fresh_focus (s : State) : (s.fresh).focus = s.focus := rfl

/-! Reads after writes. -/

@[simp] theorem State.core_setCore_same (s : State) (c : Nat) (k : Core) : (s.setCore c k).core c = k := by simp [State.core, State.setCore]
theorem State.core_setCore_other (s : State) {c c' : Nat} (k : Core) (h : c' ≠ c) : (s.setCore c k).core c' = s.core c' :=
  mapGet_mapSet_other _ _ _ h
@[simp] theorem State.core_modCore_same (s : State) (c : Nat) (f : Core → Core) : (s.modCore c f).core c = f (s.core c) := by simp [State.modCore]
theorem State.core_modCore_other (s : State) {c c' : Nat} (f : Core → Core) (h : c' ≠ c) : (s.modCore c f).core c' = s.core c' :=
  mapGet_mapSet_other _ _ _ h
@[simp] theorem Core.hart_setHart_same (k : Core) (h : BitVec 2) (x : Hart) : (k.setHart h x).hart h = x := by
  simp only [Core.hart, Core.setHart, Vector.get_eq_getElem]; simp
theorem Core.hart_setHart_other (k : Core) {h h' : BitVec 2} (x : Hart) (hh : h' ≠ h) : (k.setHart h x).hart h' = k.hart h' := by
  have : h.toNat ≠ h'.toNat := fun e => hh (BitVec.eq_of_toNat_eq e.symm)
  simp only [Core.hart, Core.setHart, Vector.get_eq_getElem]
  exact Vector.getElem_set_ne _ _ this
@[simp] theorem Core.hart_modHart_same (k : Core) (h : BitVec 2) (f : Hart → Hart) : (k.modHart h f).hart h = f (k.hart h) := by simp [Core.modHart]
theorem Core.hart_modHart_other (k : Core) {h h' : BitVec 2} (f : Hart → Hart) (hh : h' ≠ h) : (k.modHart h f).hart h' = k.hart h' :=
  Core.hart_setHart_other _ _ hh
@[simp] theorem State.hartOf_modHart_same (s : State) (c : Nat) (h : BitVec 2) (f : Hart → Hart) : (s.modHart c h f).hartOf c h = f (s.hartOf c h) := by
  simp [State.modHart, State.hartOf]
@[simp] theorem State.cc_mapCore (s : State) (f : Core → Core) : (s.mapCore f).cc = f s.cc := by simp [State.cc, State.mapCore, State.modCore]
@[simp] theorem State.cc_mapHart (s : State) (f : Hart → Hart) : (s.mapHart f).cc = s.cc.modHart s.cur.hart f := by
  simp [State.cc, State.mapHart, State.modHart]
@[simp] theorem State.hart_mapHart (s : State) (f : Hart → Hart) : (s.mapHart f).hart = f s.hart := by simp [State.hart]

/-! Two updates of the same part are one. -/

@[simp] theorem State.setCore_setCore (s : State) (c : Nat) (k k' : Core) : (s.setCore c k).setCore c k' = s.setCore c k' := by simp [State.setCore]
@[simp] theorem State.modCore_modCore (s : State) (c : Nat) (f g : Core → Core) : (s.modCore c f).modCore c g = s.modCore c (fun k => g (f k)) := by
  simp [State.modCore]
@[simp] theorem Core.setHart_setHart (k : Core) (h : BitVec 2) (x y : Hart) : (k.setHart h x).setHart h y = k.setHart h y := by
  simp [Core.setHart, Vector.set_set]
@[simp] theorem Core.modHart_modHart (k : Core) (h : BitVec 2) (f g : Hart → Hart) : (k.modHart h f).modHart h g = k.modHart h (fun x => g (f x)) := by
  simp [Core.modHart]
@[simp] theorem State.modHart_modHart (s : State) (c : Nat) (h : BitVec 2) (f g : Hart → Hart) :
    (s.modHart c h f).modHart c h g = s.modHart c h (fun x => g (f x)) := by simp [State.modHart]
@[simp] theorem State.mapHart_mapHart (s : State) (f g : Hart → Hart) : (s.mapHart f).mapHart g = s.mapHart (fun h => g (f h)) := by
  simp [State.mapHart]

/-! Fields of a core that its harts do not touch. -/

@[simp] theorem Core.modHart_last (k : Core) (h : BitVec 2) (f : Hart → Hart) : (k.modHart h f).last = k.last := rfl
@[simp] theorem Core.modHart_lmem (k : Core) (h : BitVec 2) (f : Hart → Hart) : (k.modHart h f).lmem = k.lmem := rfl
@[simp] theorem Core.modHart_lpoison (k : Core) (h : BitVec 2) (f : Hart → Hart) : (k.modHart h f).lpoison = k.lpoison := rfl
@[simp] theorem Core.modHart_waymask (k : Core) (h : BitVec 2) (f : Hart → Hart) : (k.modHart h f).waymask = k.waymask := rfl
@[simp] theorem Core.modHart_codesz (k : Core) (h : BitVec 2) (f : Hart → Hart) : (k.modHart h f).codesz = k.codesz := rfl
@[simp] theorem Core.modHart_regions (k : Core) (h : BitVec 2) (f : Hart → Hart) : (k.modHart h f).regions = k.regions := rfl
@[simp] theorem Core.modHart_watchers (k : Core) (h : BitVec 2) (f : Hart → Hart) : (k.modHart h f).watchers = k.watchers := rfl
@[simp] theorem Core.modHart_cache (k : Core) (h : BitVec 2) (f : Hart → Hart) : (k.modHart h f).cache = k.cache := rfl
@[simp] theorem Core.modHart_codeWritten (k : Core) (h : BitVec 2) (f : Hart → Hart) : (k.modHart h f).codeWritten = k.codeWritten := rfl
@[simp] theorem Core.modHart_codePoison (k : Core) (h : BitVec 2) (f : Hart → Hart) : (k.modHart h f).codePoison = k.codePoison := rfl
@[simp] theorem Core.modHart_codeStall (k : Core) (h : BitVec 2) (f : Hart → Hart) : (k.modHart h f).codeStall = k.codeStall := rfl
@[simp] theorem Core.modHart_opmem (k : Core) (h : BitVec 2) (f : Hart → Hart) : (k.modHart h f).opmem = k.opmem := rfl
@[simp] theorem Core.modHart_opPoison (k : Core) (h : BitVec 2) (f : Hart → Hart) : (k.modHart h f).opPoison = k.opPoison := rfl
@[simp] theorem Core.modHart_slotOwner (k : Core) (h : BitVec 2) (f : Hart → Hart) : (k.modHart h f).slotOwner = k.slotOwner := rfl
@[simp] theorem Core.modHart_matrix (k : Core) (h : BitVec 2) (f : Hart → Hart) : (k.modHart h f).matrix = k.matrix := rfl
@[simp] theorem Core.modHart_copy (k : Core) (h : BitVec 2) (f : Hart → Hart) : (k.modHart h f).copy = k.copy := rfl
@[simp] theorem Core.modHart_exponent (k : Core) (h : BitVec 2) (f : Hart → Hart) : (k.modHart h f).exponent = k.exponent := rfl
@[simp] theorem Core.modHart_issuers (k : Core) (h : BitVec 2) (f : Hart → Hart) : (k.modHart h f).issuers = k.issuers := rfl
@[simp] theorem Core.modHart_products (k : Core) (h : BitVec 2) (f : Hart → Hart) : (k.modHart h f).products = k.products := rfl
@[simp] theorem Core.modHart_cas (k : Core) (h : BitVec 2) (f : Hart → Hart) : (k.modHart h f).cas = k.cas := rfl
@[simp] theorem Core.modHart_overflow (k : Core) (h : BitVec 2) (f : Hart → Hart) : (k.modHart h f).overflow = k.overflow := rfl
@[simp] theorem Core.modHart_hold (k : Core) (h : BitVec 2) (f : Hart → Hart) : (k.modHart h f).hold = k.hold := rfl
@[simp] theorem Core.modHart_sleep (k : Core) (h : BitVec 2) (f : Hart → Hart) : (k.modHart h f).sleep = k.sleep := rfl
@[simp] theorem Core.modHart_vf (k : Core) (h : BitVec 2) (f : Hart → Hart) : (k.modHart h f).vf = k.vf := rfl
@[simp] theorem Core.modHart_vx (k : Core) (h : BitVec 2) (f : Hart → Hart) : (k.modHart h f).vx = k.vx := rfl
@[simp] theorem Core.modHart_vy (k : Core) (h : BitVec 2) (f : Hart → Hart) : (k.modHart h f).vy = k.vy := rfl
@[simp] theorem Core.modHart_vc (k : Core) (h : BitVec 2) (f : Hart → Hart) : (k.modHart h f).vc = k.vc := rfl
@[simp] theorem Core.modHart_launch (k : Core) (h : BitVec 2) (f : Hart → Hart) : (k.modHart h f).launch = k.launch := rfl
@[simp] theorem Core.modHart_image (k : Core) (h : BitVec 2) (f : Hart → Hart) : (k.modHart h f).image = k.image := rfl
@[simp] theorem Core.modHart_marked (k : Core) (h : BitVec 2) (f : Hart → Hart) : (k.modHart h f).marked = k.marked := rfl
@[simp] theorem Core.modHart_draining (k : Core) (h : BitVec 2) (f : Hart → Hart) : (k.modHart h f).draining = k.draining := rfl
@[simp] theorem Core.modHart_tokens (k : Core) (h : BitVec 2) (f : Hart → Hart) : (k.modHart h f).tokens = k.tokens := rfl
@[simp] theorem Core.modHart_wayWait (k : Core) (h : BitVec 2) (f : Hart → Hart) : (k.modHart h f).wayWait = k.wayWait := rfl

end Sys2Proof.Machine
end

