-- ==== Sys2Proof/Laws/Retire.lean ====
section
/-! SUPPORT. What a retiring instruction can do: the evaluation pass of the Hinge changes only bound registers, the flags,
the counters and the marks of slots; and what the shared operations that retire an instruction answer. -/

namespace Sys2Proof.Machine

/-! Registers and slots. -/

theorem Hart.rg_wg (h : Hart) (d r : BitVec 5) (v : Word) : (h.wg d v).rg r = if r = d ∧ d ≠ 0 then v else h.rg r := by
  unfold Hart.wg
  split
  · simp [*]
  · rename_i hd
    unfold Hart.rg
    split
    · subst_vars; rw [if_neg]; rintro ⟨rfl, _⟩; exact hd rfl
    · simp only [Vector.get_eq_getElem]
      split
      · rename_i hr; obtain ⟨rfl, _⟩ := hr; simp
      · rename_i hr
        have : d.toNat ≠ r.toNat := fun e => hr ⟨(BitVec.eq_of_toNat_eq e).symm, hd⟩
        exact Vector.getElem_set_ne _ _ this

@[simp] theorem Hart.slot_wg (h : Hart) (d : BitVec 5) (v : Word) (k : BitVec 4) : (h.wg d v).slot k = h.slot k := by
  unfold Hart.wg; split <;> rfl

theorem Hart.slot_setSlot (h : Hart) (k j : BitVec 4) (sl : Slot) : (h.setSlot k sl).slot j = if j = k then sl else h.slot j := by
  simp only [Hart.setSlot, Hart.slot, Vector.get_eq_getElem]
  split
  · subst_vars; simp
  · rename_i hj
    have : k.toNat ≠ j.toNat := fun e => hj (BitVec.eq_of_toNat_eq e).symm
    exact Vector.getElem_set_ne _ _ this

/-- What of a hart an instruction that only retires leaves as it is. -/
def Hart.rest (h : Hart) : Hart :=
  { h with
    g := Vector.replicate 32 0, aflags := 0, arec := 0, arecOver := [], pc := 0, cnt := Vector.replicate 4 0, ovf := 0, binds := Vector.replicate 16 {},
    outst := [], ibkSuppress := false, block := none, wantsQ := none, stepPend := false, stepArm := false, halted := false, stepOnce := false }

theorem Hart.eq_of_rest {h t : Hart} (e : t.rest = h.rest) :
    t = { h with
      g := t.g, aflags := t.aflags, arec := t.arec, arecOver := t.arecOver, pc := t.pc, cnt := t.cnt, ovf := t.ovf, binds := t.binds, outst := t.outst,
      ibkSuppress := t.ibkSuppress, block := t.block, wantsQ := t.wantsQ, stepPend := t.stepPend, stepArm := t.stepArm, halted := t.halted,
      stepOnce := t.stepOnce } := by
  cases t; cases h
  simp only [Hart.rest, Hart.mk.injEq] at e ⊢
  simp only [e, and_self]

/-- A pass of the Hinge, and what of a hart it leaves alone. -/
structure Passed (h t : Hart) : Prop where
  rest : t.rest = h.rest
  slots : ∀ k, (t.slot k).valid = (h.slot k).valid ∧ (t.slot k).dest = (h.slot k).dest
  regs : ∀ r, h.slotOf r = none → t.rg r = h.rg r
  same : t.pc = h.pc ∧ t.outst = h.outst ∧ t.block = h.block

theorem slotOf_congr {h t : Hart} (e : ∀ k, (t.slot k).valid = (h.slot k).valid ∧ (t.slot k).dest = (h.slot k).dest) (r : BitVec 5) :
    t.slotOf r = h.slotOf r := by
  unfold Hart.slotOf
  congr 1; funext k; rw [(e k).1, (e k).2]

theorem Passed.refl (h : Hart) : Passed h h := ⟨rfl, fun _ => ⟨rfl, rfl⟩, fun _ _ => rfl, rfl, rfl, rfl⟩

theorem Passed.trans {a b c : Hart} (x : Passed a b) (y : Passed b c) : Passed a c :=
  ⟨y.rest.trans x.rest, fun k => ⟨(y.slots k).1.trans (x.slots k).1, (y.slots k).2.trans (x.slots k).2⟩,
   fun r hr => (y.regs r ((slotOf_congr x.slots r).trans hr)).trans (x.regs r hr),
   y.same.1.trans x.same.1, y.same.2.1.trans x.same.2.1, y.same.2.2.trans x.same.2.2⟩

theorem passed_raiseFlags (h : Hart) (fl : Flags) (r : Word) : Passed h (h.raiseFlags fl r) := by
  unfold Hart.raiseFlags; split
  · exact .refl h
  · split <;> exact ⟨rfl, fun _ => ⟨rfl, rfl⟩, fun _ _ => rfl, rfl, rfl, rfl⟩

theorem passed_countIn (h : Hart) (e n k : Nat) (hk : k < 4) : Passed h (h.countIn e n k hk) := by
  unfold Hart.countIn; split
  · exact ⟨rfl, fun _ => ⟨rfl, rfl⟩, fun _ _ => rfl, rfl, rfl, rfl⟩
  · exact .refl h

theorem passed_count (h : Hart) (e n : Nat) : Passed h (h.count e n) := by
  unfold Hart.count; split
  · exact .refl h
  · exact (((passed_countIn _ _ _ _ _).trans (passed_countIn _ _ _ _ _)).trans (passed_countIn _ _ _ _ _)).trans (passed_countIn _ _ _ _ _)

theorem slot_markFor (h : Hart) (ws : List Operand) (k : BitVec 4) :
    (h.markFor ws).slot k = h.slot k ∨ (h.markFor ws).slot k = { h.slot k with dirty := true } := by
  unfold Hart.markFor
  simp only
  split
  · exact .inl rfl
  · simp only [Hart.slot, Vector.get_eq_getElem, getElem_vmap]
    split
    · exact .inr rfl
    · exact .inl rfl

theorem passed_markFor (h : Hart) (ws : List Operand) : Passed h (h.markFor ws) := by
  refine ⟨?_, fun k => ?_, fun r _ => ?_, ?_, ?_, ?_⟩
  · unfold Hart.markFor; simp only; split <;> rfl
  · rcases slot_markFor h ws k with e | e <;> rw [e] <;> exact ⟨rfl, rfl⟩
  · unfold Hart.markFor; simp only; split <;> rfl
  · unfold Hart.markFor; simp only; split <;> rfl
  · unfold Hart.markFor; simp only; split <;> rfl
  · unfold Hart.markFor; simp only; split <;> rfl

theorem mem_slotNos (k : BitVec 4) : k ∈ slotNos := by revert k; decide

theorem slotOf_of_valid {h : Hart} {k : BitVec 4} (hv : (h.slot k).valid = true) : h.slotOf (h.slot k).dest ≠ none := by
  intro hn
  unfold Hart.slotOf at hn
  rw [List.find?_eq_none] at hn
  exact hn k (mem_slotNos k) (by simp [hv])

theorem passed_wg {h : Hart} {k : BitVec 4} (hv : (h.slot k).valid = true) (v : Word) : Passed h (h.wg (h.slot k).dest v) := by
  refine ⟨?_, fun j => by simp, fun r hr => ?_, ?_, ?_, ?_⟩
  · unfold Hart.wg; split <;> rfl
  · rw [Hart.rg_wg, if_neg]
    rintro ⟨rfl, _⟩
    exact slotOf_of_valid hv hr
  all_goals (unfold Hart.wg; split <;> rfl)

theorem passed_setSlot {h : Hart} {k : BitVec 4} (sl : Slot) (hv : sl.valid = (h.slot k).valid) (hd : sl.dest = (h.slot k).dest) :
    Passed h (h.setSlot k sl) := by
  refine ⟨rfl, fun j => ?_, fun _ _ => rfl, rfl, rfl, rfl⟩
  rw [Hart.slot_setSlot]; split
  · subst_vars; exact ⟨hv, hd⟩
  · exact ⟨rfl, rfl⟩

theorem passed_evalSlot {h : Hart} {k : BitVec 4} (hv : (h.slot k).valid = true) (msg : Bool) (off : Word) : Passed h (h.evalSlot k msg off) := by
  unfold Hart.evalSlot
  refine (passed_wg hv _).trans ((passed_raiseFlags _ _ _).trans ((passed_setSlot _ ?_ ?_).trans ((passed_count _ _ _).trans (passed_markFor _ _))))
  · have := ((passed_wg hv (evalSteps h (h.slot k).dest (h.slot k).steps 0 0).val).trans (passed_raiseFlags _ (evalSteps h (h.slot k).dest (h.slot k).steps 0 0).fl (arecEval k msg off))).slots k
    exact this.1.symm
  · have := ((passed_wg hv (evalSteps h (h.slot k).dest (h.slot k).steps 0 0).val).trans (passed_raiseFlags _ (evalSteps h (h.slot k).dest (h.slot k).steps 0 0).fl (arecEval k msg off))).slots k
    exact this.2.symm

theorem nextDirty_valid {h : Hart} {k : BitVec 4} (e : h.nextDirty = some k) : (h.slot k).valid = true := by
  unfold Hart.nextDirty at e
  suffices H : ∀ (l : List (BitVec 4)) (b : Option (BitVec 4)), (∀ j, b = some j → (h.slot j).valid = true) →
      ∀ j, l.foldl (fun best k =>
        let sl := h.slot k
        if sl.valid && sl.dirty then
          match best with
          | none => some k
          | some b =>
            let t := h.slot b
            if sl.level.toNat * 32 + sl.dest.toNat < t.level.toNat * 32 + t.dest.toNat then some k else best
        else best) b = some j → (h.slot j).valid = true from
    H slotNos none (fun _ hj => nomatch hj) k e
  intro l
  induction l with
  | nil => exact fun b hb j hj => hb j hj
  | cons x xs ih =>
    intro b hb j hj
    refine ih _ ?_ j hj
    intro i hi
    simp only at hi
    split at hi
    · rename_i hx
      simp only [Bool.and_eq_true] at hx
      split at hi
      · cases hi; exact hx.1
      · split at hi
        · cases hi; exact hx.1
        · exact hb _ hi
    · exact hb _ hi

theorem passed_drainDirty (msg : Bool) (off : Word) (n : Nat) (h : Hart) : Passed h (Hart.drainDirty msg off n h) := by
  induction n generalizing h with
  | zero => exact .refl h
  | succ n ih =>
    unfold Hart.drainDirty
    split
    · exact .refl h
    · rename_i k e; exact (passed_evalSlot (nextDirty_valid e) msg off).trans (ih _)

/-- The evaluation pass (05 R143) changes only bound registers, the flags, the counters and the marks of slots. -/
theorem passed_evaluateBindings (h : Hart) (msg : Bool) (off : Word) : Passed h (h.evaluateBindings msg off) := by
  unfold Hart.evaluateBindings; split
  · exact .refl h
  · exact (passed_count _ _ _).trans (passed_drainDirty _ _ _ _)

/-! Without bindings. -/

theorem unbound_slotOf {h : Hart} (u : h.unbound) (r : BitVec 5) : h.slotOf r = none := by
  unfold Hart.slotOf; rw [List.find?_eq_none]; intro k _; simp [u k]

theorem unbound_nextDirty {h : Hart} (u : h.unbound) : h.nextDirty = none := by
  cases e : h.nextDirty with
  | none => rfl
  | some k => exact absurd (nextDirty_valid e) (by simp [u k])

theorem unbound_of_passed {h t : Hart} (p : Passed h t) (u : h.unbound) : t.unbound := fun k => (p.slots k).1.trans (u k)

theorem unbound_evaluateBindings {h : Hart} (u : h.unbound) (msg : Bool) (off : Word) : h.evaluateBindings msg off = h := by
  unfold Hart.evaluateBindings; simp [unbound_nextDirty u]

theorem unbound_markFor_binds {h : Hart} (u : h.unbound) (ws : List Operand) : (h.markFor ws).binds = h.binds := by
  unfold Hart.markFor; simp only; split
  · rfl
  · ext i hi : 1
    have : (h.slot (BitVec.ofNat 4 i)).valid = false := u _
    have e : (BitVec.ofNat 4 i).toNat = i := by simp; omega
    simp only [Hart.slot, Vector.get_eq_getElem, e] at this
    simp [this]

theorem countIn_fl (h : Hart) (e n k : Nat) (hk : k < 4) :
    (h.countIn e n k hk).aflags = h.aflags ∧ (h.countIn e n k hk).arec = h.arec ∧ (h.countIn e n k hk).binds = h.binds ∧ (h.countIn e n k hk).g = h.g := by
  unfold Hart.countIn; split <;> simp

theorem count_fl (h : Hart) (e n : Nat) :
    (h.count e n).aflags = h.aflags ∧ (h.count e n).arec = h.arec ∧ (h.count e n).binds = h.binds ∧ (h.count e n).g = h.g := by
  unfold Hart.count; split <;> simp [countIn_fl]

theorem markFor_fl (h : Hart) (ws : List Operand) : (h.markFor ws).aflags = h.aflags ∧ (h.markFor ws).arec = h.arec := by
  unfold Hart.markFor; simp only; split <;> simp

theorem raiseFlags_binds (h : Hart) (fl : Flags) (r : Word) : (h.raiseFlags fl r).binds = h.binds := by
  unfold Hart.raiseFlags; split
  · rfl
  · split <;> rfl

theorem raiseFlags_aflags (h : Hart) (fl : Flags) (r : Word) : (h.raiseFlags fl r).aflags = h.aflags ||| fl.setWidth 64 := by
  unfold Hart.raiseFlags; split
  · subst_vars; simp
  · split <;> rfl

theorem raiseFlags_arec (h : Hart) (fl : Flags) : (h.raiseFlags fl (arecInstr h.pc)).arec = arecAfter h fl := by
  unfold Hart.raiseFlags arecAfter
  by_cases hf : fl = 0
  · simp [hf]
  · rw [if_neg hf]; simp only [hf, false_or]; split <;> simp_all

/-! Retiring. -/

/-- The hart part of `Wrote`. -/
structure HartWrote (h t : Hart) (ws : List (BitVec 5 × Word)) (next : Word) (fl : Flags) : Prop where
  rest : t.rest = h.rest
  outst : t.outst.map (fun o => { o with credit := 0 }) = h.outst.map (fun o => { o with credit := 0 })
  pc : t.pc = next
  unblocked : t.block = none
  regs : ∀ r, r = 0 ∨ h.slotOf r = none → t.rg r = (h.writeAll ws).rg r
  flags : h.unbound → t.aflags = h.aflags ||| fl.setWidth 64 ∧ t.arec = arecAfter h fl ∧ t.binds = h.binds

theorem writeAll_rest (h : Hart) (ws : List (BitVec 5 × Word)) : (h.writeAll ws).rest = h.rest ∧ (h.writeAll ws).pc = h.pc ∧
    (h.writeAll ws).outst = h.outst ∧ (h.writeAll ws).aflags = h.aflags ∧ (h.writeAll ws).arec = h.arec ∧ (h.writeAll ws).binds = h.binds := by
  unfold Hart.writeAll
  induction ws generalizing h with
  | nil => simp
  | cons w ws ih =>
    rw [List.foldl_cons]
    obtain ⟨a, b, c, d, e, f⟩ := ih (h.wg w.1 w.2)
    have : (h.wg w.1 w.2).rest = h.rest ∧ (h.wg w.1 w.2).pc = h.pc ∧ (h.wg w.1 w.2).outst = h.outst ∧ (h.wg w.1 w.2).aflags = h.aflags ∧
        (h.wg w.1 w.2).arec = h.arec ∧ (h.wg w.1 w.2).binds = h.binds := by unfold Hart.wg; split <;> simp [Hart.rest]
    rw [a, b, c, d, e, f]; exact this

theorem rg_zero (h : Hart) : h.rg 0 = 0 := rfl

theorem retireTo_goOn (h : Hart) (next : Word) (ms : List Operand) (fl : Flags) :
    h.retireTo next ms fl = (((((h.raiseFlags fl (arecInstr h.pc)).count 2 1).markFor ms).evaluateBindings false h.pc).goOn next) := rfl

theorem goOn_facts (h : Hart) (next : Word) : (h.goOn next).rest = h.rest ∧
    (h.goOn next).outst.map (fun o => { o with credit := 0 }) = h.outst.map (fun o => { o with credit := 0 }) ∧ (h.goOn next).pc = next ∧
    (h.goOn next).block = none ∧ (∀ r, (h.goOn next).rg r = h.rg r) ∧ (h.goOn next).aflags = h.aflags ∧ (h.goOn next).arec = h.arec ∧
    (h.goOn next).binds = h.binds := by
  refine ⟨rfl, ?_, rfl, rfl, fun _ => rfl, rfl, rfl, rfl⟩
  show List.map _ (List.map _ _) = _
  rw [List.map_map]; rfl

/-- Retiring with register writes (02 R45, 05 R142, R153). -/
theorem hartWrote_retireTo (h : Hart) (ws : List (BitVec 5 × Word)) (ms : List Operand) (next : Word) (fl : Flags) :
    HartWrote h ((h.writeAll ws).retireTo next ms fl) ws next fl := by
  obtain ⟨a, b, c, d, e, f⟩ := writeAll_rest h ws
  have p := (passed_raiseFlags (h.writeAll ws) fl (arecInstr (h.writeAll ws).pc)).trans ((passed_count _ 2 1).trans
    ((passed_markFor _ ms).trans (passed_evaluateBindings _ false (h.writeAll ws).pc)))
  have sl : ∀ k, (h.writeAll ws).slot k = h.slot k := fun k => by simp only [Hart.slot, f]
  rw [retireTo_goOn]
  obtain ⟨g1, g2, g3, g4, g5, g6, g7, g8⟩ := goOn_facts
    (((((h.writeAll ws).raiseFlags fl (arecInstr (h.writeAll ws).pc)).count 2 1).markFor ms).evaluateBindings false (h.writeAll ws).pc) next
  refine ⟨g1.trans (p.rest.trans a), g2.trans ?_, g3, g4, ?_, ?_⟩
  · rw [p.same.2.1, c]
  · intro r hr
    rw [g5]
    rcases hr with rfl | hr
    · rfl
    · exact p.regs r ((slotOf_congr (fun k => by simp [sl k]) r).trans hr)
  · intro u
    have u1 : (h.writeAll ws).unbound := fun k => by rw [sl k]; exact u k
    have u2 := unbound_of_passed ((passed_raiseFlags (h.writeAll ws) fl (arecInstr (h.writeAll ws).pc)).trans (passed_count _ 2 1)) u1
    have u3 := unbound_of_passed (passed_markFor _ ms) u2
    rw [g6, g7, g8, unbound_evaluateBindings u3]
    refine ⟨?_, ?_, ?_⟩
    · rw [(markFor_fl _ _).1, (count_fl _ _ _).1, raiseFlags_aflags, d]
    · rw [(markFor_fl _ _).2, (count_fl _ _ _).2.1, raiseFlags_arec, arecAfter, e, b]; rfl
    · rw [unbound_markFor_binds u2, (count_fl _ _ _).2.2.1, raiseFlags_binds, f]

theorem HartWrote.endCredit {h t : Hart} {ws : List (BitVec 5 × Word)} {next : Word} {fl : Flags} (x : HartWrote h t ws next fl) :
    HartWrote h t.endCredit ws next fl :=
  ⟨x.rest, by rw [← x.outst]; show List.map _ (List.map _ _) = _; rw [List.map_map]; rfl, x.pc, x.unblocked, x.regs, x.flags⟩

/-- `Wrote` from what becomes of the hart. -/
theorem wrote_mapHart {s : State} {f : Hart → Hart} {ws : List (BitVec 5 × Word)} {next : Word} {fl : Flags}
    (x : HartWrote s.hart (f s.hart) ws next fl) : Wrote s (s.mapHart f) ws next fl := by
  refine ⟨⟨?_, ?_⟩, ?_, ?_, ?_, ?_⟩ <;> simp only [State.hart_mapHart]
  · have e := Hart.eq_of_rest x.rest
    unfold State.mapHart State.modHart State.modCore Core.modHart
    exact congrArg _ (congrArg _ e)
  · exact x.outst
  · exact x.pc
  · exact x.unblocked
  · exact x.regs
  · exact x.flags

theorem wrote_writeRetire (s : State) (d : BitVec 5) (v : Word) (fl : Flags) (len : Nat) :
    Wrote s (s.writeRetire d v fl len) [(d, v)] (s.hart.pc + BitVec.ofNat 64 len) fl := by
  refine wrote_mapHart ?_
  have := hartWrote_retireTo s.hart [(d, v)] [.g d] (s.hart.pc + BitVec.ofNat 64 len) fl
  have e : (s.hart.wg d v).pc = s.hart.pc := by unfold Hart.wg; split <;> rfl
  show HartWrote s.hart ((s.hart.wg d v).retireTo ((s.hart.wg d v).pc + _) _ _) _ _ _
  rw [e]; exact this

theorem wrote_retire (s : State) (len : Nat) : Wrote s (s.retire len) [] (s.hart.pc + BitVec.ofNat 64 len) 0 :=
  wrote_mapHart (hartWrote_retireTo s.hart [] [] (s.hart.pc + BitVec.ofNat 64 len) 0)

theorem wrote_transfer (s : State) (t : Word) (d : BitVec 5) (v : Word) : Wrote s (s.transfer t d v) [(d, v)] t 0 :=
  wrote_mapHart (hartWrote_retireTo s.hart [(d, v)] [.g d] t 0).endCredit

/-! Checks. -/

theorem boundCheck_writable {s : State} {d : BitVec 5} (w : s.writable d) : s.boundCheck d = none := by
  unfold State.boundCheck
  rcases w with rfl | w
  · rfl
  · split <;> simp [w]

theorem guarded_nil (s : State) (k : State → State) : s.guarded [] k = k s := rfl

theorem guarded_none (s : State) (cs : List (Option Trap)) (k : State → State) : s.guarded (none :: cs) k = s.guarded cs k := by
  simp [State.guarded]

theorem guarded_some (s : State) (t : Trap) (cs : List (Option Trap)) (k : State → State) : s.guarded (some t :: cs) k = s.raise t := by
  simp [State.guarded]

theorem guarded_bound {s : State} {d : BitVec 5} (w : s.writable d) (k : State → State) : s.guarded [s.boundCheck d] k = k s := by
  simp [State.guarded, boundCheck_writable w]

theorem compute_writable {s : State} {d : BitVec 5} (w : s.writable d) (r : Fl Word) (len : Nat) :
    s.compute d r len = s.writeRetire d r.val r.fl len := by
  unfold State.compute; rw [guarded_bound w]

/-- An instruction of one result retires with it (04 R97). -/
theorem wrote_compute {s : State} {d : BitVec 5} (w : s.writable d) (r : Fl Word) (len : Nat) :
    Wrote s (s.compute d r len) [(d, r.val)] (s.hart.pc + BitVec.ofNat 64 len) r.fl := by
  rw [compute_writable w]; exact wrote_writeRetire s d r.val r.fl len

/-! Taking a trap (06 R173). -/

theorem raise_ready {s : State} (r : s.trapReady) (t : Trap) :
    s.raise t = s.modHart s.cur.core s.cur.hart (fun h => h.enter false t.cause h.at t.addr t.info) := by
  have e : s.hartOf s.cur.core s.cur.hart = s.hart := rfl
  have e2 : s.core s.cur.core = s.cc := rfl
  unfold State.raise State.enterTrap
  simp only [r.1, List.isEmpty_nil, if_true, e, e2, r.2.1, Bool.false_eq_true, Nat.not_le.mpr r.2.2, if_false]
  unfold State.modHart State.modCore Core.modHart
  rfl

theorem traps_of_raise {i : Instr} {s : State} {t : Trap} (r : s.trapReady) (e : exec i s = .next (s.raise t)) : Traps i s t.cause t.addr t.info := by
  unfold Traps
  rw [e, raise_ready r]
  simp [Hart.enter, b2n]

end Sys2Proof.Machine
end

