-- ==== Sys2Proof/Laws/Access.lean ====
section
/-! SUPPORT. What the shared operations of loads, stores and atomics answer: a load or a store performed at issue, a request
that stays outstanding, a posted access. -/

namespace Sys2Proof.Machine

theorem writeAll_g {a b : Hart} (ws : List (BitVec 5 × Word)) (e : a.g = b.g) : (a.writeAll ws).g = (b.writeAll ws).g := by
  unfold Hart.writeAll
  induction ws generalizing a b with
  | nil => exact e
  | cons w ws ih =>
    refine ih ?_
    show (a.wg w.1 w.2).g = (b.wg w.1 w.2).g
    unfold Hart.wg; split <;> simp [e]

theorem writeAll_rg {a b : Hart} (ws : List (BitVec 5 × Word)) (e : a.g = b.g) (r : BitVec 5) : (a.writeAll ws).rg r = (b.writeAll ws).rg r := by
  unfold Hart.rg; rw [writeAll_g ws e]

/-- A change of a hart that leaves what `Wrote` speaks of alone may come before a retirement. -/
theorem HartWrote.after {h x t : Hart} {ws : List (BitVec 5 × Word)} {next : Word} {fl : Flags} (w : HartWrote x t ws next fl)
    (p : Passed h x) (f : x.aflags = h.aflags ∧ x.arec = h.arec ∧ x.binds = h.binds ∧ x.g = h.g) : HartWrote h t ws next fl := by
  refine ⟨w.rest.trans p.rest, ?_, w.pc, w.unblocked, ?_, ?_⟩
  · rw [w.outst, p.same.2.1]
  · intro r hr
    rw [w.regs r (hr.imp_right (fun q => (slotOf_congr p.slots r).trans q)), writeAll_rg ws f.2.2.2]
  · intro u
    have := w.flags (unbound_of_passed p u)
    rw [f.1, f.2.2.1] at this
    refine ⟨this.1, ?_, this.2.2⟩
    rw [this.2.1, arecAfter, arecAfter, f.2.1, p.same.1]

theorem hartWrote_count {h t : Hart} {e n : Nat} {ws : List (BitVec 5 × Word)} {next : Word} {fl : Flags}
    (x : HartWrote (h.count e n) t ws next fl) : HartWrote h t ws next fl := x.after (passed_count h e n) (count_fl h e n)

theorem wrote_mapCore {s : State} {c : Core → Core} {f : Hart → Hart} {ws : List (BitVec 5 × Word)} {next : Word} {fl : Flags}
    (x : HartWrote ((c s.cc).hart s.cur.hart) (f ((c s.cc).hart s.cur.hart)) ws next fl) : Wrote (s.mapCore c) ((s.mapCore c).mapHart f) ws next fl := by
  refine wrote_mapHart ?_
  have : (s.mapCore c).hart = (c s.cc).hart s.cur.hart := by simp [State.hart]
  rw [this]; exact x

/-- A store performed at issue, without a watchpoint (04 R123). -/
theorem wrote_storedNow {s : State} {ea : Word} {n : Nat} (w : s.watchNow ea n false true = none) (len : Nat) :
    Wrote s (s.storedNow ea n len) [] (s.hart.pc + BitVec.ofNat 64 len) 0 := by
  unfold State.storedNow
  simp only [w]
  exact wrote_mapHart (hartWrote_retireTo s.hart [] [] (s.hart.pc + BitVec.ofNat 64 len) 0)

/-- A load performed at issue, without a watchpoint and without poison (04 R122). -/
theorem wrote_loadNow {s : State} {ea : Word} {n : Nat} (w : s.watchNow ea n true false = none) (dst : LoadDst) (v event len : Nat) :
    Wrote s (s.loadNow ea n dst v false event len) (dst.writes v) (s.hart.pc + BitVec.ofNat 64 len) 0 := by
  unfold State.loadNow
  simp only [w]
  refine wrote_mapHart (hartWrote_count (e := event) (n := 1) ?_)
  have := hartWrote_retireTo (s.hart.count event 1) (dst.writes v) (dst.dests.map .g) (s.hart.pc + BitVec.ofNat 64 len) 0
  have e : ((s.hart.count event 1).writeAll (dst.writes v)).pc = s.hart.pc := (writeAll_rest _ _).2.1.trans (passed_count s.hart event 1).same.1
  show HartWrote (s.hart.count event 1) (((s.hart.count event 1).writeAll (dst.writes v)).retireTo (((s.hart.count event 1).writeAll (dst.writes v)).pc + _) _ _) _ _ _
  rw [e]; exact this

/-- A long-latency instruction goes on its way (02 R45). -/
theorem asked_issueLong (s : State) (r : Req) (dests : List (BitVec 5)) (la : Nat) (acq : Bool) (len : Nat) :
    Asked s (s.issueLong r dests la acq len) r dests la acq (s.hart.pc + BitVec.ofNat 64 len) := by
  have e : (s.send r).hart = s.hart := rfl
  refine ⟨rfl, ?_, ?_⟩
  · unfold State.issueLong
    simp only [State.hart_mapHart, e]
    rfl
  · have h : (s.issueLong r dests la acq len).hart.outst = s.hart.spend.outst ++
        [{ id := s.nextId, pc := s.hart.pc, dests := dests, credit := if s.hart.stepArm || s.hart.stepOnce then 0 else la, passed := false, acq := acq }] := by
      unfold State.issueLong
      simp only [State.hart_mapHart, e]
    rw [h]
    rfl

theorem mapHart_congr {s : State} {f g : Hart → Hart} (e : f s.hart = g s.hart) : s.mapHart f = s.mapHart g := by
  unfold State.mapHart State.modHart State.modCore Core.modHart
  show s.setCore _ (s.cc.setHart _ (f s.hart)) = s.setCore _ (s.cc.setHart _ (g s.hart))
  rw [e]

/-- The counts of ORSCNT after one more posted access. -/
def Hart.posted (h : Hart) (fab : Bool) : Hart :=
  { h with orsLocal := if fab then h.orsLocal else h.orsLocal + 1, orsFab := if fab then h.orsFab + 1 else h.orsFab }

/-- The state while a posted access of the executing hart goes on its way. -/
def State.posting (s : State) (r : Req) (fab : Bool) : State :=
  { s.mapHart (fun h => h.posted fab) with
    net := s.net ++ [{ r with id := s.nextId }], nextId := s.nextId + 1,
    launches := updWhere (fun l => l.id == r.launch) (fun l => { l with sentCount := l.sentCount + 1 }) s.launches }

theorem countIn_posted (h : Hart) (fab : Bool) (e n k : Nat) (hk : k < 4) : (h.posted fab).countIn e n k hk = (h.countIn e n k hk).posted fab := by
  unfold Hart.countIn
  by_cases c : counts (h.cntsel.get ⟨k, hk⟩) h.mode e = true
  · rw [if_pos c, if_pos (show counts ((h.posted fab).cntsel.get ⟨k, hk⟩) (h.posted fab).mode e = true from c)]; rfl
  · rw [if_neg c, if_neg (show ¬ counts ((h.posted fab).cntsel.get ⟨k, hk⟩) (h.posted fab).mode e = true from c)]

theorem count_posted (h : Hart) (fab : Bool) (e n : Nat) : (h.posted fab).count e n = (h.count e n).posted fab := by
  unfold Hart.count; split
  · rfl
  · simp only [countIn_posted]

theorem count_ors (h : Hart) (e n : Nat) : (h.count e n).orsLocal = h.orsLocal ∧ (h.count e n).orsFab = h.orsFab := by
  have := congrArg (fun x : Hart => (x.orsLocal, x.orsFab)) (passed_count h e n).rest
  exact ⟨congrArg Prod.fst this, congrArg Prod.snd this⟩

/-- The parts of the state that sending a request of launch `r.launch` changes beside the hart. -/
def State.sentOn (s x : State) (r : Req) : State :=
  { s with net := x.net ++ [{ r with id := x.nextId }], nextId := x.nextId + 1,
           launches := updWhere (fun l => l.id == r.launch) (fun l => { l with sentCount := l.sentCount + 1 }) x.launches }

theorem send_mapHart (s : State) (g : Hart → Hart) (r : Req) (len : Nat) :
    (((s.mapHart g).modLaunch r.launch (fun l => { l with sentCount := l.sentCount + 1 })).send r).retire len =
      ((s.mapHart g).mapHart (fun h => h.retire len [] 0)).sentOn s r := rfl

theorem posting_mapHart (s : State) (fab : Bool) (f : Hart → Hart) (r : Req) :
    (s.posting r fab).mapHart f = ((s.mapHart (fun h => h.posted fab)).mapHart f).sentOn s r := rfl

/-- Sending a posted access and retiring: the count of ORSCNT and the sent count of the launch are up by one (13 R317). -/
theorem wrote_post (s : State) (cls : Class) (kind : ReqKind) (ea : Word) (fab : Bool) (len : Nat) :
    Wrote (s.posting (s.reqOf cls kind ea) fab) ((s.post cls kind ea fab).retire len) [] (s.hart.pc + BitVec.ofNat 64 len) 0 := by
  have key : (s.post cls kind ea fab).retire len =
      (s.posting (s.reqOf cls kind ea) fab).mapHart (fun h => (h.count 7 1).retire len [] 0) := by
    have h1 : s.mapHart (fun h => { h.count 7 1 with orsLocal := if fab then h.orsLocal else h.orsLocal + 1, orsFab := if fab then h.orsFab + 1 else h.orsFab }) =
        s.mapHart (fun h => (h.posted fab).count 7 1) := by
      refine mapHart_congr ?_
      rw [count_posted]
      unfold Hart.posted
      simp only [(count_ors s.hart 7 1).1, (count_ors s.hart 7 1).2]
    have h2 : (s.mapHart (fun h => (h.posted fab).count 7 1)).mapHart (fun h => h.retire len [] 0) =
        (s.mapHart (fun h => h.posted fab)).mapHart (fun h => (h.count 7 1).retire len [] 0) := by simp only [State.mapHart_mapHart]
    unfold State.post
    simp only [h1]
    rw [send_mapHart, posting_mapHart, h2]
  rw [key]
  have e : (s.posting (s.reqOf cls kind ea) fab).hart = s.hart.posted fab := State.hart_mapHart s _
  refine wrote_mapHart (hartWrote_count (e := 7) (n := 1) ?_)
  have := hartWrote_retireTo ((s.hart.posted fab).count 7 1) [] [] (s.hart.pc + BitVec.ofNat 64 len) 0
  have e2 : ((s.hart.posted fab).count 7 1).pc = s.hart.pc := (passed_count (s.hart.posted fab) 7 1).same.1
  rw [e]
  show HartWrote _ (((s.hart.posted fab).count 7 1).retireTo (((s.hart.posted fab).count 7 1).pc + _) _ _) _ _ _
  rw [e2]; exact this

/-- An instruction that posts an access with room for it (13 R317, R320). -/
theorem posts_of {i : Instr} {s : State} {cls : Class} {kind : ReqKind} {ea : Word} {fab : Bool} (hr : s.hart.postRoom = true)
    (e : exec i s = .next (s.postNow cls kind ea fab 4)) : Posts i s (s.reqOf cls kind ea) fab := by
  refine ⟨_, e, ?_⟩
  unfold State.postNow
  rw [if_pos hr]
  exact wrote_post s cls kind ea fab 4

end Sys2Proof.Machine
end

