-- ==== Sys2Proof/Laws/PerInstr.lean ====
section
/-! SUPPORT. A statement about every instruction as syntax, by one lemma for each constructor: an instruction with a word is one
that a hart fetches, so it is no event and no micro-operation. -/

namespace Sys2Proof.Laws.Encoded

set_option Elab.async false

/-- An instruction that `encode` gives a word is neither an event of the machine nor a Casement micro-operation. -/
def Statement (i : Instr) : Prop := ∀ w, encode i = some w → Machine.isEvent i = false ∧ encodeMicro i = none

theorem add (d : BitVec 5) (a : BitVec 5) (b : BitVec 5) (m : BitVec 1) (n : BitVec 1) : Statement (.add d a b m n) := fun _ _ => ⟨rfl, rfl⟩
theorem sub (d : BitVec 5) (a : BitVec 5) (b : BitVec 5) (m : BitVec 1) (n : BitVec 1) : Statement (.sub d a b m n) := fun _ _ => ⟨rfl, rfl⟩
theorem and (d : BitVec 5) (a : BitVec 5) (b : BitVec 5) (m : BitVec 1) (n : BitVec 1) : Statement (.and d a b m n) := fun _ _ => ⟨rfl, rfl⟩
theorem or (d : BitVec 5) (a : BitVec 5) (b : BitVec 5) (m : BitVec 1) (n : BitVec 1) : Statement (.or d a b m n) := fun _ _ => ⟨rfl, rfl⟩
theorem xor (d : BitVec 5) (a : BitVec 5) (b : BitVec 5) (m : BitVec 1) (n : BitVec 1) : Statement (.xor d a b m n) := fun _ _ => ⟨rfl, rfl⟩
theorem andn (d : BitVec 5) (a : BitVec 5) (b : BitVec 5) (m : BitVec 1) (n : BitVec 1) : Statement (.andn d a b m n) := fun _ _ => ⟨rfl, rfl⟩
theorem shl (d : BitVec 5) (a : BitVec 5) (b : BitVec 5) (m : BitVec 1) (n : BitVec 1) : Statement (.shl d a b m n) := fun _ _ => ⟨rfl, rfl⟩
theorem shr (d : BitVec 5) (a : BitVec 5) (b : BitVec 5) (m : BitVec 1) (n : BitVec 1) : Statement (.shr d a b m n) := fun _ _ => ⟨rfl, rfl⟩
theorem sra (d : BitVec 5) (a : BitVec 5) (b : BitVec 5) (m : BitVec 1) (n : BitVec 1) : Statement (.sra d a b m n) := fun _ _ => ⟨rfl, rfl⟩
theorem mul (d : BitVec 5) (a : BitVec 5) (b : BitVec 5) (m : BitVec 1) (n : BitVec 1) : Statement (.mul d a b m n) := fun _ _ => ⟨rfl, rfl⟩
theorem mulh (d : BitVec 5) (a : BitVec 5) (b : BitVec 5) (m : BitVec 1) (n : BitVec 1) : Statement (.mulh d a b m n) := fun _ _ => ⟨rfl, rfl⟩
theorem mulhu (d : BitVec 5) (a : BitVec 5) (b : BitVec 5) (m : BitVec 1) (n : BitVec 1) : Statement (.mulhu d a b m n) := fun _ _ => ⟨rfl, rfl⟩
theorem div (d : BitVec 5) (a : BitVec 5) (b : BitVec 5) (m : BitVec 1) (n : BitVec 1) (l : BitVec 4) : Statement (.div d a b m n l) := fun _ _ => ⟨rfl, rfl⟩
theorem divu (d : BitVec 5) (a : BitVec 5) (b : BitVec 5) (m : BitVec 1) (n : BitVec 1) (l : BitVec 4) : Statement (.divu d a b m n l) := fun _ _ => ⟨rfl, rfl⟩
theorem rem (d : BitVec 5) (a : BitVec 5) (b : BitVec 5) (m : BitVec 1) (n : BitVec 1) (l : BitVec 4) : Statement (.rem d a b m n l) := fun _ _ => ⟨rfl, rfl⟩
theorem remu (d : BitVec 5) (a : BitVec 5) (b : BitVec 5) (m : BitVec 1) (n : BitVec 1) (l : BitVec 4) : Statement (.remu d a b m n l) := fun _ _ => ⟨rfl, rfl⟩
theorem min (d : BitVec 5) (a : BitVec 5) (b : BitVec 5) (m : BitVec 1) (n : BitVec 1) : Statement (.min d a b m n) := fun _ _ => ⟨rfl, rfl⟩
theorem max (d : BitVec 5) (a : BitVec 5) (b : BitVec 5) (m : BitVec 1) (n : BitVec 1) : Statement (.max d a b m n) := fun _ _ => ⟨rfl, rfl⟩
theorem minu (d : BitVec 5) (a : BitVec 5) (b : BitVec 5) (m : BitVec 1) (n : BitVec 1) : Statement (.minu d a b m n) := fun _ _ => ⟨rfl, rfl⟩
theorem maxu (d : BitVec 5) (a : BitVec 5) (b : BitVec 5) (m : BitVec 1) (n : BitVec 1) : Statement (.maxu d a b m n) := fun _ _ => ⟨rfl, rfl⟩
theorem slt (d : BitVec 5) (a : BitVec 5) (b : BitVec 5) (m : BitVec 1) (n : BitVec 1) : Statement (.slt d a b m n) := fun _ _ => ⟨rfl, rfl⟩
theorem sltu (d : BitVec 5) (a : BitVec 5) (b : BitVec 5) (m : BitVec 1) (n : BitVec 1) : Statement (.sltu d a b m n) := fun _ _ => ⟨rfl, rfl⟩
theorem seq (d : BitVec 5) (a : BitVec 5) (b : BitVec 5) (m : BitVec 1) (n : BitVec 1) : Statement (.seq d a b m n) := fun _ _ => ⟨rfl, rfl⟩
theorem sne (d : BitVec 5) (a : BitVec 5) (b : BitVec 5) (m : BitVec 1) (n : BitVec 1) : Statement (.sne d a b m n) := fun _ _ => ⟨rfl, rfl⟩
theorem sel (d : BitVec 5) (a : BitVec 5) (b : BitVec 5) (m : BitVec 1) (n : BitVec 1) : Statement (.sel d a b m n) := fun _ _ => ⟨rfl, rfl⟩
theorem clz (d : BitVec 5) (a : BitVec 5) (m : BitVec 1) : Statement (.clz d a m) := fun _ _ => ⟨rfl, rfl⟩
theorem ctz (d : BitVec 5) (a : BitVec 5) (m : BitVec 1) : Statement (.ctz d a m) := fun _ _ => ⟨rfl, rfl⟩
theorem popc (d : BitVec 5) (a : BitVec 5) (m : BitVec 1) : Statement (.popc d a m) := fun _ _ => ⟨rfl, rfl⟩
theorem abs (d : BitVec 5) (a : BitVec 5) (m : BitVec 1) : Statement (.abs d a m) := fun _ _ => ⟨rfl, rfl⟩
theorem addv (d : BitVec 5) (a : BitVec 5) (b : BitVec 5) (m : BitVec 1) (n : BitVec 1) : Statement (.addv d a b m n) := fun _ _ => ⟨rfl, rfl⟩
theorem addi (d : BitVec 5) (a : BitVec 5) (i : BitVec 16) : Statement (.addi d a i) := fun _ _ => ⟨rfl, rfl⟩
theorem andi (d : BitVec 5) (a : BitVec 5) (i : BitVec 16) : Statement (.andi d a i) := fun _ _ => ⟨rfl, rfl⟩
theorem ori (d : BitVec 5) (a : BitVec 5) (i : BitVec 16) : Statement (.ori d a i) := fun _ _ => ⟨rfl, rfl⟩
theorem xori (d : BitVec 5) (a : BitVec 5) (i : BitVec 16) : Statement (.xori d a i) := fun _ _ => ⟨rfl, rfl⟩
theorem slti (d : BitVec 5) (a : BitVec 5) (i : BitVec 16) : Statement (.slti d a i) := fun _ _ => ⟨rfl, rfl⟩
theorem sltiu (d : BitVec 5) (a : BitVec 5) (i : BitVec 16) : Statement (.sltiu d a i) := fun _ _ => ⟨rfl, rfl⟩
theorem shli (d : BitVec 5) (a : BitVec 5) (k : BitVec 6) : Statement (.shli d a k) := fun _ _ => ⟨rfl, rfl⟩
theorem shri (d : BitVec 5) (a : BitVec 5) (k : BitVec 6) : Statement (.shri d a k) := fun _ _ => ⟨rfl, rfl⟩
theorem srai (d : BitVec 5) (a : BitVec 5) (k : BitVec 6) : Statement (.srai d a k) := fun _ _ => ⟨rfl, rfl⟩
theorem movi (d : BitVec 5) (i : BitVec 16) : Statement (.movi d i) := fun _ _ => ⟨rfl, rfl⟩
theorem fadd (d : BitVec 5) (a : BitVec 5) (b : BitVec 5) (m : BitVec 1) (n : BitVec 1) (r : BitVec 3) (p : BitVec 1) : Statement (.fadd d a b m n r p) := fun _ _ => ⟨rfl, rfl⟩
theorem fsub (d : BitVec 5) (a : BitVec 5) (b : BitVec 5) (m : BitVec 1) (n : BitVec 1) (r : BitVec 3) (p : BitVec 1) : Statement (.fsub d a b m n r p) := fun _ _ => ⟨rfl, rfl⟩
theorem fmul (d : BitVec 5) (a : BitVec 5) (b : BitVec 5) (m : BitVec 1) (n : BitVec 1) (r : BitVec 3) (p : BitVec 1) : Statement (.fmul d a b m n r p) := fun _ _ => ⟨rfl, rfl⟩
theorem fdiv (d : BitVec 5) (a : BitVec 5) (b : BitVec 5) (m : BitVec 1) (n : BitVec 1) (r : BitVec 3) (p : BitVec 1) : Statement (.fdiv d a b m n r p) := fun _ _ => ⟨rfl, rfl⟩
theorem fsqrt (d : BitVec 5) (a : BitVec 5) (m : BitVec 1) (r : BitVec 3) (p : BitVec 1) : Statement (.fsqrt d a m r p) := fun _ _ => ⟨rfl, rfl⟩
theorem fma (d : BitVec 5) (a : BitVec 5) (b : BitVec 5) (m : BitVec 1) (n : BitVec 1) (r : BitVec 3) (p : BitVec 1) : Statement (.fma d a b m n r p) := fun _ _ => ⟨rfl, rfl⟩
theorem fms (d : BitVec 5) (a : BitVec 5) (b : BitVec 5) (m : BitVec 1) (n : BitVec 1) (r : BitVec 3) (p : BitVec 1) : Statement (.fms d a b m n r p) := fun _ _ => ⟨rfl, rfl⟩
theorem fmin (d : BitVec 5) (a : BitVec 5) (b : BitVec 5) (m : BitVec 1) (n : BitVec 1) (p : BitVec 1) : Statement (.fmin d a b m n p) := fun _ _ => ⟨rfl, rfl⟩
theorem fmax (d : BitVec 5) (a : BitVec 5) (b : BitVec 5) (m : BitVec 1) (n : BitVec 1) (p : BitVec 1) : Statement (.fmax d a b m n p) := fun _ _ => ⟨rfl, rfl⟩
theorem feq (d : BitVec 5) (a : BitVec 5) (b : BitVec 5) (m : BitVec 1) (n : BitVec 1) (p : BitVec 1) : Statement (.feq d a b m n p) := fun _ _ => ⟨rfl, rfl⟩
theorem flt (d : BitVec 5) (a : BitVec 5) (b : BitVec 5) (m : BitVec 1) (n : BitVec 1) (p : BitVec 1) : Statement (.flt d a b m n p) := fun _ _ => ⟨rfl, rfl⟩
theorem fle (d : BitVec 5) (a : BitVec 5) (b : BitVec 5) (m : BitVec 1) (n : BitVec 1) (p : BitVec 1) : Statement (.fle d a b m n p) := fun _ _ => ⟨rfl, rfl⟩
theorem fclass (d : BitVec 5) (a : BitVec 5) (m : BitVec 1) (p : BitVec 1) : Statement (.fclass d a m p) := fun _ _ => ⟨rfl, rfl⟩
theorem fcvt (d : BitVec 5) (a : BitVec 5) (c : BitVec 4) (m : BitVec 1) (r : BitVec 3) : Statement (.fcvt d a c m r) := fun _ _ => ⟨rfl, rfl⟩
theorem ladd (d : BitVec 5) (a : BitVec 5) (b : BitVec 5) (m : BitVec 1) (n : BitVec 1) (l : BitVec 4) : Statement (.ladd d a b m n l) := fun _ _ => ⟨rfl, rfl⟩
theorem lsub (d : BitVec 5) (a : BitVec 5) (b : BitVec 5) (m : BitVec 1) (n : BitVec 1) (l : BitVec 4) : Statement (.lsub d a b m n l) := fun _ _ => ⟨rfl, rfl⟩
theorem lmul (d : BitVec 5) (a : BitVec 5) (b : BitVec 5) (m : BitVec 1) (n : BitVec 1) (l : BitVec 4) : Statement (.lmul d a b m n l) := fun _ _ => ⟨rfl, rfl⟩
theorem ldiv (d : BitVec 5) (a : BitVec 5) (b : BitVec 5) (m : BitVec 1) (n : BitVec 1) (l : BitVec 4) : Statement (.ldiv d a b m n l) := fun _ _ => ⟨rfl, rfl⟩
theorem leq (d : BitVec 5) (a : BitVec 5) (b : BitVec 5) (m : BitVec 1) (n : BitVec 1) (l : BitVec 4) : Statement (.leq d a b m n l) := fun _ _ => ⟨rfl, rfl⟩
theorem llt (d : BitVec 5) (a : BitVec 5) (b : BitVec 5) (m : BitVec 1) (n : BitVec 1) (l : BitVec 4) : Statement (.llt d a b m n l) := fun _ _ => ⟨rfl, rfl⟩
theorem lcvt (d : BitVec 5) (a : BitVec 5) (s : BitVec 1) (c : BitVec 4) (m : BitVec 1) (l : BitVec 4) : Statement (.lcvt d a s c m l) := fun _ _ => ⟨rfl, rfl⟩
theorem llevel (d : BitVec 5) (a : BitVec 5) (m : BitVec 1) (l : BitVec 4) : Statement (.llevel d a m l) := fun _ _ => ⟨rfl, rfl⟩
theorem beq (a : BitVec 5) (b : BitVec 5) (o : BitVec 13) : Statement (.beq a b o) := fun _ _ => ⟨rfl, rfl⟩
theorem bne (a : BitVec 5) (b : BitVec 5) (o : BitVec 13) : Statement (.bne a b o) := fun _ _ => ⟨rfl, rfl⟩
theorem blt (a : BitVec 5) (b : BitVec 5) (o : BitVec 13) : Statement (.blt a b o) := fun _ _ => ⟨rfl, rfl⟩
theorem bge (a : BitVec 5) (b : BitVec 5) (o : BitVec 13) : Statement (.bge a b o) := fun _ _ => ⟨rfl, rfl⟩
theorem bltu (a : BitVec 5) (b : BitVec 5) (o : BitVec 13) : Statement (.bltu a b o) := fun _ _ => ⟨rfl, rfl⟩
theorem bgeu (a : BitVec 5) (b : BitVec 5) (o : BitVec 13) : Statement (.bgeu a b o) := fun _ _ => ⟨rfl, rfl⟩
theorem jmp (o : BitVec 26) : Statement (.jmp o) := fun _ _ => ⟨rfl, rfl⟩
theorem jal (o : BitVec 26) : Statement (.jal o) := fun _ _ => ⟨rfl, rfl⟩
theorem jalr (d : BitVec 5) (a : BitVec 5) (i : BitVec 16) : Statement (.jalr d a i) := fun _ _ => ⟨rfl, rfl⟩
theorem ld (d : BitVec 5) (a : BitVec 5) (l : BitVec 4) (z : BitVec 3) (o : BitVec 9) : Statement (.ld d a l z o) := fun _ _ => ⟨rfl, rfl⟩
theorem st (t : BitVec 5) (a : BitVec 5) (z : BitVec 2) (o : BitVec 9) : Statement (.st t a z o) := fun _ _ => ⟨rfl, rfl⟩
theorem lda (d : BitVec 5) (a : BitVec 5) (l : BitVec 4) (z : BitVec 2) (o : BitVec 9) : Statement (.lda d a l z o) := fun _ _ => ⟨rfl, rfl⟩
theorem str (t : BitVec 5) (a : BitVec 5) (z : BitVec 2) (o : BitVec 9) : Statement (.str t a z o) := fun _ _ => ⟨rfl, rfl⟩
theorem ldp (d : BitVec 5) (a : BitVec 5) (l : BitVec 4) (z : BitVec 1) (o : BitVec 9) : Statement (.ldp d a l z o) := fun _ _ => ⟨rfl, rfl⟩
theorem stp (t : BitVec 5) (a : BitVec 5) (z : BitVec 1) (o : BitVec 9) : Statement (.stp t a z o) := fun _ _ => ⟨rfl, rfl⟩
theorem amo (d : BitVec 5) (a : BitVec 5) (b : BitVec 5) (l : BitVec 4) (q : BitVec 1) (r : BitVec 1) (z : BitVec 1) (o : BitVec 4) : Statement (.amo d a b l q r z o) := fun _ _ => ⟨rfl, rfl⟩
theorem cas (d : BitVec 5) (a : BitVec 5) (b : BitVec 5) (l : BitVec 4) (q : BitVec 1) (r : BitVec 1) (z : BitVec 1) : Statement (.cas d a b l q r z) := fun _ _ => ⟨rfl, rfl⟩
theorem fence (c : BitVec 3) : Statement (.fence c) := fun _ _ => ⟨rfl, rfl⟩
theorem fenceS (c : BitVec 1) : Statement (.fenceS c) := fun _ _ => ⟨rfl, rfl⟩
theorem isync : Statement (.isync) := fun _ _ => ⟨rfl, rfl⟩
theorem tfence : Statement (.tfence) := fun _ _ => ⟨rfl, rfl⟩
theorem rbind (e : BitVec 3) (a : BitVec 5) (b : BitVec 5) : Statement (.rbind e a b) := fun _ _ => ⟨rfl, rfl⟩
theorem runbind (e : BitVec 3) : Statement (.runbind e) := fun _ _ => ⟨rfl, rfl⟩
theorem acqX (a : BitVec 5) : Statement (.acqX a) := fun _ _ => ⟨rfl, rfl⟩
theorem acqS (a : BitVec 5) : Statement (.acqS a) := fun _ _ => ⟨rfl, rfl⟩
theorem relX (a : BitVec 5) : Statement (.relX a) := fun _ _ => ⟨rfl, rfl⟩
theorem relS (a : BitVec 5) : Statement (.relS a) := fun _ _ => ⟨rfl, rfl⟩
theorem cwb (a : BitVec 5) (b : BitVec 5) : Statement (.cwb a b) := fun _ _ => ⟨rfl, rfl⟩
theorem cinv (a : BitVec 5) (b : BitVec 5) : Statement (.cinv a b) := fun _ _ => ⟨rfl, rfl⟩
theorem binit (a : BitVec 5) (b : BitVec 5) : Statement (.binit a b) := fun _ _ => ⟨rfl, rfl⟩
theorem barr (d : BitVec 5) (a : BitVec 5) (l : BitVec 4) : Statement (.barr d a l) := fun _ _ => ⟨rfl, rfl⟩
theorem bexp (d : BitVec 5) (a : BitVec 5) (b : BitVec 5) : Statement (.bexp d a b) := fun _ _ => ⟨rfl, rfl⟩
theorem bwait (a : BitVec 5) (b : BitVec 5) : Statement (.bwait a b) := fun _ _ => ⟨rfl, rfl⟩
theorem btest (d : BitVec 5) (a : BitVec 5) : Statement (.btest d a) := fun _ _ => ⟨rfl, rfl⟩
theorem rinit (a : BitVec 5) (b : BitVec 5) : Statement (.rinit a b) := fun _ _ => ⟨rfl, rfl⟩
theorem rpop (d : BitVec 5) (a : BitVec 5) (b : BitVec 5) : Statement (.rpop d a b) := fun _ _ => ⟨rfl, rfl⟩
theorem rpush (d : BitVec 5) (a : BitVec 5) (b : BitVec 5) : Statement (.rpush d a b) := fun _ _ => ⟨rfl, rfl⟩
theorem rfix (a : BitVec 5) (b : BitVec 5) : Statement (.rfix a b) := fun _ _ => ⟨rfl, rfl⟩
theorem rstat (d : BitVec 5) (a : BitVec 5) : Statement (.rstat d a) := fun _ _ => ⟨rfl, rfl⟩
theorem msend (a : BitVec 5) (b : BitVec 5) : Statement (.msend a b) := fun _ _ => ⟨rfl, rfl⟩
theorem mtake (d : BitVec 5) (a : BitVec 4) : Statement (.mtake d a) := fun _ _ => ⟨rfl, rfl⟩
theorem mpeek (d : BitVec 5) (a : BitVec 4) : Statement (.mpeek d a) := fun _ _ => ⟨rfl, rfl⟩
theorem wait (d : BitVec 5) (a : BitVec 5) : Statement (.wait d a) := fun _ _ => ⟨rfl, rfl⟩
theorem bind (d : BitVec 5) (n : BitVec 2) : Statement (.bind d n) := fun _ _ => ⟨rfl, rfl⟩
theorem unbind (d : BitVec 5) : Statement (.unbind d) := fun _ _ => ⟨rfl, rfl⟩
theorem bstat (d : BitVec 5) (a : BitVec 5) : Statement (.bstat d a) := fun _ _ => ⟨rfl, rfl⟩
theorem bclr (a : BitVec 5) : Statement (.bclr a) := fun _ _ => ⟨rfl, rfl⟩
theorem shape (d : BitVec 5) (a : BitVec 5) (b : BitVec 5) (w : BitVec 2) : Statement (.shape d a b w) := fun _ _ => ⟨rfl, rfl⟩
theorem wayset (d : BitVec 5) (a : BitVec 5) : Statement (.wayset d a) := fun _ _ => ⟨rfl, rfl⟩
theorem vld (d : BitVec 5) (a : BitVec 5) (b : BitVec 5) (e : BitVec 4) (m : BitVec 1) (p : BitVec 1) (t : BitVec 1) : Statement (.vld d a b e m p t) := fun _ _ => ⟨rfl, rfl⟩
theorem vst (d : BitVec 5) (a : BitVec 5) (b : BitVec 5) (e : BitVec 4) (m : BitVec 1) : Statement (.vst d a b e m) := fun _ _ => ⟨rfl, rfl⟩
theorem vldm (d : BitVec 5) (a : BitVec 5) (b : BitVec 5) (e : BitVec 4) (m : BitVec 1) (p : BitVec 1) (t : BitVec 1) : Statement (.vldm d a b e m p t) := fun _ _ => ⟨rfl, rfl⟩
theorem vstm (d : BitVec 5) (a : BitVec 5) (b : BitVec 5) (e : BitVec 4) (m : BitVec 1) : Statement (.vstm d a b e m) := fun _ _ => ⟨rfl, rfl⟩
theorem vldx (d : BitVec 5) (a : BitVec 5) (b : BitVec 5) (e : BitVec 4) (m : BitVec 1) (p : BitVec 1) (t : BitVec 1) : Statement (.vldx d a b e m p t) := fun _ _ => ⟨rfl, rfl⟩
theorem vstx (d : BitVec 5) (a : BitVec 5) (b : BitVec 5) (e : BitVec 4) (m : BitVec 1) : Statement (.vstx d a b e m) := fun _ _ => ⟨rfl, rfl⟩
theorem vadd (d : BitVec 5) (a : BitVec 5) (b : BitVec 5) (e : BitVec 4) (m : BitVec 1) (p : BitVec 1) (t : BitVec 1) : Statement (.vadd d a b e m p t) := fun _ _ => ⟨rfl, rfl⟩
theorem vsub (d : BitVec 5) (a : BitVec 5) (b : BitVec 5) (e : BitVec 4) (m : BitVec 1) (p : BitVec 1) (t : BitVec 1) : Statement (.vsub d a b e m p t) := fun _ _ => ⟨rfl, rfl⟩
theorem vmul (d : BitVec 5) (a : BitVec 5) (b : BitVec 5) (e : BitVec 4) (m : BitVec 1) (p : BitVec 1) (t : BitVec 1) : Statement (.vmul d a b e m p t) := fun _ _ => ⟨rfl, rfl⟩
theorem vmulh (d : BitVec 5) (a : BitVec 5) (b : BitVec 5) (e : BitVec 4) (m : BitVec 1) (p : BitVec 1) (t : BitVec 1) : Statement (.vmulh d a b e m p t) := fun _ _ => ⟨rfl, rfl⟩
theorem vdiv (d : BitVec 5) (a : BitVec 5) (b : BitVec 5) (e : BitVec 4) (m : BitVec 1) (p : BitVec 1) (t : BitVec 1) : Statement (.vdiv d a b e m p t) := fun _ _ => ⟨rfl, rfl⟩
theorem vmin (d : BitVec 5) (a : BitVec 5) (b : BitVec 5) (e : BitVec 4) (m : BitVec 1) (p : BitVec 1) (t : BitVec 1) : Statement (.vmin d a b e m p t) := fun _ _ => ⟨rfl, rfl⟩
theorem vmax (d : BitVec 5) (a : BitVec 5) (b : BitVec 5) (e : BitVec 4) (m : BitVec 1) (p : BitVec 1) (t : BitVec 1) : Statement (.vmax d a b e m p t) := fun _ _ => ⟨rfl, rfl⟩
theorem vand (d : BitVec 5) (a : BitVec 5) (b : BitVec 5) (e : BitVec 4) (m : BitVec 1) (p : BitVec 1) (t : BitVec 1) : Statement (.vand d a b e m p t) := fun _ _ => ⟨rfl, rfl⟩
theorem vor (d : BitVec 5) (a : BitVec 5) (b : BitVec 5) (e : BitVec 4) (m : BitVec 1) (p : BitVec 1) (t : BitVec 1) : Statement (.vor d a b e m p t) := fun _ _ => ⟨rfl, rfl⟩
theorem vxor (d : BitVec 5) (a : BitVec 5) (b : BitVec 5) (e : BitVec 4) (m : BitVec 1) (p : BitVec 1) (t : BitVec 1) : Statement (.vxor d a b e m p t) := fun _ _ => ⟨rfl, rfl⟩
theorem vshl (d : BitVec 5) (a : BitVec 5) (b : BitVec 5) (e : BitVec 4) (m : BitVec 1) (p : BitVec 1) (t : BitVec 1) : Statement (.vshl d a b e m p t) := fun _ _ => ⟨rfl, rfl⟩
theorem vshr (d : BitVec 5) (a : BitVec 5) (b : BitVec 5) (e : BitVec 4) (m : BitVec 1) (p : BitVec 1) (t : BitVec 1) : Statement (.vshr d a b e m p t) := fun _ _ => ⟨rfl, rfl⟩
theorem vsra (d : BitVec 5) (a : BitVec 5) (b : BitVec 5) (e : BitVec 4) (m : BitVec 1) (p : BitVec 1) (t : BitVec 1) : Statement (.vsra d a b e m p t) := fun _ _ => ⟨rfl, rfl⟩
theorem vfma (d : BitVec 5) (a : BitVec 5) (b : BitVec 5) (e : BitVec 4) (m : BitVec 1) (p : BitVec 1) (t : BitVec 1) : Statement (.vfma d a b e m p t) := fun _ _ => ⟨rfl, rfl⟩
theorem vsqrt (d : BitVec 5) (a : BitVec 5) (e : BitVec 4) (m : BitVec 1) (p : BitVec 1) (t : BitVec 1) : Statement (.vsqrt d a e m p t) := fun _ _ => ⟨rfl, rfl⟩
theorem vladd (d : BitVec 5) (a : BitVec 5) (b : BitVec 5) (e : BitVec 4) (m : BitVec 1) (p : BitVec 1) (t : BitVec 1) : Statement (.vladd d a b e m p t) := fun _ _ => ⟨rfl, rfl⟩
theorem vlmul (d : BitVec 5) (a : BitVec 5) (b : BitVec 5) (e : BitVec 4) (m : BitVec 1) (p : BitVec 1) (t : BitVec 1) : Statement (.vlmul d a b e m p t) := fun _ _ => ⟨rfl, rfl⟩
theorem vldiv (d : BitVec 5) (a : BitVec 5) (b : BitVec 5) (e : BitVec 4) (m : BitVec 1) (p : BitVec 1) (t : BitVec 1) : Statement (.vldiv d a b e m p t) := fun _ _ => ⟨rfl, rfl⟩
theorem vcmp (d : BitVec 5) (a : BitVec 5) (b : BitVec 5) (e : BitVec 4) (m : BitVec 1) (p : BitVec 1) (t : BitVec 1) (c : BitVec 2) : Statement (.vcmp d a b e m p t c) := fun _ _ => ⟨rfl, rfl⟩
theorem vsel (d : BitVec 5) (a : BitVec 5) (b : BitVec 5) (e : BitVec 4) (t : BitVec 1) : Statement (.vsel d a b e t) := fun _ _ => ⟨rfl, rfl⟩
theorem vcvt (d : BitVec 5) (a : BitVec 5) (s : BitVec 1) (c : BitVec 4) (e : BitVec 4) (m : BitVec 1) (p : BitVec 1) (t : BitVec 1) : Statement (.vcvt d a s c e m p t) := fun _ _ => ⟨rfl, rfl⟩
theorem vreq (d : BitVec 5) (a : BitVec 5) (b : BitVec 5) (m : BitVec 1) (p : BitVec 1) (t : BitVec 1) : Statement (.vreq d a b m p t) := fun _ _ => ⟨rfl, rfl⟩
theorem vred (d : BitVec 5) (a : BitVec 5) (s : BitVec 1) (o : BitVec 3) (e : BitVec 4) (m : BitVec 1) (t : BitVec 1) : Statement (.vred d a s o e m t) := fun _ _ => ⟨rfl, rfl⟩
theorem vperm (d : BitVec 5) (a : BitVec 5) (b : BitVec 5) (e : BitVec 4) (m : BitVec 1) (p : BitVec 1) (t : BitVec 1) : Statement (.vperm d a b e m p t) := fun _ _ => ⟨rfl, rfl⟩
theorem vbcast (d : BitVec 5) (a : BitVec 5) (e : BitVec 4) (m : BitVec 1) (p : BitVec 1) (t : BitVec 1) : Statement (.vbcast d a e m p t) := fun _ _ => ⟨rfl, rfl⟩
theorem vext (d : BitVec 5) (a : BitVec 5) (b : BitVec 5) (e : BitVec 4) : Statement (.vext d a b e) := fun _ _ => ⟨rfl, rfl⟩
theorem viota (d : BitVec 5) (a : BitVec 5) (e : BitVec 4) (m : BitVec 1) (p : BitVec 1) (t : BitVec 1) : Statement (.viota d a e m p t) := fun _ _ => ⟨rfl, rfl⟩
theorem vpopc (d : BitVec 5) (a : BitVec 5) (e : BitVec 4) (m : BitVec 1) : Statement (.vpopc d a e m) := fun _ _ => ⟨rfl, rfl⟩
theorem mclaim (d : BitVec 5) (a : BitVec 5) (l : BitVec 4) : Statement (.mclaim d a l) := fun _ _ => ⟨rfl, rfl⟩
theorem mrel (a : BitVec 5) (b : BitVec 5) (l : BitVec 4) : Statement (.mrel a b l) := fun _ _ => ⟨rfl, rfl⟩
theorem mput (d : BitVec 5) (a : BitVec 5) (b : BitVec 4) (l : BitVec 4) : Statement (.mput d a b l) := fun _ _ => ⟨rfl, rfl⟩
theorem mload (d : BitVec 5) (a : BitVec 5) (b : BitVec 5) (l : BitVec 4) : Statement (.mload d a b l) := fun _ _ => ⟨rfl, rfl⟩
theorem mma (d : BitVec 5) (a : BitVec 5) (b : BitVec 5) (l : BitVec 4) : Statement (.mma d a b l) := fun _ _ => ⟨rfl, rfl⟩
theorem mcbk (a : BitVec 5) (b : BitVec 5) (l : BitVec 4) : Statement (.mcbk a b l) := fun _ _ => ⟨rfl, rfl⟩
theorem mwait (d : BitVec 5) (l : BitVec 4) : Statement (.mwait d l) := fun _ _ => ⟨rfl, rfl⟩
theorem mstat (d : BitVec 5) (l : BitVec 4) : Statement (.mstat d l) := fun _ _ => ⟨rfl, rfl⟩
theorem cpy (d : BitVec 5) (a : BitVec 5) (b : BitVec 5) (l : BitVec 4) : Statement (.cpy d a b l) := fun _ _ => ⟨rfl, rfl⟩
theorem cpy2 (d : BitVec 5) (a : BitVec 5) (b : BitVec 5) (l : BitVec 4) : Statement (.cpy2 d a b l) := fun _ _ => ⟨rfl, rfl⟩
theorem cxp (d : BitVec 5) (a : BitVec 5) (b : BitVec 5) (l : BitVec 4) : Statement (.cxp d a b l) := fun _ _ => ⟨rfl, rfl⟩
theorem cpk (d : BitVec 5) (a : BitVec 5) (b : BitVec 5) (l : BitVec 4) : Statement (.cpk d a b l) := fun _ _ => ⟨rfl, rfl⟩
theorem cgthb (d : BitVec 5) (a : BitVec 5) (b : BitVec 5) (l : BitVec 4) : Statement (.cgthb d a b l) := fun _ _ => ⟨rfl, rfl⟩
theorem cpyr (d : BitVec 5) (a : BitVec 5) (b : BitVec 5) (l : BitVec 4) : Statement (.cpyr d a b l) := fun _ _ => ⟨rfl, rfl⟩
theorem cwait (d : BitVec 5) (l : BitVec 4) : Statement (.cwait d l) := fun _ _ => ⟨rfl, rfl⟩
theorem cstat (d : BitVec 5) (l : BitVec 4) : Statement (.cstat d l) := fun _ _ => ⟨rfl, rfl⟩
theorem xexp (d : BitVec 5) (a : BitVec 5) (b : BitVec 5) (l : BitVec 4) : Statement (.xexp d a b l) := fun _ _ => ⟨rfl, rfl⟩
theorem xrot (d : BitVec 5) (a : BitVec 5) (b : BitVec 5) (l : BitVec 4) : Statement (.xrot d a b l) := fun _ _ => ⟨rfl, rfl⟩
theorem xwait (d : BitVec 5) (l : BitVec 4) : Statement (.xwait d l) := fun _ _ => ⟨rfl, rfl⟩
theorem casld (a : BitVec 5) (b : BitVec 5) (l : BitVec 4) : Statement (.casld a b l) := fun _ _ => ⟨rfl, rfl⟩
theorem caswait (d : BitVec 5) (l : BitVec 4) : Statement (.caswait d l) := fun _ _ => ⟨rfl, rfl⟩
theorem ssopen (d : BitVec 5) (a : BitVec 5) (b : BitVec 5) (l : BitVec 4) : Statement (.ssopen d a b l) := fun _ _ => ⟨rfl, rfl⟩
theorem ssload (d : BitVec 5) (a : BitVec 5) (b : BitVec 5) (l : BitVec 4) : Statement (.ssload d a b l) := fun _ _ => ⟨rfl, rfl⟩
theorem sscommit (d : BitVec 5) (a : BitVec 5) (b : BitVec 5) (l : BitVec 4) : Statement (.sscommit d a b l) := fun _ _ => ⟨rfl, rfl⟩
theorem sssnap (d : BitVec 5) (a : BitVec 5) (l : BitVec 4) : Statement (.sssnap d a l) := fun _ _ => ⟨rfl, rfl⟩
theorem ssfind (d : BitVec 5) (a : BitVec 5) (b : BitVec 5) (l : BitVec 4) : Statement (.ssfind d a b l) := fun _ _ => ⟨rfl, rfl⟩
theorem ssroll (d : BitVec 5) (a : BitVec 5) (b : BitVec 5) (l : BitVec 4) : Statement (.ssroll d a b l) := fun _ _ => ⟨rfl, rfl⟩
theorem sspin (d : BitVec 5) (a : BitVec 5) (b : BitVec 5) (l : BitVec 4) : Statement (.sspin d a b l) := fun _ _ => ⟨rfl, rfl⟩
theorem ssunpin (d : BitVec 5) (a : BitVec 5) (b : BitVec 5) (l : BitVec 4) : Statement (.ssunpin d a b l) := fun _ _ => ⟨rfl, rfl⟩
theorem ssfork (d : BitVec 5) (a : BitVec 5) (b : BitVec 5) (l : BitVec 4) : Statement (.ssfork d a b l) := fun _ _ => ⟨rfl, rfl⟩
theorem ssclose (a : BitVec 5) (l : BitVec 4) : Statement (.ssclose a l) := fun _ _ => ⟨rfl, rfl⟩
theorem enext (d : BitVec 5) (l : BitVec 4) : Statement (.enext d l) := fun _ _ => ⟨rfl, rfl⟩
theorem eacc (d : BitVec 5) (a : BitVec 5) (b : BitVec 5) (l : BitVec 4) : Statement (.eacc d a b l) := fun _ _ => ⟨rfl, rfl⟩
theorem estat (d : BitVec 5) (l : BitVec 4) : Statement (.estat d l) := fun _ _ => ⟨rfl, rfl⟩
theorem launch (d : BitVec 5) (a : BitVec 5) (b : BitVec 5) : Statement (.launch d a b) := fun _ _ => ⟨rfl, rfl⟩
theorem trig : Statement (.trig) := fun _ _ => ⟨rfl, rfl⟩
theorem exit (a : BitVec 5) : Statement (.exit a) := fun _ _ => ⟨rfl, rfl⟩
theorem dsync (v : BitVec 3) : Statement (.dsync v) := fun _ _ => ⟨rfl, rfl⟩
theorem yield : Statement (.yield) := fun _ _ => ⟨rfl, rfl⟩
theorem rdc (d : BitVec 5) (c : BitVec 12) : Statement (.rdc d c) := fun _ _ => ⟨rfl, rfl⟩
theorem wrc (a : BitVec 5) (c : BitVec 12) : Statement (.wrc a c) := fun _ _ => ⟨rfl, rfl⟩
theorem trap (k : BitVec 12) : Statement (.trap k) := fun _ _ => ⟨rfl, rfl⟩
theorem eret : Statement (.eret) := fun _ _ => ⟨rfl, rfl⟩
theorem eretS : Statement (.eretS) := fun _ _ => ⟨rfl, rfl⟩
theorem brk (k : BitVec 12) : Statement (.brk k) := fun _ _ => ⟨rfl, rfl⟩
theorem sleep (a : BitVec 5) : Statement (.sleep a) := fun _ _ => ⟨rfl, rfl⟩
theorem imx (x : BitVec 26) : Statement (.imx x) := fun _ _ => ⟨rfl, rfl⟩
theorem hint (k : BitVec 6) (p : BitVec 20) : Statement (.hint k p) := fun _ _ => ⟨rfl, rfl⟩
theorem casgo (a : BitVec 5) : Statement (.casgo a) := fun _ _ => ⟨rfl, rfl⟩
theorem undefinedEncoding (w : BitVec 32) : Statement (.undefinedEncoding w) := fun _ h => nomatch h
theorem microMovi (u : Micro) : Statement (.microMovi u) := fun _ h => nomatch h
theorem microAdd (u : Micro) : Statement (.microAdd u) := fun _ h => nomatch h
theorem microAddm (u : Micro) : Statement (.microAddm u) := fun _ h => nomatch h
theorem microDjnz (u : Micro) : Statement (.microDjnz u) := fun _ h => nomatch h
theorem microBnz (u : Micro) : Statement (.microBnz u) := fun _ h => nomatch h
theorem microMm (u : Micro) : Statement (.microMm u) := fun _ h => nomatch h
theorem microMmMload (u : Micro) : Statement (.microMmMload u) := fun _ h => nomatch h
theorem microXp (u : Micro) : Statement (.microXp u) := fun _ h => nomatch h
theorem microCp (u : Micro) : Statement (.microCp u) := fun _ h => nomatch h
theorem microMask (u : Micro) : Statement (.microMask u) := fun _ h => nomatch h
theorem microRmax (u : Micro) : Statement (.microRmax u) := fun _ h => nomatch h
theorem microRsum (u : Micro) : Statement (.microRsum u) := fun _ h => nomatch h
theorem microLcomb (u : Micro) : Statement (.microLcomb u) := fun _ h => nomatch h
theorem microNorm (u : Micro) : Statement (.microNorm u) := fun _ h => nomatch h
theorem microWaite (u : Micro) : Statement (.microWaite u) := fun _ h => nomatch h
theorem microSig (u : Micro) : Statement (.microSig u) := fun _ h => nomatch h
theorem microSigMessage (u : Micro) : Statement (.microSigMessage u) := fun _ h => nomatch h
theorem microStop (u : Micro) : Statement (.microStop u) := fun _ h => nomatch h
theorem waiteReturn (c : Nat) : Statement (.waiteReturn c) := fun _ h => nomatch h
theorem runStop (c : Nat) : Statement (.runStop c) := fun _ h => nomatch h
theorem runFault (c : Nat) : Statement (.runFault c) := fun _ h => nomatch h
theorem arrivalPass (c : Nat) (h : BitVec 2) : Statement (.arrivalPass c h) := fun _ h => nomatch h
theorem messageArrival (id : Nat) : Statement (.messageArrival id) := fun _ h => nomatch h
theorem overflowDelivery (c : Nat) (h : BitVec 2) (r : BitVec 4) : Statement (.overflowDelivery c h r) := fun _ h => nomatch h
theorem messageRetry (id : Nat) : Statement (.messageRetry id) := fun _ h => nomatch h
theorem evictedMessageHold (id : Nat) : Statement (.evictedMessageHold id) := fun _ h => nomatch h
theorem evictedAccess (id : Nat) : Statement (.evictedAccess id) := fun _ h => nomatch h
theorem interruptEntry (c : Nat) (h : BitVec 2) : Statement (.interruptEntry c h) := fun _ h => nomatch h
theorem counterWrap (c : Nat) (h : BitVec 2) (k : BitVec 2) : Statement (.counterWrap c h k) := fun _ h => nomatch h
theorem coreSleepEntry (c : Nat) (elapsed : BitVec 2) : Statement (.coreSleepEntry c elapsed) := fun _ h => nomatch h
theorem coreWake (c : Nat) : Statement (.coreWake c) := fun _ h => nomatch h
theorem wakeComplete (c : Nat) (captureOk : Bool) : Statement (.wakeComplete c captureOk) := fun _ h => nomatch h
theorem sleepPauseEnd (c : Nat) (h : BitVec 2) : Statement (.sleepPauseEnd c h) := fun _ h => nomatch h
theorem waitWake (c : Nat) (h : BitVec 2) : Statement (.waitWake c h) := fun _ h => nomatch h
theorem bwaitWake (c : Nat) (h : BitVec 2) : Statement (.bwaitWake c h) := fun _ h => nomatch h
theorem rpopWake (c : Nat) (h : BitVec 2) : Statement (.rpopWake c h) := fun _ h => nomatch h
theorem remoteScratchAccess (id : Nat) : Statement (.remoteScratchAccess id) := fun _ h => nomatch h
theorem globalAdmission (id : Nat) : Statement (.globalAdmission id) := fun _ h => nomatch h
theorem pageWalk (id : Nat) (bad : BitVec 2) : Statement (.pageWalk id bad) := fun _ h => nomatch h
theorem forwardedRequest (id : Nat) : Statement (.forwardedRequest id) := fun _ h => nomatch h
theorem sectorFillReturn (id : Nat) : Statement (.sectorFillReturn id) := fun _ h => nomatch h
theorem admissionNotice (id : Nat) : Statement (.admissionNotice id) := fun _ h => nomatch h
theorem loadDataReturn (id : Nat) (reply : FabricReply) : Statement (.loadDataReturn id reply) := fun _ h => nomatch h
theorem storeAck (id : Nat) : Statement (.storeAck id) := fun _ h => nomatch h
theorem storeRejection (id : Nat) (cause : BitVec 8) : Statement (.storeRejection id cause) := fun _ h => nomatch h
theorem cacheFill (id : Nat) : Statement (.cacheFill id) := fun _ h => nomatch h
theorem writeBackArrival (id : Nat) : Statement (.writeBackArrival id) := fun _ h => nomatch h
theorem acqGrant (id : Nat) : Statement (.acqGrant id) := fun _ h => nomatch h
theorem codeLineError (c line : Nat) : Statement (.codeLineError c line) := fun _ h => nomatch h
theorem codeRepair (c line : Nat) (imageOk : Bool) : Statement (.codeRepair c line imageOk) := fun _ h => nomatch h
theorem scrub (c line : Nat) (err : ScrubError) : Statement (.scrub c line err) := fun _ h => nomatch h
theorem sliceError (x y : Nat) (place : SlicePlace) : Statement (.sliceError x y place) := fun _ h => nomatch h
theorem linkRetry (id : Nat) : Statement (.linkRetry id) := fun _ h => nomatch h
theorem engineCommandStart (c : Nat) (e : Engine) : Statement (.engineCommandStart c e) := fun _ h => nomatch h
theorem engineCommandComplete (c : Nat) (e : Engine) : Statement (.engineCommandComplete c e) := fun _ h => nomatch h
theorem cpyrPush (c : Nat) : Statement (.cpyrPush c) := fun _ h => nomatch h
theorem engineWaitReturn (c : Nat) (h : BitVec 2) : Statement (.engineWaitReturn c h) := fun _ h => nomatch h
theorem hostSubmission (vf : BitVec 4) (endpoint : Nat) (send : HostSend) : Statement (.hostSubmission vf endpoint send) := fun _ h => nomatch h
theorem groupPlacement (vf : BitVec 4) (queue : BitVec 3) : Statement (.groupPlacement vf queue) := fun _ h => nomatch h
theorem groupEnd (launch group : Nat) : Statement (.groupEnd launch group) := fun _ h => nomatch h
theorem domainPhaseFlip (launch : Nat) (level : BitVec 3) (domain : Nat) : Statement (.domainPhaseFlip launch level domain) := fun _ h => nomatch h
theorem sweep : Statement (.sweep) := fun _ h => nomatch h
theorem eviction (c : Nat) : Statement (.eviction c) := fun _ h => nomatch h
theorem contextSave (c : Nat) : Statement (.contextSave c) := fun _ h => nomatch h
theorem resume (vf : BitVec 4) (slot : Nat) : Statement (.resume vf slot) := fun _ h => nomatch h
theorem worldSwitch (a b : BitVec 4) : Statement (.worldSwitch a b) := fun _ h => nomatch h
theorem switchDeadline (vf : BitVec 4) : Statement (.switchDeadline vf) := fun _ h => nomatch h
theorem checkpointRequest (vf : BitVec 4) : Statement (.checkpointRequest vf) := fun _ h => nomatch h
theorem checkpointComplete (vf : BitVec 4) : Statement (.checkpointComplete vf) := fun _ h => nomatch h
theorem partitionCreate (p : PartitionSpec) : Statement (.partitionCreate p) := fun _ h => nomatch h
theorem partitionDestroy (vf : BitVec 4) : Statement (.partitionDestroy vf) := fun _ h => nomatch h
theorem belineConfigWrite (w : ConfigWrite) : Statement (.belineConfigWrite w) := fun _ h => nomatch h
theorem debugHalt (c : Nat) (h : BitVec 2) : Statement (.debugHalt c h) := fun _ h => nomatch h
theorem debugStep (c : Nat) (h : BitVec 2) : Statement (.debugStep c h) := fun _ h => nomatch h
theorem debugAccess (c : Nat) (h : BitVec 2) (x : DebugAccess) : Statement (.debugAccess c h x) := fun _ h => nomatch h
theorem coreFailure (c : Nat) : Statement (.coreFailure c) := fun _ h => nomatch h
theorem columnFailure (die : Nat) : Statement (.columnFailure die) := fun _ h => nomatch h
theorem spareRemap (k : SpareKind) : Statement (.spareRemap k) := fun _ h => nomatch h
theorem hbmChannelCopy (channel : Nat) : Statement (.hbmChannelCopy channel) := fun _ h => nomatch h
theorem thermalThrottle (die : Nat) : Statement (.thermalThrottle die) := fun _ h => nomatch h
theorem dieOvertemp (die : Nat) : Statement (.dieOvertemp die) := fun _ h => nomatch h
theorem boot (img : FirmwareImage) : Statement (.boot img) := fun _ h => nomatch h
theorem firmwareUpdate (img : FirmwareImage) : Statement (.firmwareUpdate img) := fun _ h => nomatch h
theorem quoteRequest (endpoint : Nat) (nonce : List Byte) : Statement (.quoteRequest endpoint nonce) := fun _ h => nomatch h
theorem fabricRequest (r : FabricReq) : Statement (.fabricRequest r) := fun _ h => nomatch h
theorem hostRmaWrite (r : HostOp) (data : List Byte) : Statement (.hostRmaWrite r data) := fun _ h => nomatch h
theorem hostRmaRead (r : HostOp) (len : Nat) : Statement (.hostRmaRead r len) := fun _ h => nomatch h
theorem roundMerge (launch : Nat) : Statement (.roundMerge launch) := fun _ h => nomatch h
theorem sashAccept (id : Nat) : Statement (.sashAccept id) := fun _ h => nomatch h
theorem sashResult (id : Nat) : Statement (.sashResult id) := fun _ h => nomatch h
theorem writeBackAcknowledgement (id : Nat) : Statement (.writeBackAcknowledgement id) := fun _ h => nomatch h
theorem sourceRouterRemap (id : Nat) : Statement (.sourceRouterRemap id) := fun _ h => nomatch h
theorem fabricPortCheck (id : Nat) : Statement (.fabricPortCheck id) := fun _ h => nomatch h
theorem debugResume (c : Nat) (h : BitVec 2) : Statement (.debugResume c h) := fun _ h => nomatch h

end Sys2Proof.Laws.Encoded
end

