-- ==== Sys2Proof/Tests/Slice0.lean ====
section
/-! SUPPORT. The package's own tests. First decoding and encoding, against words that spec/ writes out; then well-formedness; then
single steps on values that spec/ works out; then the witnesses: for each statement with hypotheses, states and operands that meet
them. `witness_<Statement>_<n>` states the hypotheses of the clauses that it serves, at the values its first lines name. -/

open Sys2Proof Sys2Proof.Machine

namespace Slice0Tests

set_option Elab.async false

/-! Decoding: the words that the sections of spec/ write out bit by bit, with the assembly that each stands for. -/

/-- The instruction of a word. -/
def reads (w : BitVec 32) (i : Instr) : Bool := decodeWord w == some i && encode i == some w

theorem test_decode_02_format :
    reads 0x4082_2404 (.ld 4 2 2 2 4) = true ∧ -- loop: LD.W g4, [g2+16], la=2
    reads 0x0442_0004 (.addi 2 2 4) = true ∧ -- ADDI g2, g2, 4
    reads 0x0063_2001 (.add 3 3 4 0 0) = true ∧ -- ADD g3, g3, g4
    reads 0x2C45_3FFD (.bne 2 5 8189) = true ∧ -- BNE g2, g5, loop
    reads 0xF800_1234 (.imx 4660) = true ∧ -- MOVI g5, 0x1234_5678
    reads 0xFBFF_FFFE (.imx 67108862) = true ∧ -- MOVI g5, -100000
    reads 0xF800_0012 (.imx 18) = true ∧ -- LD.D g6, [g28+0x1_2340]
    reads 0xFC13_8002 (.hint 1 229378) = true ∧ -- HINT.PFC [g7+256]
    reads 0x7861_15C0 (.vadd 3 1 2 11 1 0 0) = true ∧ -- VADD.F32.MU v3, v1, v2
    reads 0x90A6_3985 (.mma 5 6 7 3) = true ∧ -- MMA g5, g6, g7, la=3
    reads 0x3400_000A (.jal 10) = true -- JAL 40
    := by decide +kernel

theorem test_decode_04_scalar :
    reads 0x00A1_1002 (.sub 5 1 2 0 0) = true ∧ -- SUB g5, g1, g2
    reads 0x0082_2C01 (.add 4 2 5 1 0) = true ∧ -- ADD g4, m2, g5
    reads 0x00C7_406D (.div 6 7 8 0 0 3) = true ∧ -- DIV g6, g7, g8, la=3
    reads 0x012A_001A (.clz 9 10 0) = true ∧ -- CLZ g9, g10
    reads 0x0061_1019 (.sel 3 1 2 0 0) = true ∧ -- SEL g3, g1, g2
    reads 0x1864_FFFF (.sltiu 3 4 65535) = true ∧ -- SLTIU g3, g4, -1
    reads 0x0CA5_BEEF (.ori 5 5 48879) = true ∧ -- ORI g5, g5, 0xBEEF
    reads 0x1CA5_0020 (.shli 5 5 32) = true ∧ -- SHLI g5, g5, 32
    reads 0x1CC7_0203 (.srai 6 7 3) = true ∧ -- SRAI g6, g7, 3
    reads 0x20A0_FFFF (.movi 5 65535) = true ∧ -- MOVI g5, -1
    reads 0x2461_1001 (.fadd 3 1 2 0 0 0 0) = true ∧ -- FADD.F32 g3, g1, g2
    reads 0x2485_3066 (.fma 4 5 6 0 0 1 1) = true ∧ -- FMA.F64.RTZ g4, g5, g6
    reads 0x24E8_49C4 (.fdiv 7 8 9 0 0 7 0) = true ∧ -- FDIV.F32.DYN g7, g8, g9
    reads 0x254B_304E (.fcvt 10 11 6 0 1) = true ∧ -- FCVT.S64.F64.RTZ g10, g11
    reads 0x2861_1041 (.ladd 3 1 2 0 0 2) = true ∧ -- LADD g3, g1, g2, la=2
    reads 0x2885_0007 (.lcvt 4 5 0 0 0 0) = true ∧ -- LCVT.L32.F32 g4, g5
    reads 0x2885_9807 (.lcvt 4 5 1 3 0 0) = true ∧ -- LCVT.F32.L32.SAT g4, g5
    reads 0x2C64_8008 (.bltu 3 4 8) = true ∧ -- BLTU g3, g4, 32
    reads 0x33FF_FFFF (.jmp 67108863) = true ∧ -- JMP -4
    reads 0x3BEC_0000 (.jalr 31 12 0) = true ∧ -- JALR g31, g12, 0
    reads 0x381F_0000 (.jalr 0 31 0) = true ∧ -- JALR g0, g31, 0
    reads 0x4064_19FF (.ld 3 4 1 4 511) = true ∧ -- LD.BU g3, [g4-1], la=1
    reads 0x44A2_0601 (.st 5 2 3 1) = true ∧ -- ST.D g5, [g2+8]
    reads 0x48C7_0400 (.lda 6 7 0 2 0) = true ∧ -- LDA.W g6, [g7]
    reads 0x4909_0E02 (.str 8 9 3 2) = true ∧ -- STR.D g8, [g9+16]
    reads 0x4CA2_1602 (.ldp 5 2 1 1 2) = true ∧ -- LDP.D g5, g6, [g2+16], la=1
    reads 0x4D43_0C00 (.stp 10 3 0 0) = true ∧ -- STP.W g10, g11, [g3]
    reads 0xF800_0012 (.imx 18) = true ∧ -- IMX 0x12
    reads 0xFC00_0000 (.hint 0 0) = true ∧ -- HINT.NOP
    reads 0xFC23_8002 (.hint 2 229378) = true -- HINT.PFS [g7+256]
    := by decide +kernel

theorem test_decode_05_binding :
    reads 0x6CE0_0009 (.bind 7 1) = true ∧ -- BIND g7, 2
    reads 0x6CE0_0002 (.unbind 7) = true ∧ -- UNBIND g7
    reads 0x6D27_0003 (.bstat 9 7) = true ∧ -- BSTAT g9, g7
    reads 0x6C07_0004 (.bclr 7) = true ∧ -- BCLR g7
    reads 0x08EA_000F (.andi 7 10 15) = true ∧ -- ANDI g7, g10, 15
    reads 0x1CE7_0006 (.shli 7 7 6) = true ∧ -- SHLI g7, g7, 6
    reads 0x6D00_0001 (.bind 8 0) = true ∧ -- BIND g8, 1
    reads 0x0107_E001 (.add 8 7 28 0 0) = true ∧ -- ADD g8, g7, g28
    reads 0x054A_0001 (.addi 10 10 1) = true -- ADDI g10, g10, 1
    := by decide +kernel

theorem test_decode_06_message :
    reads 0x6806_2801 (.msend 6 5) = true ∧ -- MSEND [g6], g5
    reads 0x6883_0002 (.mtake 4 3) = true ∧ -- MTAKE g4, m3
    reads 0x6883_0003 (.mpeek 4 3) = true ∧ -- MPEEK g4, m3
    reads 0x68A6_0004 (.wait 5 6) = true ∧ -- WAIT g5, g6
    reads 0x5800_0009 (.fence 1) = true ∧ -- FENCE.CORE
    reads 0x5800_0021 (.fence 4) = true ∧ -- FENCE.MOD
    reads 0x5800_0003 .isync = true ∧ -- ISYNC
    reads 0x5800_0004 .tfence = true ∧ -- TFENCE
    reads 0xA8A0_0010 (.rdc 5 16) = true ∧ -- RDC g5, AFLAGS
    reads 0xA806_1011 (.wrc 6 17) = true ∧ -- WRC TRAPEN, g6
    reads 0xA800_2007 (.trap 7) = true ∧ -- TRAP 7
    reads 0xA800_3000 .eret = true ∧ -- ERET
    reads 0xA800_4001 (.brk 1) = true ∧ -- BRK 1
    reads 0xA807_5000 (.sleep 7) = true -- SLEEP g7
    := by decide +kernel

theorem test_decode_07_mean :
    reads 0x24A7_3003 (.fmul 5 7 6 0 0 0 0) = true -- FMUL.F32 g5, g7, g6
    := by decide +kernel

theorem test_decode_08_local :
    reads 0x70A6_0002 (.wayset 5 6) = true ∧ -- WAYSET g5, g6
    reads 0x5C64_3001 (.rbind 3 4 6) = true ∧ -- RBIND 3, g4, g6, g7
    reads 0x5C60_0002 (.runbind 3) = true ∧ -- RUNBIND 3
    reads 0x5C05_0003 (.acqX 5) = true ∧ -- ACQ.X [g5]
    reads 0x5C05_0006 (.relS 5) = true ∧ -- REL.S [g5]
    reads 0x5C08_4807 (.cwb 8 9) = true ∧ -- CWB g8, g9
    reads 0x6004_2801 (.binit 4 5) = true ∧ -- BINIT [g4], g5
    reads 0x60C4_0102 (.barr 6 4 2) = true ∧ -- BARR g6, [g4], la=2
    reads 0x60A4_3003 (.bexp 5 4 6) = true ∧ -- BEXP g5, [g4], g6
    reads 0x6004_4004 (.bwait 4 8) = true ∧ -- BWAIT [g4], g8
    reads 0x60E4_0005 (.btest 7 4) = true ∧ -- BTEST g7, [g4]
    reads 0x6404_3001 (.rinit 4 6) = true ∧ -- RINIT [g4], g6, g7
    reads 0x64A4_4002 (.rpop 5 4 8) = true ∧ -- RPOP g5, [g4], g8
    reads 0x64A4_4003 (.rpush 5 4 8) = true ∧ -- RPUSH g5, [g4], g8
    reads 0x6404_2804 (.rfix 4 5) = true ∧ -- RFIX [g4], g5
    reads 0x64A4_0005 (.rstat 5 4) = true -- RSTAT g5, [g4]
    := by decide +kernel

theorem test_decode_09_vector :
    reads 0x70A6_3821 (.shape 5 6 7 2) = true ∧ -- SHAPE.F32 g5, g6, g7
    reads 0x7482_0580 (.vld 4 2 0 11 0 0 0) = true ∧ -- VLD.F32 v4, [g2], g0
    reads 0x7483_2D81 (.vst 4 3 5 11 0) = true ∧ -- VST.F32 v4, [g3], g5
    reads 0x74C4_3D02 (.vldm 6 4 7 10 0 0 0) = true ∧ -- VLDM.BF16 v6, [g4], g7
    reads 0x7502_6584 (.vldx 8 2 12 11 0 0 0) = true ∧ -- VLDX.F32 v8, [g2], v12
    reads 0x78A6_3D8D (.vfma 5 6 7 11 0 0 0) = true ∧ -- VFMA.F32 v5, v6, v7
    reads 0x7842_189C (.vsra 2 2 3 1 0 0 1) = true ∧ -- VSRA.S16.TA v2, v2, v3
    reads 0x7D29_5700 (.vladd 9 9 10 14 0 0 0) = true ∧ -- VLADD.L32 v9, v9, v10
    reads 0x8024_2D82 (.vcmp 1 4 5 11 0 0 0 2) = true ∧ -- VCMP.LT.F32 v1, v4, v5
    reads 0x80C7_4584 (.vsel 6 7 8 11 0) = true ∧ -- VSEL.F32 v6, v7, v8
    reads 0x8182_0585 (.vcvt 12 2 0 0 11 0 0 0) = true ∧ -- VCVT.F32.S8 v12, v2
    reads 0x8064_F585 (.vcvt 3 4 1 14 11 0 0 0) = true ∧ -- VCVT.F32.L32.SAT v3, v4
    reads 0x8288_4906 (.vreq 20 8 9 0 0 0) = true ∧ -- VREQ.S32 v20, v8, g9
    reads 0x8444_4580 (.vred 2 4 1 0 11 0 0) = true ∧ -- VRED.F32 v2, v4, op=SUM, span=TILE
    reads 0x84C7_4201 (.vperm 6 7 8 4 0 0 0) = true ∧ -- VPERM.N8 v6, v7, v8
    reads 0x8465_0582 (.vbcast 3 5 11 0 0 0) = true ∧ -- VBCAST.F32 v3, g5
    reads 0x84E3_4083 (.vext 7 3 8 1) = true ∧ -- VEXT.S16 g7, v3, g8
    reads 0x84A1_0204 (.viota 5 1 4 0 0 0) = true ∧ -- VIOTA.N8 v5, v1
    reads 0x8481_0005 (.vpopc 4 1 0 0) = true -- VPOPC.S8 g4, v1
    := by decide +kernel

theorem test_decode_10_engine :
    reads 0x9109_0001 (.mclaim 8 9 0) = true ∧ -- MCLAIM g8, g9
    reads 0x9008_4802 (.mrel 8 9 0) = true ∧ -- MREL g8, g9
    reads 0x9144_3803 (.mput 10 4 7 0) = true ∧ -- MPUT g10, v4, 8
    reads 0x914B_6004 (.mload 10 11 12 0) = true ∧ -- MLOAD g10, [g11], g12
    reads 0x900B_6006 (.mcbk 11 12 0) = true ∧ -- MCBK [g11], [g12]
    reads 0x91A0_0007 (.mwait 13 0) = true ∧ -- MWAIT g13
    reads 0x91C0_0008 (.mstat 14 0) = true ∧ -- MSTAT g14, g15
    reads 0x9485_3001 (.cpy 4 5 6 0) = true ∧ -- CPY [g4], [g5], g6, g7
    reads 0x9485_4002 (.cpy2 4 5 8 0) = true ∧ -- CPY2 [g4], [g5], g8, g9, g10
    reads 0x9485_4003 (.cxp 4 5 8 0) = true ∧ -- CXP [g4], [g5], g8, g9, g10
    reads 0x9485_4004 (.cpk 4 5 8 0) = true ∧ -- CPK [g4], [g5], g8, g9
    reads 0x9487_6005 (.cgthb 4 7 12 0) = true ∧ -- CGTHB [g4], [g7], v12, g5, g6
    reads 0x9485_3006 (.cpyr 4 5 6 0) = true ∧ -- CPYR [g4], [g5], g6
    reads 0x95A0_0007 (.cwait 13 0) = true ∧ -- CWAIT g13
    reads 0x95C0_0008 (.cstat 14 0) = true ∧ -- CSTAT g14, g15
    reads 0x9885_3001 (.xexp 4 5 6 0) = true ∧ -- XEXP [g4], [g5], g6
    reads 0x9885_4002 (.xrot 4 5 8 0) = true ∧ -- XROT [g4], [g5], g8, g9
    reads 0x99A0_0003 (.xwait 13 0) = true -- XWAIT g13
    := by decide +kernel

theorem test_decode_11_casement :
    reads 0x9804_2810 (.casld 4 5 0) = true ∧ -- CASLD [g4], g5
    reads 0x99A0_0011 (.caswait 13 0) = true ∧ -- CASWAIT g13
    reads 0xA806_1050 (.casgo 6) = true -- WRC CASGO, g6
    := by decide +kernel

theorem test_decode_12_window :
    reads 0x0231_9010 (.remu 17 17 18 0 0 0) = true -- REMU g17, g17, g18
    := by decide +kernel

theorem test_decode_13_cluster :
    reads 0x50A6_3910 (.amo 5 6 7 2 0 0 1 0) = true ∧ -- AMO.ADD.D g5, [g6], g7, la=2
    reads 0x5008_4829 (.amo 0 8 9 0 0 1 0 9) = true ∧ -- AMO.FADD.W.RL g0, [g8], g9
    reads 0x5085_300A (.amo 4 5 6 0 0 0 0 10) = true ∧ -- AMO.LADD.W g4, [g5], g6
    reads 0x54A6_3850 (.cas 5 6 7 0 1 0 1) = true ∧ -- CAS.D.AQ g5, [g6], g7
    reads 0x5800_0022 (.fenceS 0) = true ∧ -- FENCE.S.MOD
    reads 0x5800_002A (.fenceS 1) = true -- FENCE.S
    := by decide +kernel

theorem test_decode_17_litmus :
    reads 0x0061_0805 (.xor 3 1 1 0 0) = true -- XOR g3, g1, g1
    := by decide +kernel

theorem test_decode_18_launch :
    reads 0xA4A6_3801 (.launch 5 6 7) = true ∧ -- LAUNCH g5, [g6], g7
    reads 0xA400_0002 .trig = true ∧ -- TRIG
    reads 0xA409_0003 (.exit 9) = true ∧ -- EXIT g9
    reads 0xA400_0014 (.dsync 2) = true ∧ -- DSYNC.CLUS
    reads 0xA400_0005 .yield = true -- YIELD
    := by decide +kernel

theorem test_decode_19_sash :
    reads 0x5166_0118 (.amo 11 6 0 2 0 0 1 8) = true ∧ -- AMO.XCHG.D g11, [g6], g0, la=2
    reads 0x5187_0098 (.amo 12 7 0 1 0 0 1 8) = true ∧ -- AMO.XCHG.D g12, [g7], g0, la=1
    reads 0x51A8_0018 (.amo 13 8 0 0 0 0 1 8) = true -- AMO.XCHG.D g13, [g8], g0
    := by decide +kernel

theorem test_decode_20_peephole :
    reads 0xA0A0_0001 (.enext 5 0) = true ∧ -- ENEXT g5, g6
    reads 0xA146_4882 (.eacc 10 6 9 1) = true ∧ -- EACC g10, g6, g9, la=1
    reads 0xA180_0003 (.estat 12 0) = true -- ESTAT g12, g13, g14, g15
    := by decide +kernel

theorem test_decode_22_session :
    reads 0x2E95_0011 (.beq 20 21 17) = true -- BEQ g20, g21, ovf
    := by decide +kernel

/-! The other operations, their words put together from the formats of 02 R35 and the operation numbers of their sections. -/

/-- The fields of a word with three register fields: major, d, a, b and the low 11 bits. -/
def rr (major d a b low : Nat) : BitVec 32 := BitVec.ofNat 32 (major * 2 ^ 26 + d * 2 ^ 21 + a * 2 ^ 16 + b * 2 ^ 11 + low)

/-- The fields of a microword (11 R286). -/
def mw (op d a b x imm : Nat) : BitVec 64 := BitVec.ofNat 64 (op * 2 ^ 60 + d * 2 ^ 56 + a * 2 ^ 52 + b * 2 ^ 48 + x * 2 ^ 32 + imm)
def readsMicro (w : BitVec 64) (i : Instr) : Bool := decodeMicro w == some i && encodeMicro i == some w

/-- 04 R99 to R102. -/
theorem test_decode_integer :
    reads (rr 0 31 1 15 (2 ^ 9 + 3)) (.and 31 1 15 0 1) = true ∧
    reads (rr 0 31 1 15 (2 ^ 9 + 4)) (.or 31 1 15 0 1) = true ∧
    reads (rr 0 31 1 15 (2 ^ 9 + 5)) (.xor 31 1 15 0 1) = true ∧
    reads (rr 0 31 1 15 (2 ^ 9 + 6)) (.andn 31 1 15 0 1) = true ∧
    reads (rr 0 31 1 15 (2 ^ 9 + 7)) (.shl 31 1 15 0 1) = true ∧
    reads (rr 0 31 1 15 (2 ^ 9 + 8)) (.shr 31 1 15 0 1) = true ∧
    reads (rr 0 31 1 15 (2 ^ 9 + 9)) (.sra 31 1 15 0 1) = true ∧
    reads (rr 0 31 1 15 (2 ^ 9 + 10)) (.mul 31 1 15 0 1) = true ∧
    reads (rr 0 31 1 15 (2 ^ 9 + 11)) (.mulh 31 1 15 0 1) = true ∧
    reads (rr 0 31 1 15 (2 ^ 9 + 12)) (.mulhu 31 1 15 0 1) = true ∧
    reads (rr 0 0 1 31 17) (.min 0 1 31 0 0) = true ∧
    reads (rr 0 0 1 31 18) (.max 0 1 31 0 0) = true ∧
    reads (rr 0 0 1 31 19) (.minu 0 1 31 0 0) = true ∧
    reads (rr 0 0 1 31 20) (.maxu 0 1 31 0 0) = true ∧
    reads (rr 0 0 1 31 21) (.slt 0 1 31 0 0) = true ∧
    reads (rr 0 0 1 31 22) (.sltu 0 1 31 0 0) = true ∧
    reads (rr 0 0 1 31 23) (.seq 0 1 31 0 0) = true ∧
    reads (rr 0 0 1 31 24) (.sne 0 1 31 0 0) = true ∧
    reads (rr 0 5 6 7 (15 * 2 ^ 5 + 14)) (.divu 5 6 7 0 0 15) = true ∧
    reads (rr 0 5 6 7 (15 * 2 ^ 5 + 15)) (.rem 5 6 7 0 0 15) = true ∧
    reads (rr 0 5 6 7 (15 * 2 ^ 5 + 16)) (.remu 5 6 7 0 0 15) = true ∧
    reads (rr 0 5 15 0 (2 ^ 10 + 27)) (.ctz 5 15 1) = true ∧
    reads (rr 0 5 15 0 (2 ^ 10 + 28)) (.popc 5 15 1) = true ∧
    reads (rr 0 5 15 0 (2 ^ 10 + 29)) (.abs 5 15 1) = true ∧
    reads (rr 0 5 6 7 30) (.addv 5 6 7 0 0) = true := by decide +kernel

/-- 04 R103, R104. -/
theorem test_decode_immediate :
    reads (rr 4 5 6 31 2047) (.xori 5 6 0xFFFF) = true ∧
    reads (rr 5 5 6 16 0) (.slti 5 6 0x8000) = true ∧
    reads (rr 7 5 6 0 (2 ^ 8 + 63)) (.shri 5 6 63) = true := by decide +kernel

/-- 04 R106, R107. -/
theorem test_decode_float :
    reads (rr 9 5 6 7 (3 * 2 ^ 6 + 2 ^ 5 + 2)) (.fsub 5 6 7 0 0 3 1) = true ∧
    reads (rr 9 5 6 7 (3 * 2 ^ 6 + 2 ^ 5 + 3)) (.fmul 5 6 7 0 0 3 1) = true ∧
    reads (rr 9 5 6 7 (3 * 2 ^ 6 + 2 ^ 5 + 7)) (.fms 5 6 7 0 0 3 1) = true ∧
    reads (rr 9 5 6 0 (7 * 2 ^ 6 + 5)) (.fsqrt 5 6 0 7 0) = true ∧
    reads (rr 9 5 6 0 (2 ^ 5 + 13)) (.fclass 5 6 0 1) = true ∧
    reads (rr 9 5 6 7 (2 ^ 5 + 8)) (.fmin 5 6 7 0 0 1) = true ∧
    reads (rr 9 5 6 7 (2 ^ 5 + 9)) (.fmax 5 6 7 0 0 1) = true ∧
    reads (rr 9 5 6 7 (2 ^ 5 + 10)) (.feq 5 6 7 0 0 1) = true ∧
    reads (rr 9 5 6 7 (2 ^ 5 + 11)) (.flt 5 6 7 0 0 1) = true ∧
    reads (rr 9 5 6 7 (2 ^ 5 + 12)) (.fle 5 6 7 0 0 1) = true := by decide +kernel

/-- 04 R110, R111. -/
theorem test_decode_sli :
    reads (rr 10 5 6 7 (15 * 2 ^ 5 + 2)) (.lsub 5 6 7 0 0 15) = true ∧
    reads (rr 10 5 6 7 (15 * 2 ^ 5 + 3)) (.lmul 5 6 7 0 0 15) = true ∧
    reads (rr 10 5 6 7 (15 * 2 ^ 5 + 4)) (.ldiv 5 6 7 0 0 15) = true ∧
    reads (rr 10 5 6 7 (15 * 2 ^ 5 + 5)) (.leq 5 6 7 0 0 15) = true ∧
    reads (rr 10 5 6 7 (15 * 2 ^ 5 + 6)) (.llt 5 6 7 0 0 15) = true ∧
    reads (rr 10 5 6 0 (15 * 2 ^ 5 + 8)) (.llevel 5 6 0 15) = true := by decide +kernel

/-- 04 R115: the conditions 0, 2, 3 and 5. -/
theorem test_decode_branch :
    reads (BitVec.ofNat 32 (0x0B * 2 ^ 26 + 5 * 2 ^ 21 + 6 * 2 ^ 16 + 0 * 2 ^ 13 + 0x1000)) (.beq 5 6 0x1000) = true ∧
    reads (BitVec.ofNat 32 (0x0B * 2 ^ 26 + 5 * 2 ^ 21 + 6 * 2 ^ 16 + 2 * 2 ^ 13 + 0x1000)) (.blt 5 6 0x1000) = true ∧
    reads (BitVec.ofNat 32 (0x0B * 2 ^ 26 + 5 * 2 ^ 21 + 6 * 2 ^ 16 + 3 * 2 ^ 13 + 0x1000)) (.bge 5 6 0x1000) = true ∧
    reads (BitVec.ofNat 32 (0x0B * 2 ^ 26 + 5 * 2 ^ 21 + 6 * 2 ^ 16 + 5 * 2 ^ 13 + 0x1000)) (.bgeu 5 6 0x1000) = true := by decide +kernel

/-- 08 R194; 06 R167. -/
theorem test_decode_region :
    reads (rr 23 0 5 0 4) (.acqS 5) = true ∧
    reads (rr 23 0 5 0 5) (.relX 5) = true ∧
    reads (rr 23 0 5 6 8) (.cinv 5 6) = true ∧
    reads (BitVec.ofNat 32 (0x2A * 2 ^ 26 + 3 * 2 ^ 12 + 1)) .eretS = true := by decide +kernel

/-- 09 R219. -/
theorem test_decode_vector :
    reads (rr 29 4 2 5 (11 * 2 ^ 7 + 2 ^ 6 + 3)) (.vstm 4 2 5 11 1) = true ∧
    reads (rr 29 4 2 8 (11 * 2 ^ 7 + 5)) (.vstx 4 2 8 11 0) = true ∧
    reads (rr 30 3 1 2 (11 * 2 ^ 7 + 2 ^ 6 + 2 ^ 5 + 2 ^ 4 + 1)) (.vsub 3 1 2 11 1 1 1) = true ∧
    reads (rr 30 3 1 2 (0 * 2 ^ 7 + 2 ^ 6 + 2 ^ 5 + 2 ^ 4 + 2)) (.vmul 3 1 2 0 1 1 1) = true ∧
    reads (rr 30 3 1 2 (1 * 2 ^ 7 + 2 ^ 6 + 2 ^ 5 + 2 ^ 4 + 3)) (.vmulh 3 1 2 1 1 1 1) = true ∧
    reads (rr 30 3 1 2 (2 * 2 ^ 7 + 2 ^ 6 + 2 ^ 5 + 2 ^ 4 + 4)) (.vdiv 3 1 2 2 1 1 1) = true ∧
    reads (rr 30 3 1 2 (10 * 2 ^ 7 + 2 ^ 6 + 2 ^ 5 + 2 ^ 4 + 5)) (.vmin 3 1 2 10 1 1 1) = true ∧
    reads (rr 30 3 1 2 (11 * 2 ^ 7 + 2 ^ 6 + 2 ^ 5 + 2 ^ 4 + 6)) (.vmax 3 1 2 11 1 1 1) = true ∧
    reads (rr 30 3 1 2 (14 * 2 ^ 7 + 2 ^ 6 + 2 ^ 5 + 2 ^ 4 + 7)) (.vand 3 1 2 14 1 1 1) = true ∧
    reads (rr 30 3 1 2 (3 * 2 ^ 7 + 2 ^ 6 + 2 ^ 5 + 2 ^ 4 + 8)) (.vor 3 1 2 3 1 1 1) = true ∧
    reads (rr 30 3 1 2 (13 * 2 ^ 7 + 2 ^ 6 + 2 ^ 5 + 2 ^ 4 + 9)) (.vxor 3 1 2 13 1 1 1) = true ∧
    reads (rr 30 3 1 2 (2 * 2 ^ 7 + 2 ^ 6 + 2 ^ 5 + 2 ^ 4 + 10)) (.vshl 3 1 2 2 1 1 1) = true ∧
    reads (rr 30 3 1 2 (6 * 2 ^ 7 + 2 ^ 6 + 2 ^ 5 + 2 ^ 4 + 11)) (.vshr 3 1 2 6 1 1 1) = true ∧
    reads (rr 30 3 1 0 (11 * 2 ^ 7 + 14)) (.vsqrt 3 1 11 0 0 0) = true ∧
    reads (rr 31 3 1 2 (14 * 2 ^ 7 + 1)) (.vlmul 3 1 2 14 0 0 0) = true ∧
    reads (rr 31 3 1 2 (13 * 2 ^ 7 + 2)) (.vldiv 3 1 2 13 0 0 0) = true := by decide +kernel

/-- 19 R387. -/
theorem test_decode_sash_units :
    reads (rr 39 8 4 10 (2 * 2 ^ 7 + 1)) (.ssopen 8 4 10 2) = true ∧
    reads (rr 39 8 4 10 (2 * 2 ^ 7 + 2)) (.ssload 8 4 10 2) = true ∧
    reads (rr 39 8 4 10 (2 * 2 ^ 7 + 3)) (.sscommit 8 4 10 2) = true ∧
    reads (rr 39 8 4 10 (2 * 2 ^ 7 + 5)) (.ssfind 8 4 10 2) = true ∧
    reads (rr 39 8 4 10 (2 * 2 ^ 7 + 6)) (.ssroll 8 4 10 2) = true ∧
    reads (rr 39 8 4 10 (2 * 2 ^ 7 + 7)) (.sspin 8 4 10 2) = true ∧
    reads (rr 39 8 4 10 (2 * 2 ^ 7 + 8)) (.ssunpin 8 4 10 2) = true ∧
    reads (rr 39 8 4 10 (2 * 2 ^ 7 + 9)) (.ssfork 8 4 10 2) = true ∧
    reads (rr 39 8 4 0 4) (.sssnap 8 4 0) = true ∧
    reads (rr 39 0 4 0 10) (.ssclose 4 0) = true := by decide +kernel

/-- 11 R286 to R290, R294: one microword of every operation; five of them are the words of the listing in 11. -/
theorem test_decode_microwords :
    readsMicro (mw 0 15 0 0 0 0xFFFFFFFF) (.microMovi ⟨15, 0, 0, 0, 0xFFFFFFFF⟩) = true ∧
    readsMicro (mw 1 1 2 3 1 5) (.microAdd ⟨1, 2, 3, 1, 5⟩) = true ∧
    readsMicro (mw 2 1 2 3 0 5) (.microAddm ⟨1, 2, 3, 0, 5⟩) = true ∧
    readsMicro (mw 3 9 0 0 0 0xF1) (.microDjnz ⟨9, 0, 0, 0, 0xF1⟩) = true ∧
    readsMicro (mw 4 0 9 0 0 0xF1) (.microBnz ⟨0, 9, 0, 0, 0xF1⟩) = true ∧
    readsMicro (mw 5 1 2 0 0x4 0x401010) (.microMm ⟨1, 2, 0, 0x4, 0x401010⟩) = true ∧
    readsMicro (mw 5 1 2 0 0x1 0x50010) (.microMmMload ⟨1, 2, 0, 0x1, 0x50010⟩) = true ∧
    readsMicro (mw 6 1 2 3 0 0x3E000000) (.microXp ⟨1, 2, 3, 0, 0x3E000000⟩) = true ∧
    readsMicro (mw 7 1 2 3 1 256) (.microCp ⟨1, 2, 3, 1, 256⟩) = true ∧
    readsMicro (mw 8 1 3 4 0x30 0) (.microMask ⟨1, 3, 4, 0x30, 0⟩) = true ∧
    readsMicro (mw 9 5 1 0 0 0x3E000000) (.microRmax ⟨5, 1, 0, 0, 0x3E000000⟩) = true ∧
    readsMicro (mw 10 5 1 0 0 0) (.microRsum ⟨5, 1, 0, 0, 0⟩) = true ∧
    readsMicro (mw 11 5 1 2 0 0) (.microLcomb ⟨5, 1, 2, 0, 0⟩) = true ∧
    readsMicro (mw 12 5 1 2 1 0) (.microNorm ⟨5, 1, 2, 1, 0⟩) = true ∧
    readsMicro (mw 13 0 0 0 0 7) (.microWaite ⟨0, 0, 0, 0, 7⟩) = true ∧
    readsMicro (mw 14 0 3 0 0 0) (.microSig ⟨0, 3, 0, 0, 0⟩) = true ∧
    readsMicro (mw 14 0 0 3 1 0x35) (.microSigMessage ⟨0, 0, 3, 1, 0x35⟩) = true ∧
    readsMicro (mw 15 0 0 0 0 0) (.microStop ⟨0, 0, 0, 0, 0⟩) = true ∧
    mw 5 1 2 0 0x4 0x401010 = 0x5120000400401010 ∧ mw 8 1 3 4 0x30 0 = 0x8134003000000000 ∧ mw 3 9 0 0 0 0xF1 = 0x39000000000000F1 := by decide +kernel

/-- Words that no row of the table has are refused: an unused operation, a nonzero field that must be zero, an unused major,
a microword with a field that its operation does not use. -/
theorem test_decode_refuses :
    decodeWord (rr 0 5 6 7 31) = none ∧ decodeWord (rr 0 9 10 1 26) = none ∧ decodeWord (rr 0x22 0 0 0 0) = none ∧ decodeWord (rr 0x10 1 2 0 (7 * 2 ^ 9)) = none ∧
    decodeMicro (mw 15 1 0 0 0 0) = none := by decide +kernel

/-- One ill-formed term for each check of `Instr.wf`, refused: a message register beyond m15 as either source, a rounding mode
that is reserved, a conversion code above 9 and a saturating one that cannot saturate, the load size 7, a register pair at g31, an
atomic operation above 10 and a doubleword one above 8, the fence scopes 0 and 6, an object register beyond g31, a policy bit
without a mask, element types that an operation does not take, an offset group and a conversion group beyond v31, a reduction that
is reserved, a run of registers beyond g31 or at g0, a tile beyond v31, the domain levels 0 and 5, a write of CASGO as a WRC, a
microword with a field its operation does not use. -/
theorem test_ill_formed :
    (Instr.add 1 16 2 1 0).wf = false ∧ (Instr.add 1 2 16 0 1).wf = false ∧ (Instr.clz 1 16 1).wf = false ∧ (Instr.fadd 1 2 3 0 0 5 0).wf = false ∧
    (Instr.lcvt 1 2 0 10 0 0).wf = false ∧ (Instr.lcvt 1 2 1 0 0 0).wf = false ∧ (Instr.ld 1 2 0 7 0).wf = false ∧ (Instr.ldp 31 2 0 1 0).wf = false ∧
    (Instr.stp 31 2 0 0).wf = false ∧ (Instr.amo 1 2 3 0 0 0 0 11).wf = false ∧ (Instr.amo 1 2 3 0 0 0 1 9).wf = false ∧ (Instr.fence 0).wf = false ∧
    (Instr.fence 6).wf = false ∧ (Instr.rbind 1 2 31).wf = false ∧ (Instr.rinit 2 31).wf = false ∧ (Instr.vld 1 2 3 11 0 1 0).wf = false ∧
    (Instr.vst 1 2 3 15 0).wf = false ∧ (Instr.vldx 1 2 3 8 0 0 0).wf = false ∧ (Instr.vldx 1 2 29 0 0 0 0).wf = false ∧ (Instr.vadd 1 2 3 14 0 0 0).wf = false ∧
    (Instr.vmulh 1 2 3 11 0 0 0).wf = false ∧ (Instr.vfma 1 2 3 0 0 0 0).wf = false ∧ (Instr.vladd 1 2 3 11 0 0 0).wf = false ∧
    (Instr.vcvt 1 2 0 11 11 0 0 0).wf = false ∧ (Instr.vcvt 29 2 0 0 11 0 0 0).wf = false ∧ (Instr.vred 1 2 0 6 0 0 0).wf = false ∧
    (Instr.vred 1 2 0 3 11 0 0).wf = false ∧ (Instr.mput 1 28 4 0).wf = false ∧ (Instr.mstat 0 0).wf = false ∧ (Instr.mstat 31 0).wf = false ∧
    (Instr.cpy2 1 2 30 0).wf = false ∧ (Instr.cgthb 30 1 2 0).wf = false ∧ (Instr.estat 29 0).wf = false ∧ (Instr.dsync 0).wf = false ∧
    (Instr.dsync 5).wf = false ∧ (Instr.wrc 1 0x050).wf = false ∧ (Instr.microAdd ⟨1, 2, 3, 0, 5⟩).wf = false ∧ (Instr.microStop ⟨1, 0, 0, 0, 0⟩).wf = false ∧
    (Instr.microDjnz ⟨1, 0, 0, 0, 0x100⟩).wf = false ∧ (Instr.microMask ⟨1, 0, 0, 17, 0⟩).wf = false := by decide +kernel

/-! The small states of the tests: hart 1 of core 5, in program mode at pc 64 of a code region of 1 KiB, in partition 0. -/

def setG (i : Nat) (v : Word) (h : Hart) : Hart := { h with g := h.g.setIfInBounds i v }
def c0 : Core := { codesz := 1024, vf := some 0, launch := 7 }
def h0 : Hart := { xvec := 512, pc := 64, group := some ⟨7, 0, 0⟩ }
def hart1 (f : Hart → Hart) (k : Core) : Core := { k with harts := k.harts.set 1 (f h0) }
def rs : State := State.reset.modPart 0 (fun p => { p with valid := true, resident := true, remap := 0x8000000018018000, endpoints := [4] })
def base (f : Hart → Hart := id) (k : Core → Core := id) (l : List (Nat × Core) := []) : State :=
  { l.foldl (fun s x => s.setCore x.1 x.2) (rs.setCore 5 (k (hart1 f { c0 with vc := 5 }))) with cur := ⟨5, 1⟩ }
def rq (kind : ReqKind) (ea : Word) (st : Stage) (cls : Machine.Class := .posted) : Req :=
  { id := 3, src := .hart 5 1, cls := cls, kind := kind, ea := ea, vf := 0, launch := 7, off := 64, prog := true, stage := st }

/-! One step each, on values that the sections of spec/ work out. -/

/-- The state after one instruction. -/
def after (i : Instr) (s : State) : State := match exec i s with | .next t => t | _ => s
/-- Hart 1 of a core of partition 0, at pc 64, with the named registers set. -/
def hartWith (l : List (Nat × Word)) : State := base (fun h => l.foldl (fun h x => setG x.1 x.2 h) h)

/-- 03, after R88: 2.0, 0.5, 1.0 and +inf to SLI32, and SLI32 to F32. -/
theorem test_sli_conversions :
    Alu.lcvt 0 0 0x40000000 = ⟨0x458B90C0, 0x01⟩ ∧ Alu.lcvt 0 0 0x3F000000 = ⟨0x058B90C0, 0x01⟩ ∧ Alu.lcvt 0 0 0x3F800000 = ⟨0x40000000, 0⟩ ∧
    Alu.lcvt 0 0 0x7F800000 = ⟨0x80000000, 0x10⟩ ∧ Alu.lcvt 0 3 0x48000000 = ⟨0x402DF854, 0x01⟩ ∧ Alu.lcvt 0 3 0x50000000 = ⟨0x417277DC, 0x01⟩ := by
  decide +kernel

/-- 03, 04: the worked addition of 2.0 and 0.5 sets NX and leaves LX clear. -/
theorem test_ladd :
    let t := after (.ladd 3 1 2 0 0 2) (hartWith [(1, 0x458B90C0), (2, 0x058B90C0)])
    t.rg 3 = 0x4754903C ∧ t.hart.aflags = 0x01 ∧ t.hart.pc = 68 := by decide +kernel

/-- 09, after R218: SHAPE grants three rows of three elements. -/
theorem test_shape :
    let t := after (.shape 5 6 7 2) (hartWith [(6, 3), (7, 3)])
    t.rg 5 = 0x00030003 ∧ t.hart.shape = 0x00030003 := by decide +kernel

def splat (x : Nat) : Tile := BitVec.ofNat 1024 ((List.range 32).foldl (fun a _ => a * 2 ^ 32 + x) 0)

/-- 09, after R218: VADD.F32.MU.TA under that shape and the mask 0x0000_0007_0005_0007. -/
theorem test_vadd_masked :
    let s := base (fun h => { h with shape := 0x00030003, v := (((h.v.set 0 0x0000000700050007).set 1 (splat 0x3F800000)).set 2 (splat 0x40000000)).set 3 (splat 0x41100000) })
    let t := after (.vadd 3 1 2 11 1 0 1) s
    let e := fun i j => tileEl (t.hart.rv 3) 32 i j
    (e 0 0, e 0 1, e 0 2, e 0 3) = (0x40400000, 0x40400000, 0x40400000, 0xFFFFFFFF) ∧ (e 1 0, e 1 1, e 1 2) = (0x40400000, 0x41100000, 0x40400000) ∧
    (e 2 3, e 3 0, e 7 3) = (0xFFFFFFFF, 0xFFFFFFFF, 0xFFFFFFFF) ∧ t.hart.aflags = 0 := by decide +kernel

/-- 09, after R235: VCVT.F32.S8 of 0x01, 0xFF, 0x80, 0x7F. -/
theorem test_vcvt_widens :
    let s := base (fun h => { h with shape := 0x00010010, v := h.v.set 2 0x7F80FF01 })
    let e := fun j => tileEl ((after (.vcvt 12 2 0 0 11 0 0 0) s).hart.rv 12) 32 0 j
    (e 0, e 1, e 2, e 3) = (0x3F800000, 0xBF800000, 0xC3000000, 0x42FE0000) := by decide +kernel

/-- 11, after R287: ADDM with aA = 13, IMM = 5 and aB = 16 writes 2. -/
theorem test_addm :
    let s := base id (fun k => { k with cas := { k.cas with state := .running, starter := 1, a := (k.cas.a.set 2 13).set 3 16 } })
    ((after (.microAddm ⟨1, 2, 3, 0, 5⟩) s).cc.cas.a.get 1) = 2 := by decide +kernel

/-- 15, after R338: the translating slice, the walk and the home of VA 0x0000_1234_5678_9A00. -/
theorem test_translation :
    let s := { State.reset.modPart 3 (fun p => { p with valid := true, ptroot := 0x1000000000, wm1 := 63, hm1 := 19, remap := 0x80000000099F8000, masks := (p.masks.set 0 (2 ^ 63 + 19 * 2 ^ 23 + 63 * 2 ^ 15)).set 2 (2 ^ 63 + 3 * 2 ^ 23 + 7 * 2 ^ 15 + 4 * 2 ^ 8 + 16) }) with
      mem := memPutLE (memPutLE (memPutLE [] 0x1000024688 8 0x0000001000400001) 0x1000400598 8 0x0000001000401001) 0x10004010C0 8 0x0004740543210033 }
    let l := (s.walk 3 0x123456789A00 0).toOption
    s.translatingSlice 3 0x123456789A00 = some (12, 13) ∧ l.map (fun l => l.phys 0x123456789A00) = some 0x543219A00 ∧
    l.map (fun l => s.homeSlice 3 l 0x543219A00) = some (some (20, 5)) ∧ l.map (fun l => l.owner) = some 3 := by decide +kernel

/-- 04 R100: the corners of division. -/
theorem test_division :
    (after (.div 3 1 2 0 0 0) (hartWith [(1, 7)])).rg 3 = 0xFFFFFFFFFFFFFFFF ∧ (after (.div 3 1 2 0 0 0) (hartWith [(1, 7)])).hart.aflags = 0x08 ∧
    (after (.rem 3 1 2 0 0 0) (hartWith [(1, 0x8000000000000000), (2, 0xFFFFFFFFFFFFFFFF)])).rg 3 = 0 ∧
    (after (.div 3 1 2 0 0 0) (hartWith [(1, 0xFFFFFFFFFFFFFFF9), (2, 2)])).rg 3 = 0xFFFFFFFFFFFFFFFD := by decide +kernel

/-- 04 R121 to R123: a store and a load of the own scratch; a sign is extended; a doubleword at an odd word takes ALIGN. -/
theorem test_load_store :
    let a : Word := 0xFFFFFFFFFF000800
    let t := after (.st 3 2 0 1) (hartWith [(2, a), (3, 0x180)])
    (after (.ld 4 2 0 0 1) t).rg 4 = 0xFFFFFFFFFFFFFF80 ∧ (after (.ld 4 2 0 4 1) t).rg 4 = 0x80 ∧
    (after (.ld 4 2 0 3 0) (hartWith [(2, a + 4)])).hart.xcause = 0x03 ∧ (after (.ld 4 2 0 3 0) (hartWith [(2, a + 4)])).hart.pc = 512 := by decide +kernel

/-- 06 R169, R170: TRAP goes to the vector with the next instruction in XPC, and ERET returns there in program mode. -/
theorem test_trap_eret :
    let t := after (.trap 7) (hartWith [])
    let u := after .eret t
    t.hart.pc = 512 ∧ t.hart.xpc = 68 ∧ t.hart.xinfo = 7 ∧ t.hart.xcause = 0x18 ∧ t.hart.mode = .supervisor ∧ u.hart.pc = 68 ∧ u.hart.mode = .program := by
  decide +kernel

/-! Witnesses. -/

/-- a vector state: all 8 rows of 4 elements active, the map object at 0x440, the base address b -/
def vec (b : Nat) : State :=
  base (fun h => setG 2 (BitVec.ofNat 64 b) (setG 3 0xFFF0000A00000440 { h with shape := 0x00080010, v := h.v.set 0 (BitVec.allOnes 1024) }))
    (fun k => k.swrite 0x440 16 (b + 4 * 2 ^ 64))
def rowMajor (s : State) (i j : Nat) : Word := s.rg 2 + BitVec.ofNat 64 i * 16 + BitVec.ofNat 64 (4 * j)
def indexed (s : State) (i j : Nat) : Word := s.rg 2 + (BitVec.ofNat 32 (tileEl (s.hart.rv (4 + BitVec.ofNat 5 (j / 4))) 32 i (j % 4))).signExtend 64
def mapped (s : State) (i j : Nat) : Word :=
  let map := s.cc.sread 0x440 16
  let row := bits map 127 96 + ((s.rg 5).toNat % 2 ^ 32 + i)
  let row := if bits map 95 80 = 0 then row else row % bits map 95 80
  BitVec.ofNat 64 (bits map 63 0 + row * (bits map 79 64 * 16)) + BitVec.ofNat 64 (4 * j)

/-- the elements of a masked F32 access all lie in the own scratch -/
def ownElements (s : State) (at_ : Nat → Nat → Word) (store : Bool) : Bool :=
  (List.range 8).all fun i => (List.range 4).all fun j =>
    let x := s.resolve (at_ i j)
    maskBit (s.hart.rv 0) 0xB i j && decide (s.classify x 4 4 false = .ok (.own (addrOff x))) && !s.waitsFor (.own (addrOff x)) x 4 &&
      (s.watchNow x 4 (!store) store).isNone && !s.cc.spoisoned (addrOff x) 4 && (s.cc.regionAt x.toNat).isNone

theorem witness_VectorLoads_own :
    let s : State := vec 0xFFF0000A00000800
    etAny 0xB = true ∧ etNibble 0xB = false ∧ etBytes 0xB = 4 ∧ s.hart.rows = 8 ∧ min s.hart.vlen (16 / 4) = 4 ∧
    (s.classify (s.resolve (s.rg 3)) 16 16 false = .ok (.own 0x440)) ∧ s.wayHeld (.own 0x440) 0 16 = false ∧
    ownElements s (rowMajor s) false = true ∧ ownElements s (indexed s) false = true ∧ ownElements s (mapped s) false = true := by decide +kernel

theorem witness_VectorLoads_far :
    let s : State := vec 0x1000
    let far : (Nat → Nat → Word) → Prop := fun at_ => s.vform false 4 (s.vaddrs 0xB 1 at_) = none ∧ s.vbusy 4 (s.vaddrs 0xB 1 at_) = false ∧
      (∃ x ∈ s.vaddrs 0xB 1 at_, s.vnear x.2 4 = none)
    etAny 0xB = true ∧ (s.classify (s.resolve (s.rg 3)) 16 16 false = .ok (.own 0x440)) ∧ s.wayHeld (.own 0x440) 0 16 = false ∧
    far (rowMajor s) ∧ far (indexed s) ∧ far (mapped s) := by decide +kernel

theorem witness_VectorStores_own :
    let s : State := vec 0xFFF0000A00000800
    etAny 0xB = true ∧ (s.vaddrs 0xB 1 (rowMajor s)).length = 32 ∧
    (s.classify (s.resolve (s.rg 3)) 16 16 false = .ok (.own 0x440)) ∧
    ownElements s (rowMajor s) true = true ∧ ownElements s (indexed s) true = true ∧ ownElements s (mapped s) true = true := by decide +kernel

theorem witness_VectorStores_posted :
    let s : State := vec 0x1000
    let free : (Nat → Nat → Word) → Prop := fun at_ => ∀ x ∈ s.vaddrs 0xB 0 at_, s.waitsFor .global x.2 4 = false ∧
      s.watchNow x.2 4 false true = none ∧ s.cc.regionAt x.2.toNat = none ∧ s.classify x.2 4 4 false = .ok .global
    let room : Bool → (Nat → Nat → Word) → Prop := fun index at_ =>
      s.hart.orsLocal.toNat + s.hart.orsFab.toNat + s.hart.rejLog.length +
        (postedParts 4 index ((s.vaddrs 0xB 0 at_).map (fun x => (x.1, x.2, tileEl (s.hart.rv 5) 32 (x.1 / 4) (x.1 % 4))))).length ≤ 8
    etAny 0xB = true ∧ free (rowMajor s) ∧ room false (rowMajor s) ∧ free (indexed s) ∧ free (mapped s) ∧ room false (mapped s) := by
  decide +kernel

/-- two rows in a bound region at 0x1000: every sector present, or none -/
def vcached (l : List Nat) : State :=
  base (fun h => setG 2 0x1000 (setG 3 0xFFF0000A00000440 { h with shape := 0x00020010, v := h.v.set 0 (BitVec.allOnes 1024) }))
    (fun k => { (k.swrite 0x440 16 (0x1000 + 4 * 2 ^ 64)) with
      regions := k.regions.set 0 ⟨true, 0x1000, 1, 0x8000⟩, waymask := 0xFF7, cache := l.map (fun a => { addr := a, way := 3, data := 0, dirty := 0, poison := false }) })

theorem witness_VectorStores_region :
    let at_ : Bool → List ((Nat → Nat → Word)) := fun _ => [rowMajor (vcached [0x1000]), indexed (vcached [0x1000]), mapped (vcached [0x1000])]
    (∀ l ∈ [[0x1000], []], ∀ f ∈ at_ true, ∀ x ∈ (vcached l).vaddrs 0xB 1 f, (vcached l).watchNow x.2 4 false true = none ∧
      (vcached l).classify x.2 4 4 false = .ok .global ∧ (vcached l).waitsFor .global x.2 4 = false ∧ (vcached l).cc.regionAt x.2.toNat ≠ none ∧
      (vcached l).inRegion x.2 = true ∧ ((vcached l).cc.sectorAt x.2.toNat).isSome = l.contains 0x1000) ∧
    (∀ f ∈ at_ true, (vcached []).vaddrs 0xB 1 f ≠ []) := by decide +kernel

/-- one element: an indexed store has room for it -/
theorem witness_VectorStores_indexed :
    let s : State := base (fun h => setG 2 0x1000 { h with shape := 0x00010001 })
    s.hart.orsLocal.toNat + s.hart.orsFab.toNat + s.hart.rejLog.length +
      (postedParts 4 true ((s.vaddrs 0xB 0 (indexed s)).map (fun x => (x.1, x.2, tileEl (s.hart.rv 5) 32 (x.1 / 4) (x.1 % 4))))).length ≤ 8 ∧
    (∀ x ∈ s.vaddrs 0xB 0 (indexed s), s.waitsFor .global x.2 4 = false ∧ s.watchNow x.2 4 false true = none ∧
      s.cc.regionAt x.2.toNat = none ∧ s.classify x.2 4 4 false = .ok .global) := by decide +kernel

/-- the lowest run of 30 free slots where the slots 0 and 1 are claimed is 2 to 31 -/
theorem witness_MatrixAndExponentCommands_claim :
    let s : State := base (setG 2 30) (fun k => k.ownSlots 0 2 (some 0))
    let A : Nat := (s.rg 2).toNat
    s.writable 5 ∧ 1 ≤ A ∧ A ≤ 32 ∧ 2 + A ≤ 32 ∧ (∀ k, k < 32 → 2 ≤ k → k < 2 + A → s.cc.slotsFree k 1 = true) ∧
    (∀ j, j < 2 → j ≤ 1 ∧ 1 < j + A ∧ s.cc.slotsFree 1 1 = false) := by decide +kernel

/-- every slot claimed: no run of one slot is free -/
theorem witness_MatrixAndExponentCommands_full :
    let s : State := base (setG 2 1) (fun k => k.ownSlots 0 32 (some 0))
    s.writable 5 ∧ (s.rg 2).toNat = 1 ∧ ∀ j, ∃ k, j ≤ k ∧ k < j + 1 ∧ s.cc.slotsFree k 1 = false := by
  have h : ∀ j, j < 32 → (base (setG 2 1) (fun k => k.ownSlots 0 32 (some 0))).cc.slotsFree j 1 = false := by decide +kernel
  refine ⟨by decide +kernel, by decide +kernel, fun j => ⟨j, le_rfl, Nat.lt_succ_self j, ?_⟩⟩
  by_cases hj : j < 32
  · exact h j hj
  · simp [Core.slotsFree, hj]

theorem witness_ScratchReadAfterWrite_other :
    Memory.wf c0.lmem = true ∧ 0x5FFF8 + 8 ≤ c0.scratchSize ∧ 0x5FFF0 + 8 ≤ c0.scratchSize ∧ 0x5FFF0 + 8 ≤ 0x5FFF8 := by decide +kernel

/-- a branch far behind the start of the code, less than in both readings -/
theorem witness_ControlTransfers_less :
    let s : State := base (fun h => setG 2 1 (setG 3 2 h))
    s.trapReady ∧ (s.rg 2).toInt < (s.rg 3).toInt ∧ (s.rg 2).toNat < (s.rg 3).toNat ∧ (s.hart.pc.toNat : Int) + (0x1F00#13).toInt * 4 < 0 := by
  decide +kernel

def est : Estimate := { n := 100, seed := 5, tau := 0, z := 0, lw := 2, minr := 1, next := 7, rounds := 0, opened := [3, 5] }
def withEst (e : Estimate) : State :=
  { base (fun h => setG 2 5 { h with openPos := some 5 }) with
    launches := [{ id := 7, vf := 0, record := 0, spec := 0, submitter := .host 0 0 0, image := 0, order := 0, est := some e, state := .running,
                   groups := [{ num := 0, vcore := 5, base := 1, harts := 1 }] }] }

theorem witness_PeepholeResults_eacc :
    let s : State := withEst est
    let g : GroupRef := ⟨7, 0, 0⟩
    let gone : State → Estimate → Prop := fun s e => s.hart.openPos = some (s.rg 2).toNat ∧ e.status ≠ .running ∧ e.rounds ≤ (s.rg 2).toNat / 2 ^ e.lw
    (∀ d : BitVec 5, s.writable d) ∧ s.hart.group = some g ∧ (s.launches.find? (fun y => y.id == g.launch)).bind Launch.est = some est ∧
    s.hart.openPos = some (s.rg 2).toNat ∧ ¬gone s est ∧ gone (withEst { est with status := .exhausted }) { est with status := .exhausted } := by
  decide +kernel

theorem witness_EngineCommandTraps_xexp :
    let s : State := base (setG 3 0x0002000000000000)
    s.trapReady ∧ s.writable 5 ∧ s.queueShut .exponent = false ∧ bits (s.rg 3).toNat 63 49 ≠ 0 := by decide +kernel

def sequencer (f : Hart → Hart := id) : State :=
  base f (fun k => { k with cas := { k.cas with state := .running, starter := 1, a := Vector.replicate 16 7 } })

theorem witness_MicroControl_message :
    let s : State := sequencer
    let u : Micro := { d := 0, a := 0, b := 2, imm := 0x15, x := 1 }
    let m : Msg := ⟨BitVec.ofNat 2 (bits u.imm.toNat 5 4), BitVec.ofNat 4 u.imm.toNat, (s.cc.cas.reg u.b).setWidth 64⟩
    (Instr.microSigMessage u).wf = true ∧ (s.cc.hart m.hart).group.isSome = true ∧ s.cc.sleep = .awake ∧ s.cc.tokens = [] ∧ (s.cc.deliver m).isSome = true := by decide +kernel

def toSaved : Req := rq (.message 99) (BitVec.ofNat 64 (2 ^ 63 + 2047 * 2 ^ 52 + 7 * 2 ^ 33 + 0x800000 + 0x80 + 5 * 8)) (.toEvicted 0 7) .message

theorem witness_MessageDelivery_hold :
    let x : Saved := { core := hart1 id { c0 with vc := 7 } }
    let s : State := { base.modPart 0 (fun p => { p with saved := [x] }) with net := [toSaved] }
    let r : Req := toSaved
    s.reqNext 3 = some r ∧ r.kind = .message 99 ∧ winHart (addrOff r.ea) = 1 ∧ winReg (addrOff r.ea) = 5 ∧ s.locate r.vf (addrVcore r.ea) = none ∧
    r.stage = .toEvicted 0 7 ∧ (s.part r.vf).savedAt (addrVcore r.ea) = some 0 ∧ (s.part r.vf).saved[0]? = some x ∧ (x.core.hart 1).group ≠ none ∧
    x.hold.length < Config.holdSize := by decide +kernel

/-- SSOPEN of a record at 0x10000, in a page of 64 KiB that the partition's tables map -/
def opens : Req := rq (.sash (.open 0x10000 0x1000001 0) 0 6) 0 .sent .request
def sash : State :=
  { (base (fun h => { h with outst := [{ id := 3, pc := 60, dests := [6], credit := 0, passed := false }] })).modPart 0 (fun p => { p with ptroot := 0x200000 }) with
    mem := memPutLE [] 0x200000 8 0x40000033, net := [opens] }

theorem witness_Returns_sash :
    let s : State := sash
    s.reqNext 3 = some opens ∧ opens.src = .hart 5 1 ∧ s.sashReady opens = true ∧
    (s.sashOp 5 0 0 (.open 0x10000 0x1000001 0)).toOption.isSome = true := by decide +kernel

def code : List Byte := (List.range 512).map (fun i => BitVec.ofNat 8 (i * 7))
def image : List Byte :=
  bytesOfLE 64 (0x4E564344 + 1 * 2 ^ 32 + 512 * 2 ^ 64 + crc32c code * 2 ^ 128 + crc32c [] * 2 ^ 160 + (64 + 512) * 2 ^ 224) ++ code
def queued : Launch :=
  { id := 1, vf := 0, record := BitVec.ofNat 512 (5 * 2 ^ 160 + 2 * 2 ^ 93 + 2 ^ 107 + 0xFFF * 2 ^ 116 + 0x10040 * 2 ^ 192 + 8 * 2 ^ 128), spec := 0,
    submitter := .host 4 0x77 8, image := 0x10040, order := 0 }
def ready : State :=
  { rs.modPart 0 (fun p => { p with queues := p.queues.set 0 [1], serial := 1, ptroot := 0x200000 }) with
    launches := [queued], mem := memPutBytes (memPutLE [] 0x200000 8 0x40000033) 0x40010040 image }

theorem witness_SubmissionAndPlacement_place :
    let s : State := ready
    let l : Launch := queued
    (s.headOf 0 0 = some l) ∧ (s.chosen 0 = some l) ∧ l.vf = 0 ∧ (s.part 0).resident = true ∧ (s.part 0).requested = none ∧ (s.part 0).switchTo = none ∧
    l.dlev = 0 ∧ (s.nextCore l).isSome = true ∧ l.pparam = 0 ∧ l.fclass = 0 := by decide +kernel

def failed : Launch :=
  { id := 1, vf := 0, record := BitVec.ofNat 512 (2 * 2 ^ 160 + 2 ^ 93), spec := 0, submitter := .host 4 0 0, image := 0, order := 0, state := .ended,
    status := .failed, placed := 2 }
def waiting : Launch :=
  { id := 9, vf := 0, record := BitVec.ofNat 512 (2 * 2 ^ 160 + 2 ^ 93 + 1 * 2 ^ 384), spec := 0, submitter := .host 4 0 0, image := 0, order := 1 }

theorem witness_EndsAndMerges_cancel :
    let s : State := { rs.modPart 0 (fun p => { p with queues := p.queues.set 2 [9, 11], serial := 9 }) with launches := [failed, waiting] }
    s.launches = [failed, waiting] ∧ failed.state = .ended ∧ failed.status ≠ .completed ∧ waiting.state = .queued ∧ waiting.placed = 0 ∧
    failed.id ≠ waiting.id ∧ ((s.part waiting.vf).queue 2).head? = some waiting.id ∧ failed.id ∈ waiting.preds ∧
    ((s.part waiting.vf).age (failed.id % 2 ^ 28) = some 8) := by decide +kernel

theorem witness_EvictionAndResume_busy :
    let s : State := base (fun h => { h with outst := [{ id := 3, pc := 60, dests := [5], credit := 0, passed := false }] }) (fun k => { k with draining := true, marked := true })
    (s.core 5).vf = some 0 ∧ (s.core 5).draining = true ∧ (s.part 0).rolledBack = false ∧ s.drained 5 = false := by decide +kernel

theorem witness_SwitchesAndCheckpoints_unquiesced :
    let s : State := (base (fun h => { h with outst := [{ id := 3, pc := 60, dests := [5], credit := 0, passed := false }] })
      (fun k => { k with draining := true, marked := true })).modPart 0 (fun p => { p with switchTo := some 1, rolledBack := true })
    (s.part 0).switchTo ≠ none ∧ (s.part 0).rolledBack = true ∧ (s.core 5).vf = some 0 ∧ s.quiesced 5 = false := by decide +kernel

set_option maxRecDepth 10000 in
theorem witness_ErrorContainment_repair :
    let s : State := { (ready.setCore 5 { c0 with vc := 5, codesz := 512, launch := 1, codeStall := [0], harts := c0.harts.set 1 { h0 with group := some ⟨1, 0, 0⟩ } }) with
      launches := [{ queued with state := .running, groups := [{ num := 0, vcore := 5, base := 1, harts := 1 }] }] }
    0 ∈ (s.core 5).codeStall ∧ (s.goodCode 5).isSome = true := by decide +kernel

/-- no signature scheme is evaluated: of the two clauses on a firmware image, the one or the other has its hypothesis met -/
theorem witness_Management_signature (i : FirmwareImage) :
    let good := imageGood i = true
    good ∨ ¬good := Classical.em _

theorem witness_StepRunsDecoded_hart :
    let s : State := { base id (fun k => k.swrite 64 4 0x00820802) with agenda := [.hart 5 1] }
    let x := s.hartOf 5 1
    let k := s.core 5
    let t : State := { s with agenda := [], cur := ⟨5, 1⟩ }
    s.agenda = [.hart 5 1] ∧ s.atBoundary 5 1 = true ∧ x.block = none ∧ s.mayPass 5 1 = false ∧ x.due = none ∧ t.firstReady 5 1 = true ∧
    t.held = false ∧ t.locked = false ∧ t.inLines k.codeStall = none ∧ t.inLines k.codePoison = none ∧ t.breakpoint = none ∧
    x.pastEnd = false ∧ x.pc.toNat < k.codesz.toNat := by decide +kernel

/-- a hart past the last word of its code region -/
theorem witness_StepRunsDecoded_pastEnd :
    let s : State := { base (fun h => { h with pc := 0x1FFC, pastEnd := true }) (fun k => { k with codesz := 0x2000 }) with agenda := [.hart 5 1] }
    let x := s.hartOf 5 1
    let k := s.core 5
    let t : State := { s with agenda := [], cur := ⟨5, 1⟩ }
    s.agenda = [.hart 5 1] ∧ s.atBoundary 5 1 = true ∧ x.block = none ∧ s.mayPass 5 1 = false ∧ x.due = none ∧ t.firstReady 5 1 = true ∧
    t.held = false ∧ t.locked = false ∧ t.inLines k.codeStall = none ∧ t.inLines k.codePoison = none ∧ t.breakpoint = none ∧ x.pastEnd = true := by
  decide +kernel

theorem witness_StepRunsDecoded_words :
    decodeWord 0x00820802 ≠ none ∧ decodeWord 0x1F = none := by decide +kernel

theorem witness_StepRunsDecoded_sequencer :
    let s : State := sequencer
    (s.core 5).seqReady = true ∧ decodeMicro (mapGet (s.core 5).cas.store (s.core 5).cas.upc.toNat 0) ≠ none := by decide +kernel

theorem witness_StepRunsDecoded_event : isEvent .sweep = true := by decide +kernel

/-- a word and a microword, at the last values of their fields -/
theorem witness_EncodingsAgree :
    (Instr.ldp 30 31 15 1 0x1FF).wf = true ∧ encode (.ldp 30 31 15 1 0x1FF) = some 0x4FDFF7FF#32 ∧ decodeWord 0x4FDFF7FF#32 = some (.ldp 30 31 15 1 0x1FF) ∧
    (Instr.microSigMessage ⟨0, 0, 15, 1, 0x3F⟩).wf = true ∧ encodeMicro (.microSigMessage ⟨0, 0, 15, 1, 0x3F⟩) = some 0xE00F00010000003F#64 ∧
    decodeMicro 0xE00F00010000003F#64 = some (.microSigMessage ⟨0, 0, 15, 1, 0x3F⟩) := by decide +kernel

theorem witness_ResetValues : (0 : BitVec 5) ≠ 1 ∧ (0 : BitVec 5) ≠ 2 ∧ (0 : BitVec 5) ≠ 3 ∧ (0 : BitVec 5) ≠ 28 := by decide

theorem witness_MemoryStaysCanonical :
    State.reset.memOk ∧ (match step State.reset with | .next _ => true | _ => false) = true := by decide +kernel
/-- A hart whose log holds these entries. -/
def logged (es : List RejEntry) : State := base (fun h => { h with rejLog := es })

theorem witness_Fences_4 :
    let s := logged [⟨0x06, 0x00F0, 0x1000, 0x1122334455667788⟩]
    let set := fun (k : Nat) => bit (0x00F0 : BitVec 16).toNat k = true
    s.trapReady ∧ s.hart.orsLocal = 0 ∧ s.hart.orsFab = 0 ∧ s.hart.rejLog = [⟨0x06, 0x00F0, 0x1000, 0x1122334455667788⟩] ∧
    set 4 ∧ (∀ k, k < 4 → ¬set k) ∧ 4 % 4 = 0 ∧ ∀ k, k < 4 → set (4 + k) := by decide +kernel

/-- 13 R321: four bytes of a rejected store are reported with their address, their cause and their data. -/
theorem test_fenceS_reports_a_piece :
    (match exec (.fenceS 0) (logged [⟨0x06, 0x00F0, 0x1000, 0x1122334455667788⟩]) with
     | .next t => t.hart.xaddr == 0x1004 && t.hart.xinfo == 0x0000060211223344 && t.hart.rejLog == []
     | _ => false) = true := by decide +kernel

def lcg (n : Nat) : Nat := n * 0x10001 + 3
def rnd (seed : Nat) (n : Nat) : Word := BitVec.ofNat 64 (0x100 * seed + n)
def mkH (_seed : Nat) (h : Hart) : Hart :=
  { h with g := Vector.ofFn (fun i : Fin 32 => BitVec.ofNat 64 (5 * i.val)), xvec := 512, pc := 64, full := 0x0FF0 }
def mkS (seed : Nat) (f : Hart → Hart := id) (k : Core → Core := id) : State :=
  (State.reset.mapCore (fun c => k { c with codesz := 1024, vf := some 0 })).mapHart (fun h => f (mkH seed h))
def weird (n : Nat) (h : Hart) : Hart :=
  { h with pc := rnd n 901, mode := if n % 2 = 0 then .supervisor else .program, aflags := 0x3A5, trapen := 0x0, arec := if n % 3 = 0 then 0x80000000FF000001 else 5,
           block := some .yield, stepArm := n % 2 = 1, stepPend := n % 3 = 1, stepOnce := n % 5 = 1, ibkSuppress := true, cntsel := #v[2, 3, 4, 0x8000000000000002],
           cnt := #v[0xFFFFFFFFFFFF, 5, 6, 0xFFFFFFFFFFFF], xpc := 100, xcause := 0x8000000000000004, xaddr := 9, xinfo := 10, wantsQ := some .copy, full := 0xA5A5,
           shape := 0x00050007, xvec := 1020, orsLocal := 0, orsFab := 0 }
def outs (h : Hart) : Hart := { h with outst := [{ id := 77, pc := 4, dests := [20], credit := 3, passed := true }] }
def own (n : Nat) (a : Word := 0x8000000000000400) (f : Hart → Hart := id) (k : Core → Core := id) := mkS n (fun h => f (weird n (setG 2 a h))) k

namespace WT10
def claims (a n : Nat) (k : Core) : Core := k.ownSlots a n (some 0)
def m1 : State := own 2 (f := fun h => setG 3 3 (setG 5 0x105 (setG 2 2 h))) (k := claims 0 6)
def m2 : State := own 2 (f := fun h => setG 3 (2 + 2^22) (setG 5 0x105 h)) (k := claims 5 1)
def c1 : State := own 2 (f := fun h => setG 4 0 (setG 3 32 (setG 5 0x8000000000000800 h)))
def c5 : State := own 2 (f := fun h => setG 5 0 (setG 4 0x8000000000000A00 (setG 3 0x02 (setG 7 0x8000000000000800 h))))
def c8 : State := own 2 (f := fun h => setG 9 0 (setG 8 0x4FFFFFFFF (setG 3 0 (setG 7 0x8000000000000800 h))))
def w2 : State := own 2 (k := fun k => { (k.modIssuer 0 .matrix (fun u => { u with seq := 5, flags := [(3, 8), (0, 12), (0x10, 16)] })).modIssuer 0 .copy (fun u => { u with seq := 5, faulted := true, record := 0x0F000003, addr := 77, flags := [(3, 8)] }) with cas := { k.cas with state := .running } })
def w3 : State := own 2 (f := fun h => { h with aflags := 0, arec := 0, block := none, mode := .program }) (k := fun k => (k.modIssuer 0 .exponent (fun u => { u with seq := 5 })).setEng .exponent { queue := [{ issuer := 0, seq := 5, off := 4, op := .mcbk 0 0, cs := 0 }] })

theorem witness_MatrixAndExponentCommands_1 :
    let s : State := m1
    let a : BitVec 5 := 2
    let b : BitVec 5 := 3
    let mine : Nat → Prop := fun (x : Nat) => s.cc.claimed x s.cur.hart = true
    let A : Nat := BitVec.toNat (s.rg a)
    let B : Nat := BitVec.toNat (s.rg b)
    let d : BitVec 5 := 5
    let q : BitVec 4 := 7
    let D : Nat := BitVec.toNat (s.rg d)
    let slot : Nat := D % 32
    let line : Nat := bits D 11 8
    A + B ≤ 32 ∧
    B ≠ 0 ∧
    (∀ k < B, mine (A + k)) ∧
    a.toNat + q.toNat + 1 ≤ 32 ∧
    bits D 63 12 = 0 ∧
    bits D 7 5 = 0 ∧
    mine slot ∧
    line + q.toNat + 1 ≤ 16 := by decide +kernel

theorem witness_MatrixAndExponentCommands_2 :
    let s : State := m2
    let d : BitVec 5 := 5
    let a : BitVec 5 := 2
    let mine : Nat → Prop := fun (x : Nat) => s.cc.claimed x s.cur.hart = true
    let D : Nat := BitVec.toNat (s.rg d)
    let slot : Nat := D % 32
    let line : Nat := bits D 11 8
    let b : BitVec 5 := 3
    let own : BitVec 5 → Nat → Nat → Prop := fun (r : BitVec 5) (al n : Nat) => s.addrCheck (s.rg r) al n true = none
    let B : Nat := BitVec.toNat (s.rg b)
    let c : Nat := B % 32
    let stride : Nat := bits B 47 16
    bits D 63 12 = 0 ∧
    bits D 7 5 = 0 ∧
    bits B 63 48 = 0 ∧
    bits B 15 5 = 0 ∧
    mine slot ∧
    1 ≤ c ∧
    c ≤ 16 ∧
    stride % 16 = 0 ∧
    line + c ≤ 16 ∧
    own a 16 ((c - 1) * stride + 128) := by decide +kernel

theorem witness_CopyCommands_1 :
    let s : State := c1
    let d : BitVec 5 := 5
    let a : BitVec 5 := 2
    let b : BitVec 5 := 3
    let addr : BitVec 5 → Nat → Nat → Bool → Prop := fun (r : BitVec 5) (al n : Nat) (own : Bool) => s.addrCheck (s.rg r) al n own = none
    let cs : BitVec 5 → Prop := fun (r : BitVec 5) => bits (BitVec.toNat (s.rg r)) 57 40 = 0 ∧ s.csCheck (s.rg r) = none
    let B : Nat := BitVec.toNat (s.rg b)
    let dmap : Bool := bit B 63
    let smap : Bool := bit B 62
    let strides : Nat := BitVec.toNat (s.rg (b + 1))
    let side : BitVec 5 → Bool → Prop := fun (r : BitVec 5) (isMap : Bool) => if isMap = true then addr r 16 16 true else addr r 1 1 false
    cs (b + 1) ∧
    B % 16 = 0 ∧
    B < 2 ^ 32 ∧
    addr d 16 (max B 1) false ∧
    addr a 16 (max B 1) false ∧
    cs (b + 2) ∧
    bits B 61 48 = 0 ∧
    bits B 31 0 % 16 = 0 ∧
    (smap = false → bits strides 31 0 % 16 = 0) ∧
    (dmap = false → bits strides 63 32 % 16 = 0) ∧
    bits B 47 32 * bits B 31 0 < 2 ^ 36 ∧
    side d dmap ∧
    side a smap ∧
    cs b ∧
    s.ringAddr (s.rg d) = none ∧
    addr a 16 1 true := by decide +kernel

theorem witness_CopyCommands_2 :
    let s : State := c5
    let d : BitVec 5 := 7
    let a : BitVec 5 := 2
    let b : BitVec 5 := 3
    let addr : BitVec 5 → Nat → Nat → Bool → Prop := fun (r : BitVec 5) (al n : Nat) (own : Bool) => s.addrCheck (s.rg r) al n own = none
    let cs : BitVec 5 → Prop := fun (r : BitVec 5) => bits (BitVec.toNat (s.rg r)) 57 40 = 0 ∧ s.csCheck (s.rg r) = none
    let B : Nat := BitVec.toNat (s.rg b)
    let code : Bool := bit B 20
    let n : Nat := bits B 15 0
    cs (b + 2) ∧
    bits B 63 40 = 0 ∧
    bits B 23 21 = 0 ∧
    (if code = true then ((blockOf (bits B 31 24)).bind BlockFmt.codeBytes).isSome = true else etWhole (BitVec.ofNat 4 (bits B 19 16)) = true ∧ addr (b + 1) 32 512 true) ∧
    (addr d 16 (max 1 (if code = true then n * ((blockOf (bits B 31 24)).bind BlockFmt.codeBytes).getD 0 else 0)) true) ∧
    addr a 64 (max 1 (64 * n)) false := by decide +kernel

theorem witness_CopyCommands_3 :
    let s : State := c8
    let d : BitVec 5 := 7
    let a : BitVec 5 := 2
    let b : BitVec 5 := 3
    let addr : BitVec 5 → Nat → Nat → Bool → Prop := fun (r : BitVec 5) (al n : Nat) (own : Bool) => s.addrCheck (s.rg r) al n own = none
    let cs : BitVec 5 → Prop := fun (r : BitVec 5) => bits (BitVec.toNat (s.rg r)) 57 40 = 0 ∧ s.csCheck (s.rg r) = none
    let P : Nat := BitVec.toNat (s.rg (d + 1))
    let idx : List (Nat × Nat) := s.hart.indices (s.hart.rv b)
    let size : Nat := 2 ^ bits P 35 32
    cs (d + 2) ∧
    bits P 63 36 = 0 ∧
    4 ≤ bits P 35 32 ∧
    bits P 35 32 ≤ 12 ∧
    addr d 16 (max 1 (idx.length * size)) true ∧
    addr a 16 1 false ∧
    (∀ x ∈ idx, x.2 < bits P 31 0) := by decide +kernel

theorem witness_EngineWaits_1 :
    let s : State := w2
    let d : BitVec 5 := 7
    s.writable d ∧
    s.cc.cas.state = RunState.running := by decide +kernel

theorem witness_EngineWaits_2 :
    let s : State := w2
    let d : BitVec 5 := 7
    let u : Issuer := s.cc.issuer s.issuerNo Engine.copy
    s.writable d ∧
    s.cc.engineDone s.issuerNo Engine.copy = true ∧
    u.faulted = true ∧
    s.trapReady := by decide +kernel

theorem witness_EngineWaits_3 :
    let s : State := w2
    let d : BitVec 5 := 7
    let u : Issuer := s.cc.issuer s.issuerNo Engine.exponent
    s.writable d ∧
    s.cc.engineDone s.issuerNo Engine.exponent = true ∧
    u.faulted = false := by decide +kernel

theorem witness_EngineWaits_4 :
    let s : State := w2
    let d : BitVec 5 := 7
    let u : Issuer := s.cc.issuer s.issuerNo Engine.matrix
    s.writable d ∧
    s.cc.engineDone s.issuerNo Engine.matrix = true ∧
    u.faulted = false := by decide +kernel

theorem witness_EngineWaits_5 :
    let s : State := w2
    let d : BitVec 5 := 7
    s.writable d ∧
    s.writable (d + 1) := by decide +kernel

theorem witness_EngineWaits_6 :
    let s : State := w3
    let d : BitVec 5 := 0
    let u : Issuer := s.cc.issuer s.issuerNo Engine.copy
    s.writable d ∧
    s.cc.cas.state ≠ RunState.running ∧
    s.cc.engineDone s.issuerNo Engine.copy = true ∧
    u.faulted = false ∧
    s.cc.engineDone s.issuerNo Engine.exponent = false := by decide +kernel

theorem witness_EngineCommandTraps_1 :
    let s : State := (own 2 (f := fun h => setG 4 0 (setG 3 0x30001 h)) (k := fun k => { k with cas := { k.cas with state := .running } }))
    let d : BitVec 5 := 5
    let a : BitVec 5 := 2
    let A : Nat := BitVec.toNat (s.rg a)
    let b : BitVec 5 := 3
    let B : Nat := BitVec.toNat (s.rg b)
    let q : BitVec 4 := 7
    let D : Nat := BitVec.toNat (s.rg d)
    s.trapReady ∧
    s.writable d ∧
    s.queueShut .matrix = false ∧ s.queueShut .copy = false ∧ s.queueShut .exponent = false ∧
    (32 < A + B ∨ B = 0 ∨ ∃ k < B, s.cc.claimed (A + k) s.cur.hart = false) ∧
    (A = 0 ∨ 32 < A) ∧
    a.toNat + q.toNat + 1 ≤ 32 ∧
    bits D 63 12 = 0 ∧
    bits D 7 5 = 0 ∧
    s.cc.claimed (D % 32) s.cur.hart = false ∧
    bits (BitVec.toNat (s.rg (b + 1))) 57 40 = 0 ∧
    (B % 16 ≠ 0 ∨ 2 ^ 32 ≤ B) ∧
    s.cc.cas.state = RunState.running ∧
    bits B 63 24 = 0 ∧
    bits B 15 9 = 0 ∧
    1 ≤ bits B 8 0 ∧
    bits B 23 16 + bits B 8 0 ≤ 256 ∧
    s.cur.core / 17 % 256 % 4 = 0 := by decide +kernel

theorem witness_EngineCommandTraps_2 :
    let s : State := (own 2 (f := fun h => setG 5 0xF03 (setG 3 4 (setG 2 3 h))) (k := claims 0 5))
    let d : BitVec 5 := 5
    let a : BitVec 5 := 2
    let q : BitVec 4 := 7
    let D : Nat := BitVec.toNat (s.rg d)
    s.trapReady ∧
    s.writable d ∧
    s.queueShut .matrix = false ∧ s.queueShut .copy = false ∧ s.queueShut .exponent = false ∧
    a.toNat + q.toNat + 1 ≤ 32 ∧
    bits D 63 12 = 0 ∧
    bits D 7 5 = 0 ∧
    s.cc.claimed (D % 32) s.cur.hart = true ∧
    16 < bits D 11 8 + q.toNat + 1 := by decide +kernel

theorem witness_EngineCommandTraps_3 :
    let s : State := (own 2 (f := fun h => setG 5 0x105 (setG 3 4 (setG 2 3 h))) (k := claims 0 5))
    let d : BitVec 5 := 5
    let a : BitVec 5 := 25
    let q : BitVec 4 := 7
    s.trapReady ∧
    s.writable d ∧
    s.queueShut .matrix = false ∧ s.queueShut .copy = false ∧ s.queueShut .exponent = false ∧
    32 < a.toNat + q.toNat + 1 := by decide +kernel

theorem witness_EngineCommandTraps_4 :
    let s : State := (own 2 (f := fun h => setG 4 0x10000000000 (setG 3 0x30001 h)) (k := fun k => { k with cas := { k.cas with state := .running } }))
    let d : BitVec 5 := 5
    let b : BitVec 5 := 3
    s.trapReady ∧
    s.writable d ∧
    s.queueShut .matrix = false ∧ s.queueShut .copy = false ∧ s.queueShut .exponent = false ∧
    bits (BitVec.toNat (s.rg (b + 1))) 57 40 ≠ 0 := by decide +kernel

theorem witness_SashRequests_1 :
    let s : State := (own 2 0x5000 (f := fun h => setG 5 0x8000000000000800 (setG 4 0x8000000000000C00 h)))
    let d : BitVec 5 := 7
    let a : BitVec 5 := 2
    let b : BitVec 5 := 3
    let scratch : BitVec 5 → Prop := fun (r : BitVec 5) => s.addrCheck (s.rg r) 128 1 true = none
    s.writable d ∧
    BitVec.toNat (s.rg a) % 4096 = 0 ∧
    s.trapReady ∧
    BitVec.toNat (s.rg (b + 1)) % 4096 ≠ 0 ∧
    scratch (b + 1) ∧
    scratch (b + 2) := by decide +kernel

theorem witness_SashRequests_2 :
    let s : State := (own 2 0x5001 (f := fun h => (setG 4 0x3001 h)))
    let d : BitVec 5 := 7
    let a : BitVec 5 := 2
    s.writable d ∧
    s.trapReady ∧
    BitVec.toNat (s.rg a) % 4096 ≠ 0 := by decide +kernel

theorem witness_SashRequests_3 :
    let s : State := (own 2 0x5001 (f := fun h => outs (setG 4 0x3000 h)))
    let d : BitVec 5 := 7
    let b : BitVec 5 := 3
    s.writable d ∧
    BitVec.toNat (s.rg (b + 1)) % 4096 = 0 := by decide +kernel

end WT10

namespace WT11
def claims (a n : Nat) (k : Core) : Core := k.ownSlots a n (some 0)
def at_ (c : Nat) (s : State) (f : Core → Core := id) : State := ({ s with cur := ⟨c, 0⟩ }.mapCore (fun _ => f s.cc))
def m4 : State := own 2 (f := fun h => setG 3 0x401010 (setG 5 0x8000000000000800 (setG 2 0x0403 h))) (k := claims 3 2)
def m5 : State := at_ 17 (own 2 (f := fun h => setG 3 0x8000000000000800 (setG 2 0x8000000000000840 h)))

theorem witness_MatrixAndExponentCommands_3 :
    let s : State := m4
    let d : BitVec 5 := 5
    let a : BitVec 5 := 2
    let b : BitVec 5 := 3
    let mine : Nat → Prop := fun (x : Nat) => s.cc.claimed x s.cur.hart = true
    let own : BitVec 5 → Nat → Nat → Prop := fun (r : BitVec 5) (al n : Nat) => s.addrCheck (s.rg r) al n true = none
    let A : Nat := BitVec.toNat (s.rg a)
    let B : Nat := BitVec.toNat (s.rg b)
    let cb4 : Prop := s.cur.core / 17 % 256 % 4 ≠ 0
    let k : Nat := bits B 24 16
    let n : Nat := bits B 12 8
    let m : Nat := B % 32
    let k0 : Nat := bits B 40 32
    bits B 63 53 = 0 ∧
    bits B 47 41 = 0 ∧
    bits B 31 25 = 0 ∧
    bits B 15 13 = 0 ∧
    bits B 7 5 = 0 ∧
    bits A 63 13 = 0 ∧
    bits A 7 5 = 0 ∧
    (cb4 ∧ bits B 52 50 = 1 ∧ k ≤ 256 ∧ k0 % 32 = 0 ∨ ¬cb4 ∧ bits B 52 50 = 0 ∧ k ≤ 64 ∧ k0 % 16 = 0) ∧
    bits B 49 48 ≤ 1 ∧
    k0 ≤ k ∧
    m ≤ 16 ∧
    n ≤ 16 ∧
    mine (A % 32) ∧
    mine (bits A 12 8) ∧
    own d 64 1024 := by decide +kernel

theorem witness_MatrixAndExponentCommands_4 :
    let s : State := m5
    let a : BitVec 5 := 2
    let b : BitVec 5 := 3
    let own : BitVec 5 → Nat → Nat → Prop := fun (r : BitVec 5) (al n : Nat) => s.addrCheck (s.rg r) al n true = none
    let cb4 : Prop := s.cur.core / 17 % 256 % 4 ≠ 0
    cb4 ∧
    own a 32 32 ∧
    own b 32 32 := by decide +kernel

end WT11

namespace WT21
def g0 : GroupRef := ⟨7, 3, 1⟩
def la : Launch := { id := 7, vf := 0, record := 0, spec := 0, submitter := .host 0 0 0, image := 0, order := 0, state := .running, groups := [{ num := 1, vcore := 5, base := 0, harts := 4 }, { num := 3, vcore := 0, base := 0, harts := 4 }] }
def gg (n : Nat) (f : Hart → Hart := id) (k : Core → Core := id) : State := { mkS n (fun h => f { h with group := some g0, aflags := 0, block := none, dmemb := 0x0055 }) k with launches := [la] }
def q1 : State := gg 1
def q2 : State := gg 2 (f := setG 4 0)
def q3 : State := gg 3 (k := fun k => (k.modIssuer 0 .exponent (fun u => { u with seq := 5 })).setEng .exponent { queue := [{ issuer := 0, seq := 5, off := 4, op := .mcbk 0 0, cs := 0 }] })
def q4 : State := gg 4 (f := fun h => { h with dmemb := 0x3055, block := some .dsync })
def q6 : State := gg 4 (f := fun h => { h with dmemb := 0xA055, block := some .dsync }) (k := fun k => { k with marked := true })

theorem witness_MatrixAndExponentCommands_5 :
    let s : State := (own 2 (f := fun h => setG 4 0x0000A00000000C00 (setG 3 0x20003 (setG 5 0x8000000000000800 { h with rotpart := 0x0201 }))))
    let d : BitVec 5 := 5
    let a : BitVec 5 := 2
    let b : BitVec 5 := 3
    let own : BitVec 5 → Nat → Nat → Prop := fun (r : BitVec 5) (al n : Nat) => s.addrCheck (s.rg r) al n true = none
    let B : Nat := BitVec.toNat (s.rg b)
    let T : Nat := BitVec.toNat (s.rg (b + 1))
    let pairs : Nat := bits B 23 16
    let rows : Nat := bits B 15 0
    let rp : Nat := BitVec.toNat s.hart.rotpart
    let n : Nat := bits B 8 0
    let f : Nat := bits B 23 16
    bits B 63 24 = 0 ∧
    bits B 15 9 = 0 ∧
    1 ≤ n ∧
    f + n ≤ 256 ∧
    s.cc.cas.state ≠ RunState.running ∧
    own a 8 (8 * n) ∧
    bits T 63 56 = 0 ∧
    bits T 31 24 = 0 ∧
    1 ≤ pairs ∧
    pairs ≤ 128 ∧
    bits rp 7 0 ≤ bits rp 15 8 ∧
    bits rp 15 8 ≤ pairs ∧
    own d 16 (max 1 (8 * pairs * rows)) ∧
    own a 16 (max 1 (8 * pairs * rows)) ∧
    bits T 55 32 % 16 = 0 ∧
    bits T 55 32 + max 1 (16 * rows) ≤ s.cc.scratchSize ∧
    bits T 23 0 % 16 = 0 ∧
    bits T 23 0 + 4 * pairs ≤ s.cc.scratchSize ∧
    bits B 63 49 = 0 ∧
    own d 16 (max 1 (4 * bits B 47 32)) ∧
    own a 16 (max 1 (4 * bits B 47 32)) := by decide +kernel

theorem witness_EngineWaits_7 :
    let s : State := (own 2 (k := fun k => k.modIssuer 0 .matrix (fun u => { u with faulted := true, record := 0x0F000003 })))
    let d : BitVec 5 := 7
    let u : Issuer := s.cc.issuer s.issuerNo Engine.matrix
    s.writable d ∧
    s.cc.engineDone s.issuerNo Engine.matrix = true ∧
    u.faulted = true ∧
    s.trapReady := by decide +kernel

theorem witness_EngineWaits_8 :
    let s : State := (own 2 (k := fun k => k.modIssuer 0 .exponent (fun u => { u with faulted := true, record := 0x0F000003 })))
    let d : BitVec 5 := 7
    let u : Issuer := s.cc.issuer s.issuerNo Engine.exponent
    s.writable d ∧
    s.cc.engineDone s.issuerNo Engine.exponent = true ∧
    u.faulted = true ∧
    s.trapReady := by decide +kernel

theorem witness_EngineWaits_9 :
    let s : State := (own 2 (k := fun k => k.setEng .copy { run := some { issuer := 0, seq := 5, off := 4, op := .mcbk 0 0, cs := 0 } }))
    let d : BitVec 5 := 7
    s.writable d ∧
    s.cc.engineDone s.issuerNo Engine.copy = false := by decide +kernel

theorem witness_EngineWaits_10 :
    let s : State := (own 2 (k := fun k => k.setEng .matrix { run := some { issuer := 0, seq := 5, off := 4, op := .mcbk 0 0, cs := 0 } }))
    let d : BitVec 5 := 7
    s.writable d ∧
    s.cc.engineDone s.issuerNo Engine.matrix = false := by decide +kernel

theorem witness_EngineCommandTraps_5 :
    let s : State := (own 2 (f := fun h => setG 5 0xFF (setG 3 4 (setG 2 3 h))))
    let d : BitVec 5 := 5
    let a : BitVec 5 := 2
    let q : BitVec 4 := 7
    let D : Nat := BitVec.toNat (s.rg d)
    s.trapReady ∧
    s.writable d ∧
    s.queueShut .matrix = false ∧ s.queueShut .copy = false ∧ s.queueShut .exponent = false ∧
    a.toNat + q.toNat + 1 ≤ 32 ∧
    (bits D 63 12 ≠ 0 ∨ bits D 7 5 ≠ 0) := by decide +kernel

theorem witness_AddressFaults_1 :
    let s : State := (mkS 1 (setG 2 0x1001))
    let d : BitVec 5 := 5
    let a : BitVec 5 := 2
    let z : BitVec 3 := 3
    let o : BitVec 9 := 0x8
    let ea : Word := s.resolve (s.rg a + BitVec.ofInt 64 (o.toInt * (↑(2 ^ (z.toNat % 4)) : Int)))
    s.trapReady ∧
    s.writable d ∧
    BitVec.toNat ea % 2 ^ (z.toNat % 4) ≠ 0 := by decide +kernel

theorem witness_AddressFaults_2 :
    let s : State := (mkS 1 (setG 2 0x1001))
    let d : BitVec 5 := 5
    let a : BitVec 5 := 2
    let y : BitVec 2 := 3
    let o : BitVec 9 := 0x8
    let ea : Word := s.resolve (s.rg a + BitVec.ofInt 64 (o.toInt * (↑(2 ^ y.toNat) : Int)))
    s.trapReady ∧
    s.writable d ∧
    BitVec.toNat ea % 2 ^ y.toNat ≠ 0 := by decide +kernel

theorem witness_Stores_1 :
    let s : State := (mkS 1 (fun h => { (weird 2 (setG 2 0x1000 h)) with rejLog := List.replicate 8 ⟨1, 2, 3, 4⟩ }))
    let a : BitVec 5 := 2
    let w : BitVec 1 := 1
    let o : BitVec 9 := 0
    let p : Place := .global
    let ea : Nat → Word := fun (n : Nat) => s.resolve (s.rg a + BitVec.ofInt 64 (o.toInt * (↑n : Int)))
    let far : Nat → Nat → Bool → Prop := fun (m n : Nat) (win : Bool) => s.classify (ea m) n n win = Except.ok p ∧ s.waitsFor p (ea m) n = false ∧ (p = Place.global ∧ s.cc.regionAt (BitVec.toNat (ea m)) = none ∨ p = Place.remote ∨ p = Place.fabric ∧ addrOff (ea m) < 8388608)
    let n : Nat := if w = 1 then 8 else 4
    far n (2 * n) false ∧
    s.hart.postRoom = false := by decide +kernel

theorem witness_Stores_2 :
    let s : State := (mkS 1 (fun h => { (weird 2 (setG 2 0x1000 h)) with rejLog := List.replicate 8 ⟨1, 2, 3, 4⟩ }))
    let a : BitVec 5 := 2
    let y : BitVec 2 := 2
    let o : BitVec 9 := 0
    let p : Place := .global
    let ea : Nat → Word := fun (n : Nat) => s.resolve (s.rg a + BitVec.ofInt 64 (o.toInt * (↑n : Int)))
    let far : Nat → Nat → Bool → Prop := fun (m n : Nat) (win : Bool) => s.classify (ea m) n n win = Except.ok p ∧ s.waitsFor p (ea m) n = false ∧ (p = Place.global ∧ s.cc.regionAt (BitVec.toNat (ea m)) = none ∨ p = Place.remote ∨ p = Place.fabric ∧ addrOff (ea m) < 8388608)
    let free : Prop := s.hart.outst = [] ∧ s.hart.orsLocal = 0 ∧ s.hart.orsFab = 0
    let n : Nat := 2 ^ y.toNat
    far n n (n == 8) ∧
    free ∧
    s.hart.postRoom = false := by decide +kernel

theorem witness_Stores_3 :
    let s : State := (mkS 1 (fun h => { (weird 2 (setG 2 0x8000000800800000 h)) with rejLog := List.replicate 8 ⟨1, 2, 3, 4⟩ }))
    let a : BitVec 5 := 2
    let o : BitVec 9 := 0
    let ea : Nat → Word := fun (n : Nat) => s.resolve (s.rg a + BitVec.ofInt 64 (o.toInt * (↑n : Int)))
    let free : Prop := s.hart.outst = [] ∧ s.hart.orsLocal = 0 ∧ s.hart.orsFab = 0
    s.classify (ea 8) 8 8 true = Except.ok Place.window ∧
    s.waitsFor .window (ea 8) 8 = false ∧
    free ∧
    s.hart.postRoom = false := by decide +kernel

theorem witness_RingResults_1 :
    let s : State := (own 3 (f := fun h => setG 4 0x800 (setG 3 (4 * 2^23 + 2 * 2^27) h)))
    let d : BitVec 5 := 5
    let a : BitVec 5 := 2
    let b : BitVec 5 := 3
    let off : Nat := 0x400
    let ea : Word := s.resolve (s.rg a)
    let c : Nat := BitVec.toNat (s.rg b)
    let base : Nat := BitVec.toNat (s.rg (b + 1)) % 2 ^ 24
    s.writable d ∧
    s.classify ea 32 32 false = Except.ok (Place.own off) ∧
    s.wayHeld (.own off) ea 32 = false ∧
    bits c 31 27 ≠ 0 ∧
    ringFieldsOk s.cc.scratchSize c base = true ∧
    bit c 0 = false ∧
    bit c 32 = false := by decide +kernel

theorem witness_VectorArithmetic_1 :
    let e : BitVec 4 := 10
    etAny e = true ∧
    etIeee e = true := by decide +kernel

theorem witness_GroupInstructions_1 :
    let s : State := q1
    let g : GroupRef := g0
    let idle : Prop := s.cc.engineDone s.issuerNo Engine.matrix = true ∧ s.cc.engineDone s.issuerNo Engine.copy = true ∧ s.cc.engineDone s.issuerNo Engine.exponent = true
    let still : Prop := s.hart.orsLocal = 0 ∧ s.hart.orsFab = 0
    let v : BitVec 3 := 1
    let w : Nat := BitVec.toNat s.hart.dmemb
    let n : Nat := v.toNat
    s.hart.outst = [] ∧
    s.hart.group = some g ∧
    1 ≤ n ∧
    bit w (n - 1) = true ∧
    bits w 15 13 = 0 ∧
    still ∧
    idle ∧
    (¬(s.cc.cas.state = RunState.running ∧ s.cc.cas.starter = s.cur.hart)) ∧
    (s.cc.issuer s.issuerNo .matrix).faulted = false ∧ (s.cc.issuer s.issuerNo .copy).faulted = false ∧ (s.cc.issuer s.issuerNo .exponent).faulted = false ∧
    s.hart.openPos = none ∧
    s.cc.marked = false := by decide +kernel

theorem witness_GroupInstructions_2 :
    let s : State := q6
    let g : GroupRef := g0
    let v : BitVec 3 := 5
    let w : Nat := BitVec.toNat s.hart.dmemb
    let n : Nat := v.toNat
    s.hart.outst = [] ∧
    s.hart.group = some g ∧
    1 ≤ n ∧
    bit w (n - 1) = true ∧
    bits w 15 13 = n ∧
    n ≠ 0 ∧
    s.myPhase n = bit w 12 ∧
    s.cc.marked = true ∧
    s.hart.block ≠ some Block.yield := by decide +kernel

theorem witness_GroupInstructions_3 :
    let s : State := q2
    let g : GroupRef := g0
    let v : BitVec 3 := 2
    let w : Nat := BitVec.toNat s.hart.dmemb
    let n : Nat := v.toNat
    s.hart.outst = [] ∧
    s.hart.group = some g ∧
    BitVec.toNat s.hart.xvec < s.cc.codesz.toNat ∧
    1 ≤ n ∧
    bit w (n - 1) = false := by decide +kernel

theorem witness_GroupInstructions_4 :
    let s : State := q3
    let g : GroupRef := g0
    let idle : Prop := s.cc.engineDone s.issuerNo Engine.matrix = true ∧ s.cc.engineDone s.issuerNo Engine.copy = true ∧ s.cc.engineDone s.issuerNo Engine.exponent = true
    s.hart.outst = [] ∧
    s.hart.group = some g ∧
    (¬idle) := by decide +kernel

theorem witness_GroupInstructions_5 :
    let s : State := q4
    let g : GroupRef := g0
    let v : BitVec 3 := 1
    let w : Nat := BitVec.toNat s.hart.dmemb
    let n : Nat := v.toNat
    s.hart.outst = [] ∧
    s.hart.group = some g ∧
    1 ≤ n ∧
    bit w (n - 1) = true ∧
    bits w 15 13 = n ∧
    n ≠ 0 ∧
    s.myPhase n ≠ bit w 12 := by decide +kernel

theorem witness_GroupInstructions_6 :
    let s : State := q6
    let g : GroupRef := g0
    let v : BitVec 3 := 7
    let w : Nat := BitVec.toNat s.hart.dmemb
    let n : Nat := v.toNat
    s.hart.outst = [] ∧
    s.hart.group = some g ∧
    BitVec.toNat s.hart.xvec < s.cc.codesz.toNat ∧
    1 ≤ n ∧
    bit w (n - 1) = true ∧
    bits w 15 13 ≠ 0 ∧
    bits w 15 13 ≠ n := by decide +kernel

end WT21

namespace WT12
def c7 : State := own 2 (f := fun h => setG 4 0 (setG 3 0x09010A0002 (setG 7 0x40000 h)))
def g0 : GroupRef := ⟨7, 0, 0⟩
def e0 : Estimate := { n := 100, seed := 5, tau := 0, z := 0, lw := 2, minr := 1, next := 4 }
def la (e : Option Estimate) : Launch := { id := 7, vf := 0, record := 0, spec := 0, submitter := .host 0 0 0, image := 0, order := 0, est := e, state := .running, groups := [{ num := 0, vcore := 0, base := 0, harts := 4 }] }
def pp (n : Nat) (e : Option Estimate) (o : Option Nat) : State := { mkS n (fun h => { h with group := some g0, openPos := o, aflags := 0 }) with launches := [la e] }
def p1 : State := pp 1 none none
def p2 : State := pp 2 (some e0) none
def p3 : State := pp 3 (some { e0 with status := .converged }) none
def p4 : State := pp 3 (some { e0 with next := 8, rounds := 0 }) none
def p5 : State := pp 3 (some { e0 with next := 7, rounds := 0, opened := [3, 5] }) (some (rnd 3 2).toNat)
def l1 : State := own 2
def rr (s : State) (a : Word) : Nat := match s.recordAt a with | .ok (_, r, _) => r | _ => 0

theorem witness_CopyCommands_4 :
    let s : State := c7
    let d : BitVec 5 := 7
    let a : BitVec 5 := 2
    let b : BitVec 5 := 3
    let addr : BitVec 5 → Nat → Nat → Bool → Prop := fun (r : BitVec 5) (al n : Nat) (own : Bool) => s.addrCheck (s.rg r) al n own = none
    let cs : BitVec 5 → Prop := fun (r : BitVec 5) => bits (BitVec.toNat (s.rg r)) 57 40 = 0 ∧ s.csCheck (s.rg r) = none
    let B : Nat := BitVec.toNat (s.rg b)
    let st : BitVec 4 := BitVec.ofNat 4 (bits B 19 16)
    let n : Nat := bits B 15 0
    let elems : Nat := n * (Option.map BlockFmt.count (blockOf (bits B 31 24))).getD 0
    cs (b + 1) ∧
    bits B 63 40 = 0 ∧
    bits B 23 20 = 0 ∧
    cpkOk (bits B 31 24) st (bits B 39 32) = true ∧
    addr d 64 (max 1 (64 * n)) false ∧
    (addr a 16 (max 1 (if etNibble st = true then (elems + 1) / 2 else elems * etBytes st)) true) := by decide +kernel

theorem witness_PeepholeResults_1 :
    let s : State := p2
    let d : BitVec 5 := 5
    let g : GroupRef := g0
    let x : Launch := (la (some e0))
    let e : Estimate := e0
    let out : Prop := e.status ≠ EstStatus.running ∨ e.n ≤ e.next
    let a : BitVec 5 := 2
    let p : Nat := BitVec.toNat (s.rg a)
    s.writable d ∧
    s.writable (d + 1) ∧
    s.writable (d + 2) ∧
    s.writable (d + 3) ∧
    s.hart.group = some g ∧
    (List.find? (fun (y : Launch) => y.id == g.launch) s.launches = some x) ∧
    x.est = some e ∧
    s.hart.openPos = none ∧
    (¬out) ∧
    e.next / 2 ^ e.lw < e.rounds + 2 ∧
    s.hart.openPos ≠ some p ∧
    s.trapReady := by decide +kernel

theorem witness_PeepholeResults_2 :
    let s : State := p1
    let d : BitVec 5 := 5
    let g : GroupRef := g0
    let x : Launch := (la none)
    s.writable d ∧
    s.writable (d + 1) ∧
    s.writable (d + 2) ∧
    s.writable (d + 3) ∧
    s.hart.group = some g ∧
    (List.find? (fun (y : Launch) => y.id == g.launch) s.launches = some x) ∧
    x.est = none ∧
    s.trapReady := by decide +kernel

theorem witness_PeepholeResults_3 :
    let s : State := p3
    let d : BitVec 5 := 5
    let g : GroupRef := g0
    let x : Launch := (la (some { e0 with status := .converged }))
    let e : Estimate := { e0 with status := .converged }
    let out : Prop := e.status ≠ EstStatus.running ∨ e.n ≤ e.next
    s.writable d ∧
    s.writable (d + 1) ∧
    s.writable (d + 2) ∧
    s.writable (d + 3) ∧
    s.hart.group = some g ∧
    (List.find? (fun (y : Launch) => y.id == g.launch) s.launches = some x) ∧
    x.est = some e ∧
    s.hart.openPos = none ∧
    out := by decide +kernel

theorem witness_PeepholeResults_4 :
    let s : State := p4
    let d : BitVec 5 := 30
    let g : GroupRef := g0
    let x : Launch := (la (some { e0 with next := 8, rounds := 0 }))
    let e : Estimate := { e0 with next := 8, rounds := 0 }
    let out : Prop := e.status ≠ EstStatus.running ∨ e.n ≤ e.next
    s.writable d ∧
    s.writable (d + 1) ∧
    s.writable (d + 2) ∧
    s.writable (d + 3) ∧
    s.hart.group = some g ∧
    (List.find? (fun (y : Launch) => y.id == g.launch) s.launches = some x) ∧
    x.est = some e ∧
    s.hart.openPos = none ∧
    (¬out) ∧
    e.rounds + 2 ≤ e.next / 2 ^ e.lw := by decide +kernel

theorem witness_PeepholeResults_5 :
    let s : State := p5
    let d : BitVec 5 := 0
    let g : GroupRef := g0
    let x : Launch := (la (some { e0 with next := 7, rounds := 0, opened := [3, 5] }))
    let e : Estimate := { e0 with next := 7, rounds := 0, opened := [3, 5] }
    s.writable d ∧
    s.writable (d + 1) ∧
    s.writable (d + 2) ∧
    s.writable (d + 3) ∧
    s.hart.group = some g ∧
    (List.find? (fun (y : Launch) => y.id == g.launch) s.launches = some x) ∧
    x.est = some e ∧
    s.hart.openPos ≠ none ∧
    s.trapReady := by decide +kernel

theorem witness_LaunchResults_1 :
    let s : State := l1
    let d : BitVec 5 := 5
    let a : BitVec 5 := 2
    let r : Nat := (rr l1 0x8000000000000400)
    let ea : Word := s.resolve (s.rg a)
    let vf : BitVec 4 := s.cc.vf.getD 0
    let reason : Nat := 1
    let byte : Nat := 20
    s.hart.outst = [] ∧
    s.writable d ∧
    s.recordAt ea = Except.ok (s, r, false) ∧
    s.recordWaits ea = false ∧
    s.recordFault s.cvf r false = some (reason, byte) ∧
    s.trapReady := by decide +kernel

end WT12

namespace WT13
def rr (s : State) (a : Word) : Nat := match s.recordAt a with | .ok (_, r, _) => r | _ => 0
def l1 : State := own 2 (f := fun h => setG 3 0 h) (k := fun k => k.swrite 0x400 64 (4 * 2^160 + 2^93 + 2^107 + 5 * 2^80))
def r1 : Nat := rr l1 (l1.resolve (l1.rg 2))
def l2 : State := l1.modPart 0 (fun p => { p with queues := p.queues.set 5 (List.replicate 64 1) })

theorem witness_LaunchResults_2 :
    let s : State := l1
    let d : BitVec 5 := 5
    let a : BitVec 5 := 2
    let b : BitVec 5 := 3
    let r : Nat := r1
    let ea : Word := s.resolve (s.rg a)
    let vf : BitVec 4 := s.cc.vf.getD 0
    let p : Machine.Partition := s.part vf
    let q : BitVec 3 := BitVec.ofNat 3 (bits r 82 80)
    let spec : Word := s.rg b
    s.hart.outst = [] ∧
    s.writable d ∧
    s.recordAt ea = Except.ok (s, r, false) ∧
    s.recordWaits ea = false ∧
    s.recordFault s.cvf r false = none ∧
    bit (BitVec.toNat spec) 62 = false ∧
    bits (BitVec.toNat spec) 57 48 = 0 ∧
    bits (BitVec.toNat spec) 5 0 = 0 ∧
    (p.queue q).length < 64 := by decide +kernel

theorem witness_LaunchResults_3 :
    let s : State := l2
    let d : BitVec 5 := 5
    let a : BitVec 5 := 2
    let b : BitVec 5 := 3
    let r : Nat := r1
    let ea : Word := s.resolve (s.rg a)
    let vf : BitVec 4 := s.cc.vf.getD 0
    let p : Machine.Partition := s.part vf
    let q : BitVec 3 := BitVec.ofNat 3 (bits r 82 80)
    let spec : Word := s.rg b
    s.hart.outst = [] ∧
    s.writable d ∧
    s.recordAt ea = Except.ok (s, r, false) ∧
    s.recordWaits ea = false ∧
    s.recordFault s.cvf r false = none ∧
    bit (BitVec.toNat spec) 62 = false ∧
    bits (BitVec.toNat spec) 57 48 = 0 ∧
    bits (BitVec.toNat spec) 5 0 = 0 ∧
    64 ≤ (p.queue q).length := by decide +kernel

end WT13

namespace WT15
def base (f : Hart → Hart := id) (k : Core → Core := id) : State :=
  let c0 : Core := { codesz := 1024, vf := some 0, launch := 7 }
  let h0 : Hart := { xvec := 512, pc := 64, group := some ⟨7, 0, 0⟩ }
  let s := State.reset.setCore 5 (k { c0 with harts := c0.harts.set 1 (f h0) })
  { s with cur := ⟨5, 1⟩ }
def h1 : State := base (fun h => { h with arrPend := 5, full := 5 })
def h2 : State := base (fun h => { h with poisonPend := [(5, 6), (7, 8)], watchPend := [(1, 2)], stepPend := true, ovf := 3 })
def h3 : State := base (fun h => { h with watchPend := [(1, 2)], mode := .supervisor })
def h4 : State := base (fun h => { h with stepPend := true, ovf := 3 })
def h5 : State := base (fun h => { h with ovf := 3, ovfHeld := true, cntsel := #v[2, 2, 2, 2] })
def h6 : State := base (fun h => { h with haltPend := true, stepPend := true })
def h7 : State := base (fun h => { h with block := some (.wait 5 4), full := 5 })
def h8 : State := base (fun h => { h with block := some (.bwait 0x400 true false) })
def h8w : State := base (fun h => { h with block := some (.bwait 0x400 false true) })
def h9 : State := base (fun h => { h with block := some (.rpop 5 0x400 0x600) }) (fun k => (k.swrite 0x400 32 (6 * 2 ^ 32 + 5 + 4 * 2^87 + 2 * 2^91 + 0xFFFF * 2^112 + 0x800 * 2^128 + 1 * 2^160)).swrite 0x810 16 0x123456)
def h10 : State := base (fun h => { h with block := some (.engine .copy 5) }) (fun k => k.modIssuer 1 .copy (fun u => { u with seq := 5 }))
def h11 : State := base (fun h => { h with block := some (.caswait 5) })
def wk (d : Sleep) (f : Hart → Hart := id) (g : Core → Core := id) : State := base (fun h => f { h with block := some (.wait 5 4), full := 1 }) (fun k => g { k with sleep := d })
def s1 : State := wk .awake
def s3 : State := wk (.asleep 2) (fun h => { h with full := 4 })
def s4 : State := wk (.waking 2)

theorem witness_HartEvents_1 :
    let s : State := s3
    let c : Nat := 5
    let core : Core := s.core c
    let d : BitVec 2 := 2#2
    core.sleep = Sleep.asleep d ∧
    s.anyWake c = true := by decide +kernel

theorem witness_HartEvents_2 :
    let s : State := s4
    let c : Nat := 5
    let captured : Bool := true
    let core : Core := s.core c
    let d : BitVec 2 := 2#2
    core.sleep = Sleep.waking d ∧
    (d ≠ 2 ∨ captured = true) := by decide +kernel

theorem witness_HartEvents_3 :
    let s : State := h1
    let c : Nat := 5
    let h : BitVec 2 := 1
    let x : Hart := s.hartOf c h
    s.mayPass c h = true ∧
    x.arrPend ≠ 0 := by decide +kernel

theorem witness_HartEvents_4 :
    let s : State := h2
    let c : Nat := 5
    let h : BitVec 2 := 1
    let x : Hart := s.hartOf c h
    let core : Core := s.core c
    let p : Word × Word := (5#64, 6#64)
    let ps : List (Word × Word) := [(7#64, 8#64)]
    s.mayInterrupt c h = true ∧
    x.block = none ∧
    BitVec.toNat x.xvec < core.codesz.toNat ∧
    x.haltPend = false ∧
    x.poisonPend = p :: ps := by decide +kernel

theorem witness_HartEvents_5 :
    let s : State := h3
    let c : Nat := 5
    let h : BitVec 2 := 1
    let x : Hart := s.hartOf c h
    let core : Core := s.core c
    let p : Word × Word := (1#64, 2#64)
    let ps : List (Word × Word) := []
    s.mayInterrupt c h = true ∧
    x.block = none ∧
    BitVec.toNat x.xvec < core.codesz.toNat ∧
    x.haltPend = false ∧
    x.poisonPend = [] ∧
    x.watchPend = p :: ps := by decide +kernel

theorem witness_HartEvents_6 :
    let s : State := h4
    let c : Nat := 5
    let h : BitVec 2 := 1
    let x : Hart := s.hartOf c h
    let core : Core := s.core c
    s.mayInterrupt c h = true ∧
    x.block = none ∧
    BitVec.toNat x.xvec < core.codesz.toNat ∧
    x.haltPend = false ∧
    x.poisonPend = [] ∧
    x.watchPend = [] ∧
    x.mode = Mode.program ∧
    x.stepPend = true := by decide +kernel

theorem witness_HartEvents_7 :
    let s : State := h5
    let c : Nat := 5
    let h : BitVec 2 := 1
    let x : Hart := s.hartOf c h
    let core : Core := s.core c
    s.mayInterrupt c h = true ∧
    x.block = none ∧
    BitVec.toNat x.xvec < core.codesz.toNat ∧
    x.haltPend = false ∧
    x.poisonPend = [] ∧
    x.watchPend = [] ∧
    x.mode = Mode.program ∧
    x.stepPend = false ∧
    x.ovf ≠ 0 := by decide +kernel

theorem witness_HartEvents_8 :
    let s : State := h6
    let c : Nat := 5
    let h : BitVec 2 := 1
    let x : Hart := s.hartOf c h
    s.mayInterrupt c h = true ∧
    x.haltPend = true := by decide +kernel

theorem witness_HartEvents_9 :
    let s : State := h7
    let c : Nat := 5
    let h : BitVec 2 := 1
    let x : Hart := s.hartOf c h
    let d : BitVec 5 := 5#5
    let mask : BitVec 16 := 4#16
    s.mayWake c h = true ∧
    x.block = some (Block.wait d mask) ∧
    (mask = 0 ∨ x.full &&& mask ≠ 0) := by decide +kernel

theorem witness_HartEvents_10 :
    let s : State := h8
    let c : Nat := 5
    let h : BitVec 2 := 1
    let x : Hart := s.hartOf c h
    let core : Core := s.core c
    let off : Nat := 1024
    let phase : Bool := true
    s.mayWake c h = true ∧
    x.block = some (Block.bwait off phase false) ∧
    bits (core.sread off 16) 103 101 = 0 ∧
    bit (core.sread off 16) 100 ≠ phase := by decide +kernel

/-- the phase has flipped back since the wake -/
theorem witness_HartEvents_10_woken :
    let s : State := h8w
    let x : Hart := s.hartOf 5 1
    s.mayWake 5 1 = true ∧ x.block = some (Block.bwait 1024 false true) ∧ bits ((s.core 5).sread 1024 16) 103 101 = 0 ∧
    bit ((s.core 5).sread 1024 16) 100 = false := by decide +kernel

/-- a phase that has not flipped -/
theorem witness_HartEvents_10_waits :
    let s : State := base (fun h => { h with block := some (.bwait 0x400 false false) })
    let x : Hart := s.hartOf 5 1
    s.mayWake 5 1 = true ∧ x.block = some (Block.bwait 1024 false false) ∧ bits ((s.core 5).sread 1024 16) 103 101 = 0 ∧
    bit ((s.core 5).sread 1024 16) 100 = false := by decide +kernel

theorem witness_HartEvents_11 :
    let s : State := h9
    let c : Nat := 5
    let h : BitVec 2 := 1
    let x : Hart := s.hartOf c h
    let core : Core := s.core c
    let d : BitVec 5 := 5#5
    let off : Nat := 1024
    let dst : Nat := 1536
    let r : Nat := core.sread off 32
    let n : Nat := 2 ^ bits r 90 87
    let a : Nat := bits r 151 128 + bits r 31 0 % 2 ^ bits r 95 91 * n
    let type : Nat := bits (core.sread (a + 8 * bits r 111 103) 8) (bits r 102 97 + 3) (bits r 102 97)
    s.mayWake c h = true ∧
    x.block = some (Block.rpop d off dst) ∧
    core.wayWait = none ∧
    core.ringUp r = true ∧
    bit r 64 = false ∧
    bits r 176 160 ≠ 0 ∧
    bit (bits r 127 112) type = true ∧
    dst + n ≤ core.scratchSize := by decide +kernel

theorem witness_HartEvents_12 :
    let s : State := s1
    let c : Nat := 5
    let core : Core := s.core c
    core.live = true ∧
    core.working ≠ [] ∧
    s.allBlocked c = true ∧
    s.anyWake c = false := by decide +kernel

theorem witness_HartEvents_13 :
    let s : State := h10
    let c : Nat := 5
    let h : BitVec 2 := 1
    let x : Hart := s.hartOf c h
    let core : Core := s.core c
    let e : Engine := Engine.copy
    let d : BitVec 5 := 5#5
    s.mayWake c h = true ∧
    x.block = some (Block.engine e d) ∧
    core.engineDone (BitVec.setWidth 3 h) e = true ∧
    (core.issuer (BitVec.setWidth 3 h) e).faulted = false ∧
    (core.issuer (BitVec.setWidth 3 h) e).flags = [] := by decide +kernel

theorem witness_HartEvents_14 :
    let s : State := h11
    let c : Nat := 5
    let h : BitVec 2 := 1
    let x : Hart := s.hartOf c h
    let core : Core := s.core c
    let d : BitVec 5 := 5#5
    s.mayWake c h = true ∧
    x.block = some (Block.caswait d) ∧
    core.cas.state ≠ RunState.running := by decide +kernel

end WT15

namespace WT22
def base (f : Hart → Hart := id) (k : Core → Core := id) : State :=
  let c0 : Core := { codesz := 1024, vf := some 0, launch := 7 }
  let h0 : Hart := { xvec := 512, pc := 64, group := some ⟨7, 0, 0⟩ }
  let s := State.reset.setCore 5 (k { c0 with harts := c0.harts.set 1 (f h0) })
  { s with cur := ⟨5, 1⟩ }
def wk (d : Sleep) (f : Hart → Hart := id) (g : Core → Core := id) : State := base (fun h => f { h with block := some (.wait 5 4), full := 1 }) (fun k => g { k with sleep := d })
def i1 : State := base (fun h => { h with watchPend := [], stepPend := true, ovf := 1, mode := .supervisor })
def i3 : State := base (fun h => { h with cntsel := #v[0x2001 + 0x8000, 0x8003 + 0x4000, 0xE004, 0x8001] })
def i4 : State := wk (.waking 2)

theorem witness_HartEvents_15 :
    let s : State := i1
    let c : Nat := 5
    let h : BitVec 2 := 1
    let x : Hart := s.hartOf c h
    let core : Core := s.core c
    s.mayInterrupt c h = true ∧
    x.block = none ∧
    BitVec.toNat x.xvec < core.codesz.toNat ∧
    x.haltPend = false ∧
    x.poisonPend = [] ∧
    x.watchPend = [] ∧
    x.mode = Mode.supervisor := by decide +kernel

theorem witness_HartEvents_16 :
    let s : State := i3
    let c : Nat := 5
    let h : BitVec 2 := 1
    let k : BitVec 2 := 0
    let x : Hart := s.hartOf c h
    let core : Core := s.core c
    core.vf ≠ none ∧
    x.group ≠ none ∧
    k = 0 ∧ cycleEvent (x.cntsel.get 0) = true := by decide +kernel

theorem witness_HartEvents_17 :
    let s : State := i4
    let c : Nat := 5
    let captured : Bool := false
    let core : Core := s.core c
    let d : BitVec 2 := 2#2
    core.sleep = Sleep.waking d ∧
    d = 2 ∧
    captured = false := by decide +kernel

theorem witness_EngineSteps_1 :
    let s : State := { (i1.modCore 5 (fun k => k.setEng .copy { queue := [{ issuer := 1, seq := 3, off := 64, op := .cpy 0x1000 0x2000 16, cs := 0, mark := 9 }] })) with net := [{ id := 3, src := .hart 5 1, cls := .posted, kind := .store 4 5 false, ea := 8, vf := 0, launch := 7, off := 4, prog := true, stage := .sent }] }
    let c : Nat := 5
    let e : Engine := .copy
    let cmd : Cmd := { issuer := 1, seq := 3, off := 64, op := .cpy 0x1000 0x2000 16, cs := 0, mark := 9 }
    let rest : List Cmd := []
    let k : Core := s.core c
    (k.eng e).run = none ∧
    (k.eng e).queue = cmd :: rest ∧
    k.skips e cmd = false ∧
    s.issuerReady c cmd = false := by decide +kernel

end WT22

namespace WT17
def base (f : Hart → Hart := id) (k : Core → Core := id) : State :=
  let c0 : Core := { codesz := 1024, vf := some 0, launch := 7 }
  let h0 : Hart := { xvec := 512, pc := 64, group := some ⟨7, 0, 0⟩ }
  let s := State.reset.setCore 5 (k { c0 with harts := c0.harts.set 1 (f h0) })
  { s with cur := ⟨5, 1⟩ }
def q (i : BitVec 3) (op : CmdOp) (cs : Word := 0) : Cmd := { issuer := i, seq := 3, off := 64, op := op, cs := cs }
def run (e : Engine) (c : Cmd) (k : Core → Core := id) : State := base id (fun x => k (x.setEng e { run := some c }))
def que (e : Engine) (c : Cmd) (r : List Cmd := []) (k : Core → Core := id) : State := base id (fun x => k (x.setEng e { queue := c :: r }))
def s1 : State := que .copy (q 1 (.cpy 0x1000 0x2000 16))
def s2 : State := que .copy (q 1 (.cpy 0x1000 0x2000 16)) [q 1 (.cpy 0x1000 0x2000 16)] (fun k => k.modIssuer 1 .copy (fun u => { u with faulted := true, record := 0x1FE00 }))
def s4 : State := run .matrix (q 1 (.mrel 3 4)) (fun k => k.ownSlots 2 8 (some 1))
def s5 : State := run .matrix (q 1 (.mload 3 4 1 16 0x400)) (fun k => (k.ownSlots 2 8 (some 1)).swrite 0x400 128 (lcg 5 * 2^700 + lcg 7))
def x6 : State := run .exponent (q 1 (.xexp 0x10 0x400 0x0000000400000000)) (fun k => k.swrite 0x400 16 0x3F80000040000000BF80000000000001)
def s6 : State := let a := (base).cc.ownAddr 0x400; let b := (base).cc.ownAddr 0x800; run .copy (q 1 (.cpy b a 16)) (fun k => k.swrite 0x400 16 (lcg 5 * 2^60 + lcg 7))

theorem witness_EngineSteps_2 :
    let s : State := s4
    let c : Nat := 5
    let e : Engine := .matrix
    let cmd : Cmd := (q 1 (.mrel 3 4))
    let k : Core := s.core c
    let plain : Prop := csBEN cmd.cs = false ∧ csMEN cmd.cs = false
    let base : Nat := 3
    let n : Nat := 4
    cmd.issuer.toNat < 4 ∧
    plain ∧
    e = Engine.matrix ∧
    k.matrix.run = some cmd ∧
    cmd.op = CmdOp.mrel base n := by decide +kernel

theorem witness_EngineSteps_3 :
    let s : State := s1
    let c : Nat := 5
    let e : Engine := .copy
    let cmd : Cmd := (q 1 (.cpy 0x1000 0x2000 16))
    let rest : List Cmd := []
    let k : Core := s.core c
    (k.eng e).run = none ∧
    (k.eng e).queue = cmd :: rest ∧
    k.skips e cmd = false ∧
    s.issuerReady c cmd = true := by decide +kernel

theorem witness_EngineSteps_4 :
    let s : State := s5
    let c : Nat := 5
    let e : Engine := .matrix
    let cmd : Cmd := (q 1 (.mload 3 4 1 16 0x400))
    let k : Core := s.core c
    let plain : Prop := csBEN cmd.cs = false ∧ csMEN cmd.cs = false
    let slot : Nat := 3
    let line : Nat := 4
    let n : Nat := 1
    let stride : Nat := 16
    let src : Nat := 1024
    cmd.issuer.toNat < 4 ∧
    plain ∧
    e = Engine.matrix ∧
    k.matrix.run = some cmd ∧
    cmd.op = CmdOp.mload slot line n stride src ∧
    n = 1 ∧
    src + 128 ≤ k.scratchSize ∧
    k.spoisoned src 128 = false ∧
    Memory.wf k.opmem = true := by decide +kernel

theorem witness_EngineSteps_5 :
    let s : State := x6
    let c : Nat := 5
    let e : Engine := .exponent
    let cmd : Cmd := (q 1 (.xexp 0x10 0x400 0x0000000400000000))
    let k : Core := s.core c
    let plain : Prop := csBEN cmd.cs = false ∧ csMEN cmd.cs = false
    let dst : Nat := 16
    let src : Nat := 1024
    let p : Word := 17179869184#64
    let n : Nat := bits (BitVec.toNat p) 47 32
    cmd.issuer.toNat < 4 ∧
    plain ∧
    e = Engine.exponent ∧
    k.exponent.run = some cmd ∧
    cmd.op = CmdOp.xexp dst src p ∧
    bits (BitVec.toNat p) 47 32 ≠ 0 ∧
    src + 4 * n ≤ k.scratchSize ∧
    dst + 4 * n ≤ k.scratchSize ∧
    k.spoisoned src (4 * n) = false := by decide +kernel

theorem witness_EngineSteps_6 :
    let s : State := s2
    let c : Nat := 5
    let e : Engine := .copy
    let cmd : Cmd := (q 1 (.cpy 0x1000 0x2000 16))
    let rest : List Cmd := [q 1 (.cpy 0x1000 0x2000 16)]
    let k : Core := s.core c
    let issuer : Issuer := k.issuer cmd.issuer e
    (k.eng e).run = none ∧
    (k.eng e).queue = cmd :: rest ∧
    issuer.faulted = true ∧
    csMEN cmd.cs = false := by decide +kernel

theorem witness_EngineSteps_7 :
    let s : State := s6
    let c : Nat := 5
    let e : Engine := .copy
    let cmd : Cmd := (q 1 (.cpy ((base).cc.ownAddr 0x800) ((base).cc.ownAddr 0x400) 16))
    let k : Core := s.core c
    let plain : Prop := csBEN cmd.cs = false ∧ csMEN cmd.cs = false
    let dst : Word := 18442240474082183168#64
    let src : Word := 18442240474082182144#64
    let a : Nat := 1024
    let b : Nat := 2048
    let v : Nat := 377798542001608472330250
    let bad : Bool := false
    cmd.issuer.toNat < 4 ∧
    plain ∧
    e = Engine.copy ∧
    k.copy.run = some cmd ∧
    cmd.op = CmdOp.cpy dst src 16 ∧
    BitVec.toNat k.corxy < 2 ^ 19 ∧
    classifyAt k.corxy k.scratchSize src 1 16 false = Except.ok (Place.own a) ∧
    classifyAt k.corxy k.scratchSize dst 1 16 false = Except.ok (Place.own b) ∧
    k.codesz.toNat ≤ b ∧
    k.sread a 16 = v ∧
    k.spoisoned a 16 = bad ∧
    bad = false := by decide +kernel

end WT17

namespace WT19
def base (f : Hart → Hart := id) (k : Core → Core := id) : State :=
  let c0 : Core := { codesz := 1024, vf := some 0, launch := 7 }
  let h0 : Hart := { xvec := 512, pc := 64, group := some ⟨7, 0, 0⟩ }
  let s := State.reset.setCore 5 (k { c0 with harts := c0.harts.set 1 (f h0) })
  { s with cur := ⟨5, 1⟩ }
def q (i : BitVec 3) (op : CmdOp) (cs : Word := 0) : Cmd := { issuer := i, seq := 3, off := 64, op := op, cs := cs }
def run (e : Engine) (c : Cmd) (k : Core → Core := id) : State := base id (fun x => k (x.setEng e { run := some c }))
def cmdOf (cs : Word) : Cmd := q 1 (.cpy ((base).cc.ownAddr 0x800) ((base).cc.ownAddr 0x400) 16) cs
def st (cs : Word) (n : Nat) : State := run .copy (cmdOf cs) (fun k => (k.swrite 0x400 16 (lcg 5 * 2^60 + lcg 7)).swrite 0x600 16 n)
def a1 : State := st 0x8000000000000600 (16 + 2^64 + 2^80)
def a3 : State := st 0x4C00001234000000 0

theorem witness_EngineSteps_8 :
    let s : State := a1
    let c : Nat := 5
    let e : Engine := .copy
    let cmd : Cmd := (cmdOf 0x8000000000000600)
    let k : Core := s.core c
    let dst : Word := 18442240474082183168#64
    let src : Word := 18442240474082182144#64
    let a : Nat := 1024
    let b : Nat := 2048
    let w : Core := k.swrite b 16 (k.sread a 16)
    let o : Nat := bits (BitVec.toNat cmd.cs) 23 0
    let x : Nat := w.sread o 16
    cmd.issuer.toNat < 4 ∧
    e = Engine.copy ∧
    k.copy.run = some cmd ∧
    cmd.op = CmdOp.cpy dst src 16 ∧
    BitVec.toNat k.corxy < 2 ^ 19 ∧
    classifyAt k.corxy k.scratchSize src 1 16 false = Except.ok (Place.own a) ∧
    classifyAt k.corxy k.scratchSize dst 1 16 false = Except.ok (Place.own b) ∧
    k.codesz.toNat ≤ b ∧
    k.spoisoned a 16 = false ∧
    csBEN cmd.cs = true ∧
    csMEN cmd.cs = false ∧
    o + 16 ≤ k.scratchSize ∧
    bits x 103 101 = 0 ∧
    16 ≤ bits x 35 0 := by decide +kernel

theorem witness_EngineSteps_9 :
    let s : State := a3
    let c : Nat := 5
    let e : Engine := .copy
    let cmd : Cmd := (cmdOf 0x4C00001234000000)
    let k : Core := s.core c
    let dst : Word := 18442240474082183168#64
    let src : Word := 18442240474082182144#64
    let a : Nat := 1024
    let b : Nat := 2048
    let h : BitVec 2 := BitVec.setWidth 2 cmd.issuer
    let m : BitVec 4 := BitVec.ofNat 4 (bits (BitVec.toNat cmd.cs) 61 58)
    cmd.issuer.toNat < 4 ∧
    e = Engine.copy ∧
    k.copy.run = some cmd ∧
    cmd.op = CmdOp.cpy dst src 16 ∧
    BitVec.toNat k.corxy < 2 ^ 19 ∧
    classifyAt k.corxy k.scratchSize src 1 16 false = Except.ok (Place.own a) ∧
    classifyAt k.corxy k.scratchSize dst 1 16 false = Except.ok (Place.own b) ∧
    k.codesz.toNat ≤ b ∧
    k.spoisoned a 16 = false ∧
    csBEN cmd.cs = false ∧
    csMEN cmd.cs = true ∧
    (k.hart h).group ≠ none ∧
    (k.hart h).stopping = false ∧
    k.hold = [] ∧
    (k.hart h).isFull m = false ∧
    k.overflow = [] := by decide +kernel

end WT19

namespace WT18b
def base (f : Hart → Hart := id) (k : Core → Core := id) : State :=
  let c0 : Core := { codesz := 1024, vf := some 0, launch := 7 }
  let h0 : Hart := { xvec := 512, pc := 64, group := some ⟨7, 0, 0⟩ }
  let s := State.reset.setCore 5 (k { c0 with harts := c0.harts.set 1 (f h0) })
  { s with cur := ⟨5, 1⟩ }
def q (i : BitVec 3) (op : CmdOp) (cs : Word := 0) : Cmd := { issuer := i, seq := 3, off := 64, op := op, cs := cs }
def run (e : Engine) (c : Cmd) (k : Core → Core := id) : State := base id (fun x => k (x.setEng e { run := some c }))
def rg (filled : Nat) : Nat := (6 * 2 ^ 32 + 5 + 4 * 2^87 + 2 * 2^91 + 0xFFFF * 2^112 + 0x800 * 2^128 + filled * 2^160)
def s7 (filled : Nat) : State := let s := run .copy (q 1 (.cpyr 0xFFF0000200000400 0x400)) (fun k => k.swrite 0x400 16 (lcg 5 * 2^60 + lcg 7))
  (s.modPart 0 (fun p => { p with valid := true, resident := true, remap := 0x8000000018018000 })).setCore 6 (({ codesz := 1024, vf := some 0, launch := 7, vc := 1, harts := (Vector.replicate 4 { }).set 0 { group := some ⟨7, 1, 0⟩ } } : Core).swrite 0x400 32 (rg filled))
def s7a : State := s7 1
def s7b : State := s7 4

theorem witness_EngineSteps_10 :
    let s : State := s7a
    let c : Nat := 5
    let cmd : Cmd := (q 1 (.cpyr 0xFFF0000200000400 0x400))
    let k : Core := s.core c
    let plain : Prop := csBEN cmd.cs = false ∧ csMEN cmd.cs = false
    let ring : Word := 18442240482672116736#64
    let src : Nat := 1024
    let p : Spot := Spot.core 6
    let t : Core := s.spotCore (k.vf.getD 0) p
    let o : Nat := addrOff ring
    let r : Nat := t.sread o 32
    let n : Nat := 2 ^ bits r 90 87
    let c' : Nat := 6
    cmd.issuer.toNat < 4 ∧
    plain ∧
    k.copy.run = some cmd ∧
    cmd.op = CmdOp.cpyr ring src ∧
    s.placed (k.vf.getD 0) ring = true ∧
    s.spot (k.vf.getD 0) (addrVcore ring) = some p ∧
    o + 32 ≤ t.scratchSize ∧
    t.ringUp r = true ∧
    bit r 96 = false ∧
    bit r 64 = false ∧
    bits r 176 160 ≠ 2 ^ bits r 95 91 ∧
    src + n ≤ k.scratchSize ∧
    k.spoisoned src n = false ∧
    p = Spot.core c' ∧
    c' ≠ c := by decide +kernel

theorem witness_EngineSteps_11 :
    let s : State := s7b
    let c : Nat := 5
    let cmd : Cmd := (q 1 (.cpyr 0xFFF0000200000400 0x400))
    let k : Core := s.core c
    let plain : Prop := csBEN cmd.cs = false ∧ csMEN cmd.cs = false
    let ring : Word := 18442240482672116736#64
    let src : Nat := 1024
    let p : Spot := Spot.core 6
    let t : Core := s.spotCore (k.vf.getD 0) p
    let o : Nat := addrOff ring
    let r : Nat := t.sread o 32
    let n : Nat := 2 ^ bits r 90 87
    cmd.issuer.toNat < 4 ∧
    plain ∧
    k.copy.run = some cmd ∧
    cmd.op = CmdOp.cpyr ring src ∧
    s.placed (k.vf.getD 0) ring = true ∧
    s.spot (k.vf.getD 0) (addrVcore ring) = some p ∧
    o + 32 ≤ t.scratchSize ∧
    t.ringUp r = true ∧
    bit r 96 = false ∧
    bit r 64 = false ∧
    bits r 176 160 = 2 ^ bits r 95 91 ∧
    src + n ≤ k.scratchSize := by decide +kernel

end WT18b

namespace WT1c

theorem witness_IntegerResults_1 :
    let s : State := (mkS 1)
    let d : BitVec 5 := 1
    s.writable d := by decide +kernel

theorem witness_IntegerResults_2 :
    let s : State := (mkS 4)
    let d : BitVec 5 := 7
    s.writable d := by decide +kernel

theorem witness_DivisionResults_1 :
    let s : State := (mkS 6)
    let d : BitVec 5 := 7
    let a : BitVec 5 := 2
    let b : BitVec 5 := 3
    let m : BitVec 1 := 0
    let n : BitVec 1 := 0
    let A : Word := s.hart.operand (Operand.of a m)
    let B : Word := s.hart.operand (Operand.of b n)
    s.writable d ∧
    B ≠ 0 ∧
    (¬(A = 9223372036854775808 ∧ B = 18446744073709551615)) := by decide +kernel

theorem witness_DivisionResults_2 :
    let s : State := (mkS 9)
    let d : BitVec 5 := 7
    let b : BitVec 5 := 0
    let n : BitVec 1 := 0
    let B : Word := s.hart.operand (Operand.of b n)
    s.writable d ∧
    B = 0 := by decide +kernel

theorem witness_DivisionResults_3 :
    let s : State := (mkS 9 (fun h => setG 1 0x8000000000000000 (setG 2 (-1) h)))
    let d : BitVec 5 := 7
    let a : BitVec 5 := 1
    let b : BitVec 5 := 2
    let m : BitVec 1 := 0
    let n : BitVec 1 := 0
    let A : Word := s.hart.operand (Operand.of a m)
    let B : Word := s.hart.operand (Operand.of b n)
    s.writable d ∧
    A = 9223372036854775808 ∧
    B = 18446744073709551615 := by decide +kernel

theorem witness_ImmediateResults_1 :
    let s : State := (mkS 9)
    let d : BitVec 5 := 7
    s.writable d := by decide +kernel

end WT1c

namespace WT2
def sb1 := mkS 1 (fun h => { h with binds := h.binds.set 3 { valid := true, dest := 5 } })

theorem witness_FloatAndSliResults_1 :
    let s : State := (mkS 1)
    let d : BitVec 5 := 1
    s.writable d := by decide +kernel

theorem witness_FloatAndSliResults_2 :
    let s : State := (mkS 3)
    let d : BitVec 5 := 1
    s.writable d := by decide +kernel

theorem witness_BoundDestinationTraps_1 :
    let s : State := sb1
    let d : BitVec 5 := 5
    let k : BitVec 4 := 3
    d ≠ 0 ∧
    s.hart.slotOf d = some k ∧
    s.trapReady := by decide +kernel

theorem witness_ControlTransfers_1 :
    let s : State := (mkS 1 (setG 2 100))
    let a : BitVec 5 := 2
    let b : BitVec 5 := 2
    let o : BitVec 13 := 5
    let A : Word := s.rg a
    let B : Word := s.rg b
    let inside : Int → Prop := fun (t : Int) => 0 ≤ t ∧ t < (↑s.cc.codesz.toNat : Int)
    let j : BitVec 26 := 0x3FFFFFF
    let d : BitVec 5 := 5
    let i : BitVec 16 := 4
    let t : Word := A + BitVec.signExtend 64 i
    A = B ∧
    inside ((↑(BitVec.toNat s.hart.pc) : Int) + o.toInt * 4) ∧
    BitVec.toInt B ≤ BitVec.toInt A ∧
    BitVec.toNat B ≤ BitVec.toNat A ∧
    BitVec.toNat t % 4 = 0 ∧
    BitVec.toNat t < s.cc.codesz.toNat ∧
    s.writable d ∧
    inside ((↑(BitVec.toNat s.hart.pc) : Int) + j.toInt * 4) ∧
    s.writable 31 ∧
    (¬A ≠ B) ∧
    (¬BitVec.toInt A < BitVec.toInt B) ∧
    (¬BitVec.toNat A < BitVec.toNat B) := by decide +kernel

theorem witness_ControlTransfers_2 :
    let s : State := (mkS 1)
    let a : BitVec 5 := 2
    let b : BitVec 5 := 3
    let A : Word := s.rg a
    let B : Word := s.rg b
    let o : BitVec 13 := 5
    let inside : Int → Prop := fun (t : Int) => 0 ≤ t ∧ t < (↑s.cc.codesz.toNat : Int)
    A ≠ B ∧
    inside ((↑(BitVec.toNat s.hart.pc) : Int) + o.toInt * 4) ∧
    BitVec.toInt A < BitVec.toInt B ∧
    BitVec.toNat A < BitVec.toNat B ∧
    (¬A = B) ∧
    (¬BitVec.toInt B ≤ BitVec.toInt A) ∧
    (¬BitVec.toNat B ≤ BitVec.toNat A) := by decide +kernel

theorem witness_ControlTransfers_3 :
    let s : State := (mkS 1 (setG 2 100))
    let a : BitVec 5 := 2
    let b : BitVec 5 := 2
    let o : BitVec 13 := 0x1000
    let A : Word := s.rg a
    let B : Word := s.rg b
    let outside : Int → Prop := fun (t : Int) => t < 0 ∨ (↑s.cc.codesz.toNat : Int) ≤ t
    let j : BitVec 26 := 0x2FFFFFF
    let d : BitVec 5 := 5
    let i : BitVec 16 := 5
    let t : Word := A + BitVec.signExtend 64 i
    s.trapReady ∧
    A = B ∧
    outside ((↑(BitVec.toNat s.hart.pc) : Int) + o.toInt * 4) ∧
    BitVec.toInt B ≤ BitVec.toInt A ∧
    BitVec.toNat B ≤ BitVec.toNat A ∧
    outside ((↑(BitVec.toNat s.hart.pc) : Int) + j.toInt * 4) ∧
    s.writable 31 ∧
    s.writable d ∧
    BitVec.toNat t % 4 ≠ 0 := by decide +kernel

theorem witness_ControlTransfers_4 :
    let s : State := (mkS 1 (setG 2 100))
    let a : BitVec 5 := 2
    let b : BitVec 5 := 3
    let o : BitVec 13 := 0x1000
    let A : Word := s.rg a
    let B : Word := s.rg b
    let outside : Int → Prop := fun (t : Int) => t < 0 ∨ (↑s.cc.codesz.toNat : Int) ≤ t
    let d : BitVec 5 := 5
    let i : BitVec 16 := 0x4004
    let t : Word := A + BitVec.signExtend 64 i
    s.trapReady ∧
    A ≠ B ∧
    outside ((↑(BitVec.toNat s.hart.pc) : Int) + o.toInt * 4) ∧
    s.writable d ∧
    BitVec.toNat t % 4 = 0 ∧
    s.cc.codesz.toNat ≤ BitVec.toNat t := by decide +kernel

theorem witness_AddressFaults_3 :
    let s : State := (mkS 1 (setG 2 0x7FFFFFFFFFFF8000))
    let d : BitVec 5 := 5
    let a : BitVec 5 := 2
    let z : BitVec 3 := 3
    let o : BitVec 9 := 0x8
    let ea : Word := s.resolve (s.rg a + BitVec.ofInt 64 (o.toInt * (↑(2 ^ (z.toNat % 4)) : Int)))
    s.trapReady ∧
    s.writable d ∧
    BitVec.toNat ea % 2 ^ (z.toNat % 4) = 0 ∧
    BitVec.msb ea = false ∧
    2 ^ 48 ≤ BitVec.toNat ea := by decide +kernel

theorem witness_AddressFaults_4 :
    let s : State := (mkS 1 (setG 2 0x7FFFFFFFFFFF8000))
    let d : BitVec 5 := 5
    let a : BitVec 5 := 2
    let y : BitVec 2 := 3
    let o : BitVec 9 := 0x8
    let ea : Word := s.resolve (s.rg a + BitVec.ofInt 64 (o.toInt * (↑(2 ^ y.toNat) : Int)))
    s.trapReady ∧
    s.writable d ∧
    BitVec.toNat ea % 2 ^ y.toNat = 0 ∧
    BitVec.msb ea = false ∧
    2 ^ 48 ≤ BitVec.toNat ea := by decide +kernel

theorem witness_AddressFaults_5 :
    let s : State := (mkS 1 (setG 2 0x8001000100000000))
    let d : BitVec 5 := 5
    let a : BitVec 5 := 2
    let z : BitVec 3 := 2
    let o : BitVec 9 := 0x8
    let ea : Word := s.resolve (s.rg a + BitVec.ofInt 64 (o.toInt * (↑(2 ^ (z.toNat % 4)) : Int)))
    s.trapReady ∧
    s.writable d ∧
    BitVec.toNat ea % 2 ^ (z.toNat % 4) = 0 ∧
    BitVec.msb ea = true ∧
    (bits (BitVec.toNat ea) 32 24 ≠ 0 ∨ 99 < bits (BitVec.toNat ea) 43 37) := by decide +kernel

theorem witness_AddressFaults_6 :
    let s : State := (mkS 1 (setG 2 0x8001000100000000))
    let d : BitVec 5 := 5
    let a : BitVec 5 := 2
    let y : BitVec 2 := 2
    let o : BitVec 9 := 0x8
    let ea : Word := s.resolve (s.rg a + BitVec.ofInt 64 (o.toInt * (↑(2 ^ y.toNat) : Int)))
    s.trapReady ∧
    s.writable d ∧
    BitVec.toNat ea % 2 ^ y.toNat = 0 ∧
    BitVec.msb ea = true ∧
    (bits (BitVec.toNat ea) 32 24 ≠ 0 ∨ 99 < bits (BitVec.toNat ea) 43 37) := by decide +kernel

end WT2

namespace WT20
def base (f : Hart → Hart := id) (k : Core → Core := id) : State :=
  let c0 : Core := { codesz := 1024, vf := some 0, launch := 7 }
  let h0 : Hart := { xvec := 512, pc := 64, group := some ⟨7, 0, 0⟩ }
  let s := State.reset.setCore 17 (k { c0 with harts := c0.harts.set 1 (f h0) })
  { s with cur := ⟨17, 1⟩ }
def cas (a : Vector (BitVec 32) 16) (k : Core → Core := id) : State := base id (fun x => k { x with cas := { x.cas with state := .running, starter := 1, upc := 250, a := a } })
def regs (l : List (Nat × BitVec 32)) : Vector (BitVec 32) 16 := l.foldl (fun v x => v.setIfInBounds x.1 x.2) (Vector.replicate 16 7)
def mu (imm : BitVec 32) (x : Nat := 0) (d a b : BitVec 4) : Micro := { d := d, a := a, b := b, imm := imm, x := BitVec.ofNat _ x }
def k1 : State := cas (regs [(1, 100), (2, 7), (3, 1)])
def k2 (v : Nat) : State := cas (regs [(1, 0x400)]) (fun k => k.swrite 0x400 16 v)
def k2a : State := k2 (2 * 2^64 + 2^80)
def k2c : State := k2 (3 * 2^64 + 2^80 + 2^102)
def z1 : State := k1.modCore 17 (fun k => { k with cas := { k.cas with waiting := some (2, false) } })
def z2 : State := k1.modCore 17 (fun k => { k with cas := { k.cas with waiting := some (7, true) } })
def z3 : State := k1.modCore 17 (fun k => { k with cas := { k.cas with waiting := none, fault := some (3, 4, 5) } })
def data (k : Core) : Core := (k.ownSlots 0 32 (some 1)).swrite 0x400 1152 ((List.range 144).foldl (fun a i => a * 2^64 + (lcg (lcg (i + 3)) &&& 0xBFFFFFFFBFFFFFFF)) 0)
def p1 : State := cas (regs [(1, 0x400), (2, 0x403), (3, 0x800), (4, 5), (5, 0x200)]) data

theorem witness_MicroControl_1 :
    let u : Micro := (mu 0 0 0 0 0)
    (Instr.microAdd u).wf = true ∧
    (Instr.microAddm u).wf = true ∧
    (Instr.microBnz u).wf = true ∧
    (Instr.microDjnz u).wf = true ∧
    (Instr.microMovi u).wf = true ∧
    (Instr.microStop u).wf = true ∧
    (Instr.microWaite u).wf = true := by decide +kernel

theorem witness_MicroControl_2 :
    let u : Micro := (mu 0 0 0 1 0)
    let s : State := k2a
    let R : BitVec 4 → BitVec 32 := s.cc.cas.reg
    let off : Nat := (R u.a).toNat % 2 ^ 24
    let x : Nat := s.cc.sread off 16
    (Instr.microSig u).wf = true ∧
    off % 16 = 0 ∧
    bits (R u.a).toNat 31 24 = 0 ∧
    off + 16 ≤ s.cc.scratchSize ∧
    bits x 103 101 = 0 ∧
    bits x 95 80 ≠ bits x 79 64 := by decide +kernel

theorem witness_MicroControl_3 :
    let u : Micro := (mu 0 0 0 1 0)
    let s : State := k2c
    let R : BitVec 4 → BitVec 32 := s.cc.cas.reg
    let off : Nat := (R u.a).toNat % 2 ^ 24
    let x : Nat := s.cc.sread off 16
    (Instr.microSig u).wf = true ∧
    off % 16 = 0 ∧
    bits (R u.a).toNat 31 24 = 0 ∧
    off + 16 ≤ s.cc.scratchSize ∧
    bits x 103 101 ≠ 0 := by decide +kernel

theorem witness_MicroControl_4 :
    let u : Micro := (mu 5 1 0 0 0)
    let s : State := z1
    let off : Nat := (s.cc.cas.reg u.d).toNat % 2 ^ 24
    let c : Nat := 17
    let m : BitVec 3 := 2
    let k : Core := s.core c
    (Instr.microMask u).wf = true ∧
    off % 64 ≠ 0 ∧
    (Instr.microMovi u).wf = false ∧
    k.cas.state = RunState.running ∧
    k.casDone m = true ∧
    k.casFaulted m = none ∧
    k.cas.waiting = some (m, false) := by decide +kernel

theorem witness_MicroControl_5 :
    let s : State := z2
    let c : Nat := 17
    let m : BitVec 3 := 7
    let k : Core := s.core c
    k.cas.state = RunState.running ∧
    k.casDone m = true ∧
    k.casFaulted m = none ∧
    k.cas.waiting = some (m, true) := by decide +kernel

theorem witness_MicroControl_6 :
    let s : State := z3
    let c : Nat := 17
    let cause : BitVec 8 := 3
    let upc : BitVec 8 := 4
    let foff : BitVec 24 := 5
    let k : Core := s.core c
    k.cas.state = RunState.running ∧
    k.casDone 7 = true ∧
    k.cas.fault = some (cause, upc, foff) := by decide +kernel

theorem witness_MicroControl_7 :
    let u : Micro := (mu 0 0x10 1 2 3)
    let s : State := (cas (regs [(1, 0x1000400)]))
    let off : Nat := (s.cc.cas.reg u.d).toNat % 2 ^ 24
    (Instr.microMask u).wf = true ∧
    off % 64 = 0 ∧
    (bits (s.cc.cas.reg u.d).toNat 31 24 ≠ 0 ∨ s.cc.scratchSize < off + 1024) := by decide +kernel

theorem witness_MicroOperations_1 :
    let s : State := p1
    let u : Micro := (mu 0 0 3 1 0)
    let R : BitVec 4 → BitVec 32 := s.cc.cas.reg
    let off : BitVec 4 → Nat := fun (r : BitVec 4) => (R r).toNat % 2 ^ 24
    let at_ : BitVec 4 → Nat → Nat → Prop := fun (r : BitVec 4) (al n : Nat) => off r % al = 0 ∧ bits (R r).toNat 31 24 = 0 ∧ off r + n ≤ s.cc.scratchSize
    let I : Nat := u.imm.toNat
    (Instr.microCp u).wf = true ∧
    I % 16 = 0 ∧
    at_ u.d 16 (max 1 I) ∧
    at_ u.a 16 (max 1 I) ∧
    (u.x = 1 → at_ u.b 16 16) ∧
    (s.cc.eng Engine.copy).queue.length < Config.engineQueue ∧
    s.cc.hartWants Engine.copy = false ∧
    (Instr.microMask u).wf = true ∧
    at_ u.d 64 1024 ∧
    (Instr.microNorm u).wf = true ∧
    u.x = 0 ∧
    at_ u.d 16 512 ∧
    at_ u.a 64 1088 ∧
    (Instr.microRmax u).wf = true ∧
    at_ u.d 64 128 ∧
    at_ u.a 64 1024 := by decide +kernel

theorem witness_MicroOperations_2 :
    let s : State := p1
    let u : Micro := (mu 0 0 3 4 0)
    let R : BitVec 4 → BitVec 32 := s.cc.cas.reg
    let off : BitVec 4 → Nat := fun (r : BitVec 4) => (R r).toNat % 2 ^ 24
    let at_ : BitVec 4 → Nat → Nat → Prop := fun (r : BitVec 4) (al n : Nat) => off r % al = 0 ∧ bits (R r).toNat 31 24 = 0 ∧ off r + n ≤ s.cc.scratchSize
    let mine : Nat → Prop := fun (x : Nat) => s.cc.claimed x s.cc.cas.starter = true
    let A : Nat := (R u.a).toNat
    (Instr.microRsum u).wf = true ∧
    A < 32 ∧
    mine A ∧
    at_ u.d 64 128 := by decide +kernel

theorem witness_MicroOperations_3 :
    let s : State := p1
    let u : Micro := (mu 0 0 1 3 1)
    let R : BitVec 4 → BitVec 32 := s.cc.cas.reg
    let off : BitVec 4 → Nat := fun (r : BitVec 4) => (R r).toNat % 2 ^ 24
    let at_ : BitVec 4 → Nat → Nat → Prop := fun (r : BitVec 4) (al n : Nat) => off r % al = 0 ∧ bits (R r).toNat 31 24 = 0 ∧ off r + n ≤ s.cc.scratchSize
    (Instr.microLcomb u).wf = true ∧
    at_ u.d 64 1088 ∧
    at_ u.a 64 128 ∧
    at_ u.b 64 1024 := by decide +kernel

theorem witness_MicroOperations_4 :
    let s : State := p1
    let u : Micro := (mu 0x400808 0x8 1 2 0)
    let R : BitVec 4 → BitVec 32 := s.cc.cas.reg
    let off : BitVec 4 → Nat := fun (r : BitVec 4) => (R r).toNat % 2 ^ 24
    let at_ : BitVec 4 → Nat → Nat → Prop := fun (r : BitVec 4) (al n : Nat) => off r % al = 0 ∧ bits (R r).toNat 31 24 = 0 ∧ off r + n ≤ s.cc.scratchSize
    let mine : Nat → Prop := fun (x : Nat) => s.cc.claimed x s.cc.cas.starter = true
    let I : Nat := u.imm.toNat
    let A : Nat := (R u.a).toNat
    let w : Prop := s.cur.core / 17 % 256 % 4 = 0
    (Instr.microMm u).wf = true ∧
    bits I 15 13 = 0 ∧
    bits I 7 5 = 0 ∧
    bits A 31 13 = 0 ∧
    bits A 7 5 = 0 ∧
    (bit u.x.toNat 3 = true ↔ ¬w) ∧
    mine (A % 32) ∧
    mine (bits A 12 8) ∧
    I % 32 ≤ 16 ∧
    bits I 12 8 ≤ 16 ∧
    (bits I 24 16 ≤ if w then 64 else 256) ∧
    at_ u.d 64 1024 ∧
    (s.cc.eng Engine.matrix).queue.length < Config.engineQueue ∧
    s.cc.hartWants Engine.matrix = false := by decide +kernel

theorem witness_MicroOperations_5 :
    let s : State := p1
    let u : Micro := (mu 0x00020004 1 4 1 0)
    let R : BitVec 4 → BitVec 32 := s.cc.cas.reg
    let off : BitVec 4 → Nat := fun (r : BitVec 4) => (R r).toNat % 2 ^ 24
    let at_ : BitVec 4 → Nat → Nat → Prop := fun (r : BitVec 4) (al n : Nat) => off r % al = 0 ∧ bits (R r).toNat 31 24 = 0 ∧ off r + n ≤ s.cc.scratchSize
    let mine : Nat → Prop := fun (x : Nat) => s.cc.claimed x s.cc.cas.starter = true
    let I : Nat := u.imm.toNat
    let D : Nat := (R u.d).toNat
    (Instr.microMmMload u).wf = true ∧
    D < 2 ^ 12 ∧
    bits D 7 5 = 0 ∧
    mine (D % 32) ∧
    1 ≤ I % 32 ∧
    I % 32 ≤ 16 ∧
    bits D 11 8 + I % 32 ≤ 16 ∧
    at_ u.a 16 ((I % 32 - 1) * (16 * bits I 31 16) + 128) ∧
    (s.cc.eng Engine.matrix).queue.length < Config.engineQueue ∧
    s.cc.hartWants Engine.matrix = false := by decide +kernel

theorem witness_MicroOperations_6 :
    let s : State := p1
    let u : Micro := (mu 0x3F800000 0 4 1 3)
    let R : BitVec 4 → BitVec 32 := s.cc.cas.reg
    let off : BitVec 4 → Nat := fun (r : BitVec 4) => (R r).toNat % 2 ^ 24
    let at_ : BitVec 4 → Nat → Nat → Prop := fun (r : BitVec 4) (al n : Nat) => off r % al = 0 ∧ bits (R r).toNat 31 24 = 0 ∧ off r + n ≤ s.cc.scratchSize
    let mine : Nat → Prop := fun (x : Nat) => s.cc.claimed x s.cc.cas.starter = true
    let D : Nat := (R u.d).toNat
    (Instr.microXp u).wf = true ∧
    D < 32 ∧
    mine D ∧
    at_ u.a 64 1024 ∧
    at_ u.b 64 128 ∧
    (s.cc.eng Engine.exponent).queue.length < Config.engineQueue ∧
    s.cc.hartWants Engine.exponent = false := by decide +kernel

end WT20

namespace WT23
def base (f : Hart → Hart := id) (k : Core → Core := id) : State :=
  let c0 : Core := { codesz := 1024, vf := some 0, launch := 7 }
  let h0 : Hart := { xvec := 512, pc := 64, group := some ⟨7, 0, 0⟩ }
  let s := State.reset.setCore 17 (k { c0 with harts := c0.harts.set 1 (f h0) })
  { s with cur := ⟨17, 1⟩ }
def cas (a : Vector (BitVec 32) 16) (k : Core → Core := id) : State := base id (fun x => k { x with cas := { x.cas with state := .running, starter := 1, upc := 250, a := a } })
def regs (l : List (Nat × BitVec 32)) : Vector (BitVec 32) 16 := l.foldl (fun v x => v.setIfInBounds x.1 x.2) (Vector.replicate 16 7)
def mu (imm : BitVec 32) (x : Nat := 0) (d a b : BitVec 4) : Micro := { d := d, a := a, b := b, imm := imm, x := BitVec.ofNat _ x }
def k1 : State := cas (regs [(1, 100), (2, 7), (3, 1)])
def y1 : State := k1.modCore 17 (fun k => ({ k with cas := { k.cas with waiting := some (2, false) } }).modIssuer 4 .copy (fun u => { u with seq := 3 }) |>.setEng .copy { run := some { issuer := 4, seq := 3, off := 64, op := .cpy 0x1000 0x2000 16, cs := 0, mark := 9 } })
def y2 : State := y1.modCore 17 (fun k => { k with cas := { k.cas with waiting := some (2, true) } })
def y3 : State := k1.modCore 17 (fun k => { (k.modHart 1 (fun h => { h with full := 0xFFFF })) with overflow := List.replicate 8 ⟨1, 2, 3⟩ })

theorem witness_MicroControl_8 :
    let u : Micro := (mu 0x13 1 0 0 2)
    let s : State := y3
    let R : BitVec 4 → BitVec 32 := s.cc.cas.reg
    let m : Msg := { hart := BitVec.ofNat 2 (bits u.imm.toNat 5 4), reg := BitVec.ofNat 4 u.imm.toNat, value := BitVec.setWidth 64 (R u.b) }
    (Instr.microSigMessage u).wf = true ∧
    (s.cc.hart m.hart).group.isSome = true ∧
    s.cc.deliver m = none := by decide +kernel

theorem witness_MicroControl_9 :
    let s : State := y1
    let c : Nat := 17
    let m : BitVec 3 := 2
    let k : Core := s.core c
    k.cas.state = RunState.running ∧
    k.casDone m = false ∧
    k.cas.waiting = some (m, false) := by decide +kernel

theorem witness_MicroControl_10 :
    let s : State := y2
    let c : Nat := 17
    let m : BitVec 3 := 2
    let k : Core := s.core c
    k.cas.state = RunState.running ∧
    k.casDone m = false ∧
    k.cas.waiting = some (m, true) := by decide +kernel

end WT23

namespace WT4

theorem witness_Stores_4 :
    let s : State := (mkS 1 (fun h => (weird 2 (setG 2 0x8000000800000400 h))))
    let a : BitVec 5 := 2
    let w : BitVec 1 := 1
    let o : BitVec 9 := 0
    let p : Place := .remote
    let ea : Nat → Word := fun (n : Nat) => s.resolve (s.rg a + BitVec.ofInt 64 (o.toInt * (↑n : Int)))
    let far : Nat → Nat → Bool → Prop := fun (m n : Nat) (win : Bool) => s.classify (ea m) n n win = Except.ok p ∧ s.waitsFor p (ea m) n = false ∧ (p = Place.global ∧ s.cc.regionAt (BitVec.toNat (ea m)) = none ∨ p = Place.remote ∨ p = Place.fabric ∧ addrOff (ea m) < 8388608)
    let n : Nat := if w = 1 then 8 else 4
    far n (2 * n) false ∧
    s.hart.postRoom = true := by decide +kernel

theorem witness_Stores_5 :
    let s : State := (mkS 1 (fun h => (weird 2 (setG 2 0x8000000800000400 h))))
    let a : BitVec 5 := 2
    let y : BitVec 2 := 2
    let o : BitVec 9 := 0
    let p : Place := .remote
    let ea : Nat → Word := fun (n : Nat) => s.resolve (s.rg a + BitVec.ofInt 64 (o.toInt * (↑n : Int)))
    let far : Nat → Nat → Bool → Prop := fun (m n : Nat) (win : Bool) => s.classify (ea m) n n win = Except.ok p ∧ s.waitsFor p (ea m) n = false ∧ (p = Place.global ∧ s.cc.regionAt (BitVec.toNat (ea m)) = none ∨ p = Place.remote ∨ p = Place.fabric ∧ addrOff (ea m) < 8388608)
    let free : Prop := s.hart.outst = [] ∧ s.hart.orsLocal = 0 ∧ s.hart.orsFab = 0
    let n : Nat := 2 ^ y.toNat
    far n n (n == 8) ∧
    free ∧
    s.hart.postRoom = true := by decide +kernel

theorem witness_Stores_6 :
    let s : State := (mkS 1 (fun h => (weird 2 (setG 2 0x8000000800800000 h))))
    let a : BitVec 5 := 2
    let o : BitVec 9 := 0
    let ea : Nat → Word := fun (n : Nat) => s.resolve (s.rg a + BitVec.ofInt 64 (o.toInt * (↑n : Int)))
    let free : Prop := s.hart.outst = [] ∧ s.hart.orsLocal = 0 ∧ s.hart.orsFab = 0
    s.classify (ea 8) 8 8 true = Except.ok Place.window ∧
    s.waitsFor .window (ea 8) 8 = false ∧
    free ∧
    s.hart.postRoom = true := by decide +kernel

theorem witness_Loads_1 :
    let s : State := (mkS 1 (setG 2 0x1000))
    let d : BitVec 5 := 5
    let a : BitVec 5 := 2
    let z : BitVec 3 := 3
    let o : BitVec 9 := 0
    let p : Place := .global
    let ea : Nat → Word := fun (n : Nat) => s.resolve (s.rg a + BitVec.ofInt 64 (o.toInt * (↑n : Int)))
    let far : Nat → Nat → Prop := fun (m n : Nat) => s.classify (ea m) n n false = Except.ok p ∧ s.waitsFor p (ea m) n = false ∧ (p = Place.global ∧ s.cc.regionAt (BitVec.toNat (ea m)) = none ∨ p = Place.remote ∨ p = Place.fabric)
    let n : Nat := 2 ^ (z.toNat % 4)
    s.writable d ∧
    far n n := by decide +kernel

theorem witness_Loads_2 :
    let s : State := (mkS 1 (setG 2 0x1000))
    let d : BitVec 5 := 5
    let a : BitVec 5 := 2
    let w : BitVec 1 := 0
    let o : BitVec 9 := 0
    let p : Place := .global
    let ea : Nat → Word := fun (n : Nat) => s.resolve (s.rg a + BitVec.ofInt 64 (o.toInt * (↑n : Int)))
    let far : Nat → Nat → Prop := fun (m n : Nat) => s.classify (ea m) n n false = Except.ok p ∧ s.waitsFor p (ea m) n = false ∧ (p = Place.global ∧ s.cc.regionAt (BitVec.toNat (ea m)) = none ∨ p = Place.remote ∨ p = Place.fabric)
    let n : Nat := if w = 1 then 8 else 4
    s.writable d ∧
    s.writable (d + 1) ∧
    far n (2 * n) := by decide +kernel

theorem witness_Stores_7 :
    let s : State := (mkS 1 (fun h => (weird 2 (setG 2 0x8000000000000400 h))))
    let a : BitVec 5 := 2
    let w : BitVec 1 := 0
    let o : BitVec 9 := 0
    let off : Nat := 0x400
    let ea : Nat → Word := fun (n : Nat) => s.resolve (s.rg a + BitVec.ofInt 64 (o.toInt * (↑n : Int)))
    let ok : Nat → Nat → Bool → Prop := fun (m n : Nat) (win : Bool) => s.classify (ea m) n n win = Except.ok (Place.own off) ∧ s.waitsFor (Place.own off) (ea m) n = false ∧ s.watchNow (ea m) n false true = none
    let n : Nat := if w = 1 then 8 else 4
    ok n (2 * n) false := by decide +kernel

theorem witness_Stores_8 :
    let s : State := (mkS 1 (fun h => (weird 2 (setG 2 0x8000000000000400 h))))
    let a : BitVec 5 := 2
    let y : BitVec 2 := 3
    let o : BitVec 9 := 0
    let off : Nat := 0x400
    let ea : Nat → Word := fun (n : Nat) => s.resolve (s.rg a + BitVec.ofInt 64 (o.toInt * (↑n : Int)))
    let ok : Nat → Nat → Bool → Prop := fun (m n : Nat) (win : Bool) => s.classify (ea m) n n win = Except.ok (Place.own off) ∧ s.waitsFor (Place.own off) (ea m) n = false ∧ s.watchNow (ea m) n false true = none
    let n : Nat := 2 ^ y.toNat
    ok n n (n == 8) ∧
    s.hart.outst = [] ∧
    s.hart.orsLocal = 0 ∧
    s.hart.orsFab = 0 ∧
    (n = 8 → s.cc.header off = none) := by decide +kernel

theorem witness_Atomics_1 :
    let s : State := (mkS 1 (fun h => (weird 2 (setG 2 0x8000000000000400 h))))
    let d : BitVec 5 := 5
    let a : BitVec 5 := 2
    let r : BitVec 1 := 1
    let z : BitVec 1 := 0
    let off : Nat := 0x400
    let n : Nat := if z = 1 then 8 else 4
    let ea : Word := s.resolve (s.rg a)
    s.writable d ∧
    s.classify ea n n false = Except.ok (Place.own off) ∧
    s.waitsFor (Place.own off) ea n = false ∧
    s.watchNow ea n true true = none ∧
    s.cc.beyondCode off ∧
    s.cc.spoisoned off n = false ∧
    (r = 1 → s.hart.outst = [] ∧ s.hart.orsLocal = 0 ∧ s.hart.orsFab = 0) := by decide +kernel

theorem witness_Atomics_2 :
    let s : State := (mkS 1 (fun h => outs (weird 2 (setG 2 0x1000 h))))
    let d : BitVec 5 := 5
    let a : BitVec 5 := 2
    let r : BitVec 1 := 0
    let z : BitVec 1 := 1
    let p : Place := .global
    let n : Nat := if z = 1 then 8 else 4
    let ea : Word := s.resolve (s.rg a)
    s.writable d ∧
    s.classify ea n n false = Except.ok p ∧
    s.waitsFor p ea n = false ∧
    (p = Place.global ∧ s.sectorMoving ea = false ∧ (s.cc.regionAt (BitVec.toNat ea) = none ∨ s.cc.sectorAt (BitVec.toNat ea) = none) ∨ p = Place.remote) ∧
    (r = 1 → s.hart.outst = [] ∧ s.hart.orsLocal = 0 ∧ s.hart.orsFab = 0) := by decide +kernel

end WT4

namespace WT36
def cr1 : State := mkS 1 (weird 2)
def cr2 : State := mkS 7 (fun h => { weird 2 h with stepArm := true, stepOnce := true, arec := 0 })
def cr3 : State := mkS 7 (fun h => { weird 2 h with cntsel := #v[2, 2, 0xE002, 5] })
def im (w : BitVec 32) : State := mkS 3 (fun h => { weird 2 h with pc := 64 }) (fun k => k.swrite 68 4 w.toNat)
def im1 : State := im ((encode (.addi 5 6 0x8123)).getD 0)
def im2 : State := im ((encode (.andi 5 6 0x8123)).getD 0)
def im3 : State := im ((encode (.ori 5 6 0x8123)).getD 0)
def im4 : State := im ((encode (.xori 5 6 0x8123)).getD 0)
def im5 : State := im ((encode (.slti 5 6 0x8123)).getD 0)
def im6 : State := im ((encode (.sltiu 5 6 0x8123)).getD 0)
def im7 : State := im ((encode (.movi 5 0x8123)).getD 0)
def bs (sl : Vector Slot 16) : State := mkS 3 (fun h => { weird 2 h with pc := 64, binds := sl })
def no : Vector Slot 16 := Vector.replicate 16 {}
def b1 : State := bs (no.set 3 { valid := true, dest := 6, status := 5, level := 2, nm1 := 1, words := 0x123 })
def b2 : State := bs no

theorem witness_TrapsAndReturns_1 :
    let s : State := cr2
    s.trapReady := by decide +kernel

theorem witness_ControlRegisterWrites_1 :
    let s : State := cr1
    let a : BitVec 5 := 5
    let v : Word := s.rg a
    s.hart.outst = [] ∧
    s.hart.mode = Mode.supervisor ∧
    BitVec.toNat v % 4 ≠ 3 := by decide +kernel

theorem witness_ControlRegisterWrites_2 :
    let s : State := cr3
    let d : BitVec 5 := 5
    s.writable d ∧
    s.hart.outst = [] ∧
    s.hart.mode = Mode.supervisor ∧
    (∀ (j : Fin 4), cyclesIn (s.hart.cntsel.get j) (s.hart.modesOf (s.hart.cntsel.get j)) = false) := by decide +kernel

theorem witness_ImmediateResults_2 :
    let s : State := im1
    let d : BitVec 5 := 5
    let a : BitVec 5 := 6
    let i : BitVec 16 := 0x8123
    let w : BitVec 32 := fetchWord s.cc s.hart (BitVec.toNat s.hart.pc + 4)
    s.writable d ∧
    BitVec.toNat s.hart.pc + 4 < s.cc.codesz.toNat ∧
    decodeWord w = some (Instr.addi d a i) := by decide +kernel

theorem witness_ImmediateResults_3 :
    let s : State := im2
    let d : BitVec 5 := 5
    let a : BitVec 5 := 6
    let i : BitVec 16 := 0x8123
    let w : BitVec 32 := fetchWord s.cc s.hart (BitVec.toNat s.hart.pc + 4)
    s.writable d ∧
    BitVec.toNat s.hart.pc + 4 < s.cc.codesz.toNat ∧
    decodeWord w = some (Instr.andi d a i) := by decide +kernel

theorem witness_ImmediateResults_4 :
    let s : State := im3
    let d : BitVec 5 := 5
    let a : BitVec 5 := 6
    let i : BitVec 16 := 0x8123
    let w : BitVec 32 := fetchWord s.cc s.hart (BitVec.toNat s.hart.pc + 4)
    s.writable d ∧
    BitVec.toNat s.hart.pc + 4 < s.cc.codesz.toNat ∧
    decodeWord w = some (Instr.ori d a i) := by decide +kernel

theorem witness_ImmediateResults_5 :
    let s : State := im4
    let d : BitVec 5 := 5
    let a : BitVec 5 := 6
    let i : BitVec 16 := 0x8123
    let w : BitVec 32 := fetchWord s.cc s.hart (BitVec.toNat s.hart.pc + 4)
    s.writable d ∧
    BitVec.toNat s.hart.pc + 4 < s.cc.codesz.toNat ∧
    decodeWord w = some (Instr.xori d a i) := by decide +kernel

theorem witness_ImmediateResults_6 :
    let s : State := im5
    let d : BitVec 5 := 5
    let a : BitVec 5 := 6
    let i : BitVec 16 := 0x8123
    let w : BitVec 32 := fetchWord s.cc s.hart (BitVec.toNat s.hart.pc + 4)
    s.writable d ∧
    BitVec.toNat s.hart.pc + 4 < s.cc.codesz.toNat ∧
    decodeWord w = some (Instr.slti d a i) := by decide +kernel

theorem witness_ImmediateResults_7 :
    let s : State := im6
    let d : BitVec 5 := 5
    let a : BitVec 5 := 6
    let i : BitVec 16 := 0x8123
    let w : BitVec 32 := fetchWord s.cc s.hart (BitVec.toNat s.hart.pc + 4)
    s.writable d ∧
    BitVec.toNat s.hart.pc + 4 < s.cc.codesz.toNat ∧
    decodeWord w = some (Instr.sltiu d a i) := by decide +kernel

theorem witness_ImmediateResults_8 :
    let s : State := im7
    let d : BitVec 5 := 5
    let i : BitVec 16 := 0x8123 -- binding
    let w : BitVec 32 := fetchWord s.cc s.hart (BitVec.toNat s.hart.pc + 4)
    s.writable d ∧
    BitVec.toNat s.hart.pc + 4 < s.cc.codesz.toNat ∧
    decodeWord w = some (Instr.movi d i) := by decide +kernel

theorem witness_BindingManagement_1 :
    let s : State := b2
    let a : BitVec 5 := 6
    let d : BitVec 5 := 5
    s.hart.outst = [] ∧
    a ≠ 0 ∧
    s.hart.slotOf a = none ∧
    s.writable d ∧
    s.hart.unbound := by decide +kernel

theorem witness_BindingManagement_2 :
    let s : State := b1
    let a : BitVec 5 := 6
    let k : BitVec 4 := 3
    let d : BitVec 5 := 5
    s.hart.outst = [] ∧
    a ≠ 0 ∧
    s.hart.slotOf a = some k ∧
    s.writable d := by decide +kernel

end WT36

namespace WT7
def barr (v : Nat) (k : Core) : Core := k.swrite 0x400 16 v
def ring (r w filled cnt size buf : Nat) (x : Nat := 0) (k : Core) : Core := (k.swrite 0x400 32 (r + w * 2^32 + size * 2^87 + cnt * 2^91 + 0xFFFF * 2^112 + buf * 2^128 + filled * 2^160 + x)).swrite buf 64 0x123456789ABCDEF55AA

theorem witness_RingResults_2 :
    let s : State := (own 1 (f := setG 3 0x8000000000000600) (k := ring 5 6 1 2 4 0x800))
    let d : BitVec 5 := 5
    let a : BitVec 5 := 2
    let b : BitVec 5 := 3
    let off : Nat := 0x400
    let ea : Word := s.resolve (s.rg a)
    let c : Nat := BitVec.toNat (s.rg b)
    let buf : Nat := 0x600
    let r : Nat := s.cc.sread off 32
    let up : Prop := s.cc.ringUp r = true
    let filled : Nat := bits r 176 160
    let count : Nat := 2 ^ bits r 95 91
    let n : Nat := 2 ^ bits r 90 87
    let buffer : Prop := s.classify (s.resolve (s.rg b)) 16 (if s.cc.ringUp r = true then n else 16) false = Except.ok (Place.own buf)
    let ridx : Nat := bits r 31 0
    let slot : Nat → Nat := fun (i : Nat) => bits r 151 128 + i % count * n
    let type : Nat := bits (s.cc.sread (slot ridx + 8 * bits r 111 103) 8) (bits r 102 97 + 3) (bits r 102 97)
    s.writable d ∧
    s.classify ea 32 32 false = Except.ok (Place.own off) ∧
    s.wayHeld (.own off) ea 32 = false ∧
    bits c 31 27 = 0 ∧
    buffer ∧
    s.ringHeld r buf = false ∧
    up ∧
    bit r 64 = false ∧
    filled ≠ 0 ∧
    bit (bits r 127 112) type = true ∧
    bit r 96 = false ∧
    filled ≠ count := by decide +kernel

theorem witness_RingResults_3 :
    let s : State := (own 3 (f := setG 3 0x8000000000000600) (k := id))
    let d : BitVec 5 := 5
    let a : BitVec 5 := 2
    let b : BitVec 5 := 3
    let off : Nat := 0x400
    let ea : Word := s.resolve (s.rg a)
    let buf : Nat := 0x600
    let r : Nat := s.cc.sread off 32
    let up : Prop := s.cc.ringUp r = true
    let n : Nat := 2 ^ bits r 90 87
    let buffer : Prop := s.classify (s.resolve (s.rg b)) 16 (if s.cc.ringUp r = true then n else 16) false = Except.ok (Place.own buf)
    s.writable d ∧
    s.classify ea 32 32 false = Except.ok (Place.own off) ∧
    s.wayHeld (.own off) ea 32 = false ∧
    buffer ∧
    s.ringHeld r buf = false ∧
    (¬up) := by decide +kernel

theorem witness_RingResults_4 :
    let s : State := (own 2 (f := setG 3 0x8000000000000600) (k := ring 5 9 4 2 4 0x800))
    let d : BitVec 5 := 5
    let a : BitVec 5 := 2
    let b : BitVec 5 := 3
    let off : Nat := 0x400
    let ea : Word := s.resolve (s.rg a)
    let buf : Nat := 0x600
    let r : Nat := s.cc.sread off 32
    let up : Prop := s.cc.ringUp r = true
    let filled : Nat := bits r 176 160
    let count : Nat := 2 ^ bits r 95 91
    let n : Nat := 2 ^ bits r 90 87
    let buffer : Prop := s.classify (s.resolve (s.rg b)) 16 (if s.cc.ringUp r = true then n else 16) false = Except.ok (Place.own buf)
    s.writable d ∧
    s.classify ea 32 32 false = Except.ok (Place.own off) ∧
    s.wayHeld (.own off) ea 32 = false ∧
    buffer ∧
    s.ringHeld r buf = false ∧
    up ∧
    bit r 96 = false ∧
    bit r 64 = false ∧
    filled = count := by decide +kernel

theorem witness_RingResults_5 :
    let s : State := (own 3 (f := setG 3 0x8000000000000600) (k := ring 5 5 0 2 4 0x800))
    let d : BitVec 5 := 5
    let a : BitVec 5 := 2
    let b : BitVec 5 := 3
    let off : Nat := 0x400
    let ea : Word := s.resolve (s.rg a)
    let buf : Nat := 0x600
    let r : Nat := s.cc.sread off 32
    let up : Prop := s.cc.ringUp r = true
    let filled : Nat := bits r 176 160
    let n : Nat := 2 ^ bits r 90 87
    let buffer : Prop := s.classify (s.resolve (s.rg b)) 16 (if s.cc.ringUp r = true then n else 16) false = Except.ok (Place.own buf)
    s.writable d ∧
    s.classify ea 32 32 false = Except.ok (Place.own off) ∧
    s.wayHeld (.own off) ea 32 = false ∧
    buffer ∧
    s.ringHeld r buf = false ∧
    up ∧
    bit r 64 = false ∧
    filled = 0 := by decide +kernel

theorem witness_RingResults_6 :
    let s : State := (own 3 (f := setG 3 0x8000000000000600) (k := ring 5 5 0 2 4 0x800 (2^64)))
    let d : BitVec 5 := 5
    let a : BitVec 5 := 2
    let b : BitVec 5 := 3
    let off : Nat := 0x400
    let ea : Word := s.resolve (s.rg a)
    let buf : Nat := 0x600
    let r : Nat := s.cc.sread off 32
    let up : Prop := s.cc.ringUp r = true
    let n : Nat := 2 ^ bits r 90 87
    let buffer : Prop := s.classify (s.resolve (s.rg b)) 16 (if s.cc.ringUp r = true then n else 16) false = Except.ok (Place.own buf)
    s.writable d ∧
    s.classify ea 32 32 false = Except.ok (Place.own off) ∧
    s.wayHeld (.own off) ea 32 = false ∧
    buffer ∧
    s.ringHeld r buf = false ∧
    up ∧
    bit r 96 = false ∧
    bit r 64 = true := by decide +kernel

theorem witness_RingResults_7 :
    let s : State := (own 3 (f := fun h => setG 4 0x800 (setG 3 3 h)) (k := ring 0xFFFFFFFE 4 1 3 4 0x800))
    let d : BitVec 5 := 5
    let a : BitVec 5 := 2
    let b : BitVec 5 := 3
    let off : Nat := 0x400
    let ea : Word := s.resolve (s.rg a)
    let c : Nat := BitVec.toNat (s.rg b)
    let r : Nat := s.cc.sread off 32
    let up : Prop := s.cc.ringUp r = true
    let widx : Nat := bits r 63 32
    let count : Nat := 2 ^ bits r 95 91
    let fix : Nat := (widx + 2 ^ 32 - c % 2 ^ 32) % 2 ^ 32
    s.writable d ∧
    s.classify ea 32 32 false = Except.ok (Place.own off) ∧
    s.wayHeld (.own off) ea 32 = false ∧
    up ∧
    fix ≤ count := by decide +kernel

theorem witness_BarrierResults_1 :
    let s : State := (own 1 (k := barr (3 * 2^64 + 2 * 2^80)))
    let d : BitVec 5 := 5
    let a : BitVec 5 := 2
    let off : Nat := 0x400
    let ea : Word := s.resolve (s.rg a)
    let x : Nat := s.cc.sread off 16
    let pending : Nat := bits x 35 0
    let expected : Nat := bits x 79 64
    let arrived : Nat := bits x 95 80
    let faults : Nat := bits x 103 101
    let next : Nat := (arrived + 1) % 2 ^ 16
    let full : Prop := next = expected ∧ pending = 0
    let b : BitVec 5 := 3
    let n : Nat := BitVec.toNat (s.rg b)
    let phase : Bool := bit x 100
    s.writable d ∧
    s.classify ea 16 16 false = Except.ok (Place.own off) ∧
    s.wayHeld (.own off) ea 16 = false ∧
    faults = 0 ∧
    arrived ≠ expected ∧
    full ∧
    phase ≠ bit n 0 ∧
    pending + n < 2 ^ 36 := by decide +kernel

theorem witness_BarrierResults_2 :
    let s : State := (own 2 (k := barr (3 * 2^64 + 1 * 2^80 + 2^100)))
    let d : BitVec 5 := 5
    let a : BitVec 5 := 2
    let off : Nat := 0x400
    let ea : Word := s.resolve (s.rg a)
    let x : Nat := s.cc.sread off 16
    let pending : Nat := bits x 35 0
    let expected : Nat := bits x 79 64
    let arrived : Nat := bits x 95 80
    let faults : Nat := bits x 103 101
    let next : Nat := (arrived + 1) % 2 ^ 16
    let full : Prop := next = expected ∧ pending = 0
    let b : BitVec 5 := 3
    let n : Nat := BitVec.toNat (s.rg b)
    let phase : Bool := bit x 100
    s.writable d ∧
    s.classify ea 16 16 false = Except.ok (Place.own off) ∧
    s.wayHeld (.own off) ea 16 = false ∧
    faults = 0 ∧
    arrived ≠ expected ∧
    (¬full) ∧
    phase = bit n 0 := by decide +kernel

theorem witness_BarrierResults_3 :
    let s : State := (own 6 (f := setG 3 0x1000000000) (k := barr (3 * 2^64 + 2 * 2^80 + 2^100 + 2 * 2^101)))
    let d : BitVec 5 := 5
    let a : BitVec 5 := 2
    let off : Nat := 0x400
    let ea : Word := s.resolve (s.rg a)
    let x : Nat := s.cc.sread off 16
    let faults : Nat := bits x 103 101
    let b : BitVec 5 := 3
    let pending : Nat := bits x 35 0
    let n : Nat := BitVec.toNat (s.rg b)
    s.writable d ∧
    s.classify ea 16 16 false = Except.ok (Place.own off) ∧
    s.wayHeld (.own off) ea 16 = false ∧
    s.trapReady ∧
    2 ^ 36 ≤ pending + n ∧
    faults ≠ 0 := by decide +kernel

theorem witness_BarrierResults_4 :
    let s : State := (own 4 (k := barr (3 * 2^64 + 3 * 2^80 + 2^100)))
    let d : BitVec 5 := 5
    let a : BitVec 5 := 2
    let off : Nat := 0x400
    let ea : Word := s.resolve (s.rg a)
    let x : Nat := s.cc.sread off 16
    let expected : Nat := bits x 79 64
    let arrived : Nat := bits x 95 80
    let faults : Nat := bits x 103 101
    s.writable d ∧
    s.classify ea 16 16 false = Except.ok (Place.own off) ∧
    s.wayHeld (.own off) ea 16 = false ∧
    s.trapReady ∧
    faults = 0 ∧
    arrived = expected := by decide +kernel

theorem witness_BarrierResults_5 :
    let s : State := (own 7 (f := fun h => outs (setG 2 0x8000000800000400 h)))
    let d : BitVec 5 := 5
    let a : BitVec 5 := 2
    let ea : Word := s.resolve (s.rg a)
    s.writable d ∧
    s.classify ea 16 16 false = Except.ok Place.remote ∧
    s.overlapping ea 16 = false := by decide +kernel

theorem witness_RegionAndObjectTraps_1 :
    let s : State := (own 1 0x1000000000000 (f := fun h => setG 3 0x200 (setG 4 8 h)))
    let a : BitVec 5 := 2
    let b : BitVec 5 := 3
    let A : Word := s.rg a
    let size : Word := s.rg b
    let obj : Word := s.rg (b + 1)
    let lines : Prop := BitVec.toNat A % 512 = 0 ∧ BitVec.toNat size % 512 = 0 ∧ size ≠ 0
    let far : Prop := 2 ^ 48 ≤ BitVec.toNat A ∨ 2 ^ 48 ≤ BitVec.toNat obj ∨ 2 ^ 48 < BitVec.toNat A + BitVec.toNat size
    let range : Word := s.resolve (s.rg a)
    let d : BitVec 5 := 5
    s.trapReady ∧
    BitVec.msb range = false ∧
    2 ^ 48 < BitVec.toNat range + BitVec.toNat size ∧
    BitVec.toNat A % 8 = 0 ∧
    2 ^ 48 ≤ BitVec.toNat A ∧
    lines ∧
    BitVec.toNat obj % 8 = 0 ∧
    far ∧
    s.writable d ∧
    (2 ^ 12 ≤ BitVec.toNat A ∨ lowestWays (BitVec.toNat A) ((s.cc.codesz.toNat + 32767) / 32768) ≠ lowestWays s.cc.waymask.toNat ((s.cc.codesz.toNat + 32767) / 32768)) := by decide +kernel

theorem witness_RegionAndObjectTraps_2 :
    let s : State := (own 1 0x201)
    let a : BitVec 5 := 2
    let b : BitVec 5 := 3
    let A : Word := s.rg a
    let size : Word := s.rg b
    let lines : Prop := BitVec.toNat A % 512 = 0 ∧ BitVec.toNat size % 512 = 0 ∧ size ≠ 0
    s.trapReady ∧
    BitVec.toNat A % 8 ≠ 0 ∧
    (¬lines) := by decide +kernel

theorem witness_RegionAndObjectTraps_3 :
    let s : State := (own 1 0x200 (f := fun h => setG 3 0x200 (setG 4 3 h)))
    let a : BitVec 5 := 2
    let b : BitVec 5 := 3
    let A : Word := s.rg a
    let size : Word := s.rg b
    let obj : Word := s.rg (b + 1)
    let lines : Prop := BitVec.toNat A % 512 = 0 ∧ BitVec.toNat size % 512 = 0 ∧ size ≠ 0
    s.trapReady ∧
    lines ∧
    BitVec.toNat obj % 8 ≠ 0 := by decide +kernel

theorem witness_RegionAndObjectTraps_4 :
    let s : State := (own 1 0x8000000000000400 (f := fun h => setG 3 0x200 (setG 4 8 h)))
    let a : BitVec 5 := 2
    let range : Word := s.resolve (s.rg a)
    s.trapReady ∧
    BitVec.msb range = true := by decide +kernel

theorem witness_RegionAndObjectTraps_5 :
    let s : State := (own 1 0x200 (f := fun h => setG 3 0x200 (setG 4 8 h)) (k := fun k => { k with regions := k.regions.set 3 ⟨true, 0, 2, 8⟩ }))
    let e : BitVec 3 := 1
    let a : BitVec 5 := 2
    let b : BitVec 5 := 3
    let A : Word := s.rg a
    let size : Word := s.rg b
    let obj : Word := s.rg (b + 1)
    let lines : Prop := BitVec.toNat A % 512 = 0 ∧ BitVec.toNat size % 512 = 0 ∧ size ≠ 0
    let far : Prop := 2 ^ 48 ≤ BitVec.toNat A ∨ 2 ^ 48 ≤ BitVec.toNat obj ∨ 2 ^ 48 < BitVec.toNat A + BitVec.toNat size
    s.trapReady ∧
    lines ∧
    BitVec.toNat obj % 8 = 0 ∧
    (¬far) ∧
    (∃ (i : BitVec 3), i ≠ e ∧ (s.cc.region i).valid = true ∧ (s.cc.region i).base < BitVec.toNat A + BitVec.toNat size ∧ BitVec.toNat A < (s.cc.region i).base + 512 * (s.cc.region i).size) := by decide +kernel

theorem witness_RegionAndObjectTraps_6 :
    let s : State := (own 1 0x400)
    let d : BitVec 5 := 5
    let a : BitVec 5 := 2
    let ea : Word := s.resolve (s.rg a)
    s.trapReady ∧
    s.writable d ∧
    BitVec.toNat ea % 16 = 0 ∧
    s.classify ea 16 16 false = Except.ok Place.global ∧
    BitVec.toNat ea % 32 = 0 ∧
    s.classify ea 32 32 false = Except.ok Place.global := by decide +kernel

theorem witness_RegionAndObjectTraps_7 :
    let s : State := (own 1 0x8000000000000408)
    let d : BitVec 5 := 5
    let a : BitVec 5 := 2
    let ea : Word := s.resolve (s.rg a)
    s.trapReady ∧
    s.writable d ∧
    BitVec.toNat ea % 16 ≠ 0 ∧
    BitVec.toNat ea % 32 ≠ 0 := by decide +kernel

theorem witness_RegionAndObjectTraps_8 :
    let s : State := (own 3 (f := setG 3 0x8000000000000600) (k := ring 5 5 0 2 4 0x800 (2^64)))
    let d : BitVec 5 := 5
    let a : BitVec 5 := 2
    let b : BitVec 5 := 3
    let off : Nat := 0x400
    let ea : Word := s.resolve (s.rg a)
    let r : Nat := s.cc.sread off 32
    let up : Prop := s.cc.ringUp r = true
    let count : Nat := 2 ^ bits r 95 91
    let fix : Nat := (bits r 63 32 + 2 ^ 32 - BitVec.toNat (s.rg b) % 2 ^ 32) % 2 ^ 32
    let buf : Nat := 0x600
    let n : Nat := 2 ^ bits r 90 87
    s.trapReady ∧
    s.writable d ∧
    s.classify ea 32 32 false = Except.ok (Place.own off) ∧
    s.wayHeld (.own off) ea 32 = false ∧
    (s.classify (s.resolve (s.rg b)) 16 (if s.cc.ringUp r = true then n else 16) false = Except.ok (Place.own buf)) ∧
    s.ringHeld r buf = false ∧
    up ∧
    bit r 64 = true ∧
    count < fix := by decide +kernel

theorem witness_RegionAndObjectTraps_9 :
    let s : State := (own 3 (f := setG 3 0x8000000000000600))
    let d : BitVec 5 := 5
    let a : BitVec 5 := 2
    let off : Nat := 0x400
    let ea : Word := s.resolve (s.rg a)
    let r : Nat := s.cc.sread off 32
    let up : Prop := s.cc.ringUp r = true
    let b : BitVec 5 := 3
    let buf : Nat := 0x600
    let n : Nat := 2 ^ bits r 90 87
    s.trapReady ∧
    s.writable d ∧
    s.classify ea 32 32 false = Except.ok (Place.own off) ∧
    s.wayHeld (.own off) ea 32 = false ∧
    (s.classify (s.resolve (s.rg b)) 16 (if s.cc.ringUp r = true then n else 16) false = Except.ok (Place.own buf)) ∧
    s.ringHeld r buf = false ∧
    (¬up) := by decide +kernel

theorem witness_RegionAndObjectTraps_10 :
    let s : State := (own 3 (f := setG 3 0x8000000000000600) (k := ring 5 5 0 2 4 0x800 (2^96)))
    let d : BitVec 5 := 5
    let a : BitVec 5 := 2
    let b : BitVec 5 := 3
    let off : Nat := 0x400
    let ea : Word := s.resolve (s.rg a)
    let r : Nat := s.cc.sread off 32
    let up : Prop := s.cc.ringUp r = true
    let buf : Nat := 0x600
    let n : Nat := 2 ^ bits r 90 87
    s.trapReady ∧
    s.writable d ∧
    s.classify ea 32 32 false = Except.ok (Place.own off) ∧
    s.wayHeld (.own off) ea 32 = false ∧
    (s.classify (s.resolve (s.rg b)) 16 (if s.cc.ringUp r = true then n else 16) false = Except.ok (Place.own buf)) ∧
    s.ringHeld r buf = false ∧
    up ∧
    bit r 96 = true := by decide +kernel

theorem witness_RegionAndObjectTraps_11 :
    let s : State := (own 3 (f := setG 3 0x8000000000000600) (k := fun k => (ring 5 6 1 2 4 0x800 0 k).swrite 0x40E 2 0xFFFE))
    let d : BitVec 5 := 5
    let a : BitVec 5 := 2
    let b : BitVec 5 := 3
    let off : Nat := 0x400
    let ea : Word := s.resolve (s.rg a)
    let r : Nat := s.cc.sread off 32
    let up : Prop := s.cc.ringUp r = true
    let count : Nat := 2 ^ bits r 95 91
    let buf : Nat := 0x600
    let n : Nat := 2 ^ bits r 90 87
    let at_ : Nat := bits r 151 128 + bits r 31 0 % count * n
    let type : Nat := bits (s.cc.sread (at_ + 8 * bits r 111 103) 8) (bits r 102 97 + 3) (bits r 102 97)
    s.trapReady ∧
    s.writable d ∧
    s.classify ea 32 32 false = Except.ok (Place.own off) ∧
    s.wayHeld (.own off) ea 32 = false ∧
    (s.classify (s.resolve (s.rg b)) 16 (if s.cc.ringUp r = true then n else 16) false = Except.ok (Place.own buf)) ∧
    s.ringHeld r buf = false ∧
    up ∧
    bit r 64 = false ∧
    bits r 176 160 ≠ 0 ∧
    bit (bits r 127 112) type = false := by decide +kernel

end WT7

namespace WT24

theorem witness_VectorArithmetic_2 :
    let e : BitVec 4 := 13
    etSli e = true := by decide +kernel

end WT24

namespace WT8
def vs (n : Nat) (f : Hart → Hart := id) (k : Core → Core := id) := mkS n (fun h => f { weird n (setG 2 0x8000000000000400 h) with aflags := 0, arec := 0 }) (fun c => k (c.swrite 0x400 1024 (lcg (lcg n) * 2^640 + lcg n * 2^200 + lcg (n+5))))
def shp (r v : Nat) (h : Hart) : Hart := { h with shape := BitVec.ofNat 64 (r * 2^16 + v) }

theorem witness_VectorArithmetic_3 :
    let e : BitVec 4 := 0
    etInt e = true := by decide +kernel

theorem witness_VectorMovement_1 :
    let s : State := (vs 1 (f := fun h => shp 5 4 (setG 7 3 h)))
    let d : BitVec 5 := 5
    let e : BitVec 4 := 0
    let b : BitVec 5 := 7
    let w : Nat := etBits e
    let n : Nat := 128 / w
    let q : Nat := BitVec.toNat (s.rg b)
    etInt e = true ∧
    etWhole e = true ∧
    s.writable d ∧
    q < 8 * n := by decide +kernel

theorem witness_VectorMovement_2 :
    let s : State := (vs 7 (f := fun h => shp 3 16 (setG 7 63 h)))
    let d : BitVec 5 := 5
    let e : BitVec 4 := 3
    let b : BitVec 5 := 7
    let w : Nat := etBits e
    let n : Nat := 128 / w
    let q : Nat := BitVec.toNat (s.rg b)
    etWhole e = true ∧
    s.writable d ∧
    8 * n ≤ q := by decide +kernel

theorem witness_VectorConversions_1 :
    let e : BitVec 4 := 2
    let src : BitVec 4 := 9
    let w : Nat := etBits e
    let s : State := (vs 5 (f := fun h => shp 0 16 (setG 7 0 h)))
    let a : BitVec 5 := 8
    let b : BitVec 5 := 7
    let g : Nat := BitVec.toNat (s.rg b)
    let o : BitVec 3 := 1
    ((a.toNat + if bit g 48 = true then 8 else 4) ≤ 32) ∧
    etBits src < w ∧
    etAny src = true ∧
    etAny e = true ∧
    (etInt e = true ∨ etIeee e = true ∨ etSli e = true) ∧
    (etInt e = true ∨ o.toNat ≤ 2 ∧ (etIeee e = true ∨ etSli e = true)) := by decide +kernel

end WT8

namespace WT25
def net (s : State) (l : List Req) : State := { s with net := l }
def ga (v : Nat) (o : Nat) : Word := BitVec.ofNat 64 (2^63 + 2047 * 2^52 + v * 2^33 + o)
def b0 : State := base (l := [(6, hart1 id { c0 with vc := 6 })])
def st1 : Req := rq (.store 8 77 false) (ga 6 0x800) .sent
def st2 : Req := rq (.store 8 77 false) (ga 7 0x800) .sent
def st3 : Req := rq (.store 8 77 false) (ga (16 * 256 * 50) 0x800) .sent
def sv : Saved := { core := hart1 id { c0 with vc := 7 } }
def b1 : State := b0.modPart 0 (fun p => { p with saved := [sv] })
def st4 : Req := { st2 with stage := .toEvicted 0 7 }
def st5 (n : Nat) (rel : Bool) (o : Nat) : Req := rq (.store n 0x123456789 rel) (ga 6 o) (.toCore 6)
def ld1 : Req := rq (.load 8 (.one 5 8 true)) (ga 6 0x100) (.toCore 6) .request
def am1 (op : BitVec 4) : Req := rq (.amo op 8 5 6) (ga 6 0x900) (.toCore 6) .request
def fb1 : Req := rq (.store 8 77 false) 0x8010000000000800 .sent
def pe (v : Word) : State := b0.modPart 0 (fun p => { p with peers := mapSet p.peers 1 v })
def ms (v : Nat) (stg : Stage) : Req := rq (.message 99) (ga v (0x800000 + 0x80 + 5 * 8)) stg .message
def dl (s : State) (r : Req) : State := net s [r]
def b2 (f : Hart → Hart) (k : Core → Core := id) : State := base (l := [(6, k (hart1 f { c0 with vc := 6 }))])
def x2 : State := b2 (fun h => { h with full := 0x20 }) (fun k => { k with overflow := List.replicate 8 ⟨1, 5, 4⟩ })
def x3 : State := b2 (fun h => { h with full := 0 }) (fun k => { k with overflow := [⟨1, 5, 99⟩, ⟨1, 5, 4⟩] })
def x4 : State := b2 (fun h => { h with group := none })
def x5 : State := b2 id (fun k => { k with sleep := .asleep 1 })

theorem witness_RequestRouting_1 :
    let s : State := (net b0 [st1])
    let id : Nat := 3
    let r : Req := st1
    let v : Nat := addrVcore r.ea
    let here : Prop := BitVec.msb r.ea = true ∧ addrMod r.ea = 2047
    let c : Nat := 6
    s.reqNext id = some r ∧
    r.stage = Stage.sent ∧
    here ∧
    s.placed r.vf r.ea = true ∧
    s.locate r.vf v = some c := by decide +kernel

theorem witness_RequestRouting_2 :
    let s : State := (net b0 [st2])
    let id : Nat := 3
    let r : Req := st2
    let v : Nat := addrVcore r.ea
    let here : Prop := BitVec.msb r.ea = true ∧ addrMod r.ea = 2047
    let c : Nat := 7
    s.reqNext id = some r ∧
    r.stage = Stage.sent ∧
    here ∧
    s.placed r.vf r.ea = true ∧
    s.locate r.vf v = none ∧
    (s.part r.vf).savedAt v = none ∧
    s.physCore r.vf (vcX v) (vcY v) (vcC v) = some c := by decide +kernel

theorem witness_RequestRouting_3 :
    let s : State := (net b0 [st3])
    let id : Nat := 3
    let r : Req := st3
    let here : Prop := BitVec.msb r.ea = true ∧ addrMod r.ea = 2047
    s.reqNext id = some r ∧
    r.stage = Stage.sent ∧
    here ∧
    s.placed r.vf r.ea = false ∧
    r.kind.posted = true := by decide +kernel

theorem witness_RequestRouting_4 :
    let s : State := (net b1 [st2])
    let id : Nat := 3
    let r : Req := st2
    let v : Nat := addrVcore r.ea
    let here : Prop := BitVec.msb r.ea = true ∧ addrMod r.ea = 2047
    s.reqNext id = some r ∧
    r.stage = Stage.sent ∧
    here ∧
    s.placed r.vf r.ea = true ∧
    s.locate r.vf v = none ∧
    (s.part r.vf).savedAt v ≠ none := by decide +kernel

theorem witness_RequestRouting_5 :
    let s : State := (net b1 [st4])
    let id : Nat := 3
    let r : Req := st4
    let v : Nat := addrVcore r.ea
    let o : Nat := addrOff r.ea
    let i : Instr := Instr.evictedAccess 3
    let p : Spot := Spot.saved 0
    let k : Core := s.spotCore r.vf p
    let n : Nat := 8
    let x : BitVec 128 := 77#128
    let rel : Bool := false
    s.reqNext id = some r ∧
    (i = Instr.evictedAccess id ∧ r.stage = Stage.toEvicted 0 7) ∧
    s.spot r.vf v = some p ∧
    r.kind = ReqKind.store n x rel ∧
    o + n ≤ k.scratchSize ∧
    k.codesz.toNat ≤ o ∧
    (rel = true → n = 8 → k.header o = none) := by decide +kernel

theorem witness_RequestRouting_6 :
    let s : State := (net b0 [st4])
    let id : Nat := 3
    let r : Req := st4
    let v : Nat := addrVcore r.ea
    let i : Instr := Instr.evictedAccess 3
    s.reqNext id = some r ∧
    (i = Instr.evictedAccess id ∧ r.stage = Stage.toEvicted 0 7) ∧
    s.spot r.vf v = none ∧
    r.kind.posted = true ∧
    r.kind.isMessage = false := by decide +kernel

theorem witness_RequestRouting_7 :
    let s : State := (net b0 [ld1])
    let id : Nat := 3
    let r : Req := ld1
    let v : Nat := addrVcore r.ea
    let o : Nat := addrOff r.ea
    let i : Instr := Instr.remoteScratchAccess 3
    let p : Spot := Spot.core 6
    let k : Core := s.spotCore r.vf p
    let n : Nat := 8
    let dst : LoadDst := LoadDst.one (5#5) 8 true
    s.reqNext id = some r ∧
    (i = Instr.remoteScratchAccess id ∧ r.stage = Stage.toCore 6) ∧
    s.spot r.vf v = some p ∧
    r.kind = ReqKind.load n dst ∧
    o + n ≤ k.scratchSize := by decide +kernel

theorem witness_RequestRouting_8 :
    let s : State := (net b0 [am1 0])
    let id : Nat := 3
    let r : Req := (am1 0)
    let v : Nat := addrVcore r.ea
    let o : Nat := addrOff r.ea
    let i : Instr := Instr.remoteScratchAccess 3
    let p : Spot := Spot.core 6
    let k : Core := s.spotCore r.vf p
    let op : BitVec 4 := 0#4
    let n : Nat := 8
    let b : Word := 5#64
    let d : BitVec 5 := 6#5
    s.reqNext id = some r ∧
    (i = Instr.remoteScratchAccess id ∧ r.stage = Stage.toCore 6) ∧
    s.spot r.vf v = some p ∧
    r.kind = ReqKind.amo op n b d ∧
    o + n ≤ k.scratchSize ∧
    k.codesz.toNat ≤ o ∧
    k.spoisoned o n = false := by decide +kernel

theorem witness_RequestRouting_9 :
    let s : State := (net (pe 0xC000000000000000) [fb1])
    let id : Nat := 3
    let r : Req := fb1
    let peer : Word := mapGet (s.part r.vf).peers (addrMod r.ea) 0
    s.reqNext id = some r ∧
    r.stage = Stage.sent ∧
    BitVec.msb r.ea = true ∧
    addrMod r.ea ≠ 2047 ∧
    BitVec.msb peer = true ∧
    ((if r.kind.posted = true then bit (BitVec.toNat peer) 62 else bit (BitVec.toNat peer) 61) = true) := by decide +kernel

theorem witness_RequestRouting_10 :
    let s : State := (net (pe 0xA000000000000000) [fb1])
    let id : Nat := 3
    let r : Req := fb1
    let peer : Word := mapGet (s.part r.vf).peers (addrMod r.ea) 0
    s.reqNext id = some r ∧
    r.stage = Stage.sent ∧
    BitVec.msb r.ea = true ∧
    addrMod r.ea ≠ 2047 ∧
    BitVec.msb peer = true ∧
    r.kind.posted = true ∧
    bit (BitVec.toNat peer) 62 = false := by decide +kernel

theorem witness_RequestRouting_11 :
    let s : State := (net (pe 0x4000000000000000) [fb1])
    let id : Nat := 3
    let r : Req := fb1
    let peer : Word := mapGet (s.part r.vf).peers (addrMod r.ea) 0
    s.reqNext id = some r ∧
    r.stage = Stage.sent ∧
    BitVec.msb r.ea = true ∧
    addrMod r.ea ≠ 2047 ∧
    BitVec.msb peer = false ∧
    r.kind.posted = true := by decide +kernel

theorem witness_RequestRouting_12 :
    let s : State := (net b0 [st5 4 false 0x100])
    let id : Nat := 3
    let r : Req := (st5 4 false 0x100)
    let v : Nat := addrVcore r.ea
    let o : Nat := addrOff r.ea
    let i : Instr := Instr.remoteScratchAccess 3
    let p : Spot := Spot.core 6
    let k : Core := s.spotCore r.vf p
    let n : Nat := 4
    let x : BitVec 128 := 4886718345#128
    let rel : Bool := false
    s.reqNext id = some r ∧
    (i = Instr.remoteScratchAccess id ∧ r.stage = Stage.toCore 6) ∧
    s.spot r.vf v = some p ∧
    r.kind = ReqKind.store n x rel ∧
    o + n ≤ k.scratchSize ∧
    o < k.codesz.toNat := by decide +kernel

theorem witness_RequestRouting_13 :
    let s : State := (net b0 [st5 8 false 0x5FFFC])
    let id : Nat := 3
    let r : Req := (st5 8 false 0x5FFFC)
    let v : Nat := addrVcore r.ea
    let o : Nat := addrOff r.ea
    let i : Instr := Instr.remoteScratchAccess 3
    let p : Spot := Spot.core 6
    let k : Core := s.spotCore r.vf p
    let n : Nat := 8
    let x : BitVec 128 := 4886718345#128
    let rel : Bool := false
    s.reqNext id = some r ∧
    (i = Instr.remoteScratchAccess id ∧ r.stage = Stage.toCore 6) ∧
    s.spot r.vf v = some p ∧
    r.kind = ReqKind.store n x rel ∧
    k.scratchSize < o + n := by decide +kernel

theorem witness_MessageDelivery_1 :
    let s : State := (dl x3 (ms 6 (.toCore 6)))
    let id : Nat := 3
    let c : Nat := 6
    let r : Req := (ms 6 (.toCore 6))
    let value : Word := 99
    let h : BitVec 2 := 1
    let q : BitVec 4 := 5
    let k : Core := s.core c
    let i : Instr := Instr.messageArrival 3
    let queued : Bool := k.overflow.any fun (o : Msg) => o.hart == h && o.reg == q
    let m : Msg := { hart := h, reg := q, value := value }
    let rest : List Msg := [{ hart := 1#2, reg := 5#4, value := 4#64 }]
    k.live = true ∧
    (k.hart h).isFull q = false ∧
    k.hold = [] ∧
    k.overflow = m :: rest ∧
    s.reqNext id = some r ∧
    r.kind = ReqKind.message value ∧
    h = winHart (addrOff r.ea) ∧
    q = winReg (addrOff r.ea) ∧
    s.locate r.vf (addrVcore r.ea) = some c ∧
    (i = Instr.messageArrival id ∧ r.stage = Stage.toCore 6) ∧
    k.hostsPart r.vf = true ∧
    (k.hart h).group ≠ none ∧
    k.sleep = Sleep.awake ∧
    ((k.hart h).taken q = true ∨ queued = true) ∧
    k.overflow.length < 8 := by decide +kernel

theorem witness_MessageDelivery_2 :
    let s : State := (dl b0 (ms 6 (.toCore 6)))
    let id : Nat := 3
    let c : Nat := 6
    let r : Req := (ms 6 (.toCore 6))
    let value : Word := 99
    let h : BitVec 2 := 1
    let q : BitVec 4 := 5
    let k : Core := s.core c
    let i : Instr := Instr.messageArrival 3
    let queued : Bool := k.overflow.any fun (o : Msg) => o.hart == h && o.reg == q
    s.reqNext id = some r ∧
    r.kind = ReqKind.message value ∧
    h = winHart (addrOff r.ea) ∧
    q = winReg (addrOff r.ea) ∧
    s.locate r.vf (addrVcore r.ea) = some c ∧
    (i = Instr.messageArrival id ∧ r.stage = Stage.toCore 6) ∧
    k.hostsPart r.vf = true ∧
    (k.hart h).group ≠ none ∧
    k.sleep = Sleep.awake ∧
    k.hold = [] ∧
    (k.hart h).taken q = false ∧
    queued = false := by decide +kernel

theorem witness_MessageDelivery_3 :
    let s : State := (dl x2 (ms 6 (.toCore 6)))
    let id : Nat := 3
    let c : Nat := 6
    let r : Req := (ms 6 (.toCore 6))
    let value : Word := 99
    let h : BitVec 2 := 1
    let q : BitVec 4 := 5
    let k : Core := s.core c
    let i : Instr := Instr.messageArrival 3
    let queued : Bool := k.overflow.any fun (o : Msg) => o.hart == h && o.reg == q
    s.reqNext id = some r ∧
    r.kind = ReqKind.message value ∧
    h = winHart (addrOff r.ea) ∧
    q = winReg (addrOff r.ea) ∧
    s.locate r.vf (addrVcore r.ea) = some c ∧
    (i = Instr.messageArrival id ∧ r.stage = Stage.toCore 6) ∧
    k.hostsPart r.vf = true ∧
    (k.hart h).group ≠ none ∧
    k.sleep = Sleep.awake ∧
    k.hold = [] ∧
    ((k.hart h).taken q = true ∨ queued = true) ∧
    8 ≤ k.overflow.length := by decide +kernel

theorem witness_MessageDelivery_4 :
    let s : State := (dl x4 (ms 6 (.toCore 6)))
    let id : Nat := 3
    let c : Nat := 6
    let r : Req := (ms 6 (.toCore 6))
    let value : Word := 99
    let h : BitVec 2 := 1
    let q : BitVec 4 := 5
    let k : Core := s.core c
    let i : Instr := Instr.messageArrival 3
    s.reqNext id = some r ∧
    r.kind = ReqKind.message value ∧
    h = winHart (addrOff r.ea) ∧
    q = winReg (addrOff r.ea) ∧
    s.locate r.vf (addrVcore r.ea) = some c ∧
    (i = Instr.messageArrival id ∧ r.stage = Stage.toCore 6) ∧
    (k.hostsPart r.vf = false ∨ (k.hart h).group = none) := by decide +kernel

theorem witness_MessageDelivery_5 :
    let s : State := (dl x5 (ms 6 (.toCore 6)))
    let id : Nat := 3
    let c : Nat := 6
    let r : Req := (ms 6 (.toCore 6))
    let value : Word := 99
    let h : BitVec 2 := 1
    let q : BitVec 4 := 5
    let k : Core := s.core c
    let i : Instr := Instr.messageArrival 3
    s.reqNext id = some r ∧
    r.kind = ReqKind.message value ∧
    h = winHart (addrOff r.ea) ∧
    q = winReg (addrOff r.ea) ∧
    s.locate r.vf (addrVcore r.ea) = some c ∧
    (i = Instr.messageArrival id ∧ r.stage = Stage.toCore 6) ∧
    k.hostsPart r.vf = true ∧
    (k.hart h).group ≠ none ∧
    k.sleep ≠ Sleep.awake := by decide +kernel

end WT25

namespace WT26
def net (s : State) (l : List Req) : State := { s with net := l }
def lf (own : BitVec 4 := 0) (r w : Bool := true) (hx : Nat := 0) : Leaf := { hashed := false, hx := hx, hy := 0, mask := 0, owner := own, code := false, cacheable := true, w := w, r := r, pa := 0x10000000000 , size := 65536 }
def tr (l : Leaf) (s : State) : State := { s with trans := [⟨0, 0, 0, 1, l⟩] }
def gs (kind : ReqKind) (st : Stage) (cls : Machine.Class := .posted) : Req := rq kind 0x10040 st cls
def sto : Req := gs (.store 4 0x99 false) .sent
def wk (r : Req) (e : Nat) : State := net { (base).modPart 0 (fun p => { p with ptroot := 0x200000 }) with mem := memPutLE [] 0x200000 8 e } [r]
def stw : Req := gs (.store 4 0x99 false) (.walking 0 0)
def sl (v d : BitVec 4) (s : State) : State :=
  { s with slices := [{ x := 0, y := 0, line := 0x80000000, owner := 0, valid := v, dirty := d, data := BitVec.ofNat 4096 (0x1234567890ABCDEF * 2 ^ 512) }] }
def atH (k : ReqKind) : Req := gs k (.toHome 0 0 0x10000000040) .request
def atF (k : ReqKind) : Req := gs k (.atFill 0 0 0x10000000040) .request
def nt (kind : ReqKind) (st : Stage) (n : Bool) : Req := { rq kind 0x10040 st .request with notice := n }
def ou (l : Nat := 0) (h : Hart) : Hart := { h with outst := [{ id := 3, pc := 60, dests := [5], credit := l, passed := false }] }
def n1 : Req := nt (.load 8 (.one 5 8 true)) (.toHome 0 0 64) true
def n2 : Req := nt (.load 8 (.one 5 8 true)) (.rejected 6) true
def n3 : Req := nt (.load 8 (.one 5 8 true)) (.reply 0x8899AABBCCDDEEFF false 0 none) false
def n4 : Req := nt (.sash .snap 5 6) (.reply 77 false 0 none) false
def n5 : Req := nt (.store 4 5 false) (.acknowledged none) false
def n7 : Req := nt (.store 4 5 false) (.rejected 6) false
def n8 : Req := nt (.rel true) (.reply 0 false 0 none) false
def n9 : Req := nt (.sash .snap 5 6) .sent false
def m1 : Req := { nt (.writeBack 5 3 false) (.acknowledged none) false with src := .core 5 }
def m2 : Req := { nt (.prefetch true 1) (.reply 0x99 true 0 none) false with src := .core 5 }
def m3 (e : Bool) : Req := nt (.acq e) (.syncQueue 0 0 0x100) false
def ob (v : Nat) (e : Bool) : State := { net (base (fun h => { h with block := some (.acq 3) })) [m3 e] with mem := memPutLE [] 0x100 8 v }

theorem witness_HomeAccesses_1 :
    let s : State := (wk stw 0)
    let id : Nat := 3
    let x : Nat := 0
    let y : Nat := 0
    let r : Req := stw
    let va : Nat := BitVec.toNat r.ea
    s.reqAt id = some r ∧
    r.stage = Stage.walking x y ∧
    s.merged r = [r] ∧
    s.walk r.vf va 0 = .error .invalid ∧
    r.kind.posted = true := by decide +kernel

theorem witness_HomeAccesses_2 :
    let s : State := (net (base) [sto])
    let id : Nat := 3
    let r : Req := sto
    let va : Nat := BitVec.toNat r.ea
    s.reqNext id = some r ∧
    r.stage = Stage.sent ∧
    r.translated = true ∧
    s.translatingSlice r.vf va = some (0, 0) ∧
    s.cachedLeaf 0 0 r.vf va = none := by decide +kernel

theorem witness_HomeAccesses_3 :
    let s : State := (tr (lf 0 true true 1) (net (base) [sto]))
    let id : Nat := 3
    let r : Req := sto
    let va : Nat := BitVec.toNat r.ea
    let l : Leaf := { hashed := false, hx := 1, hy := 0, mask := 0#3, owner := 0#4, code := false, cacheable := true, w := true, r := true, pa := 1099511627776, size := 65536 }
    s.reqNext id = some r ∧
    r.stage = Stage.sent ∧
    r.translated = true ∧
    s.translatingSlice r.vf va = some (0, 0) ∧
    s.cachedLeaf 0 0 r.vf va = some l ∧
    l.permits r.vf (r.kind.need l.cacheable) = true ∧
    r.kind.isFill = false ∧
    s.homeSlice r.vf l (l.phys va) = some (1, 0) := by decide +kernel

theorem witness_HomeAccesses_4 :
    let s : State := (tr (lf 0 true false 1) (net (base) [sto]))
    let id : Nat := 3
    let r : Req := sto
    let va : Nat := BitVec.toNat r.ea
    let l : Leaf := { hashed := false, hx := 1, hy := 0, mask := 0#3, owner := 0#4, code := false, cacheable := true, w := false, r := true, pa := 1099511627776, size := 65536 }
    s.reqNext id = some r ∧
    r.stage = Stage.sent ∧
    r.translated = true ∧
    s.translatingSlice r.vf va = some (0, 0) ∧
    s.cachedLeaf 0 0 r.vf va = some l ∧
    l.permits r.vf (r.kind.need l.cacheable) = false ∧
    r.kind.posted = true := by decide +kernel

theorem witness_HomeAccesses_5 :
    let s : State := (sl 1 0 (net base [atH (.amo 9 4 77 3)]))
    let id : Nat := 3
    let x : Nat := 0
    let y : Nat := 0
    let pa : Nat := 0x10000000040
    let r : Req := (atH (.amo 9 4 77 3))
    let op : BitVec 4 := 9#4
    let n : Nat := 4
    let b : Word := 77#64
    let d : BitVec 5 := 3#5
    s.reqNext id = some r ∧
    r.stage = Stage.toHome x y pa ∧
    s.sliceHit x y pa r.vf = true ∧
    r.kind = ReqKind.amo op n b d ∧
    s.fillWaiters x y pa = [] ∧
    ((s.checkedAt x y pa).homeRead x y pa n).2 = false := by decide +kernel

theorem witness_HomeAccesses_6 :
    let s : State := (sl 2 0 (net base [atH (.amo 9 4 77 3)]))
    let id : Nat := 3
    let x : Nat := 0
    let y : Nat := 0
    let pa : Nat := 0x10000000040
    let r : Req := (atH (.amo 9 4 77 3))
    s.reqNext id = some r ∧
    r.stage = Stage.toHome x y pa ∧
    s.sliceHit x y pa r.vf = false ∧
    r.kind.isWriteBack = false := by decide +kernel

theorem witness_HomeAccesses_7 :
    let s : State := (sl 1 0 (net base [atH (.store 8 77 true)]))
    let id : Nat := 3
    let x : Nat := 0
    let y : Nat := 0
    let pa : Nat := 0x10000000040
    let r : Req := (atH (.store 8 77 true))
    let va : Nat := BitVec.toNat r.ea
    let n : Nat := 8
    let v : BitVec 128 := 77#128
    let rel : Bool := true
    s.reqNext id = some r ∧
    r.stage = Stage.toHome x y pa ∧
    s.sliceHit x y pa r.vf = true ∧
    s.fillWaiters x y pa = [] ∧
    s.postedAhead r x y pa = false ∧
    r.kind = ReqKind.store n v rel ∧
    (s.part r.vf).doorbell ≠ some va := by decide +kernel

theorem witness_HomeAccesses_8 :
    let s : State := (sl 1 0 (net base [atH (.load 8 (.one 5 8 true))]))
    let id : Nat := 3
    let x : Nat := 0
    let y : Nat := 0
    let pa : Nat := 0x10000000040
    let r : Req := (atH (.load 8 (.one 5 8 true)))
    let n : Nat := 8
    let dst : LoadDst := LoadDst.one (5#5) 8 true
    s.reqNext id = some r ∧
    r.stage = Stage.toHome x y pa ∧
    s.sliceHit x y pa r.vf = true ∧
    s.fillWaiters x y pa = [] ∧
    r.kind = ReqKind.load n dst := by decide +kernel

theorem witness_HomeAccesses_9 :
    let s : State := (sl 1 0 (net base [atH (.writeBack 0x7777 0x3 false)]))
    let id : Nat := 3
    let x : Nat := 0
    let y : Nat := 0
    let pa : Nat := 0x10000000040
    let r : Req := (atH (.writeBack 0x7777 0x3 false))
    let data : BitVec 1024 := 30583#1024
    let dirty : BitVec 128 := 3#128
    s.reqNext id = some r ∧
    r.stage = Stage.toHome x y pa ∧
    s.sliceHit x y pa r.vf = true ∧
    s.fillWaiters x y pa = [] ∧
    r.kind = ReqKind.writeBack data dirty false := by decide +kernel

theorem witness_HomeAccesses_10 :
    let s : State := (sl 2 0 (net base [atF (.load 8 (.one 5 8 true))]))
    let id : Nat := 3
    let x : Nat := 0
    let y : Nat := 0
    let pa : Nat := 0x10000000040
    let r : Req := (atF (.load 8 (.one 5 8 true))) -- returns
    let n : Nat := 8
    let dst : LoadDst := LoadDst.one (5#5) 8 true
    s.reqAt id = some r ∧
    r.stage = Stage.atFill x y pa ∧
    s.fillWaiters x y pa = [r] ∧
    r.kind = ReqKind.load n dst := by decide +kernel

theorem witness_Returns_1 :
    let s : State := (ob 0 true)
    let id : Nat := 3
    let c : Nat := 5
    let h : BitVec 2 := 1
    let r : Req := (m3 true)
    let k : Core := s.core c
    let x : Hart := s.hartOf c h
    let a : Nat := 0
    let b : Nat := 0
    let pa : Nat := 256
    let excl : Bool := true
    let obj : Nat := s.objectAt pa
    s.reqAt id = some r ∧
    r.src = Src.hart c h ∧
    r.kind = ReqKind.acq excl ∧
    r.stage = Stage.syncQueue a b pa ∧
    s.syncWaiters pa = [r] ∧
    k.live = true ∧
    x.block = some (Block.acq id) ∧
    k.cache = [] ∧
    s.backsPending c = false ∧
    excl = true ∧
    obj = 0 := by decide +kernel

theorem witness_Returns_2 :
    let s : State := (ob 5 true)
    let id : Nat := 3
    let c : Nat := 5
    let h : BitVec 2 := 1
    let r : Req := (m3 true)
    let k : Core := s.core c
    let x : Hart := s.hartOf c h
    let a : Nat := 0
    let b : Nat := 0
    let pa : Nat := 256
    let excl : Bool := true
    let obj : Nat := s.objectAt pa
    s.reqAt id = some r ∧
    r.src = Src.hart c h ∧
    r.kind = ReqKind.acq excl ∧
    r.stage = Stage.syncQueue a b pa ∧
    s.syncWaiters pa = [r] ∧
    k.live = true ∧
    x.block = some (Block.acq id) ∧
    k.cache = [] ∧
    s.backsPending c = false ∧
    excl = true ∧
    obj ≠ 0 ∧
    obj < 2 ^ 32 := by decide +kernel

theorem witness_Returns_3 :
    let s : State := (net (base ou) [n1])
    let id : Nat := 3
    let c : Nat := 5
    let h : BitVec 2 := 1
    let r : Req := n1
    let k : Core := s.core c
    s.reqAt id = some r ∧
    r.src = Src.hart c h ∧
    k.live = true ∧
    r.notice = true ∧
    (∀ (f : BitVec 8), r.stage ≠ Stage.rejected f) := by decide +kernel

theorem witness_Returns_4 :
    let s : State := (net (base ou) [n2])
    let id : Nat := 3
    let c : Nat := 5
    let h : BitVec 2 := 1
    let r : Req := n2
    let cause : BitVec 8 := 6
    let k : Core := s.core c
    s.reqAt id = some r ∧
    r.src = Src.hart c h ∧
    k.live = true ∧
    r.notice = true ∧
    r.stage = Stage.rejected cause := by decide +kernel

theorem witness_Returns_5 :
    let s : State := (net (base ou) [n3])
    let id : Nat := 3
    let c : Nat := 5
    let h : BitVec 2 := 1
    let r : Req := n3
    let k : Core := s.core c
    let x : Hart := s.hartOf c h
    let n : Nat := 8
    let dst : LoadDst := LoadDst.one (5#5) 8 true
    let data : BitVec 1024 := 9843086184167632639#1024
    s.reqNext id = some r ∧
    r.src = Src.hart c h ∧
    k.live = true ∧
    (∀ o ∈ x.outst, o.fault = none) ∧
    x.unbound ∧
    (List.find? (fun (o : Outst) => o.id == id) x.outst).isSome = true ∧
    r.kind = ReqKind.load n dst ∧
    r.stage = Stage.reply data false 0 none := by decide +kernel

theorem witness_Returns_6 :
    let s : State := (ob 5 false)
    let id : Nat := 3
    let c : Nat := 5
    let h : BitVec 2 := 1
    let r : Req := (m3 false)
    let k : Core := s.core c
    let x : Hart := s.hartOf c h
    let a : Nat := 0
    let b : Nat := 0
    let pa : Nat := 256
    let excl : Bool := false
    let obj : Nat := s.objectAt pa
    s.reqAt id = some r ∧
    r.src = Src.hart c h ∧
    r.kind = ReqKind.acq excl ∧
    r.stage = Stage.syncQueue a b pa ∧
    s.syncWaiters pa = [r] ∧
    k.live = true ∧
    x.block = some (Block.acq id) ∧
    k.cache = [] ∧
    s.backsPending c = false ∧
    excl = false ∧
    obj < 2 ^ 32 - 1 := by decide +kernel

theorem witness_Returns_7 :
    let s : State := (net (base (ou 2)) [n4])
    let id : Nat := 3
    let c : Nat := 5
    let h : BitVec 2 := 1
    let r : Req := n4
    let k : Core := s.core c
    let x : Hart := s.hartOf c h
    let op : SashOp := SashOp.snap
    let handle : Word := 5#64
    let d : BitVec 5 := 6#5
    let data : BitVec 1024 := 77#1024
    s.reqNext id = some r ∧
    r.src = Src.hart c h ∧
    k.live = true ∧
    (∀ o ∈ x.outst, o.fault = none) ∧
    x.unbound ∧
    (List.find? (fun (o : Outst) => o.id == id) x.outst).isSome = true ∧
    r.kind = ReqKind.sash op handle d ∧
    r.stage = Stage.reply data false 0 none := by decide +kernel

theorem witness_Returns_8 :
    let s : State := (net (base (ou 2)) [n9])
    let id : Nat := 3
    let c : Nat := 5
    let h : BitVec 2 := 1
    let r : Req := n9
    let op : SashOp := SashOp.snap
    let handle : Word := 5#64
    let d : BitVec 5 := 6#5
    let f : LateFault := { cause := 5#8, addr := 0#64, info := 0#64 }
    s.reqNext id = some r ∧
    r.src = Src.hart c h ∧
    r.kind = ReqKind.sash op handle d ∧
    r.stage = Stage.sent ∧
    s.sashReady r = true ∧
    s.sashOp c r.vf handle op = Except.error f := by decide +kernel

theorem witness_Returns_9 :
    let s : State := (net (base (fun h => { h with block := some (.rel 3) })) [n8])
    let id : Nat := 3
    let c : Nat := 5
    let h : BitVec 2 := 1
    let r : Req := n8
    let k : Core := s.core c
    let x : Hart := s.hartOf c h
    let excl : Bool := true
    let data : BitVec 1024 := 0#1024
    let p : Bool := false
    let f : BitVec 8 := 0#8
    let w : Option (BitVec 2 × Word) := none
    s.reqNext id = some r ∧
    r.src = Src.hart c h ∧
    r.kind = ReqKind.rel excl ∧
    r.stage = Stage.reply data p f w ∧
    k.live = true ∧
    x.block = some (Block.rel id) := by decide +kernel

theorem witness_Returns_10 :
    let s : State := (net (base (fun h => { h with orsLocal := 1, orsFab := 2 })) [n5])
    let id : Nat := 3
    let c : Nat := 5
    let h : BitVec 2 := 1
    let r : Req := n5
    s.reqNext id = some r ∧
    r.src = Src.hart c h ∧
    r.kind.posted = true ∧
    r.stage = Stage.acknowledged none ∧
    (s.core c).sleep = .awake := by decide +kernel

theorem witness_Returns_11 :
    let s : State := (net (base (fun h => { h with orsLocal := 1, orsFab := 2 })) [n7])
    let id : Nat := 3
    let c : Nat := 5
    let h : BitVec 2 := 1
    let r : Req := n7
    let cause : BitVec 8 := 6
    s.reqNext id = some r ∧
    r.src = Src.hart c h ∧
    r.kind.posted = true ∧
    r.stage = Stage.rejected cause ∧
    (s.core c).sleep = .awake := by decide +kernel

theorem witness_Returns_12 :
    let s : State := (net (base (fun h => { h with block := some (.writeBack none) })) [m1])
    let id : Nat := 3
    let c : Nat := 5
    let r : Req := m1
    let data : BitVec 1024 := 5#1024
    let dirty : BitVec 128 := 3#128
    let p : Bool := false
    let w : Option (BitVec 2 × Word) := none
    s.reqNext id = some r ∧
    r.src = Src.core c ∧
    r.kind = ReqKind.writeBack data dirty p ∧
    r.stage = Stage.acknowledged w ∧
    (s.core c).sleep = .awake := by decide +kernel

theorem witness_Returns_13 :
    let s : State := (net (base id (fun k => { k with regions := k.regions.set 2 ⟨true, 0x10000, 2, 64⟩, waymask := 0xFF })) [m2])
    let id : Nat := 3
    let c : Nat := 5
    let r : Req := m2
    let k : Core := s.core c
    let data : BitVec 1024 := 153#1024
    let p : Bool := true
    let f : BitVec 8 := 0#8
    let w : Option (BitVec 2 × Word) := none
    s.reqNext id = some r ∧
    r.src = Src.core c ∧
    r.kind = ReqKind.prefetch true 1 ∧
    r.stage = Stage.reply data p f w ∧
    k.sleep = .awake ∧
    k.cacheWays ≠ [] ∧
    (k.regionAt (BitVec.toNat r.ea)).isSome = true ∧
    k.sectorAt (BitVec.toNat r.ea) = none := by decide +kernel

end WT26

namespace WT29
def net (s : State) (l : List Req) : State := { s with net := l }
def gs (kind : ReqKind) (st : Stage) (cls : Machine.Class := .posted) : Req := rq kind 0x10040 st cls
def wk (r : Req) (e : Nat) : State := net { (base).modPart 0 (fun p => { p with ptroot := 0x200000 }) with mem := memPutLE [] 0x200000 8 e } [r]
def stw : Req := gs (.store 4 0x99 false) (.walking 0 0)
def stw2 : Req := gs (.store 4 0x99 false) (.walking 1 0)

theorem witness_HomeAccesses_11 :
    let s : State := (wk stw 0x40000013)
    let id : Nat := 3
    let x : Nat := 0
    let y : Nat := 0
    let r : Req := stw
    let va : Nat := BitVec.toNat r.ea
    let l : Leaf := { hashed := false, hx := 0, hy := 0, mask := 0#3, owner := 0#4, code := false, cacheable := false, w := false, r := true, pa := 1073741824, size := 1073741824 }
    s.reqAt id = some r ∧
    r.stage = Stage.walking x y ∧
    s.merged r = [r] ∧
    s.walk r.vf va 0 = .ok l ∧
    (s.trans.filter (fun e => e.x == x && e.y == y)).length < 512 ∧
    l.permits r.vf (r.kind.need l.cacheable) = false ∧
    r.kind.posted = true := by decide +kernel

theorem witness_HomeAccesses_12 :
    let s : State := (wk stw2 0x40000033)
    let id : Nat := 3
    let x : Nat := 1
    let y : Nat := 0
    let r : Req := stw2
    let va : Nat := BitVec.toNat r.ea
    let l : Leaf := { hashed := false, hx := 0, hy := 0, mask := 0#3, owner := 0#4, code := false, cacheable := false, w := true, r := true, pa := 1073741824, size := 1073741824 }
    let home := s.homeSlice r.vf l (l.phys va)
    s.reqAt id = some r ∧
    r.stage = Stage.walking x y ∧
    s.merged r = [r] ∧
    s.walk r.vf va 0 = .ok l ∧
    (s.trans.filter (fun e => e.x == x && e.y == y)).length < 512 ∧
    l.permits r.vf (r.kind.need l.cacheable) = true ∧
    r.kind.isFill = false ∧
    home ≠ (x, y) := by decide +kernel

end WT29

namespace WT27
def ga (v : Nat) (o : Nat) : Word := BitVec.ofNat 64 (2^63 + 2047 * 2^52 + v * 2^33 + o)
def b0 : State := (base (l := [(6, hart1 id { c0 with vc := 6 })])).modPart 0 (fun p => { p with ptroot := 0x200000, peers := mapSet p.peers 9 0xE030000000000000 })
def b0m (e : Nat) : State := { b0 with mem := memPutLE [] 0x200000 8 e }
def pagew : State := b0m 0x40000033
def fr (k : FabricKind) (vf : BitVec 4) (a : Word) : FabricReq := ⟨9, 3, vf, a, k, .rud⟩
def ho (key : Word) (a : Word) : HostOp := ⟨4, key, a, .rud, false⟩
def L0 : Leaf := { hashed := false, hx := 0, hy := 0, mask := 0, owner := 0, code := false, cacheable := true, w := true, r := true, pa := 0, size := 65536 }
def leafP : Leaf := ((pagew.walk 0 0x10040 0).toOption).getD L0
def d8 : List Byte := [1,2,3,4,5,6,7,8]
def ce : State := base id (fun k => { k with codeWritten := [512], cache := [{ way := 3, addr := 0x10000 + 5 * 512 + 128, data := 5, dirty := 0, poison := false }, { way := 3, addr := 0x20000 + 5 * 512 + 128, data := 5, dirty := 1, poison := false }], waymask := 0xFF7 })
def ll : SliceLine := { x := 0, y := 0, line := 0x200, owner := 0, valid := 3, dirty := 2, data := 77 }
def cs : State := { ce with slices := [ll], launches := [{ id := 7, vf := 0, record := 0, spec := 0, submitter := .host 4 0 0, image := 0, order := 0, state := .running, groups := [{ num := 0, vcore := 5, base := 0, harts := 1 }] }] }
def cstall : State := cs.modCore 5 (fun k => { k with codeStall := [512] })
def dn : State := base (fun h => { h with full := 3 })
def dh : State := base (fun h => { h with halted := true, full := 3 }) (hart1 id |> fun _ k => { k with harts := k.harts.set 2 { h0 with group := some ⟨7, 0, 1⟩ } })
def de : State := base (fun h => { h with halted := true, group := none })

theorem witness_OutsideRequests_1 :
    let s : State := b0
    let r : FabricReq := (fr (.store d8 true) 0 (ga 6 0x808))
    let p : Machine.Partition := s.part r.rvf
    let entry : Word := mapGet p.peers r.module.toNat 0
    let isLoad : Bool := match r.kind with | FabricKind.load _ => true | _ => false
    let admits : Prop := BitVec.msb entry = true ∧ bits (BitVec.toNat entry) 55 52 = r.senderVf.toNat ∧ (if isLoad = true then bit (BitVec.toNat entry) 61 else bit (BitVec.toNat entry) 62) = true
    let own : Word := BitVec.ofNat 64 (BitVec.toNat r.addr % 2 ^ 52 + 2 ^ 63 + 2047 * 2 ^ 52)
    let bs : List Byte := [1#8, 2#8, 3#8, 4#8, 5#8, 6#8, 7, 8]
    let rel : Bool := true
    let o : HostOp := (ho 0 0x10040)
    let data : List Byte := d8
    let cause : BitVec 8 := 5
    let vf : BitVec 4 := BitVec.ofNat 4 (bits (BitVec.toNat o.key) 63 60)
    let mine : Prop := (s.part vf).valid = true ∧ o.endpoint ∈ (s.part vf).endpoints
    let a : Nat := o.addr.toNat
    let need : Bool → Need := fun wr => ⟨!wr, wr⟩
    let len : Nat := 8
    mine ∧
    bits (BitVec.toNat o.key) 58 0 = 0 ∧
    bit (BitVec.toNat o.key) 59 = false ∧
    o.atomic = false ∧
    o.delivery = .rud ∧
    s.hostHeld o data.length = false ∧
    s.hostHeld o len = false ∧
    data.length ≤ 2 ^ 20 ∧
    s.piecesFault vf (need true) (piecesOf a data.length) = some cause ∧
    s.piecesFault vf (need false) (piecesOf a len) = some cause ∧
    1 ≤ data.length ∧
    a % 128 + data.length ≤ 128 ∧
    (s.part vf).doorbell ≠ some a ∧
    s.homeOf vf a (need true) = .error cause ∧
    s.homeOf vf a (need false) = .error cause ∧
    r.delivery = .rud ∧
    p.valid = true ∧
    admits ∧
    s.placed r.rvf own = true ∧
    r.kind = FabricKind.store bs rel ∧
    1 ≤ bs.length ∧
    bs.length ≤ 16 ∧
    formOk own bs.length false = true := by decide +kernel

theorem witness_OutsideRequests_2 :
    let s : State := b0
    let r : FabricReq := (fr (.load 8) 0 (ga 6 0x800))
    let p : Machine.Partition := s.part r.rvf
    let entry : Word := mapGet p.peers r.module.toNat 0
    let isLoad : Bool := match r.kind with | FabricKind.load _ => true | _ => false
    let admits : Prop := BitVec.msb entry = true ∧ bits (BitVec.toNat entry) 55 52 = r.senderVf.toNat ∧ (if isLoad = true then bit (BitVec.toNat entry) 61 else bit (BitVec.toNat entry) 62) = true
    let own : Word := BitVec.ofNat 64 (BitVec.toNat r.addr % 2 ^ 52 + 2 ^ 63 + 2047 * 2 ^ 52)
    let n : Nat := 8
    let o : HostOp := (ho (2^59) (ga 6 0x800))
    let data : List Byte := d8
    let at_ : Spot := (.core 6)
    let off : Nat := 0x800
    let vf : BitVec 4 := BitVec.ofNat 4 (bits (BitVec.toNat o.key) 63 60)
    let mine : Prop := (s.part vf).valid = true ∧ o.endpoint ∈ (s.part vf).endpoints
    let len : Nat := 8
    mine ∧
    bits (BitVec.toNat o.key) 58 0 = 0 ∧
    bit (BitVec.toNat o.key) 59 = true ∧
    o.atomic = false ∧
    o.delivery = .rud ∧
    s.hostHeld o data.length = false ∧
    s.hostHeld o len = false ∧
    data.length ≤ 2 ^ 20 ∧
    namesWindow o.addr = false ∧
    s.hostSpot vf o.addr data.length true = Except.ok (at_, off) ∧
    len ≤ 2 ^ 20 ∧
    s.hostSpot vf o.addr len false = Except.ok (at_, off) ∧
    p.valid = true ∧
    admits ∧
    s.placed r.rvf own = true ∧
    r.kind = FabricKind.load n ∧
    1 ≤ n ∧
    n ≤ 16 ∧
    formOk own n false = true := by decide +kernel

theorem witness_OutsideRequests_3 :
    let s : State := pagew
    let r : FabricReq := (fr (.message 77) 0 (ga 6 0x800084))
    let p : Machine.Partition := s.part r.rvf
    let entry : Word := mapGet p.peers r.module.toNat 0
    let isLoad : Bool := match r.kind with | FabricKind.load _ => true | _ => false
    let admits : Prop := BitVec.msb entry = true ∧ bits (BitVec.toNat entry) 55 52 = r.senderVf.toNat ∧ (if isLoad = true then bit (BitVec.toNat entry) 61 else bit (BitVec.toNat entry) 62) = true
    let own : Word := BitVec.ofNat 64 (BitVec.toNat r.addr % 2 ^ 52 + 2 ^ 63 + 2047 * 2 ^ 52)
    let o : HostOp := (ho 0 0x10040)
    let data : List Byte := d8
    let vf : BitVec 4 := BitVec.ofNat 4 (bits (BitVec.toNat o.key) 63 60)
    let mine : Prop := (s.part vf).valid = true ∧ o.endpoint ∈ (s.part vf).endpoints
    let a : Nat := o.addr.toNat
    let need : Bool → Need := fun wr => ⟨!wr, wr⟩
    let len : Nat := 8
    mine ∧
    bits (BitVec.toNat o.key) 58 0 = 0 ∧
    bit (BitVec.toNat o.key) 59 = false ∧
    o.atomic = false ∧
    o.delivery = .rud ∧
    s.hostHeld o data.length = false ∧
    1 ≤ len ∧
    a % 128 + len ≤ 128 ∧
    (s.part vf).doorbell ≠ some a ∧
    s.homeOf vf a (need true) = .ok (0, 0, leafP.phys 0x10040) ∧
    s.homeOf vf a (need false) = .ok (0, 0, leafP.phys 0x10040) ∧
    r.delivery = .rud ∧
    p.valid = true ∧
    admits ∧
    (s.placed r.rvf own = false ∨ formOk own (fabricShape r.kind).2.2.1 (fabricShape r.kind).2.2.2 = false) := by decide +kernel

theorem witness_OutsideRequests_4 :
    let s : State := b0
    let r : FabricReq := (fr (.message 77) 1 (ga 6 0x800088))
    let p : Machine.Partition := s.part r.rvf
    let entry : Word := mapGet p.peers r.module.toNat 0
    let isLoad : Bool := match r.kind with | FabricKind.load _ => true | _ => false
    let admits : Prop := BitVec.msb entry = true ∧ bits (BitVec.toNat entry) 55 52 = r.senderVf.toNat ∧ (if isLoad = true then bit (BitVec.toNat entry) 61 else bit (BitVec.toNat entry) 62) = true
    let o : HostOp := (ho (2^59) (ga 6 0x800088))
    let data : List Byte := d8
    let vf : BitVec 4 := BitVec.ofNat 4 (bits (BitVec.toNat o.key) 63 60)
    let mine : Prop := (s.part vf).valid = true ∧ o.endpoint ∈ (s.part vf).endpoints
    mine ∧
    bits (BitVec.toNat o.key) 58 0 = 0 ∧
    bit (BitVec.toNat o.key) 59 = true ∧
    o.atomic = false ∧
    s.hostHeld o data.length = false ∧
    data.length = 8 ∧
    namesWindow o.addr = true ∧
    formOk o.addr 8 true = true ∧
    addrMod o.addr = 2047 ∧
    s.placed vf o.addr = true ∧
    (p.valid = false ∨ ¬admits) := by decide +kernel

theorem witness_OutsideRequests_5 :
    let s : State := b0
    let r : FabricReq := (fr (.message 77) 0 (ga 6 0x800088))
    let p : Machine.Partition := s.part r.rvf
    let entry : Word := mapGet p.peers r.module.toNat 0
    let isLoad : Bool := match r.kind with | FabricKind.load _ => true | _ => false
    let admits : Prop := BitVec.msb entry = true ∧ bits (BitVec.toNat entry) 55 52 = r.senderVf.toNat ∧ (if isLoad = true then bit (BitVec.toNat entry) 61 else bit (BitVec.toNat entry) 62) = true
    let own : Word := BitVec.ofNat 64 (BitVec.toNat r.addr % 2 ^ 52 + 2 ^ 63 + 2047 * 2 ^ 52)
    let v : Word := 77#64
    let o : HostOp := (ho (2^59 + 1) (ga 6 0x100))
    let vf : BitVec 4 := BitVec.ofNat 4 (bits (BitVec.toNat o.key) 63 60)
    let mine : Prop := (s.part vf).valid = true ∧ o.endpoint ∈ (s.part vf).endpoints
    mine ∧
    bits (BitVec.toNat o.key) 58 0 ≠ 0 ∧
    p.valid = true ∧
    admits ∧
    s.placed r.rvf own = true ∧
    r.kind = FabricKind.message v ∧
    formOk own 8 true = true := by decide +kernel

theorem witness_OutsideRequests_6 :
    let s : State := b0
    let o : HostOp := (ho (2^59) (ga 6 0x800))
    let data : List Byte := []
    let vf : BitVec 4 := BitVec.ofNat 4 (bits (BitVec.toNat o.key) 63 60)
    let mine : Prop := (s.part vf).valid = true ∧ o.endpoint ∈ (s.part vf).endpoints
    let len : Nat := 1048577
    mine ∧
    bits (BitVec.toNat o.key) 58 0 = 0 ∧
    2 ^ 20 < len := by decide +kernel

theorem witness_OutsideRequests_7 :
    let s : State := b0
    let o : HostOp := (ho (2^59) (ga 6 0x100))
    let data : List Byte := d8
    let vf : BitVec 4 := BitVec.ofNat 4 (bits (BitVec.toNat o.key) 63 60)
    let mine : Prop := (s.part vf).valid = true ∧ o.endpoint ∈ (s.part vf).endpoints
    let x : BitVec 8 := 6#8
    mine ∧
    bits (BitVec.toNat o.key) 58 0 = 0 ∧
    bit (BitVec.toNat o.key) 59 = true ∧
    o.atomic = false ∧
    s.hostHeld o data.length = false ∧
    data.length ≤ 2 ^ 20 ∧
    namesWindow o.addr = false ∧
    s.hostSpot vf o.addr data.length true = Except.error x := by decide +kernel

theorem witness_OutsideRequests_8 :
    let s : State := b0
    let o : HostOp := (ho (2^60) (ga 6 0x800088))
    let vf : BitVec 4 := BitVec.ofNat 4 (bits (BitVec.toNat o.key) 63 60)
    let mine : Prop := (s.part vf).valid = true ∧ o.endpoint ∈ (s.part vf).endpoints
    (¬mine) := by decide +kernel

/-- an atomic of another module, and one of a host; a delivery that is not supported -/
theorem witness_OutsideRequests_9 :
    let r : FabricReq := fr (.atomic 8) 0 (ga 6 0x800)
    let o : HostOp := { ho (2^59) (ga 6 0x800) with atomic := true }
    (¬(r.delivery = .rud ∧ ∀ n, r.kind ≠ .atomic n)) ∧ (b0.part 0).valid = true ∧ o.endpoint ∈ (b0.part 0).endpoints ∧ o.atomic = true := by
  refine ⟨fun h => h.2 8 rfl, by decide +kernel⟩

/-- a WAYSET waits to change way 0, where the named bytes lie -/
theorem witness_OutsideRequests_10 :
    let s : State := b0.modCore 6 (fun k => { k with wayWait := some (1, 0xFFE) })
    let o : HostOp := ho (2^59) (ga 6 0x800)
    s.hostHeld o 8 = true := by decide +kernel

theorem witness_ErrorContainment_1 :
    let s : State := cs
    let c : Nat := 5
    let line : Nat := 512
    let k : Core := s.core c
    let off : Nat := 32768 * Alu.ones (k.waymask.toNat % 2 ^ (line / 64)) 12 + line % 64 * 512
    let x : Nat := 0
    let y : Nat := 0
    let sector : BitVec 2 := 1
    let l : SliceLine := ll
    k.vf ≠ none ∧
    line % 512 = 0 ∧
    line < k.codesz.toNat ∧
    line ∈ k.codeWritten ∧
    line < 768 ∧
    bit k.waymask.toNat (line / 64) = true ∧
    k.codesz.toNat ≤ off ∧
    line ∉ k.codeStall ∧
    s.lineAt x y line = some l ∧
    bit l.valid.toNat sector.toNat = true ∧
    bit l.dirty.toNat sector.toNat = true := by decide +kernel

theorem witness_ErrorContainment_2 :
    let s : State := cs
    let c : Nat := 5
    let line : Nat := 0
    let k : Core := s.core c
    k.vf ≠ none ∧
    line % 512 = 0 ∧
    line < k.codesz.toNat ∧
    line ∉ k.codeWritten := by decide +kernel

theorem witness_ErrorContainment_3 :
    let s : State := cs
    let line : Nat := 0x200
    let x : Nat := 0
    let y : Nat := 0
    let sector : BitVec 2 := 0
    let l : SliceLine := ll
    s.lineAt x y line = some l ∧
    bit l.valid.toNat sector.toNat = true ∧
    bit l.dirty.toNat sector.toNat = false := by decide +kernel

theorem witness_ErrorContainment_4 :
    let s : State := cstall
    let c : Nat := 5
    let line : Nat := 512
    let k : Core := s.core c
    line ∈ k.codeStall := by decide +kernel

theorem witness_ErrorContainment_5 :
    let s : State := cs
    let c : Nat := 5
    let line : Nat := (3 * 64 + 5)
    let k : Core := s.core c
    k.vf ≠ none ∧
    line < 768 ∧
    bit k.waymask.toNat (line / 64) = false := by decide +kernel

theorem witness_ErrorContainment_6 :
    let s : State := cs
    let c : Nat := 9
    let k : Core := s.core c
    let x : Nat := 0
    let y : Nat := 0
    let z : ClusterSt := s.cluster (keyX c) (keyY c)
    let spare : Prop := z.spslot.toNat < 17 ∧ z.spslot.toNat ≠ keyP c ∧ z.retiring = [] ∧ ∃ (v : Fin 16), z.coreMap.get v = BitVec.ofNat 5 (keyP c)
    let p : BitVec 5 := 9 -- debug
    k.vf = none ∧
    spare ∧
    p.toNat < 17 ∧
    x < 256 ∧
    c = coreKey x y p.toNat := by decide +kernel

theorem witness_DebugPath_1 :
    let s : State := dh
    let c : Nat := 5
    let h : BitVec 2 := 1
    let k : Core := s.core c
    let a : Hart := s.hartOf c h
    let hosts : Prop := k.vf ≠ none ∧ a.group ≠ none ∧ a.exited = false
    let r : BitVec 5 := 3
    let off : Nat := 0x800
    let bs : List Byte := d8
    hosts ∧
    a.halted = true ∧
    (∀ i ∈ k.others h, (k.hart i).completing = false) ∧
    (0x40#64 &&& 0x1FFFC).toNat < k.codesz.toNat ∧
    k.codesz.toNat ≤ (0x1FFFC#64 &&& 0x1FFFC).toNat ∧
    off + bs.length ≤ k.scratchSize ∧
    r ≠ 0 := by decide +kernel

theorem witness_DebugPath_2 :
    let s : State := dh
    let c : Nat := 5
    let h : BitVec 2 := 1
    let k : Core := s.core c
    let a : Hart := s.hartOf c h
    let hosts : Prop := k.vf ≠ none ∧ a.group ≠ none ∧ a.exited = false
    let num : BitVec 12 := 0xFFF
    let off : Nat := 0x5FFFD
    let bs : List Byte := d8
    hosts ∧
    a.halted = true ∧
    debugWritable num.toNat = false ∧
    k.scratchSize < off + bs.length := by decide +kernel

theorem witness_DebugPath_3 :
    let s : State := dn
    let c : Nat := 5
    let h : BitVec 2 := 1
    let k : Core := s.core c
    let a : Hart := s.hartOf c h
    let hosts : Prop := k.vf ≠ none ∧ a.group ≠ none ∧ a.exited = false
    hosts ∧
    a.halted = false := by decide +kernel

theorem witness_DebugPath_4 :
    let s : State := de
    let c : Nat := 5
    let h : BitVec 2 := 1
    let k : Core := s.core c
    let a : Hart := s.hartOf c h
    let hosts : Prop := k.vf ≠ none ∧ a.group ≠ none ∧ a.exited = false
    (¬hosts) := by decide +kernel

end WT27

namespace WT3
def ownx (n : Nat) := mkS n (setG 2 0x80000000000007F0)

theorem witness_Loads_3 :
    let s : State := (ownx 1)
    let d : BitVec 5 := 5
    let a : BitVec 5 := 2
    let z : BitVec 3 := 2
    let o : BitVec 9 := 2
    let off : Nat := 0x7F8
    let ea : Nat → Word := fun (n : Nat) => s.resolve (s.rg a + BitVec.ofInt 64 (o.toInt * (↑n : Int)))
    let ok : Nat → Nat → Prop := fun (m n : Nat) => s.classify (ea m) n n false = Except.ok (Place.own off) ∧ s.waitsFor (Place.own off) (ea m) n = false ∧ s.watchNow (ea m) n true false = none ∧ s.cc.spoisoned off n = false
    let n : Nat := 2 ^ (z.toNat % 4)
    s.writable d ∧
    ok n n := by decide +kernel

theorem witness_Loads_4 :
    let s : State := (ownx 1)
    let d : BitVec 5 := 5
    let a : BitVec 5 := 2
    let w : BitVec 1 := 0
    let o : BitVec 9 := 2
    let off : Nat := 0x7F8
    let ea : Nat → Word := fun (n : Nat) => s.resolve (s.rg a + BitVec.ofInt 64 (o.toInt * (↑n : Int)))
    let ok : Nat → Nat → Prop := fun (m n : Nat) => s.classify (ea m) n n false = Except.ok (Place.own off) ∧ s.waitsFor (Place.own off) (ea m) n = false ∧ s.watchNow (ea m) n true false = none ∧ s.cc.spoisoned off n = false
    let n : Nat := if w = 1 then 8 else 4
    s.writable d ∧
    s.writable (d + 1) ∧
    ok n (2 * n) := by decide +kernel

end WT3

namespace WT30
def lr (img : Word) (n : Nat) : BitVec 512 := BitVec.ofNat 512 (n * 2^160 + 2^93 + 2^107 + 0xFFF * 2^116 + img.toNat * 2^192)
def mk (id : Nat) (n : Nat) (st : LaunchState := .queued) (rec_ : BitVec 512 := lr 0x10040 n) : Launch := { id := id, vf := 0, record := rec_, spec := 0, submitter := .host 4 0x77 8, image := 0x10040, order := id, state := st }
def ps : State := { rs.modPart 0 (fun p => { p with queues := p.queues.set 0 [1], serial := 1, ptroot := 0x200000 }) with launches := [mk 1 5], mem := memPutLE [] 0x200000 8 0x40000033 }
def snd (r : BitVec 512) : HostSend := { bytes := bytesOfLE 80 (r.toNat + 0x77 * 2^512 + 8 * 2^576) }
def pf : State := ps.modPart 0 (fun p => { p with queues := p.queues.set 0 (1 :: List.replicate 63 9) })
def img : List Byte := 
  let code : List Byte := (List.range 512).map (fun i => BitVec.ofNat 8 (i * 7))
  let h : Nat := 0x4E564344 + 1 * 2^32 + 512 * 2^64 + (crc32c code) * 2^128 + (crc32c []) * 2^160 + (64 + 512) * 2^224
  bytesOfLE 64 h ++ code
def pi : State := { ps with mem := memPutBytes ps.mem (0x40010040) img }
def r2 : BitVec 512 := BitVec.ofNat 512 (5 * 2^160 + 2 * 2^93 + 2^107 + 0xFFF * 2^116 + 0x10040 * 2^192 + 8 * 2^128 + 0xABC0 * 2^256)
def r4 : BitVec 512 := BitVec.ofNat 512 (100000 * 2^160 + 2 * 2^93 + 2^107 + 0xFFF * 2^116 + 0x10040 * 2^192 + 8 * 2^128 + 0xABC0 * 2^256 + 2^83 + 4 * 2^87)
def pi4 : State := { pi with launches := [mk 1 5 (rec_ := r4)] }
def busy : State := (List.range 256).foldl (fun s i => s.setCore (17 * (256 * (i / 64) + (i / 16) % 4) + i % 16) { c0 with vx := BitVec.ofNat 8 ((i / 16) % 4), vy := BitVec.ofNat 7 (i / 64), vc := BitVec.ofNat 4 i, harts := c0.harts.set 1 { h0 with group := some ⟨8, i, 0⟩ } }) pi
def mk8 : Launch := { mk 8 256 .running with placed := 256, groups := (List.range 256).map (fun i => { num := i, vcore := i, base := 1, harts := 1 }) }
def hi : Launch := mk 1 5 (rec_ := r2 ||| (3 <<< 98))
def pb : State := { busy with launches := [mk8, hi] }

theorem witness_SubmissionAndPlacement_1 :
    let s : State := pb
    let vf : BitVec 4 := 0
    let endpoint : Nat := 4
    let send : HostSend := (snd (lr 0x10040 5))
    let p : Machine.Partition := s.part vf
    let r : Nat := leOfBytes send.bytes % 2 ^ 512
    let j : BitVec 3 := BitVec.ofNat 3 (bits r 82 80)
    let q : BitVec 3 := 0
    let l : Launch := hi
    p.valid = true ∧
    endpoint ∈ p.endpoints ∧
    send.delivery = .rud ∧
    send.bytes.length = 80 ∧
    s.recordFault vf r true = none ∧
    (p.queue j).length < 64 ∧
    s.headOf vf q = some l ∧
    s.ready l = true ∧
    l.vf = vf ∧
    p.resident = true ∧
    p.requested = none ∧
    p.switchTo = none ∧
    l.dlev = 0 ∧
    s.placeable l = false := by decide +kernel

theorem witness_SubmissionAndPlacement_2 :
    let s : State := ps
    let vf : BitVec 4 := 0
    let endpoint : Nat := 5
    let p : Machine.Partition := s.part vf
    let q : BitVec 3 := 0
    let l : Launch := (mk 1 5)
    let v : Nat := 0
    let c : Nat := 0
    let o : Nat := 0
    (p.valid = false ∨ endpoint ∉ p.endpoints) ∧
    s.headOf vf q = some l ∧
    s.chosen vf = some l ∧
    s.ready l = true ∧
    l.vf = vf ∧
    p.resident = true ∧
    p.requested = none ∧
    p.switchTo = none ∧
    l.dlev = 0 ∧
    s.nextCore l = some (v, c) ∧
    s.loadImage l = Except.error o := by decide +kernel

theorem witness_SubmissionAndPlacement_3 :
    let s : State := ps
    let vf : BitVec 4 := 0
    let endpoint : Nat := 4
    let send : HostSend := (snd (lr 0x10040 0))
    let p : Machine.Partition := s.part vf
    let r : Nat := leOfBytes send.bytes % 2 ^ 512
    let reason : Nat := 1
    let byte : Nat := 20
    p.valid = true ∧
    endpoint ∈ p.endpoints ∧
    send.delivery = .rud ∧
    send.bytes.length = 80 ∧
    s.recordFault vf r true = some (reason, byte) := by decide +kernel

theorem witness_SubmissionAndPlacement_4 :
    let s : State := pf
    let vf : BitVec 4 := 0
    let endpoint : Nat := 4
    let send : HostSend := (snd (lr 0x10040 5))
    let p : Machine.Partition := s.part vf
    let r : Nat := leOfBytes send.bytes % 2 ^ 512
    let j : BitVec 3 := BitVec.ofNat 3 (bits r 82 80)
    p.valid = true ∧
    endpoint ∈ p.endpoints ∧
    send.delivery = .rud ∧
    send.bytes.length = 80 ∧
    s.recordFault vf r true = none ∧
    64 ≤ (p.queue j).length := by decide +kernel

theorem witness_SubmissionAndPlacement_5 :
    let s : State := pi4
    let vf : BitVec 4 := 0
    let p : Machine.Partition := s.part vf
    let q : BitVec 3 := 0
    let l : Launch := (mk 1 5 (rec_ := r4))
    s.headOf vf q = some l ∧
    s.ready l = true ∧
    l.vf = vf ∧
    p.resident = true ∧
    p.requested = none ∧
    p.switchTo = none ∧
    l.dlev ≠ 0 ∧
    s.fits l = false := by decide +kernel

/-- two heads that can be placed: the first in order is chosen, the other waits -/
theorem witness_SubmissionAndPlacement_6 :
    let s : State := { (ps.modPart 0 (fun p => { p with queues := (p.queues.set 0 [1]).set 1 [2] })) with launches := [mk 1 5, mk 2 5] }
    let l : Launch := mk 2 5
    s.headOf 0 1 = some l ∧ s.ready l = true ∧ l.vf = 0 ∧ (s.part 0).resident = true ∧ (s.part 0).requested = none ∧ (s.part 0).switchTo = none ∧ l.dlev = 0 ∧
    s.placeable l = true ∧ (s.chosen 0).map Launch.id ≠ some l.id := by decide +kernel

/-- a send that is no submission -/
theorem witness_SubmissionAndPlacement_7 :
    let s : State := ps
    (s.part 0).valid = true ∧ 4 ∈ (s.part 0).endpoints ∧ (HostSend.mk [1, 2] .rud).bytes.length ≠ 80 := by decide +kernel

end WT30

namespace WT33
def la (f : Launch → Launch := id) : Launch := f { id := 7, vf := 0, record := BitVec.ofNat 512 (2 * 2^160 + 2^93), spec := 0, submitter := .host 4 0x77 8, image := 0, order := 1, state := .running, placed := 2, groups := [{ num := 0, vcore := 5, base := 1, harts := 1 }, { num := 1, vcore := 6, base := 0, harts := 1 }] }
def wl (l : List Launch) (s : State) : State := { s with launches := l }
def gx (f : Hart → Hart) (k : Core → Core := id) : State := wl [la] (base f k)
def e1 : State := gx (fun h => { h with exited := true })
def e1k : Core := e1.core 5
def e2 : State := gx (fun h => { h with exited := false })
def e2k : Core := e2.core 5
def la1 : Launch := la (fun l => { l with groups := [{ num := 0, vcore := 5, base := 1, harts := 1, ended := true }, { num := 1, vcore := 6, base := 0, harts := 1, ended := true }] })
def sw (f : Launch → Launch) : State := wl [f la1] rs
def s1 : State := sw id
def s2 : State := sw (fun l => { l with sentCount := 3 })
def s3 : State := sw (fun l => { l with agreed := 1 })
def es (f : Estimate → Estimate) : Estimate := f { n := 100, seed := 5, tau := 0x3FF0000000000000, z := 0x4000000000000000, lw := 2, minr := 2, next := 8 }
def es1 : Estimate := es (fun e => { e with values := [(0, 0x3FF0000000000000), (1, 0x4000000000000000), (2, 0x4008000000000000), (3, 0x4010000000000000)] })
def es2 : Estimate := es (fun e => { e with values := [(0, 0x3FF0000000000000), (1, 0x4000000000000000), (3, 0x4010000000000000)], opened := [2] })
def le (e : Estimate) : Launch := la (fun l => { l with est := some e })
def z1 : State := wl [le es1] rs
def z2 : State := wl [le es2] rs
def dq : Launch := la (fun l => { l with record := BitVec.ofNat 512 (2 * 2^160 + 2^93 + 2^87 + 2^83), phases := [] })
def da (arr : Bool) : State := wl [dq] (base (fun h => { h with dmemb := if arr then 0x2002 else 0x0002, block := if arr then some .dsync else none }) (l := [(6, { c0 with vc := 6, harts := c0.harts.set 0 { h0 with group := some ⟨7, 1, 0⟩, dmemb := 0x2002, block := some .dsync } })]))
def da1 : State := da true

theorem witness_EndsAndMerges_1 :
    let s : State := e1
    let l : Launch := la
    let id : Nat := 7
    let group : Nat := 0
    let c : Nat := 5
    let k : Core := e1k
    let hs : List (BitVec 2) := k.hartsOf id group
    let rest : Bool := (hs.all fun (h : BitVec 2) => (k.hart h).atRest) && s.enginesRest c hs
    let level : Nat := 1
    let domain : Nat := 0
    let n : BitVec 3 := 1
    let key : Nat := level + 8 * domain
    let size : Nat := s.domainSize l level domain
    let there : Nat := s.domainArrivals l level domain (l.phase key)
    (List.find? (fun (e : Nat × Core) => !(e.2.hartsOf id group).isEmpty) s.cores = some (c, k)) ∧
    rest = true ∧
    s.core c = k ∧
    s.noReplacement c ∧
    (List.find? (fun (x : Launch) => x.id == id) s.launches = some l) ∧
    n.toNat = level ∧
    (size = 0 ∨ there ≠ size) ∧
    s.launches = [l] ∧
    l.state = LaunchState.running ∧
    l.groupsTotal ≤ l.placed ∧
    (∃ g ∈ l.groups, g.ended = false) := by decide +kernel

theorem witness_EndsAndMerges_2 :
    let s : State := e2
    let id : Nat := 7
    let group : Nat := 0
    let c : Nat := 5
    let k : Core := e2k
    let hs : List (BitVec 2) := k.hartsOf id group
    let rest : Bool := (hs.all fun (h : BitVec 2) => (k.hart h).atRest) && s.enginesRest c hs
    (List.find? (fun (e : Nat × Core) => !(e.2.hartsOf id group).isEmpty) s.cores = some (c, k)) ∧
    rest = false := by decide +kernel

theorem witness_EndsAndMerges_3 :
    let s : State := s1
    let l : Launch := la1
    s.launches = [l] ∧
    l.state = LaunchState.running ∧
    l.groupsTotal ≤ l.placed ∧
    (∀ g ∈ l.groups, g.ended = true) ∧
    (l.status = Status.failed ∨ ∀ (e : Estimate), l.est = some e → e.status ≠ EstStatus.running) ∧
    l.sentCount = l.recvCount ∧
    l.agreed = 0 := by decide +kernel

theorem witness_EndsAndMerges_4 :
    let s : State := da1
    let l : Launch := dq
    let id : Nat := 7
    let level : Nat := 1
    let domain : Nat := 5
    let n : BitVec 3 := 1
    let key : Nat := level + 8 * domain
    let size : Nat := s.domainSize l level domain
    let there : Nat := s.domainArrivals l level domain (l.phase key)
    (List.find? (fun (x : Launch) => x.id == id) s.launches = some l) ∧
    n.toNat = level ∧
    size ≠ 0 ∧
    there = size := by decide +kernel

theorem witness_EndsAndMerges_5 :
    let s : State := z1
    let l : Launch := (le es1)
    let id : Nat := 7
    let e : Estimate := { n := 100, seed := 5#64, tau := 4607182418800017408#64, z := 4611686018427387904#64, lw := 2, minr := 2, next := 8, values := [(0, 4607182418800017408#64), (1, 4611686018427387904#64), (2, 4613937818241073152#64), (3, 4616189618054758400#64)], mean := 0#64, m2 := 0#64, hw := 0#64 }
    (List.find? (fun (x : Launch) => x.id == id) s.launches = some l) ∧
    l.est = some e ∧
    l.state = LaunchState.running ∧
    l.status = .completed ∧
    e.status = EstStatus.running ∧
    e.complete e.rounds = true := by decide +kernel

theorem witness_EndsAndMerges_6 :
    let s : State := z2
    let l : Launch := (le es2)
    let id : Nat := 7
    let e : Estimate := { n := 100, seed := 5#64, tau := 4607182418800017408#64, z := 4611686018427387904#64, lw := 2, minr := 2, next := 8, opened := [2], values := [(0, 4607182418800017408#64), (1, 4611686018427387904#64), (3, 4616189618054758400#64)], mean := 0#64, m2 := 0#64, hw := 0#64 }
    (List.find? (fun (x : Launch) => x.id == id) s.launches = some l) ∧
    l.est = some e ∧
    l.state = LaunchState.running ∧
    l.status = .completed ∧
    e.status = EstStatus.running ∧
    e.complete e.rounds = false := by decide +kernel

/-- the launch of an estimate has failed -/
theorem witness_EndsAndMerges_failed :
    let l : Launch := { le es1 with status := .failed }
    let s : State := wl [l] rs
    (List.find? (fun (x : Launch) => x.id == 7) s.launches = some l) ∧ l.est = some es1 ∧ l.state = .running ∧ l.status ≠ .completed := by decide +kernel

theorem witness_EndsAndMerges_7 :
    let s : State := s3
    let l : Launch := { la1 with agreed := 1 }
    let e : Nat := 4
    let key : Word := 119#64
    let offset : Word := 8#64
    s.launches = [l] ∧
    l.state = LaunchState.running ∧
    l.groupsTotal ≤ l.placed ∧
    (∀ g ∈ l.groups, g.ended = true) ∧
    (l.status = Status.failed ∨ ∀ (e : Estimate), l.est = some e → e.status ≠ EstStatus.running) ∧
    l.sentCount = l.recvCount ∧
    l.agreed ≠ 0 ∧
    l.submitter = Submitter.host e key offset := by decide +kernel

theorem witness_EndsAndMerges_8 :
    let s : State := s2
    let l : Launch := { la1 with sentCount := 3 }
    s.launches = [l] ∧
    l.state = LaunchState.running ∧
    l.groupsTotal ≤ l.placed ∧
    (∀ g ∈ l.groups, g.ended = true) ∧
    (l.status = Status.failed ∨ ∀ (e : Estimate), l.est = some e → e.status ≠ EstStatus.running) ∧
    l.sentCount ≠ l.recvCount := by decide +kernel

end WT33

namespace WT35
def net (s : State) (l : List Req) : State := { s with net := l }
def bw (n : Nat) : Hart → Hart := fun h => { h with block := some (.wait 3 4) }
def k5 (f : Core → Core) : State := base (bw 0) f
def ev1 : State := k5 (fun k => { k with marked := true })
def ev2 : State := base id (fun k => { k with marked := true })
def dr (f : Core → Core) : State := k5 (fun k => f { k with draining := true, marked := true, waymask := 0xFFE, regions := k.regions.set 0 ⟨true, 0x10000, 2, 64⟩ })
def d1 : State := dr id
def d2 : State := dr (fun k => { k with cache := [{ way := 0, addr := 0x10080, data := 5, dirty := 3, poison := false }, { way := 0, addr := 0x10100, data := 5, dirty := 0, poison := false }] })
def d3 : State := net d1 [{ rq (.writeBack 5 3 false) 0x10080 (.toHome 0 0 128) .request with src := .core 5 }]
def rz (x : Saved) (s : State := rs) : State := s.modPart 0 (fun p => { p with saved := [x] })
def x1 : Saved := { core := hart1 (fun h => { h with ovf := 2 }) { c0 with vc := 9 } }
def x2 : Saved := { core := { hart1 id { c0 with vc := 9 } with overflow := [⟨1, 4, 77⟩] } }
def r1 : State := rz x1
def r2 : State := rz x2
def r3 : State := rz x2 (rs.setCore 9 { c0 with vc := 3 })
def two (f g : Partition → Partition) (s : State := rs) : State := (s.modPart 0 f).modPart 1 (fun p => g { p with valid := true })
def ck0 : Checkpoint := { seq := 5, contexts := [x1], launches := [], queues := Vector.replicate 8 [], serial := 3, regions := [(0x100, [1, 2, 3], [])] }
def w1 : State := two (fun p => { p with switchTo := some 1 }) id (base id)
def w2 : State := two (fun p => { p with switchTo := some 1 }) (fun p => { p with wm1 := 0, px0 := 0 })
def w3 : State := two (fun p => { p with switchTo := some 1 }) (fun p => { p with restore := true, checkpoint := some ck0 })
def w4 : State := two (fun p => { p with switchTo := some 1, rolledBack := true }) id (base id (fun k => { k with draining := true, marked := true }))
def w7 : State := two (fun p => { p with requested := some 7, ptroot := 0x200000, doorbell := some 0x10000, checkpointList := [(0x300, 4)] }) id { rs with mem := memPutLE [] 0x200000 8 0x40000033 }
def w8 : State := two (fun p => { p with requested := some 7, ptroot := 0x200000, doorbell := some 0x10000, checkpointList := [(0x300, 4)] }) id { base with mem := memPutLE [] 0x200000 8 0x40000033 }
def pspec (v : BitVec 4) (x : BitVec 8) (w : BitVec 8) : PartitionSpec := ⟨v, x, 0, w, 3, 2000, 0x200000, 0x8000000000000000, 0x100, 0x20000, 0x400000, 0x410000, 0x420000⟩
def im : FirmwareImage := ⟨[1, 2], 5, 0, 0⟩
def mb : State := { rs with booted := true }
def mrect : State := mb.modPart 0 (fun p => { p with wm1 := 3, hm1 := 3 })
def ml : State := { base with booted := true }

theorem witness_EvictionAndResume_1 :
    let s : State := r1
    let c : Nat := 9
    let slot : Nat := 0
    let vf : BitVec 4 := 0
    let x : Saved := x1
    let k : Core := s.core c
    let p : Machine.Partition := s.part vf
    p.saved[slot]? = some x ∧
    p.resident = true ∧
    p.requested = none ∧
    p.switchTo = none ∧
    s.physCore vf x.core.vx.toNat x.core.vy.toNat x.core.vc.toNat = some c ∧
    k.vf = none ∧
    s.usable c = true ∧
    s.outranked vf c (s.corePrio x.core) = false ∧
    x.core.overflow = [] ∧
    x.hold = [] ∧
    x.core.tokens = [] ∧
    (∀ h, (x.core.hart h).block = none ∧ (x.core.hart h).arrPend = 0) := by decide +kernel

theorem witness_EvictionAndResume_2 :
    let s : State := r2
    let c : Nat := 9
    let slot : Nat := 0
    let vf : BitVec 4 := 0
    let x : Saved := x2
    let k : Core := s.core c
    let p : Machine.Partition := s.part vf
    let m : Msg := { hart := 1#2, reg := 4#4, value := 77#64 }
    p.saved[slot]? = some x ∧
    p.resident = true ∧
    p.requested = none ∧
    p.switchTo = none ∧
    s.physCore vf x.core.vx.toNat x.core.vy.toNat x.core.vc.toNat = some c ∧
    k.vf = none ∧
    s.usable c = true ∧
    s.outranked vf c (s.corePrio x.core) = false ∧
    x.core.overflow = [m] ∧
    x.hold = [] ∧
    x.core.tokens = [] ∧
    (∀ h, (x.core.hart h).block = none ∧ (x.core.hart h).arrPend = 0) ∧
    (∀ n, ((x.core.hart m.hart).slot n).valid = true → ((x.core.hart m.hart).slot n).sources.contains (.m m.reg) = false) ∧
    (x.core.hart m.hart).isFull m.reg = false := by decide +kernel

theorem witness_EvictionAndResume_3 :
    let s : State := d1
    let c : Nat := 5
    let vf : BitVec 4 := 0
    let k : Core := s.core c
    let p : Machine.Partition := s.part vf
    k.vf = some vf ∧
    k.draining = true ∧
    p.rolledBack = false ∧
    s.drained c = true ∧
    (∀ y ∈ k.cache, y.dirty = 0) ∧
    s.backsPending c = false ∧
    s.postedDone c = true ∧
    s.noReplacement c ∧
    (∀ h : BitVec 2, (k.hart h).block = none ∨ (k.hart h).block = some (.wait 3 4)) := by decide +kernel

theorem witness_EvictionAndResume_4 :
    let s : State := d2
    let c : Nat := 5
    let vf : BitVec 4 := 0
    let k : Core := s.core c
    let p : Machine.Partition := s.part vf
    k.vf = some vf ∧
    k.draining = true ∧
    p.rolledBack = false ∧
    s.drained c = true ∧
    (∃ y ∈ k.cache, y.dirty ≠ 0) := by decide +kernel

theorem witness_EvictionAndResume_5 :
    let s : State := d3
    let c : Nat := 5
    let vf : BitVec 4 := 0
    let k : Core := s.core c
    let p : Machine.Partition := s.part vf
    k.vf = some vf ∧
    k.draining = true ∧
    p.rolledBack = false ∧
    s.drained c = true ∧
    (∀ y ∈ k.cache, y.dirty = 0) ∧
    s.backsPending c = true := by decide +kernel

theorem witness_EvictionAndResume_6 :
    let s : State := ev1
    let c : Nat := 5
    let vf : BitVec 4 := 0
    let k : Core := s.core c
    let p : Machine.Partition := s.part vf
    k.vf = some vf ∧
    k.marked = true ∧
    k.draining = false ∧
    p.rolledBack = false ∧
    s.allBlocked c = true := by decide +kernel

theorem witness_EvictionAndResume_7 :
    let s : State := ev2
    let c : Nat := 5
    let vf : BitVec 4 := 0
    let k : Core := s.core c
    let p : Machine.Partition := s.part vf
    k.vf = some vf ∧
    k.marked = true ∧
    k.draining = false ∧
    p.rolledBack = false ∧
    s.allBlocked c = false := by decide +kernel

theorem witness_EvictionAndResume_8 :
    let s : State := r3
    let c : Nat := 9
    let slot : Nat := 0
    let vf : BitVec 4 := 0
    let x : Saved := x2 -- switches
    let k : Core := s.core c
    let p : Machine.Partition := s.part vf
    p.saved[slot]? = some x ∧
    p.resident = true ∧
    p.requested = none ∧
    p.switchTo = none ∧
    s.physCore vf x.core.vx.toNat x.core.vy.toNat x.core.vc.toNat = some c ∧
    k.vf ≠ none := by decide +kernel

theorem witness_SwitchesAndCheckpoints_1 :
    let s : State := w1
    let a : BitVec 4 := 0
    let b : BitVec 4 := 1
    let p : Machine.Partition := s.part a
    let q : Machine.Partition := s.part b
    let live : List (Nat × Core) := List.filter (fun (e : Nat × Core) => e.2.vf == some a) s.cores
    a ≠ b ∧
    p.valid = true ∧
    q.valid = true ∧
    p.resident = true ∧
    p.sameRect q = true ∧
    p.switchTo = some b ∧
    live ≠ [] ∧
    p.requested = none ∧
    p.switchTo ≠ none ∧
    p.rolledBack = false := by decide +kernel

theorem witness_SwitchesAndCheckpoints_2 :
    let s : State := w2
    let a : BitVec 4 := 0
    let b : BitVec 4 := 1
    let p : Machine.Partition := s.part a
    let q : Machine.Partition := s.part b
    let live : List (Nat × Core) := List.filter (fun (e : Nat × Core) => e.2.vf == some a) s.cores
    a ≠ b ∧
    p.valid = true ∧
    q.valid = true ∧
    p.resident = true ∧
    p.sameRect q = true ∧
    p.switchTo = some b ∧
    p.rolledBack = false ∧
    live = [] ∧
    q.restore = false ∧
    p.switchTo ≠ none := by decide +kernel

theorem witness_SwitchesAndCheckpoints_3 :
    let s : State := w7
    let a : BitVec 4 := 0
    let b : BitVec 4 := 1
    let p : Machine.Partition := s.part a
    let q : Machine.Partition := s.part b
    let n : BitVec 32 := 7
    let live : List (Nat × Core) := List.filter (fun (e : Nat × Core) => e.2.vf == some a) s.cores
    let va : Nat := 65536
    let leaf : Leaf := { hashed := false, hx := 0, hy := 0, mask := 0#3, owner := 0#4, code := false, cacheable := false, w := true, r := true, pa := 1073741824, size := 1073741824 }
    a ≠ b ∧
    p.valid = true ∧
    q.valid = true ∧
    p.resident = true ∧
    p.sameRect q = true ∧
    p.switchTo = none ∧
    p.requested = some n ∧
    live = [] ∧
    p.doorbell = some va ∧
    p.restore = false ∧
    s.walk a va 0 = .ok leaf := by decide +kernel

theorem witness_SwitchesAndCheckpoints_4 :
    let s : State := w3
    let a : BitVec 4 := 0
    let b : BitVec 4 := 1
    let ck : Checkpoint := ck0
    let p : Machine.Partition := s.part a
    let q : Machine.Partition := s.part b
    let live : List (Nat × Core) := List.filter (fun (e : Nat × Core) => e.2.vf == some a) s.cores
    a ≠ b ∧
    p.valid = true ∧
    q.valid = true ∧
    p.resident = true ∧
    p.sameRect q = true ∧
    p.switchTo = some b ∧
    p.rolledBack = false ∧
    live = [] ∧
    q.restore = true ∧
    q.checkpoint = some ck ∧
    q.counters = [] ∧
    q.sinceCheckpoint = [] := by decide +kernel

theorem witness_SwitchesAndCheckpoints_5 :
    let s : State := w4
    let a : BitVec 4 := 0
    let p : Machine.Partition := s.part a
    let live : List (Nat × Core) := List.filter (fun (e : Nat × Core) => e.2.vf == some a) s.cores
    p.switchTo ≠ none ∧
    p.rolledBack = true ∧
    (∀ e ∈ live, s.quiesced e.1 = true) := by decide +kernel

theorem witness_SwitchesAndCheckpoints_6 :
    let s : State := w8
    let a : BitVec 4 := 0
    let p : Machine.Partition := s.part a
    let n : BitVec 32 := 7 -- management
    let live : List (Nat × Core) := List.filter (fun (e : Nat × Core) => e.2.vf == some a) s.cores
    p.requested = some n ∧
    live ≠ [] := by decide +kernel

theorem witness_Management_1 :
    let s : State := rs
    let ps : PartitionSpec := (pspec 1 0 3)
    let new : Machine.Partition := { valid := true, px0 := ps.px0, py0 := ps.py0, wm1 := ps.wm1, hm1 := ps.hm1, deadline := ps.deadline, ptroot := ps.ptroot &&& 4398044413952, masks := (Vector.replicate 8 0).set 0 (ps.mask0 &&& 9223372037928517631) (by decide), trapVector := ps.trapVector &&& 131068, doorbell := some (BitVec.toNat ps.doorbell) }
    let bounds : Prop := 100 ≤ ps.deadline.toNat ∧ ps.deadline.toNat ≤ 1000000
    let fits : Prop := ps.px0.toNat + ps.wm1.toNat ≤ 255 ∧ ps.py0.toNat + ps.hm1.toNat ≤ 99
    let vf : BitVec 4 := 0
    let live : List (Nat × Core) := List.filter (fun (e : Nat × Core) => e.2.vf == some vf) s.cores
    let k : BitVec 3 := 2
    let v : Word := 0x8000000000000000
    let pa : Nat := 0x100
    let us : BitVec 24 := 500
    let m : BitVec 11 := 9
    let n : BitVec 2 := 1
    let x : Nat := 1
    let y : Nat := 2
    let i : FirmwareImage := im
    (s.part vf).valid = true ∧
    100 ≤ us.toNat ∧
    us.toNat ≤ 1000000 ∧
    live = [] ∧
    groupMaskOk v = true ∧
    (k ≠ 0 ∨ BitVec.msb v = true) ∧
    pa % 8 = 0 ∧
    pa + 8 ≤ 2560 * 10 ^ 9 ∧
    (∀ r ∈ s.net, r.vf ≠ vf) ∧
    m ≠ 2047 ∧
    n ≠ 3 ∧
    s.booted = false ∧
    (s.booted = false ∨ (s.part ps.vf).valid = true ∨ ¬bounds ∨ ¬fits ∨ ∃ (j : BitVec 4), (s.part j).valid = true ∧ new.sameRect (s.part j) = false ∧ new.apart (s.part j) = false) ∧
    x < 256 ∧
    y < 100 := by decide +kernel

theorem witness_Management_2 :
    let s : State := ml
    let ps : PartitionSpec := (pspec 1 8 3)
    let new : Machine.Partition := { valid := true, px0 := ps.px0, py0 := ps.py0, wm1 := ps.wm1, hm1 := ps.hm1, deadline := ps.deadline, ptroot := ps.ptroot &&& 4398044413952, masks := (Vector.replicate 8 0).set 0 (ps.mask0 &&& 9223372037928517631) (by decide), trapVector := ps.trapVector &&& 131068, doorbell := some (BitVec.toNat ps.doorbell) }
    let bounds : Prop := 100 ≤ ps.deadline.toNat ∧ ps.deadline.toNat ≤ 1000000
    let fits : Prop := ps.px0.toNat + ps.wm1.toNat ≤ 255 ∧ ps.py0.toNat + ps.hm1.toNat ≤ 99
    let others : (Machine.Partition → Prop) → Prop := fun (f : Machine.Partition → Prop) => ∀ (j : BitVec 4), (s.part j).valid = true → f (s.part j)
    let vf : BitVec 4 := 0
    let live : List (Nat × Core) := List.filter (fun (e : Nat × Core) => e.2.vf == some vf) s.cores
    let i : FirmwareImage := im
    live ≠ [] ∧
    (live ≠ [] ∨ ∃ r ∈ s.net, r.vf = vf) ∧
    s.booted = true ∧
    (s.part ps.vf).valid = false ∧
    bounds ∧
    fits ∧
    (others fun (r : Machine.Partition) => new.sameRect r = true ∨ new.apart r = true) ∧
    BitVec.msb ps.mask0 = true ∧
    groupMaskOk ps.mask0 = true ∧
    doorbellOk ps = true ∧
    (others fun (r : Machine.Partition) => r.resident = true → r.sameRect new = false) := by decide +kernel

theorem witness_Management_3 :
    let s : State := mrect
    let ps : PartitionSpec := (pspec 1 0 3)
    let new : Machine.Partition := { valid := true, px0 := ps.px0, py0 := ps.py0, wm1 := ps.wm1, hm1 := ps.hm1, deadline := ps.deadline, ptroot := ps.ptroot &&& 4398044413952, masks := (Vector.replicate 8 0).set 0 (ps.mask0 &&& 9223372037928517631) (by decide), trapVector := ps.trapVector &&& 131068, doorbell := some (BitVec.toNat ps.doorbell) }
    let bounds : Prop := 100 ≤ ps.deadline.toNat ∧ ps.deadline.toNat ≤ 1000000
    let fits : Prop := ps.px0.toNat + ps.wm1.toNat ≤ 255 ∧ ps.py0.toNat + ps.hm1.toNat ≤ 99
    let others : (Machine.Partition → Prop) → Prop := fun (f : Machine.Partition → Prop) => ∀ (j : BitVec 4), (s.part j).valid = true → f (s.part j)
    s.booted = true ∧
    (s.part ps.vf).valid = false ∧
    bounds ∧
    fits ∧
    (others fun (r : Machine.Partition) => new.sameRect r = true ∨ new.apart r = true) ∧
    BitVec.msb ps.mask0 = true ∧
    groupMaskOk ps.mask0 = true ∧
    doorbellOk ps = true ∧
    (∃ (j : BitVec 4), (s.part j).valid = true ∧ (s.part j).resident = true ∧ (s.part j).sameRect new = true) := by decide +kernel

end WT35

namespace WT5

theorem witness_Fences_1 :
    let s : State := (mkS 1 (weird 1))
    let f : BitVec 1 := 1
    s.hart.outst = [] ∧
    BitVec.setWidth 8 s.hart.aflags &&& BitVec.setWidth 8 s.hart.trapen = 0#8 ∧
    s.hart.orsLocal = 0 ∧
    (f = 1 → s.hart.orsFab = 0) ∧
    s.hart.rejLog = [] ∧
    s.hart.orsFab = 0 := by decide +kernel

theorem witness_Fences_2 :
    let s : State := (mkS 1 (fun h => outs (weird 2 h)))
    let f : BitVec 1 := 0
    s.hart.outst ≠ [] ∧
    (s.hart.outst ≠ [] ∨ s.hart.orsLocal ≠ 0 ∨ f = 1 ∧ s.hart.orsFab ≠ 0) ∧
    (s.hart.outst ≠ [] ∨ s.hart.orsLocal ≠ 0 ∨ s.hart.orsFab ≠ 0) := by decide +kernel

theorem witness_Fences_3 :
    let s : State := (mkS 1 (fun h => { (weird 2 h) with trapen := 0xFF }))
    s.trapReady ∧
    s.hart.unbound ∧
    BitVec.setWidth 8 s.hart.aflags &&& BitVec.setWidth 8 s.hart.trapen ≠ 0#8 := by decide +kernel

theorem witness_ControlRegisterReads_1 :
    let s : State := (mkS 1 (weird 2))
    let d : BitVec 5 := 5
    s.writable d ∧
    s.hart.outst = [] ∧
    s.hart.mode = Mode.supervisor := by decide +kernel

theorem witness_ControlRegisterReads_2 :
    let s : State := (mkS 1 (fun h => { weird 1 h with pc := 64 }))
    let c : BitVec 12 := 0x2
    let n : Nat := c.toNat
    s.trapReady ∧
    (n ≤ 3 ∨ n = 24 ∨ n = 25 ∨ n = 81) := by decide +kernel

theorem witness_ControlRegisterReads_3 :
    let s : State := (mkS 1 (fun h => { weird 1 h with pc := 64 }))
    let c : BitVec 12 := 0x20
    let n : Nat := c.toNat
    s.trapReady ∧
    s.hart.mode = Mode.program ∧
    (32 ≤ n ∧ n ≤ 36 ∨ 64 ≤ n ∧ n ≤ 71) := by decide +kernel

theorem witness_ControlRegisterReads_4 :
    let s : State := (mkS 1 (fun h => { weird 1 h with pc := 64 }))
    let c : BitVec 12 := 0x31
    let n : Nat := c.toNat
    s.trapReady ∧
    s.hart.mode = Mode.program ∧
    (n = 18 ∨ 48 ≤ n ∧ n ≤ 55) := by decide +kernel

theorem witness_ControlRegisterReads_5 :
    let s : State := (mkS 1 (fun h => { weird 2 h with pc := 64 }))
    let c : BitVec 12 := 0x50
    let n : Nat := c.toNat
    s.trapReady ∧
    n = 80 := by decide +kernel

theorem witness_ControlRegisterReads_6 :
    let s : State := (mkS 1 (fun h => { weird 1 h with pc := 2000 }))
    let c : BitVec 12 := 0xFFF
    let n : Nat := c.toNat
    s.trapReady ∧
    82 ≤ n := by decide +kernel

theorem witness_TrapsAndReturns_2 :
    let s : State := (mkS 1 (weird 1))
    s.hart.outst = [] ∧
    s.hart.mode = Mode.program ∧
    BitVec.toNat s.hart.xvec < s.cc.codesz.toNat := by decide +kernel

theorem witness_TrapsAndReturns_3 :
    let s : State := (mkS 1 (weird 2))
    s.hart.outst = [] ∧
    s.hart.mode = Mode.supervisor ∧
    BitVec.toNat s.hart.xpc < s.cc.codesz.toNat := by decide +kernel

theorem witness_TrapsAndReturns_4 :
    let s : State := (mkS 1 (fun h => { weird 2 h with xpc := 1024 }))
    s.hart.outst = [] ∧
    s.hart.mode = Mode.supervisor ∧
    s.cc.codesz.toNat ≤ BitVec.toNat s.hart.xpc ∧
    BitVec.toNat s.hart.xvec < s.cc.codesz.toNat := by decide +kernel

theorem witness_NoEffectInstructions_1 :
    let s : State := (mkS 1 (fun h => { weird 1 (setG 4 0x8000000000000000 h) with xpc := 1024 }))
    let k : BitVec 6 := 0
    let p : BitVec 20 := 0x20000
    s.hart.outst = [] ∧
    BitVec.msb (s.rg (BitVec.ofNat 5 (p.toNat / 2 ^ 15)) + wrap (toS p.toNat 15 * 128)) = true ∧
    k ≠ 1 ∧
    k ≠ 2 := by decide +kernel

theorem witness_CasgoStarts_1 :
    let s : State := (mkS 1 (fun h => (weird 2 (setG 4 3 h))))
    let a : BitVec 5 := 4
    let v : Nat := BitVec.toNat (s.rg a)
    let p : Nat := bits v 55 32
    s.hart.outst = [] ∧
    s.hart.orsLocal = 0 ∧
    s.hart.orsFab = 0 ∧
    s.cc.cas.state ≠ RunState.running ∧
    (bit v 63 = true → p % 64 = 0 ∧ p + 64 ≤ s.cc.scratchSize) := by decide +kernel

theorem witness_MessageResults_1 :
    let s : State := (mkS 1 (fun h => (weird 2 (setG 2 0x8000000800800008 h))))
    let d : BitVec 5 := 5
    let a : BitVec 5 := 2
    let mask : BitVec 16 := BitVec.setWidth 16 (s.rg a)
    let t : Word := s.resolve (s.rg a)
    s.writable d ∧
    BitVec.toNat t % 8 = 0 ∧
    BitVec.msb t = true ∧
    bits (BitVec.toNat t) 32 24 = 0 ∧
    8388608 ≤ addrOff t ∧
    addrOff t ≤ 8389119 ∧
    addrY t ≤ 99 ∧
    s.hart.postRoom = true ∧
    s.hart.outst = [] ∧
    mask ≠ 0 ∧
    s.hart.full &&& mask = 0 := by decide +kernel

theorem witness_MessageResults_2 :
    let s : State := (mkS 1 (fun h => (weird 2 (setG 2 0 h))))
    let d : BitVec 5 := 5
    let a : BitVec 5 := 2
    let mask : BitVec 16 := BitVec.setWidth 16 (s.rg a)
    s.writable d ∧
    s.hart.outst = [] ∧
    (mask = 0 ∨ s.hart.full &&& mask ≠ 0) := by decide +kernel

end WT5

namespace WT8c

theorem witness_VectorConversions_2 :
    let e : BitVec 4 := 0
    let src : BitVec 4 := 0
    let w : Nat := etBits e
    w ≤ etBits src ∧
    etAny src = true ∧
    etAny e = true := by decide +kernel

end WT8c

namespace WU1
def word1 (i : Instr) (k : Core) : Core := k.swrite 68 4 ((encode i).getD 0).toNat
def bd : State := base (setG 1 7) (word1 (.addi 6 1 5))
def bb : State := base (fun h => { h with binds := h.binds.set 15 { valid := true, dest := 6 } })
def ri : State := base (fun h => setG 2 0x10000 (setG 3 512 (setG 4 0xFFFFFFFFFFF8 h)))
def rv : State := base (fun h => setG 2 0x10000 (setG 3 512 (setG 4 0x100 h))) (fun k => { k with regions := k.regions.set 7 ⟨true, 0x10000, 2, 0x10000⟩ })
def rw_ : State := base (fun h => setG 2 0xFFF h)
def sec : Sector := { way := 11, addr := 0x10080, data := 5, dirty := 3, poison := false }
def wb : State := base (fun h => setG 2 0x10000 (setG 3 512 (setG 4 0x100 h))) (fun k => { k with regions := k.regions.set 7 ⟨true, 0x10000, 2, 0x10000⟩, cache := [sec], waymask := 0x7FF })

theorem witness_BindCaptures_1 :
    let s : State := bd
    let d : BitVec 5 := 6
    let n : BitVec 2 := 0
    let k : BitVec 4 := 0
    let c : Nat := n.toNat + 1
    let pc : Nat := BitVec.toNat s.hart.pc
    let ws : List (BitVec 32) := wordsFrom s.cc s.hart (pc + 4) c
    s.hart.outst = [] ∧
    (∀ i < c, codeLine (pc + 4 + 4 * i) ∉ s.cc.codeStall) ∧
    List.findSome? id (s.bindChecks d c ws) = none ∧
    s.hart.freeSlot = some k ∧
    (s.hart.withBinding k d n ws).greatestLevel.1 ≤ 8 := by decide +kernel

theorem witness_BindCaptures_2 :
    let s : State := bb
    let d : BitVec 5 := 6
    let n : BitVec 2 := 0
    let k : BitVec 4 := 15
    let c : Nat := n.toNat + 1
    let pc : Nat := BitVec.toNat s.hart.pc
    s.trapReady ∧
    (∀ i < c, codeLine (pc + 4 + 4 * i) ∉ s.cc.codeStall) ∧
    pc + 4 + 4 * c ≤ s.cc.codesz.toNat ∧
    (∀ i < c, codeLine (pc + 4 + 4 * i) ∉ s.cc.codePoison) ∧
    d ≠ 0 ∧
    s.hart.slotOf d = some k := by decide +kernel

theorem witness_BindCaptures_3 :
    let s : State := (base id)
    let d : BitVec 5 := 0
    let n : BitVec 2 := 3
    let c : Nat := n.toNat + 1
    let pc : Nat := BitVec.toNat s.hart.pc
    s.trapReady ∧
    (∀ i < c, codeLine (pc + 4 + 4 * i) ∉ s.cc.codeStall) ∧
    pc + 4 + 4 * c ≤ s.cc.codesz.toNat ∧
    (∀ i < c, codeLine (pc + 4 + 4 * i) ∉ s.cc.codePoison) ∧
    d = 0 := by decide +kernel

theorem witness_BindCaptures_4 :
    let s : State := (base (fun h => { h with pc := 1020 }))
    let n : BitVec 2 := 0
    let c : Nat := n.toNat + 1
    let pc : Nat := BitVec.toNat s.hart.pc
    s.trapReady ∧
    (∀ i < c, codeLine (pc + 4 + 4 * i) ∉ s.cc.codeStall) ∧
    s.cc.codesz.toNat < pc + 4 + 4 * c := by decide +kernel

theorem witness_RegionInstructions_1 :
    let s : State := ri
    let e : BitVec 3 := 7
    let a : BitVec 5 := 2
    let b : BitVec 5 := 3
    let A : Nat := BitVec.toNat (s.rg a)
    let size : Nat := BitVec.toNat (s.rg b)
    let obj : Nat := BitVec.toNat (s.rg (b + 1))
    let old : Region := s.cc.region e
    let clean : (Sector → Bool) → Prop := fun (p : Sector → Bool) => s.flushHeld p = false ∧ s.cc.anyDirty p = false ∧ s.backsPending s.cur.core = false
    let range : Word := s.resolve (s.rg a)
    let covered : Sector → Bool := fun (x : Sector) => x.within (BitVec.toNat range) size
    A % 512 = 0 ∧
    size % 512 = 0 ∧
    0 < size ∧
    obj % 8 = 0 ∧
    obj < 2 ^ 48 ∧
    A + size ≤ 2 ^ 48 ∧
    (∀ (i : BitVec 3), i ≠ e → (s.cc.region i).valid = true → A + size ≤ (s.cc.region i).base ∨ (s.cc.region i).base + 512 * (s.cc.region i).size ≤ A) ∧
    clean old.covers ∧
    BitVec.toNat range + size ≤ 2 ^ 48 ∧
    clean covered ∧
    old.valid = false ∧
    s.hart.outst = [] ∧
    A % 8 = 0 ∧
    A < 2 ^ 48 ∧
    s.hart.orsLocal = 0 ∧
    s.hart.orsFab = 0 ∧
    clean (s.cc.ofObj A) := by decide +kernel

theorem witness_RegionInstructions_2 :
    let s : State := rv
    let e : BitVec 3 := 7
    let old : Region := s.cc.region e
    let clean : (Sector → Bool) → Prop := fun (p : Sector → Bool) => s.flushHeld p = false ∧ s.cc.anyDirty p = false ∧ s.backsPending s.cur.core = false
    old.valid = true ∧
    clean old.covers := by decide +kernel

theorem witness_RegionInstructions_3 :
    let s : State := rw_
    let a : BitVec 5 := 2
    let d : BitVec 5 := 5
    let A : Nat := BitVec.toNat (s.rg a)
    s.hart.outst = [] ∧
    s.writable d ∧
    A < 2 ^ 12 ∧
    lowestWays A ((s.cc.codesz.toNat + 32767) / 32768) = lowestWays s.cc.waymask.toNat ((s.cc.codesz.toNat + 32767) / 32768) ∧
    s.cc.wayWait = none ∧
    s.wayBusy (BitVec.ofNat 12 A) = false := by decide +kernel

theorem witness_WriteBacksFirst_1 :
    let s : State := wb
    let e : BitVec 3 := 7
    let a : BitVec 5 := 2
    let b : BitVec 5 := 3
    let range : Word := s.resolve (s.rg a)
    let size : Nat := BitVec.toNat (s.rg b)
    let A : Nat := BitVec.toNat (s.rg a)
    (∀ p : Sector → Bool, s.flushHeld p = false) ∧
    (s.cc.region e).valid = true ∧
    s.cc.anyDirty (s.cc.region e).covers = true ∧
    BitVec.toNat range + size ≤ 2 ^ 48 ∧
    ((s.cc.anyDirty fun (x : Sector) => x.within (BitVec.toNat range) size) = true) ∧
    List.findSome? id (s.rbindChecks e (s.rg a) (s.rg b) (s.rg (b + 1))) = none ∧
    s.hart.outst = [] ∧
    s.hart.orsLocal = 0 ∧
    s.hart.orsFab = 0 ∧
    A % 8 = 0 ∧
    A < 2 ^ 48 ∧
    s.cc.anyDirty (s.cc.ofObj A) = true := ⟨fun _ => rfl, by decide +kernel⟩

theorem witness_ScratchReadAfterWrite_1 :
    let k : Core := c0
    let o : Nat := 0x5FFF8
    let n : Nat := 8
    Memory.wf k.lmem = true ∧
    o + n ≤ k.scratchSize := by decide +kernel

end WU1

namespace WT40
def pair (w : BitVec 32) (f : Hart → Hart := id) : State :=
  mkS 3 (fun h => f { weird 2 h with pc := 64 }) (fun c => (c.swrite 64 4 ((encode (.imx 3)).getD 0).toNat).swrite 68 4 w.toNat)
def pairOf (i : Instr) (a : Word) : State := pair ((encode i).getD 0) (setG 6 a)
def sec (a : Nat) : Sector := { way := 11, addr := a, data := BitVec.ofNat 1024 0x1122334455667788990011223344556677, dirty := 5, poison := false }
def region (l : List Nat) (f : Hart → Hart := id) : State :=
  mkS 1 (fun h => f (weird 1 (setG 2 0x10080 h)))
    (fun k => { k with waymask := 0x7FF, regions := k.regions.set 3 ⟨true, 0x10000, 2, 0x8000⟩, cache := l.map sec })
def watched (r w filled : Nat) (slot : Nat) : State :=
  own 2 (BitVec.ofNat 64 (0xFFF0000000001000 + 16 * slot))
    (k := fun k => { k.swrite 0x800 32 (r + w * 2^32 + 4 * 2^87 + 3 * 2^91 + 2^96 + 0xFFFF * 2^112 + 0x1000 * 2^128 + filled * 2^160) with
                     watchers := k.watchers.set 2 (some 0x800) })
def eaOf (s : State) (x : BitVec 26) (o : BitVec 9) (n : Nat) : Word := s.resolve (s.rg 6 + BitVec.ofInt 64 ((x ++ o).toInt * n))

theorem witness_ImmediateResults_load :
    let s : State := pairOf (.ld 5 6 2 3 5) 0xFFF0000000000800
    let off : Nat := 0x800 + 8 * (3 * 512 + 5)
    let ea := eaOf s 3 5
    s.hart.pc.toNat + 4 < s.cc.codesz.toNat ∧ decodeWord (fetchWord s.cc s.hart (s.hart.pc.toNat + 4)) = some (.ld 5 6 2 3 5) ∧ s.writable 5 ∧
    s.classify (ea 8) 8 8 false = .ok (.own off) ∧ s.waitsFor (.own off) (ea 8) 8 = false ∧ s.watchNow (ea 8) 8 true false = none ∧
    s.cc.spoisoned off 8 = false := by decide +kernel

theorem witness_ImmediateResults_loadFar :
    let s : State := pairOf (.ld 5 6 2 3 5) 0x4000
    let ea := eaOf s 3 5
    s.hart.pc.toNat + 4 < s.cc.codesz.toNat ∧ decodeWord (fetchWord s.cc s.hart (s.hart.pc.toNat + 4)) = some (.ld 5 6 2 3 5) ∧ s.writable 5 ∧
    s.cc.regionAt (ea 8).toNat = none ∧ s.classify (ea 8) 8 8 false = .ok .global ∧ s.waitsFor .global (ea 8) 8 = false := by decide +kernel

theorem witness_ImmediateResults_pairs :
    let s : State := pairOf (.ldp 8 6 2 1 4) 0xFFF0000000000800
    let off : Nat := 0x800 + 8 * (3 * 512 + 4)
    let ea := eaOf s 3 4
    decodeWord (fetchWord s.cc s.hart (s.hart.pc.toNat + 4)) = some (.ldp 8 6 2 1 4) ∧ s.writable 8 ∧ s.writable 9 ∧
    s.classify (ea 8) 16 16 false = .ok (.own off) ∧ s.waitsFor (.own off) (ea 8) 16 = false ∧ s.watchNow (ea 8) 16 true false = none ∧
    s.cc.spoisoned off 16 = false := by decide +kernel

theorem witness_ImmediateResults_store :
    let s : State := pairOf (.str 5 6 3 5) 0xFFF0000000000800
    let off : Nat := 0x800 + 8 * (3 * 512 + 5)
    let ea := eaOf s 3 5
    decodeWord (fetchWord s.cc s.hart (s.hart.pc.toNat + 4)) = some (.str 5 6 3 5) ∧
    s.classify (ea 8) 8 8 true = .ok (.own off) ∧ s.waitsFor (.own off) (ea 8) 8 = false ∧ s.watchNow (ea 8) 8 false true = none ∧
    (s.hart.outst = [] ∧ s.hart.orsLocal = 0 ∧ s.hart.orsFab = 0) ∧ s.cc.header off = none := by decide +kernel

theorem witness_ImmediateResults_storePair :
    let s : State := pairOf (.stp 5 6 0 4) 0xFFF0000000000800
    let off : Nat := 0x800 + 4 * (3 * 512 + 4)
    let ea := eaOf s 3 4
    decodeWord (fetchWord s.cc s.hart (s.hart.pc.toNat + 4)) = some (.stp 5 6 0 4) ∧
    s.classify (ea 4) 8 8 false = .ok (.own off) ∧ s.waitsFor (.own off) (ea 4) 8 = false ∧ s.watchNow (ea 4) 8 false true = none := by decide +kernel

theorem witness_ImmediateResults_refused :
    let s : State := pairOf (.add 5 6 1 0 0) 0
    s.trapReady ∧ s.hart.pastEnd = false ∧ decodeWord (fetchWord s.cc s.hart s.hart.pc.toNat) = some (.imx 3) ∧
    s.hart.pc.toNat + 4 < s.cc.codesz.toNat ∧ decodeWord (fetchWord s.cc s.hart (s.hart.pc.toNat + 4)) = some (.add 5 6 1 0 0) := by decide +kernel

theorem witness_ImmediateResults_lastWord :
    let s : State := mkS 3 (fun h => { weird 2 h with pc := 1020 }) (fun c => c.swrite 1020 4 ((encode (.imx 3)).getD 0).toNat)
    s.trapReady ∧ s.hart.pastEnd = false ∧ decodeWord (fetchWord s.cc s.hart s.hart.pc.toNat) = some (.imx 3) ∧
    s.cc.codesz.toNat ≤ s.hart.pc.toNat + 4 := by decide +kernel

theorem witness_Loads_hit :
    let s : State := region [0x10080]
    let ea := s.resolve (s.rg 2)
    s.writable 5 ∧ s.classify ea 8 8 false = .ok .global ∧ s.waitsFor .global ea 8 = false ∧ s.cc.regionAt ea.toNat ≠ none ∧
    s.cc.sectorAt ea.toNat = some (sec 0x10080) ∧ (sec 0x10080).poison = false ∧ s.watchNow ea 8 true false = none := by decide +kernel

theorem witness_Loads_miss :
    let s : State := region []
    let ea := s.resolve (s.rg 2)
    s.writable 5 ∧ s.classify ea 8 8 false = .ok .global ∧ s.waitsFor .global ea 8 = false ∧ s.cc.regionAt ea.toNat ≠ none ∧
    s.cc.sectorAt ea.toNat = none := by decide +kernel

theorem witness_Stores_hit :
    let s : State := region [0x10080]
    let ea := s.resolve (s.rg 2)
    s.classify ea 8 8 true = .ok .global ∧ s.waitsFor .global ea 8 = false ∧ s.cc.regionAt ea.toNat ≠ none ∧ s.cc.sectorAt ea.toNat ≠ none ∧
    s.watchNow ea 8 false true = none ∧ (s.hart.outst = [] ∧ s.hart.orsLocal = 0 ∧ s.hart.orsFab = 0) := by decide +kernel

theorem witness_Stores_miss :
    let s : State := region []
    let ea := s.resolve (s.rg 2)
    s.classify ea 8 8 true = .ok .global ∧ s.waitsFor .global ea 8 = false ∧ s.cc.regionAt ea.toNat ≠ none ∧ s.cc.sectorAt ea.toNat = none ∧
    s.hart.postRoom = true ∧ (s.hart.outst = [] ∧ s.hart.orsLocal = 0 ∧ s.hart.orsFab = 0) := by decide +kernel

theorem witness_Stores_missNoRoom :
    let s : State := region [] (fun h => { h with rejLog := List.replicate 8 ⟨1, 2, 3, 4⟩ })
    let ea := s.resolve (s.rg 2)
    s.classify ea 8 8 true = .ok .global ∧ s.waitsFor .global ea 8 = false ∧ s.cc.regionAt ea.toNat ≠ none ∧ s.cc.sectorAt ea.toNat = none ∧
    s.hart.postRoom = false := by decide +kernel

theorem witness_Stores_publish :
    let s : State := watched 5 5 0 5
    let ea := s.resolve (s.rg 2)
    let r := s.cc.sread 0x800 32
    s.classify ea 8 8 true = .ok (.own 0x1050) ∧ s.waitsFor (.own 0x1050) ea 8 = false ∧
    (s.hart.outst = [] ∧ s.hart.orsLocal = 0 ∧ s.hart.orsFab = 0) ∧ s.cc.header 0x1050 = some (0x800, 5) ∧
    ¬(2 ^ bits r 95 91 ≤ (bits r 63 32 + 2 ^ 32 - bits r 31 0) % 2 ^ 32 + (5 + 2 ^ bits r 95 91 - bits r 63 32 % 2 ^ bits r 95 91) % 2 ^ bits r 95 91) ∧
    s.watchNow ea 8 false true = none := by decide +kernel

theorem witness_Stores_publishFull :
    let s : State := watched 5 6 1 5
    let ea := s.resolve (s.rg 2)
    let r := s.cc.sread 0x800 32
    s.trapReady ∧ s.classify ea 8 8 true = .ok (.own 0x1050) ∧ s.waitsFor (.own 0x1050) ea 8 = false ∧
    (s.hart.outst = [] ∧ s.hart.orsLocal = 0 ∧ s.hart.orsFab = 0) ∧ s.cc.header 0x1050 = some (0x800, 5) ∧
    2 ^ bits r 95 91 ≤ (bits r 63 32 + 2 ^ 32 - bits r 31 0) % 2 ^ 32 + (5 + 2 ^ bits r 95 91 - bits r 63 32 % 2 ^ bits r 95 91) % 2 ^ bits r 95 91 := by
  decide +kernel

end WT40

/-! Witnesses of the clauses that the second review asked for. -/

namespace WR2

/-! O3, O9, O13, O14, O18, O21, O25. -/

def imf (i : Instr) (a : Word) (f : Hart → Hart := id) : State :=
  mkS 3 (fun h => f { weird 2 (setG 6 a h) with pc := 64, aflags := 0, stepArm := false }) (fun k => k.swrite 68 4 ((encode i).getD 0).toNat)
def full (h : Hart) : Hart := { h with rejLog := List.replicate 8 ⟨1, 2, 3, 4⟩ }
def sv (f : Hart → Hart := id) (k : Core → Core := id) : State := mkS 3 (fun h => f { h with aflags := 0, mode := .supervisor, xvec := 512 }) k

/-- an extended store elsewhere: of 4 bytes in global memory, of 8 released there, a pair in another module; and without room -/
theorem witness_ImmediateResults_far :
    let ea := fun (s : State) (n : Nat) => s.resolve (s.rg 6 + BitVec.ofInt 64 (((1 : BitVec 26) ++ (5 : BitVec 9)).toInt * n))
    let ready := fun (s : State) (i : Instr) (p : Place) (n m : Nat) (win : Bool) =>
      s.hart.pc.toNat + 4 < s.cc.codesz.toNat ∧ decodeWord (fetchWord s.cc s.hart (s.hart.pc.toNat + 4)) = some i ∧
      s.classify (ea s n) m m win = .ok p ∧ s.waitsFor p (ea s n) m = false
    let free := fun (s : State) => s.hart.outst = [] ∧ s.hart.orsLocal = 0 ∧ s.hart.orsFab = 0
    let a : State := imf (.st 5 6 2 5) 0x10000
    let b : State := imf (.str 5 6 3 5) 0x10000
    let c : State := imf (.stp 5 6 1 5) 0x8010000000001008
    (ready a (.st 5 6 2 5) .global 4 4 false ∧ a.cc.regionAt (ea a 4).toNat = none ∧ a.hart.postRoom = true) ∧
    (ready b (.str 5 6 3 5) .global 8 8 true ∧ b.cc.regionAt (ea b 8).toNat = none ∧ free b ∧ b.hart.postRoom = true) ∧
    (ready c (.stp 5 6 1 5) .fabric 8 16 false ∧ addrOff (ea c 8) < 0x800000 ∧ c.hart.postRoom = true) ∧
    (imf (.st 5 6 2 5) 0x10000 full).hart.postRoom = false := by decide +kernel

theorem witness_Stores_releaseWaits :
    (sv (fun h => outs (setG 2 0x8000000000000400 h))).hart.outst ≠ [] ∧ (sv (fun h => { h with orsLocal := 1 })).hart.orsLocal ≠ 0 ∧
    (sv (fun h => { h with orsFab := 1 })).hart.orsFab ≠ 0 := by decide +kernel

/-- a number of each gap between the tables -/
theorem witness_ControlRegisterReads_gaps :
    (sv).trapReady ∧ ([0x00F, 0x013, 0x01F, 0x025, 0x02F, 0x038, 0x048, 0x052, 0xFFF] : List (BitVec 12)).all (fun c =>
      let n := c.toNat
      decide (0x004 ≤ n ∧ n ≤ 0x00F ∨ 0x013 ≤ n ∧ n ≤ 0x017 ∨ 0x01A ≤ n ∧ n ≤ 0x01F ∨ 0x025 ≤ n ∧ n ≤ 0x027 ∨ 0x02A ≤ n ∧ n ≤ 0x02F ∨
        0x038 ≤ n ∧ n ≤ 0x03F ∨ 0x048 ≤ n ∧ n ≤ 0x04F ∨ 0x052 ≤ n)) = true := by decide +kernel

/-- a cycle counter of the other mode, and one of event 0x04 without a blocking point, do not stand in the way; and 3 for SLEEPD -/
theorem witness_ControlRegisterWrites_3 :
    let s : State := sv (fun h => { h with cntsel := #v[0xA001, 0xE004, 0xA003, 0], ran := 2, stalled := 0 })
    s.writable 5 ∧ s.hart.outst = [] ∧ s.hart.mode = .supervisor ∧
    (∀ j : Fin 4, cyclesIn (s.hart.cntsel.get j) (s.hart.modesOf (s.hart.cntsel.get j)) = false) ∧
    (sv (setG 5 0xFFF7)).trapReady ∧ ((sv (setG 5 0xFFF7)).rg 5).toNat % 4 = 3 := by decide +kernel

theorem witness_MessageResults_traps :
    let a : State := sv (setG 2 0x8000000000800001)
    let b : State := sv (setG 2 0x8000000000800200)
    let c : State := mkS 3 (fun h => full (setG 2 0x8000000000800008 h))
    a.trapReady ∧ (a.resolve (a.rg 2)).toNat % 8 ≠ 0 ∧ b.trapReady ∧ (b.resolve (b.rg 2)).toNat % 8 = 0 ∧ 0x8001FF < addrOff (b.resolve (b.rg 2)) ∧
    (let t := c.resolve (c.rg 2)
     c.writable 5 ∧ t.toNat % 8 = 0 ∧ t.msb = true ∧ bits t.toNat 32 24 = 0 ∧ 0x800000 ≤ addrOff t ∧ addrOff t ≤ 0x8001FF ∧ addrY t ≤ 99 ∧
     c.overlapping t 8 = false ∧ c.hart.postRoom = false) := by decide +kernel

/-- no byte at the last address below 2^48, and at 2^48 -/
theorem witness_RegionInstructions_edge :
    let s : State := sv (fun h => setG 2 0xFFFFFFFFFFFF (setG 3 0 h))
    let t : State := sv (fun h => setG 2 0x1000000000000 (setG 3 0 h))
    (s.resolve (s.rg 2)).toNat < 2 ^ 48 ∧ (s.resolve (s.rg 2)).toNat + (s.rg 3).toNat ≤ 2 ^ 48 ∧ s.cc.anyDirty (fun x => x.within 0xFFFFFFFFFFFF 0) = false ∧
    s.flushHeld (fun x => x.within 0xFFFFFFFFFFFF 0) = false ∧
    s.backsPending s.cur.core = false ∧ t.trapReady ∧ (t.resolve (t.rg 2)).toNat = 2 ^ 48 ∧ (t.rg 3).toNat = 0 := by decide +kernel

def ringAt (g3 : Word) (up : Bool := true) : State := sv (fun h => setG 4 0x2000 (setG 3 g3 (setG 2 0x8000000000000400 h))) (fun k =>
  k.swrite 0x400 32 (if up then 6 * 2 ^ 32 + 5 + 4 * 2 ^ 87 + 2 * 2 ^ 91 + 0xFFFF * 2 ^ 112 + 0x800 * 2 ^ 128 + 2 ^ 160 else 0))

/-- a BARR at a global address; a buffer that is not aligned, and one that is not in the own scratch; ring fields that do not hold -/
theorem witness_RegionAndObjectTraps_12 :
    let b : State := sv (setG 2 0x10040)
    let ea := b.resolve (b.rg 2)
    let r := (ringAt 0).resolve ((ringAt 0).rg 2)
    let g := fun (a : Word) => (ringAt a).resolve ((ringAt a).rg 3)
    b.trapReady ∧ b.writable 5 ∧ ea.toNat % 16 = 0 ∧ b.classify ea 16 16 false = .ok .global ∧
    (ringAt 0).trapReady ∧ (ringAt 0).writable 5 ∧ (ringAt 0).classify r 32 32 false = .ok (.own 0x400) ∧ (ringAt 0).wayHeld (.own 0x400) r 32 = false ∧
    (g 0x8000000000000801).toNat % 16 ≠ 0 ∧ (g 0x10040).toNat % 16 = 0 ∧ (ringAt 0x10040).classify (g 0x10040) 16 16 false = .ok .global ∧
    bits ((ringAt 0x8000001).rg 3).toNat 31 27 ≠ 0 ∧ bit ((ringAt 0x8000001).rg 3).toNat 0 = true := by decide +kernel

/-! O38. -/

theorem witness_GroupInstructions_7 :
    let w : State := WT21.gg 4 (fun h => { h with orsLocal := 1, dmemb := 0x1055 })
    let x : State := WT21.gg 4 id (fun k => { k with cas := { k.cas with state := .running, starter := 0 } })
    w.hart.outst = [] ∧ w.hart.group = some WT21.g0 ∧ ¬(w.hart.orsLocal = 0 ∧ w.hart.orsFab = 0) ∧ bit w.hart.dmemb.toNat 0 = true ∧ bits w.hart.dmemb.toNat 15 13 = 0 ∧
    x.hart.outst = [] ∧ x.hart.group = some WT21.g0 ∧ x.cc.cas.state = .running ∧ x.cc.cas.starter = x.cur.hart ∧ (WT21.gg 4 outs).hart.outst ≠ [] := by
  decide +kernel

/-! O41. -/

def asking (r : Req) (sl : Sleep := .awake) : State :=
  { base (fun h => { h with outst := [{ id := 3, pc := 60, dests := [5], credit := 1, passed := false }] }) (fun k => { k with sleep := sl })
      [(6, hart1 id { c0 with vc := 6 })] with net := [r] }
def ld (ea : Word) (st : Stage) : Req := rq (.load 8 (.one 5 8 true)) ea st .request
def am (ea : Word) (st : Stage) : Req := rq (.amo 1 8 5 6) ea st .request

/-- a load and an atomic refused by the source router, by the controller of their core and by the port, for a core awake and asleep -/
theorem witness_RequestRouting_refused :
    let ga := WT25.ga
    let far : Word := ga (16 * 256 * 50) 0x800
    let out : Word := 0x8010000000000800
    let next := fun (r : Req) => (asking r).reqNext 3 = some r ∧ (asking r (.asleep 1)).reqNext 3 = some r ∧ ((asking r).core 5).sleep = .awake ∧ r.src = .hart 5 1
    (next (ld far .sent) ∧ addrMod far = 2047 ∧ (asking (ld far .sent)).placed 0 far = false) ∧
    (next (ld (ga 7 0x800) (.toCore 7)) ∧ (asking (ld (ga 7 0x800) (.toCore 7))).spot 0 7 = none) ∧
    (let r := ld (ga 6 0x5FFFC) (.toCore 6)
     let s := asking r
     next r ∧ s.spot 0 6 = some (.core 6) ∧ (s.spotCore 0 (.core 6)).affected (addrOff r.ea) 8 = false ∧ (s.spotCore 0 (.core 6)).scratchSize < addrOff r.ea + 8) ∧
    (let r := am (ga 6 0x10) (.toCore 6)
     let s := asking r
     next r ∧ s.spot 0 6 = some (.core 6) ∧ addrOff r.ea + 8 ≤ (s.spotCore 0 (.core 6)).scratchSize ∧ addrOff r.ea < (s.spotCore 0 (.core 6)).codesz.toNat) ∧
    (next (ld out .sent) ∧ addrMod out ≠ 2047 ∧ (mapGet ((asking (ld out .sent)).part 0).peers (addrMod out) 0).msb = false) ∧
    (let s := (asking (ld out .sent)).modPart 0 (fun p => { p with peers := mapSet p.peers 1 0xC000000000000000 })
     let peer := mapGet (s.part 0).peers (addrMod out) 0
     s.reqNext 3 = some (ld out .sent) ∧ peer.msb = true ∧ bit peer.toNat 61 = false) := by decide +kernel

/-! O42. -/

theorem witness_MessageDelivery_asleep :
    let r := WT25.ms 6 (.refusedFull 6)
    let s := WT25.dl WT25.x5 r
    s.reqNext 3 = some r ∧ s.locate 0 (addrVcore r.ea) = some 6 ∧ (s.core 6).hostsPart 0 = true ∧ ((s.core 6).hart (winHart (addrOff r.ea))).group ≠ none ∧
    (s.core 6).sleep ≠ .awake := by decide +kernel

/-! O43. -/

def page (l : Leaf) (r : Req) : State := WT26.net (WT26.tr l base) [r]
def gl (st : Stage) : Req := WT26.gs (.load 8 (.one 5 8 true)) st .request

/-- a page without the right, one whose home lies outside the rectangle, one without a leaf; a walk that finds its leaf cached -/
theorem witness_HomeAccesses_refused :
    (let s := page (WT26.lf (r := false)) (gl .sent)
     s.reqNext 3 = some (gl .sent) ∧ s.translatingSlice 0 0x10040 = some (0, 0) ∧ s.cachedLeaf 0 0 0 0x10040 = some (WT26.lf (r := false)) ∧
     (WT26.lf (r := false)).permits 0 ((gl .sent).kind.need true) = false) ∧
    (let l := WT26.lf (hx := 200)
     let s := page l (gl .sent)
     s.homeSlice 0 l (l.phys 0x10040) = none ∧ l.permits 0 ((gl .sent).kind.need true) = true ∧ s.mustWait (gl .sent) 0 0 l = false) ∧
    (let s := WT26.wk (gl (.walking 0 0)) 0
     s.reqAt 3 = some (gl (.walking 0 0)) ∧ s.cachedLeaf 0 0 0 0x10040 = none ∧ s.merged (gl (.walking 0 0)) = [gl (.walking 0 0)] ∧
     (match s.walk 0 0x10040 0 with | .error .invalid => true | _ => false) = true) ∧
    (let s := page (WT26.lf) (gl (.walking 0 0))
     s.reqNext 3 = some (gl (.walking 0 0)) ∧ s.reqAt 3 = some (gl (.walking 0 0)) ∧ s.cachedLeaf 0 0 0 0x10040 = some WT26.lf) := by decide +kernel

/-- a translating slice that is the home: it accepts a store, and one behind an earlier store of its path must wait -/
theorem witness_HomeAccesses_mustWait :
    let r : Req := { WT26.sto with id := 4 }
    let a := page WT26.lf WT26.sto
    let b := WT26.net (WT26.tr WT26.lf base) [WT26.gs (.store 4 0x88 false) (.toHome 0 0 0x10000000040), r]
    a.homeSlice 0 WT26.lf (WT26.lf.phys 0x10040) = some (0, 0) ∧ a.mustWait WT26.sto 0 0 WT26.lf = false ∧
    b.mustWait r 0 0 WT26.lf = true := by decide +kernel

/-- no line of the slice holds the sector: HBM does -/
theorem witness_HomeAccesses_hbm :
    (base).lineAt 0 0 (0x10000000040 / 512) = none ∧ (base).memOk ∧ 0x10000000040 % 128 + 8 ≤ 128 ∧ 0x10000000048 % 128 + 8 ≤ 128 := by decide +kernel

/-! O44. -/

def filling (kind : ReqKind) : State :=
  WT26.net (base (fun h => { h with outst := [{ id := 2, pc := 60, dests := [4], credit := 1, passed := true }, { id := 3, pc := 64, dests := [5], credit := 2, passed := true }] })
    (fun k => { k with waymask := 0xFF7, regions := k.regions.set 0 ⟨true, 0x10000, 4, 0⟩ })) [rq kind 0x10048 (.reply 0x1122 false 0 none) .response]

theorem witness_Returns_fills :
    ([.fillLoad 4 (.one 5 4 false), .fillStore 4 0x99] : List ReqKind).all (fun kind =>
      let s := filling kind
      let k := s.core 5
      let x := s.hartOf 5 1
      decide (s.reqNext 3 = some (rq kind 0x10048 (.reply 0x1122 false 0 none) .response) ∧ k.live = true ∧ (k.regionAt 0x10048).isSome = true ∧ k.sectorAt 0x10048 = none ∧
        k.cacheWays ≠ [] ∧ (∀ o ∈ x.outst, o.fault = none) ∧ (∀ n : BitVec 4, (x.slot n).valid = false) ∧ (x.outst.find? (fun o => o.id == 3)).isSome = true)) = true := by
  decide +kernel

/-- an ACQ.X on a free object and on one that is held, an ACQ.S on the last count but one and on the last; a sector that is present -/
theorem witness_Returns_acqHome :
    let at_ := fun (v : Nat) (e : Bool) => (WT26.ob v e).reqAt 3 = some (WT26.m3 e) ∧ (WT26.ob v e).syncWaiters 0x100 = [WT26.m3 e] ∧
      (WT26.ob v e).objectAt 0x100 = v ∧ (WT26.ob v e).sliceHit 0 0 0x100 0 = false ∧ (WT26.ob v e).fillWaiters 0 0 0x100 = [] ∧
      ((WT26.ob v e).sliceFill 0 0 0x100 0).1.objectAt 0x100 = v
    at_ 0 true ∧ at_ 5 true ∧ at_ (2 ^ 32 - 2) false ∧ at_ (2 ^ 32 - 1) false ∧ at_ (2 ^ 40) true ∧
    (let s : State := { WT26.ob 0 true with slices := [{ x := 0, y := 0, line := 0, owner := 0, valid := 15, dirty := 0, data := 0 }] }
     s.sliceHit 0 0 0x100 0 = true ∧ s.objectAt 0x100 = 0 ∧ s.syncWaiters 0x100 = [WT26.m3 true] ∧ s.fillWaiters 0 0 0x100 = []) := by decide +kernel

def acqAns (st : Stage) : Req := { WT26.m3 true with stage := st, cls := .response }
def acqEnd (st : Stage) : State := WT26.net (base (fun h => { h with block := some (.acq 3) })) [acqAns st]

theorem witness_Returns_acqAnswer :
    let a := acqEnd (.reply 0 false 0 none)
    let b := acqEnd (.rejected 9)
    (a.reqNext 3 = some (acqAns (.reply 0 false 0 none)) ∧ (a.core 5).live = true ∧ (a.hartOf 5 1).block = some (.acq 3) ∧ (a.core 5).cache = [] ∧
      a.backsPending 5 = false ∧ ∀ q ∈ a.net, 4 ≤ q.stage.kind → q.kind.isFill = false) ∧
    (b.reqNext 3 = some (acqAns (.rejected 9)) ∧ (b.hartOf 5 1).stopping = false ∧ (b.hartOf 5 1).xvec.toNat < (b.core 5).codesz.toNat ∧ (b.hartOf 5 1).arrPend = 0) := by
  decide +kernel

/-! O45. -/

/-- each cycle event in a mode that it counts, and one whose mode it does not count, of a hart that a sleeping core holds too -/
theorem witness_HartEvents_18 :
    let s := fun (sel : Word) (b : Option Block) => WT15.base (fun h => { h with cntsel := Vector.replicate 4 sel, block := b }) (fun k => { k with sleep := .asleep 1 })
    let counts := fun (sel : Word) (b : Option Block) =>
      let t := s sel b
      let x := t.hartOf 5 1
      let event := bits (x.cntsel.get 2).toNat 7 0
      (t.core 5).vf.isSome && x.group.isSome && bit sel.toNat 15 && bit sel.toNat (if x.mode = .program then 13 else 14) &&
        (event == 1 || (event == 3 && !t.atBlock 5 1) || (event == 4 && t.atBlock 5 1))
    counts 0xA001 none = true ∧ counts 0xA003 none = true ∧ counts 0xA004 (some (.wait 5 4)) = true ∧ counts 0xC001 none = false := by decide +kernel

/-! O46. -/

def eng (e : Engine) (op : CmdOp) (k : Core → Core := id) (w : CopyWork := {}) : State :=
  WT17.base id (fun x => k (x.setEng e { run := some (WT17.q 1 op), work := w }))
def runs (e : Engine) (op : CmdOp) (w : CopyWork) (s : State) : Prop :=
  ((s.core 5).eng e).run = some (WT17.q 1 op) ∧ ((s.core 5).eng e).work = w ∧ (WT17.q 1 op).issuer.toNat < 4 ∧ csBEN (WT17.q 1 op).cs = false ∧ csMEN (WT17.q 1 op).cs = false
def oa (o : Nat) : Word := (WT17.base).cc.ownAddr o
def ownAt (s : State) (ea : Word) (n o : Nat) : Prop := classifyAt (s.core 5).corxy (s.core 5).scratchSize ea 1 n false = .ok (.own o)

theorem witness_EngineSteps_mput :
    let op : CmdOp := .mput 3 4 2 5 (some [splat 7, splat 9])
    let s := eng .matrix op
    runs .matrix op {} s ∧ Memory.wf (s.core 5).opmem = true ∧ ([splat 7, splat 9] : List Tile)[1]? = some (splat 9) := by unfold runs; decide +kernel

theorem witness_EngineSteps_mcbk :
    let op := fun (a : Nat) => CmdOp.mcbk a 0x420
    let s := eng .matrix (op 0x400)
    let k := s.core 5
    (runs .matrix (op 0x400) {} s ∧ 0x400 + 32 ≤ k.scratchSize ∧ 0x420 + 32 ≤ k.scratchSize ∧ k.spoisoned 0x400 32 = false ∧ k.spoisoned 0x420 32 = false) ∧
    (runs .matrix (op 0x5FFF0) {} (eng .matrix (op 0x5FFF0)) ∧ k.scratchSize < 0x5FFF0 + 32) := by unfold runs; decide +kernel

/-- the first block of an MMA, its last with the tile added to, and one of no k at all -/
theorem witness_EngineSteps_mma :
    let op := fun (cb4 ovw : Bool) (kk : Nat) => CmdOp.mma 0x800 1 2 cb4 ovw 0 kk 3 2
    let w : CopyWork := { unit := 1 }
    let s := eng .matrix (op true true 40)
    let t := eng .matrix (op false false 20) id w
    (runs .matrix (op true true 40) {} s ∧ 0x800 + 1024 ≤ (s.core 5).scratchSize ∧ 0 + 0 * 32 < 40 ∧ (s.core 5).opPoison = []) ∧
    (runs .matrix (op false false 20) w t ∧ w.ended = false ∧ w.wait = none ∧ 0 + 1 * 16 < 20 ∧ 20 ≤ 0 + 1 * 16 + 16 ∧
      (List.range 2).all (fun i => !(t.core 5).spoisoned (0x800 + 64 * i) (4 * 3)) = true) ∧
    runs .matrix (op false true 0) {} (eng .matrix (op false true 0)) := by unfold runs; decide +kernel

/-- two rows by a stride forward and one backward; a second row that is not aligned; rows from a map -/
theorem witness_EngineSteps_cpy2 :
    let shape : Word := 2 * 2 ^ 32 + 16
    let op := fun (sh st : Word) (m : BitVec 128) => CmdOp.cpy2 (oa 0x2000) (oa 0x1040) sh st (some (m, 0))
    let s := eng .copy (op shape 0x20FFFFFFD0 0)
    let k := s.core 5
    let w := k.swrite 0x2000 16 (k.sread 0x1040 16)
    (runs .copy (op shape 0x20FFFFFFD0 0) {} s ∧ bits shape.toNat 47 32 = 2 ∧ bits shape.toNat 31 0 = 16) ∧
    (ownAt s (oa 0x1040) 16 0x1040 ∧ ownAt s (oa 0x2000) 16 0x2000 ∧ ownAt s (oa 0x1010) 16 0x1010 ∧ ownAt s (oa 0x2020) 16 0x2020) ∧
    (resolveAddr s.fabricNo k.corxy (oa 0x1040 + 1 * (((0x20FFFFFFD0 : Word).extractLsb' 0 32).signExtend 64)) = oa 0x1010 ∧ (oa 0x1010).toNat % 16 = 0) ∧
    (k.codesz.toNat ≤ 0x2000 ∧ k.spoisoned 0x1040 16 = false ∧ w.spoisoned 0x1010 16 = false) ∧
    (resolveAddr s.fabricNo k.corxy (oa 0x1040 + 1 * (((0x20FFFFFFD1 : Word).extractLsb' 0 32).signExtend 64))).toNat % 16 ≠ 0 ∧
    tmapRow ((oa 0x1000).toNat + 2 * 2 ^ 64) 5 = oa 0x10A0 := by unfold runs ownAt; decide +kernel

/-- a block of no format, one expanded to bytes, and one whose codes are kept -/
theorem witness_EngineSteps_cxp :
    let op := fun (p : Word) => CmdOp.cxp 0x2000 (oa 0x1000) p 0x1400
    let s := fun (p : Word) (block : Nat) => eng .copy (op p) (fun k => k.swrite 0x1000 64 block)
    let kept : Word := 1 + 2 ^ 20 + 2 ^ 24 + 5 * 2 ^ 32
    let k := (s 1 0x80FF).core 5
    (runs .copy (op 1) {} (s 1 0x80FF) ∧ bits (1 : Word).toNat 15 0 = 1 ∧ ownAt (s 1 0x80FF) (oa 0x1000) 64 0x1000 ∧ k.spoisoned 0x1000 64 = false ∧
      0x1400 + 512 ≤ k.scratchSize ∧ k.spoisoned 0x1400 512 = false ∧ expandBlock (1 : Word).toNat (k.sread 0x1000 64) (k.sread 0x1400 512) = none) ∧
    (runs .copy (op kept) {} (s kept 0x12370501) ∧ bit kept.toNat 20 = true ∧ bits kept.toNat 31 24 = 1 ∧
      ((s kept 0x12370501).core 5).sread 0x1000 64 % 2 ^ 16 = 1 + bits kept.toNat 39 32 * 2 ^ 8 ∧ bits kept.toNat 39 32 ≠ 128 ∧
      ownAt (s kept 0x12370501) (oa 0x2000) 62 0x2000 ∧ k.codesz.toNat ≤ 0x2000 ∧
      (expandBlock kept.toNat (((s kept 0x12370501).core 5).sread 0x1000 64) 0).isSome = true) := by unfold runs ownAt; decide +kernel

theorem witness_EngineSteps_cpk :
    let op : CmdOp := .cpk (oa 0x2000) 0x1000 (1 + 2 ^ 24)
    let s := eng .copy op
    let k := s.core 5
    runs .copy op {} s ∧ bits (1 + 2 ^ 24 : Word).toNat 15 0 = 1 ∧ blockOf (bits (1 + 2 ^ 24 : Word).toNat 31 24) = some .s8 ∧ 0x1000 + cpkBytes 0 62 ≤ k.scratchSize ∧
    k.spoisoned 0x1000 (cpkBytes 0 62) = false ∧ ownAt s (oa 0x2000) 64 0x2000 ∧ k.codesz.toNat ≤ 0x2000 := by unfold runs ownAt; decide +kernel

theorem witness_EngineSteps_cgthb :
    let op : CmdOp := .cgthb 0x2000 (oa 0x1000) [5, 2] 16
    let s := eng .copy op
    let k := s.core 5
    runs .copy op {} s ∧ ownAt s (oa 0x1000 + BitVec.ofNat 64 (16 * 5)) 16 0x1050 ∧ ownAt s (oa 0x1000 + BitVec.ofNat 64 (16 * 2)) 16 0x1020 ∧
    ownAt s (k.ownAddr 0x2000) 16 0x2000 ∧ ownAt s (k.ownAddr (0x2000 + 16)) 16 0x2010 ∧ k.codesz.toNat ≤ 0x2000 ∧ k.spoisoned 0x1050 16 = false ∧
    (k.swrite 0x2000 16 (k.sread 0x1050 16)).spoisoned 0x1020 16 = false := by unfold runs ownAt; decide +kernel

theorem witness_EngineSteps_xrot :
    let op : CmdOp := .xrot 0x2000 0x1000 (3 * 2 ^ 16 + 2) (0x1400 * 2 ^ 32) 0x0201 0x3F800000
    let s := eng .exponent op
    let k := s.core 5
    runs .exponent op {} s ∧ bits (3 * 2 ^ 16 + 2 : Word).toNat 23 16 = 3 ∧ bits (3 * 2 ^ 16 + 2 : Word).toNat 15 0 = 2 ∧ bits (0x1400 * 2 ^ 32 : Word).toNat 55 32 = 0x1400 ∧
    0x2000 + 8 * 3 * 2 ≤ k.scratchSize ∧ k.spoisoned 0x1000 (8 * 3 * 2) = false ∧ k.spoisoned 0x1400 (16 * 2) = false := by unfold runs; decide +kernel

/-- a token that finds its register taken and the overflow queue full -/
theorem witness_EngineSteps_tokenWaits :
    let cs : Word := 0x4C00001234000000
    let s := (WT19.st cs 0).modCore 5 (fun k => { k with overflow := List.replicate 8 ⟨1, 3, 4⟩, harts := k.harts.map (fun h => { h with full := 0xFFFF }) })
    let k := s.core 5
    k.sleep = .awake ∧ k.hold = [] ∧ k.tokens = [] ∧ (k.hart 1).taken (BitVec.ofNat 4 (bits cs.toNat 61 58)) = true ∧ 8 ≤ k.overflow.length ∧ csMEN cs = true ∧ csBEN cs = false ∧
    (k.hart 1).group ≠ none ∧ (k.hart 1).stopping = false := by decide +kernel

/-! O54, O55, O58. -/

theorem witness_ErrorContainment_tag :
    let l : SliceLine := { x := 0, y := 0, line := 0x200, owner := 0, valid := 3, dirty := 2, data := 77, way := 5 }
    let s : State := { base with slices := [l, { l with line := 0x211 }, { l with line := 0x201 }, { l with line := 0x202, way := 6 }] }
    s.slices.length = 4 ∧ sliceSet 0x211 = sliceSet 0x200 ∧ sliceSet 0x201 ≠ sliceSet 0x200 ∧ (s.slices.map (fun z => z.way)) = [5, 5, 5, 6] := by decide +kernel

theorem witness_ErrorContainment_column :
    let s : State := (base).modDie 0 (fun d => { d with colNext := some (({} : DieSt).setCol 4 32) })
    (s.die 0).next 4 = 32 ∧ (s.die 0).col 4 ≠ 32 ∧ (4 : BitVec 5).toNat % 4 = 0 := by decide +kernel

/-- a masked granule, a target that hosts no group, an offset beyond scratch; a message to a hart of no group, and one of 4 bytes -/
theorem witness_OutsideRequests_hosting :
    let s := WT27.b0
    let ga := WT27.ga
    let r := fun (k : FabricKind) (a : Word) => WT27.fr k 0 a
    let entry := mapGet (s.part 0).peers 9 0
    let own := fun (a : Word) => (BitVec.ofNat 64 (a.toNat % 2 ^ 52 + 2 ^ 63 + 2047 * 2 ^ 52) : Word)
    (entry.msb = true ∧ bits entry.toNat 55 52 = (r (.masked 5 5) (ga 6 0x810)).senderVf.toNat ∧ bit entry.toNat 62 = true ∧ (s.part 0).valid = true) ∧
    (s.placed 0 (own (ga 6 0x810)) = true ∧ s.hostsTarget 0 (own (ga 6 0x810)) = true ∧ (own (ga 6 0x810)).toNat % 16 = 0 ∧ formOk (own (ga 6 0x810)) 16 false = true) ∧
    (own (ga 6 0x818)).toNat % 16 ≠ 0 ∧ s.hostsTarget 0 (own (ga 7 0x10)) = false ∧ s.placed 0 (own (ga 7 0x10)) = true ∧ formOk (own (ga 6 0x5FFFC)) 8 false = false ∧
    (namesWindow (ga 7 0x800080) = true ∧ s.namesHere (ga 7 0x800080) = true ∧ s.placed 0 (ga 7 0x800080) = true ∧ s.hostsTarget 0 (ga 7 0x800080) = false) ∧
    (s.hostsTarget 0 (ga 6 0x8000A8) = true ∧ s.namesHere (ga 6 0x8000A8) = true ∧ formOk (ga 6 0x8000A8) 8 true = true) := by decide +kernel

theorem witness_DebugPath_casst :
    let s := WT27.dh
    (s.core 5).vf ≠ none ∧ (s.hartOf 5 1).group ≠ none ∧ (s.hartOf 5 1).exited = false ∧ (s.hartOf 5 1).halted = true ∧
    (0x1234 : Word).extractLsb' 0 2 = 0 ∧ (0x1235 : Word).extractLsb' 0 2 = 1 ∧ (0x1236 : Word).extractLsb' 0 2 = 2 ∧ (0x1237 : Word).extractLsb' 0 2 = 3 := by decide +kernel

theorem witness_StepRunsDecoded_overdue :
    let s : State := { base id (fun k => { k with overflow := [⟨1, 5, 9⟩] }) with agenda := [.hart 5 1] }
    let calm : State := base
    s.agenda = [.hart 5 1] ∧ (s.core 5).live = true ∧ (s.hartOf 5 1).block = none ∧ (s.core 5).overdue 1 = some 5 ∧ (calm.core 5).overdue 1 = none := by
  decide +kernel

/-! O51, O52. -/

theorem witness_SwitchesAndCheckpoints_rolledBack :
    let s := rs.modPart 0 (fun p => { p with requested := some 5, rolledBack := true })
    (s.part 0).requested = some 5 ∧ (s.part 0).rolledBack = true := by decide +kernel

theorem witness_EvictionAndResume_outranked :
    let l : Launch := { queued with record := queued.record ||| BitVec.ofNat 512 (2 ^ 98) }
    let s : State := { WT35.rz WT35.x1 ready with launches := [l] }
    s.headOf 0 0 = some l ∧ s.ready l = true ∧ s.corePrio WT35.x1.core < l.prio ∧ l.needs l.placed = none ∧ (s.part 0).saved[0]? = some WT35.x1 ∧
      (s.part 0).resident = true ∧ (s.part 0).requested = none ∧ (s.part 0).switchTo = none ∧ s.physCore 0 0 0 9 = some 9 := by decide +kernel

/-! What stands behind a WAYSET that waits (08 R186, R187). -/

/-- The instruction is executed and leaves the state as it is. -/
def same (s : State) (i : Instr) : Bool := match exec i s with | .next t => decide (t = s) | _ => false

/-- Hart 2 waits in a WAYSET that changes every way. -/
def waiting2 (s : State) : State := s.mapCore (fun k => { k with wayWait := some (2, ~~~k.waymask) })

/-- 08 R187: a write-back, an invalidation and a release of a sector in a changing way are held. -/
theorem test_flush_held :
    let s := waiting2 WU1.wb
    s.flushHeld (fun x => x.within 0x10000 512) = true ∧ ([.cwb 2 3, .cinv 2 3, .runbind 7, .relX 2] : List Instr).all (same s) = true := by
  decide +kernel

/-- 08 R186: another hart's vector store with an element of own scratch to write keeps WAYSET waiting; one of a global element does not. -/
theorem test_wayset_waits_for_vector_store :
    let s := fun (a : Word) => base (setG 2 0xFFE) (fun k => { k.modHart 3 (fun h => { h with block := some (.vstore { eb := 4, index := false, xs := [(0, a, 7)] }) }) with codesz := 0 })
    (s ((base).cc.ownAddr 0x800)).wayBusy 0xFFE = true ∧ (s 0x10040).wayBusy 0xFFE = false := by decide +kernel

/-- 08 R187: a CPY whose source, then one whose destination has left scratch faults at its start; one that is in scratch does not. -/
theorem witness_EngineSteps_left :
    let s := WT17.que .copy (WT17.q 1 (.cpy 0x8000000000000800 0x80000000000FFFF0 32))
    let k := s.core 5
    let left := fun (ea : Word) => ea.msb = true ∧ bits ea.toNat 51 33 = k.corxy.toNat % 2 ^ 19 ∧ k.scratchSize < addrOff ea + 32
    k.copy.run = none ∧ k.skips .copy (WT17.q 1 (.cpy 0 0 0)) = false ∧ s.issuerReady 5 (WT17.q 1 (.cpy 0 0 0)) = true ∧ left (k.ownAddr 0x5FFF0) ∧ ¬left (k.ownAddr 0x5FFE0) ∧
    (k.startOp 1 (.cpy (k.ownAddr 0x800) (k.ownAddr 0x5FFF0) 32)).2 = some ⟨0x04, 1, 0, k.ownAddr 0x5FFF0⟩ ∧
    (k.startOp 1 (.cpy (k.ownAddr 0x5FFF0) 0x10000 32)).2 = some ⟨0x04, 2, 0, k.ownAddr 0x5FFF0⟩ ∧
    (k.startOp 1 (.cpy (k.ownAddr 0x5FFE0) (k.ownAddr 0x800) 32)).2 = none := by decide +kernel

/-- 12 R303: a completion of the copy engine that the agenda names first is applied behind the BARR of its cycle: the BARR reads no flip. -/
theorem test_cycle_orders_updates :
    let a := (base).cc.ownAddr
    let s : State := { base (setG 4 (a 0x400)) (fun k => (((k.swrite 64 4 0x60C40102).swrite 0x400 16 (16 + 2 ^ 64)).setEng .copy
      { run := some (WT17.q 1 (.cpy (a 0x800) (a 0xA00) 16) 0x8000000000000400) })) with agenda := [.cycle 2, .event (.engineCommandComplete 5 .copy), .hart 5 1] }
    (match step s with
     | .next t => (t.hartOf 5 1).rg 6 == 0 && (t.core 5).sread 0x400 16 == 2 ^ 64 + 2 ^ 100 && (t.core 5).copy.run.isNone && t.agenda.isEmpty
     | _ => false) = true := by decide +kernel

theorem witness_StepRunsDecoded_cycle :
    let s : State := base id (fun k => k.swrite 64 4 0x00820802)
    decodeWord (s.as 5 1).word ≠ none ∧ s.rank (.event (.engineCommandComplete 5 .copy)) ≠ s.rank (.hart 5 1) := by decide +kernel

/-! Requests at their home and on their way back. -/

def fillOf (st : Stage) : Req := { rq (.fillLoad 4 (.one 5 4 false)) 0x10048 st .request with id := 4 }
def backOf : Req := { rq (.writeBack 5 3 false) 0x10000 (.toHome 0 0 0x10000000000) .request with src := .core 5 }

/-- 16 R340: a fill goes behind the write-back of its core that is still on its way. -/
theorem witness_HomeAccesses_fillBehind :
    let r := fillOf (.atFill 0 0 0x10000000048)
    let s := WT26.net base [backOf, r]
    s.reqAt 4 = some r ∧ s.fillWaiters 0 0 0x10000000048 = [r] ∧ r.kind.isFill = true ∧ s.net.any r.after = true ∧
    (match exec (.sectorFillReturn 4) s with
     | .next t => (t.reqAt 4).map Req.stage == some (.toHome 0 0 0x10000000048)
     | _ => false) = true := by decide +kernel

/-- 15 R337: a request that must wait keeps the leaf of its walk, and is admitted with it after the entry has gone. -/
theorem witness_HomeAccesses_leaf :
    let r : Req := { WT26.sto with id := 4, stage := .walking 0 0, leaf := some WT26.lf }
    let s := WT26.net base [r]
    s.reqNext 4 = some r ∧ s.cachedLeaf 0 0 0 0x10040 = none ∧ same s (.pageWalk 4 3) = true ∧
    (match exec (.globalAdmission 4) s with
     | .next t => (t.reqAt 4).map Req.stage == some (.atFill 0 0 0x10000000040)
     | _ => false) = true := by decide +kernel

/-- 13 R308: a refusal waits behind an earlier answer from the same place to the same core; alone it is next. -/
theorem witness_Returns_notices :
    let r : Req := { WT26.n2 with cls := .response, id := 4 }
    let q : Req := { WT26.n3 with cls := .response }
    (WT26.net base [q, r]).inOrder r = false ∧ (WT26.net base [r]).inOrder r = true ∧ r.notice = true ∧ r.stage = .rejected 6 := by decide +kernel

/-! O47, O50, O53. -/

/-- a core of lower PRIO that can be freed, and none -/
theorem witness_SubmissionAndPlacement_frees :
    let l : Launch := WT30.hi
    let none_ : State := { WT30.pb with cores := WT30.pb.cores.map (fun e => (e.1, { e.2 with marked := true })) }
    let frees := fun (s : State) (e : Nat × Core) => e.2.vf == some 0 && e.2.hostsPart 0 && !e.2.marked && decide (s.corePrio e.2 < l.prio) && s.lacksCore l (isW e.1)
    WT30.pb.placeable l = false ∧ WT30.pb.cores.any (frees WT30.pb) = true ∧ none_.placeable l = false ∧ none_.cores.any (frees none_) = false := by decide +kernel

/-- a posted access that is not acknowledged holds the save back -/
theorem witness_EvictionAndResume_posted :
    let s := WT35.d1.modHart 5 1 (fun h => { h with orsLocal := 1 })
    s.drained 5 = true ∧ (∀ y ∈ (s.core 5).cache, y.dirty = 0) ∧ s.postedDone 5 = false := by decide +kernel

/-- 06 R179: CORXY that the debug path has written is what RDC reads; an access still starts from the core's own place. -/
theorem test_debug_writes_corxy :
    let s := after (.debugAccess 5 1 (.writeControl 1 0x7FFFFF)) WT27.dh
    (s.hartOf 5 1).ids = [(1, 0x7FFFF)] ∧ s.core 5 = { (WT27.dh).core 5 with harts := (s.core 5).harts } := by decide +kernel

end WR2

/-- The word of ADD g1, g0, g0 (04 R99), placed where the first step fetches it, runs there: the pc moves past it. -/
theorem test_withFetchWord_runs : decodeTableWord 32 0x0020_0001 = some (.add 1 0 0 0 0) ∧
    (match step (State.reset.withFetchWord 32 0x0020_0001) with
      | .next s => (s.hartOf 0 0).pc == 4
      | _ => false) = true := by decide +kernel

end Slice0Tests
end

section
/-! SUPPORT. Control registers (01 R18, 06 R168): the check of an access by the table of R18, and what an RDC and a WRC that pass it do. -/

namespace Sys2Proof.Machine

theorem quietly_of_outst_nil {s : State} (h : s.hart.outst = []) (k : State → State) : s.quietly k = k s := by
  simp [State.quietly, Hart.quiet, h]

/-! The check of an access. -/

theorem ctlCheck_supervisor_read {s : State} {n : Nat} (hm : s.hart.mode = .supervisor) (ha : (ctlAccess n).any (·.2.read) = true) :
    s.ctlCheck n false = none := by
  cases e : ctlAccess n with
  | none => simp [e] at ha
  | some a => simp only [e, Option.any_some] at ha; simp [State.ctlCheck, e, hm, ha]

theorem ctlCheck_supervisor_write {s : State} {n : Nat} (hm : s.hart.mode = .supervisor) (ha : (ctlAccess n).any (·.2.write) = true) :
    s.ctlCheck n true = none := by
  cases e : ctlAccess n with
  | none => simp [e] at ha
  | some a => simp only [e, Option.any_some] at ha; simp [State.ctlCheck, e, hm, ha]

/-- A number that is in no table. -/
theorem ctlCheck_absent {s : State} {n : Nat} (ha : ctlAccess n = none) (w : Bool) : s.ctlCheck n w = some s.illegal := by
  simp [State.ctlCheck, ha]

/-- A register that no mode writes. -/
theorem ctlCheck_write_readOnly {s : State} {n : Nat} {p v : Access} (ha : ctlAccess n = some (p, v)) (hp : p.write = false) (hv : v.write = false) :
    s.ctlCheck n true = some s.illegal := by
  cases hm : s.hart.mode <;> simp [State.ctlCheck, ha, hm, hp, hv]

/-- A register that both modes only write. -/
theorem ctlCheck_read_writeOnly {s : State} {n : Nat} (ha : ctlAccess n = some (⟨false, true⟩, ⟨false, true⟩)) :
    s.ctlCheck n false = some s.illegal := by
  cases hm : s.hart.mode <;> simp [State.ctlCheck, ha, hm]

theorem ctlCheck_program_write {s : State} {n : Nat} {p v : Access} (hm : s.hart.mode = .program) (ha : ctlAccess n = some (p, v))
    (hp : p.write = false) (hv : v.write = true) : s.ctlCheck n true = some s.priv := by
  simp [State.ctlCheck, ha, hm, hp, hv]

theorem ctlCheck_program_read {s : State} {n : Nat} {p v : Access} (hm : s.hart.mode = .program) (ha : ctlAccess n = some (p, v))
    (hr : p.read = false) (hw : p.write = false) (hv : v.read = true) : s.ctlCheck n false = some s.priv := by
  simp [State.ctlCheck, ha, hm, hr, hw, hv]

/-! Rows of the table of R18. -/

theorem ctlAccess_supervisor {n : Nat} (h : 0x020 ≤ n ∧ n ≤ 0x024 ∨ 0x040 ≤ n ∧ n ≤ 0x047) :
    ctlAccess n = some (⟨false, false⟩, ⟨true, true⟩) := by
  rcases h with h | h <;> simp (disch := omega) only [ctlAccess, if_pos, if_neg]

theorem ctlAccess_programReads {n : Nat} (h : n = 0x012 ∨ 0x030 ≤ n ∧ n ≤ 0x037) : ctlAccess n = some (⟨true, false⟩, ⟨true, true⟩) := by
  rcases h with h | h <;> simp (disch := omega) only [ctlAccess, if_pos, if_neg]

theorem ctlAccess_readOnly {n : Nat} (h : n ≤ 3 ∨ n = 0x018 ∨ n = 0x019 ∨ n = 0x051) : ctlAccess n = some (⟨true, false⟩, ⟨true, false⟩) := by
  rcases h with h | h | h | h <;> simp (disch := omega) only [ctlAccess, if_pos, if_neg]

theorem ctlAccess_absent {n : Nat} (h : 0x004 ≤ n ∧ n ≤ 0x00F ∨ 0x013 ≤ n ∧ n ≤ 0x017 ∨ 0x01A ≤ n ∧ n ≤ 0x01F ∨ 0x025 ≤ n ∧ n ≤ 0x027 ∨
    0x02A ≤ n ∧ n ≤ 0x02F ∨ 0x038 ≤ n ∧ n ≤ 0x03F ∨ 0x048 ≤ n ∧ n ≤ 0x04F ∨ 0x052 ≤ n) : ctlAccess n = none := by
  simp (disch := omega) only [ctlAccess, if_neg]

/-! RDC. -/

/-- An RDC that passes its check writes the value of its register; the cycle counters are brought up to date before one is read (21 R420). -/
theorem exec_rdc_passes {s t : State} {d : BitVec 5} {c : BitVec 12} (hw : s.writable d) (ho : s.hart.outst = [])
    (hc : s.ctlCheck c.toNat false = none) (ht : (if 0x030 ≤ c.toNat ∧ c.toNat ≤ 0x033 then s.accrue else s) = t) :
    exec (.rdc d c) s = .next (t.writeRetire d (t.ctlRead c.toNat)) := by
  show execRdc d c s = _
  simp only [execRdc, quietly_of_outst_nil ho, hc, guarded_none, guarded_bound hw, ht]

theorem retires_rdc {s : State} {d : BitVec 5} (hw : s.writable d) (ho : s.hart.outst = []) (hm : s.hart.mode = .supervisor) (c : BitVec 12)
    (ha : (ctlAccess c.toNat).any (·.2.read) = true) (hn : ¬(0x030 ≤ c.toNat ∧ c.toNat ≤ 0x033)) :
    Retires (.rdc d c) s [(d, s.ctlRead c.toNat)] 0 :=
  ⟨_, exec_rdc_passes hw ho (ctlCheck_supervisor_read hm ha) (if_neg hn), wrote_writeRetire s d _ 0 4⟩

theorem traps_rdc {s : State} {c : BitVec 12} {t : Trap} (r : s.trapReady) (d : BitVec 5) (hc : s.ctlCheck c.toNat false = some t) :
    Traps (.rdc d c) s t.cause t.addr t.info := by
  refine traps_of_raise r ?_
  show execRdc d c s = _
  simp only [execRdc, quietly_of_outst_nil r.1, hc, guarded_some]

/-! WRC. -/

theorem traps_wrc {s : State} {c : BitVec 12} {t : Trap} (r : s.trapReady) (a : BitVec 5) (hc : s.ctlCheck c.toNat true = some t) :
    Traps (.wrc a c) s t.cause t.addr t.info := by
  refine traps_of_raise r ?_
  show execWrc a c s = _
  simp only [execWrc, quietly_of_outst_nil r.1, hc, guarded_some]


theorem ctlAccess_sleepd : ctlAccess 0x028 = some (⟨true, true⟩, ⟨true, true⟩) := rfl

/-- A register that both modes write. -/
theorem ctlCheck_write_both {s : State} {n : Nat} {p v : Access} (ha : ctlAccess n = some (p, v)) (hp : p.write = true) (hv : v.write = true) :
    s.ctlCheck n true = none := by
  cases hm : s.hart.mode <;> simp [State.ctlCheck, ha, hm, hp, hv]

/-- WRC of 3 to SLEEPD (01 R29). -/
theorem traps_wrc_sleepd {s : State} {a : BitVec 5} {c : BitVec 12} (r : s.trapReady) (hn : c.toNat = 0x028) (h3 : (s.rg a).toNat % 4 = 3) :
    Traps (.wrc a c) s 0x01 0 s.illegalInfo := by
  refine traps_of_raise (t := s.illegal) r ?_
  show execWrc a c s = _
  simp only [execWrc, quietly_of_outst_nil r.1, hn, ctlCheck_write_both ctlAccess_sleepd rfl rfl, h3, and_self, if_true, guarded_none, guarded_some]

/-- A WRC of supervisor mode that passes its checks writes its register behind its retirement; the cycle counters are brought up to date before
one of their registers is written (21 R420). -/
theorem exec_wrc_passes {s : State} {a : BitVec 5} (ho : s.hart.outst = []) (hm : s.hart.mode = .supervisor) (c : BitVec 12)
    (ha : (ctlAccess c.toNat).any (·.2.write) = true) (h3 : ¬(c.toNat = 0x028 ∧ (s.rg a).toNat % 4 = 3)) :
    exec (.wrc a c) s = .next ((if 0x030 ≤ c.toNat ∧ c.toNat ≤ 0x037 then s.accrue else s).retire.ctlWrite c.toNat (s.rg a)) := by
  show execWrc a c s = _
  simp only [execWrc, quietly_of_outst_nil ho, ctlCheck_supervisor_write hm ha, if_neg h3, guarded_none, guarded_nil]

/-- The numbers of the registers of a hart, other than those of its counters, that supervisor mode writes. -/
def ctlOfHart (n : Nat) : Bool :=
  (ctlAccess n).any (·.2.write) && !decide (0x030 ≤ n ∧ n ≤ 0x037) && !decide (0x044 ≤ n ∧ n ≤ 0x047)

/-- WRC of a register of the hart that is no counter register. -/
theorem wrc_hart {s : State} {a : BitVec 5} (ho : s.hart.outst = []) (hm : s.hart.mode = .supervisor) (c : BitVec 12)
    (hc : ctlOfHart c.toNat = true) (h3 : ¬(c.toNat = 0x028 ∧ (s.rg a).toNat % 4 = 3)) :
    ∃ u, Wrote s u [] (s.hart.pc + 4) 0 ∧
      exec (.wrc a c) s = .next (u.mapHart (fun h => h.ctlSet c.toNat (s.rg a &&& ctlMask c.toNat))) := by
  simp only [ctlOfHart, Bool.and_eq_true, Bool.not_eq_true', decide_eq_false_iff_not] at hc
  obtain ⟨⟨ha, hn⟩, hd⟩ := hc
  refine ⟨s.retire, wrote_retire s 4, ?_⟩
  rw [exec_wrc_passes ho hm c ha h3, if_neg hn]
  simp only [State.ctlWrite, if_neg hd]

theorem retire_vf (s : State) : (s.retire).cc.vf = s.cc.vf := by simp [State.retire]

/-- WRC of a watchpoint register, which is the partition's (06 R177). -/
theorem wrc_watchpoint {s : State} {a : BitVec 5} (ho : s.hart.outst = []) (hm : s.hart.mode = .supervisor) (c : BitVec 12)
    (hd : 0x044 ≤ c.toNat ∧ c.toNat ≤ 0x047) :
    ∃ u, Wrote s u [] (s.hart.pc + 4) 0 ∧
      exec (.wrc a c) s = .next (u.modPart (s.cc.vf.getD 0) (fun p => p.dwtSet c.toNat (s.rg a &&& ctlMask c.toNat))) := by
  refine ⟨s.retire, wrote_retire s 4, ?_⟩
  rw [exec_wrc_passes ho hm c (by simp [ctlAccess_supervisor (n := c.toNat) (by omega)]) (by omega), if_neg (by omega)]
  simp only [State.ctlWrite, if_pos hd, retire_vf]

/-! The counters (21 R418 to R421). -/

/-- No counter of the hart counts cycles in a mode that it has been in since it last brought them up to date. -/
def Hart.idleCounters (h : Hart) : Prop := ∀ j : Fin 4, cyclesIn (h.cntsel.get j) (h.modesOf (h.cntsel.get j)) = false

theorem accrueOne_idle {h : Hart} (hi : h.idleCounters) (f k : Nat) (hk : k < 4) : h.accrueOne f k hk = h := by
  have := hi ⟨k, hk⟩
  simp [Hart.accrueOne, this]

theorem accrued_idle {h : Hart} (hi : h.idleCounters) (f : Nat → Nat) : h.accrued f = { h with ran := modeBit h.mode, stalled := 0 } := by
  simp only [Hart.accrued, accrueOne_idle hi]

/-- Bringing idle counters up to date takes a free number and notes the mode. -/
theorem accrue_idle {s : State} (hi : s.hart.idleCounters) :
    s.accrue = { s with freeCtr := s.freeCtr + 1 }.mapHart (fun h => { h with ran := modeBit s.hart.mode, stalled := 0 }) :=
  mapHart_congr (s := s.fresh) (accrued_idle hi _)

theorem ctlRead_counter (s : State) (k : Fin 4) : s.ctlRead (0x030 + k.val) = s.hart.counter k := by
  match k with
  | 0 | 1 | 2 | 3 => rfl

theorem ctlSet_counter (h : Hart) (k : Fin 4) (v : Word) :
    h.ctlSet (0x030 + k.val) (v &&& ctlMask (0x030 + k.val)) = { h with cnt := h.cnt.set k.val (v &&& 0xFFFFFFFFFFFF) k.isLt } := by
  match k with
  | 0 | 1 | 2 | 3 => rfl

theorem ctlSet_selection (h : Hart) (k : Fin 4) (v : Word) :
    h.ctlSet (0x034 + k.val) (v &&& ctlMask (0x034 + k.val)) = { h with cntsel := h.cntsel.set k.val (v &&& 0xE0FF) k.isLt } := by
  match k with
  | 0 | 1 | 2 | 3 => rfl

theorem ctlAccess_counters {n : Nat} (h : 0x030 ≤ n ∧ n ≤ 0x037) : ctlAccess n = some (⟨true, false⟩, ⟨true, true⟩) :=
  ctlAccess_programReads (.inr h)

/-- RDC of a counter. -/
theorem rdc_counter {s : State} {d : BitVec 5} (hw : s.writable d) (ho : s.hart.outst = []) (hm : s.hart.mode = .supervisor)
    (c : BitVec 12) (k : Fin 4) (hc : c.toNat = 0x030 + k.val) :
    ∃ t, exec (.rdc d c) s = .next t ∧ Wrote s.accrue t [(d, s.accrue.hart.counter k)] (s.accrue.hart.pc + 4) 0 := by
  have ha := ctlAccess_counters (n := c.toNat) (by omega)
  have hr : s.accrue.ctlRead c.toNat = s.accrue.hart.counter k := by rw [hc, ctlRead_counter]
  refine ⟨_, exec_rdc_passes hw ho (ctlCheck_supervisor_read hm (by simp [ha])) (if_pos (by omega)), ?_⟩
  rw [hr]
  exact wrote_writeRetire s.accrue d _ 0 4

/-- WRC of a counter or of its selection. -/
theorem wrc_counters {s : State} {a : BitVec 5} (ho : s.hart.outst = []) (hm : s.hart.mode = .supervisor) (c : BitVec 12)
    (hc : 0x030 ≤ c.toNat ∧ c.toNat ≤ 0x037) :
    ∃ u, Wrote s.accrue u [] (s.accrue.hart.pc + 4) 0 ∧
      exec (.wrc a c) s = .next (u.mapHart (fun h => h.ctlSet c.toNat (s.rg a &&& ctlMask c.toNat))) := by
  refine ⟨s.accrue.retire, wrote_retire s.accrue 4, ?_⟩
  rw [exec_wrc_passes ho hm c (by simp [ctlAccess_counters hc]) (by omega), if_pos hc]
  simp only [State.ctlWrite, if_neg (show ¬(0x044 ≤ c.toNat ∧ c.toNat ≤ 0x047) by omega)]

/-- Settles O13: an RDC that passes the check of R18 writes `ctlRead` of its number, and the rows of the table say which trap the check
raises for every other access. -/
theorem controlRegisterReads : Obligations.ControlRegisterReads := by
  unfold Obligations.ControlRegisterReads
  refine ⟨fun s d hw ho hm => ?_, fun s d a c hr => ⟨fun hm h => ?_, fun hm h => ?_, fun h => ?_, fun h => ?_, fun h => ?_⟩⟩
  · have read := retires_rdc hw ho hm
    and_intros <;> exact read _ (by decide) (by decide)
  · exact ⟨traps_rdc hr d (ctlCheck_program_read hm (ctlAccess_supervisor h) rfl rfl rfl),
      traps_wrc hr a (ctlCheck_program_write hm (ctlAccess_supervisor h) rfl rfl)⟩
  · exact traps_wrc hr a (ctlCheck_program_write hm (ctlAccess_programReads h) rfl rfl)
  · exact traps_wrc hr a (ctlCheck_write_readOnly (ctlAccess_readOnly h) rfl rfl)
  · exact traps_rdc hr d (ctlCheck_read_writeOnly (by rw [h]; rfl))
  · exact ⟨traps_rdc hr d (ctlCheck_absent (ctlAccess_absent h) false), traps_wrc hr a (ctlCheck_absent (ctlAccess_absent h) true)⟩

/-- Settles O14: a WRC that passes its checks is a retirement and then `ctlWrite` of its number; where no counter counts cycles, bringing the
counters up to date changes only their note of modes. -/
theorem controlRegisterWrites : Obligations.ControlRegisterWrites := by
  unfold Obligations.ControlRegisterWrites
  refine ⟨fun s a ho hm => ?_, fun s d a k hw ho hm hi => ?_, fun s a hr h3 => traps_wrc_sleepd hr rfl h3⟩
  · intro v W D
    have hart : ∀ c : BitVec 12, ctlOfHart c.toNat = true → c.toNat ≠ 0x028 → W c (fun h => h.ctlSet c.toNat (v &&& ctlMask c.toNat)) :=
      fun c hc hn => wrc_hart ho hm c hc (fun h => hn h.1)
    have sleepd : v.toNat % 4 ≠ 3 → W 0x028 (fun h => { h with sleepd := v &&& 3 }) := fun h3 => wrc_hart ho hm 0x028 rfl (fun h => h3 h.2)
    have whole : ∀ c : BitVec 12, ctlMask c.toNat = BitVec.allOnes 64 → ctlOfHart c.toNat = true → c.toNat ≠ 0x028 →
        W c (fun h => h.ctlSet c.toNat v) := fun c hall hc hn => by
      have written := hart c hc hn
      rwa [hall, BitVec.and_allOnes] at written
    have watchpoint : ∀ c : BitVec 12, 0x044 ≤ c.toNat ∧ c.toNat ≤ 0x047 → D c (fun p => p.dwtSet c.toNat (v &&& ctlMask c.toNat)) :=
      fun c hc => wrc_watchpoint ho hm c hc
    exact ⟨hart 0x010 rfl (by decide), hart 0x011 rfl (by decide), hart 0x012 rfl (by decide), hart 0x020 rfl (by decide), hart 0x021 rfl (by decide),
      whole 0x022 (by decide) rfl (by decide), whole 0x023 (by decide) rfl (by decide), hart 0x024 rfl (by decide), sleepd, hart 0x029 rfl (by decide),
      hart 0x040 rfl (by decide), hart 0x041 rfl (by decide), hart 0x042 rfl (by decide), hart 0x043 rfl (by decide), watchpoint 0x044 (by decide), watchpoint 0x045 (by decide),
      watchpoint 0x046 (by decide), watchpoint 0x047 (by decide)⟩
  · intro now
    have hnow : s.accrue = now := by rw [accrue_idle hi, hm]
    have hhart : now.hart = { s.hart with ran := modeBit .supervisor, stalled := 0 } := State.hart_mapHart _ _
    have number : ∀ n : Nat, n + 4 ≤ 2 ^ 12 → (BitVec.ofNat 12 (n + k.val)).toNat = n + k.val := fun n h => by
      rw [BitVec.toNat_ofNat]; exact Nat.mod_eq_of_lt (by omega)
    have hc := number 0x030 (by decide)
    have hs := number 0x034 (by decide)
    have wrc := fun (c : BitVec 12) => wrc_counters (a := a) ho hm c
    rw [hnow, hhart] at wrc
    refine ⟨?_, ?_, ?_⟩
    · obtain ⟨t, ht, hwr⟩ := rdc_counter hw ho hm _ k hc
      rw [hnow, hhart] at hwr
      have hv : ({ s.hart with ran := modeBit .supervisor, stalled := 0 } : Hart).counter k =
          if 0x20 ≤ bits (s.hart.cntsel.get k).toNat 7 0 ∧ bits (s.hart.cntsel.get k).toNat 7 0 ≤ 0x27 then 0 else s.hart.cnt.get k := by
        simp [Hart.counter, bits]
      rw [hv] at hwr
      exact ⟨t, ht, hwr⟩
    · obtain ⟨u, hu, he⟩ := wrc (BitVec.ofNat 12 (0x030 + k.val)) (by omega)
      refine ⟨u, hu, ?_⟩
      rw [he, hc]
      simp only [ctlSet_counter]
    · obtain ⟨u, hu, he⟩ := wrc (BitVec.ofNat 12 (0x034 + k.val)) (by omega)
      refine ⟨u, hu, ?_⟩
      rw [he, hs]
      simp only [ctlSet_selection]

end Sys2Proof.Machine
end

section
/-! SUPPORT. The checks of the engine commands that come before their addresses (10 R246, R451): the first of a list that fails decides. -/

namespace Sys2Proof.Machine

theorem reason_bad {bad : Bool} (h : bad = true) (n : Nat) (cs : List (Option Trap)) : (reason bad n :: cs).findSome? id = some (engineTrap n) := by
  simp [reason, h]

theorem reason_good {bad : Bool} (h : bad = false) (n : Nat) (cs : List (Option Trap)) : (reason bad n :: cs).findSome? id = cs.findSome? id := by
  simp [reason, h]

/-- A command whose queue has an entry makes its checks (01 R26, 10 R246). -/
theorem command_open {s : State} {e : Engine} (hq : s.queueShut e = false) {checks : List (Option Trap)} (op : CmdOp) (cs : Word) {t : Trap}
    (hc : checks.findSome? id = some t) : s.command e checks op cs = s.raise t := by
  simp [State.command, hq, State.guarded, hc]

/-- ENGINE with the reason of the first check that fails. -/
theorem traps_command {i : Instr} {s : State} {e : Engine} {checks : List (Option Trap)} {op : CmdOp} {cs : Word} {n : Nat} (r : s.trapReady)
    (hq : s.queueShut e = false) (he : exec i s = .next (s.command e checks op cs)) (hc : checks.findSome? id = some (engineTrap n)) :
    Traps i s 0x12 0 (BitVec.ofNat 64 n) :=
  traps_of_raise (t := engineTrap n) r (by rw [he, command_open hq op cs hc])

/-- MCLAIM of a number of slots that it does not take (R258). -/
theorem traps_mclaim {s : State} {d a : BitVec 5} (r : s.trapReady) (w : s.writable d) (l : BitVec 4) (h : (s.rg a).toNat = 0 ∨ 32 < (s.rg a).toNat) :
    Traps (.mclaim d a l) s 0x12 0 2 := by
  refine traps_of_raise (t := engineTrap 2) r ?_
  have bad : ((s.rg a).toNat < 1 ∨ 32 < (s.rg a).toNat) := by omega
  show execMclaim d a l s = _
  simp only [execMclaim, boundCheck_writable w, guarded_none, bad, decide_true, reason, if_true, guarded_some]

/-- The check of MREL fails where a slot of the range is not the hart's (R258). -/
theorem mrel_check {k : Core} {h : BitVec 2} {base n : Nat} (hb : 32 < base + n ∨ n = 0 ∨ ∃ i, i < n ∧ k.claimed (base + i) h = false) :
    decide (32 < base + n ∨ n = 0 ∨ (List.range n).all (fun i => k.claimed (base + i) h) = false) = true := by
  simpa [List.all_eq_false] using hb

/-- The first check of MPUT, that its run of vector registers exists (02 R43), has passed. -/
theorem mput_registers {a : BitVec 5} {q : BitVec 4} (h : a.toNat + q.toNat + 1 ≤ 32) (t : Trap) (cs : List (Option Trap)) :
    ((if 32 < a.toNat + (q.toNat + 1) then some t else none) :: cs).findSome? id = cs.findSome? id := by
  rw [if_neg (by omega)]; rfl

theorem slotLineReserved_false {x : Word} (h63 : bits x.toNat 63 12 = 0) (h7 : bits x.toNat 7 5 = 0) : slotLineReserved x = false := by
  simp [slotLineReserved, h63, h7]

/-- MPUT of a run of registers that passes v31 (R260). -/
theorem traps_mput_illegal {s : State} (r : s.trapReady) (hq : s.queueShut .matrix = false) (d a : BitVec 5) (q l : BitVec 4)
    (h : 32 < a.toNat + q.toNat + 1) : Traps (.mput d a q l) s 0x01 0 s.illegalInfo := by
  refine traps_of_raise (t := s.illegal) r ?_
  show execMput d a q l s = _
  simp only [execMput]
  rw [command_open hq _ _ (t := s.illegal) (by rw [if_pos (by omega)]; rfl)]

/-- MCBK on a core that accepts no CB4 (R255, R262). -/
theorem typeAccepted_w {c : Nat} (h : c / 17 % 256 % 4 = 0) : typeAccepted c 1 = false := by
  simp [typeAccepted, isW, keyX, h]

/-- CASLD while a run goes on, with a range of microwords that exists (11 R284). -/
theorem traps_casld_running {s : State} (r : s.trapReady) (a b : BitVec 5) (l : BitVec 4) (hrun : s.cc.cas.state = .running)
    (h63 : bits (s.rg b).toNat 63 24 = 0) (h15 : bits (s.rg b).toNat 15 9 = 0) (h8 : 1 ≤ bits (s.rg b).toNat 8 0)
    (hfit : bits (s.rg b).toNat 23 16 + bits (s.rg b).toNat 8 0 ≤ 256) : Traps (.casld a b l) s 0x12 0 8 := by
  refine traps_of_raise (t := engineTrap 8) r ?_
  have good : ¬(bits (s.rg b).toNat 8 0 = 0 ∨ 256 < bits (s.rg b).toNat 23 16 + bits (s.rg b).toNat 8 0) := by omega
  show execCasld a b l s = _
  simp [execCasld, reason, h63, h15, good, hrun, guarded_none, guarded_some]

/-- Settles O34: each command makes its checks in their order, and the first that fails gives the reason (`traps_command`). -/
theorem engineCommandTraps : Obligations.EngineCommandTraps := by
  unfold Obligations.EngineCommandTraps
  intro s d a b q l r w hq T A B D
  refine ⟨fun h => traps_mclaim r w l h, fun h => traps_command (e := .matrix) r (hq _) rfl (reason_bad (mrel_check h) 1 []), fun hf h => ?reserved,
    fun hf h63 h7 => ⟨fun h => ?foreign, fun hc h => ?beyond⟩, fun h => traps_mput_illegal r (hq _) d a q l h,
    fun h => traps_command (e := .matrix) r (hq _) rfl (reason_bad (by rw [typeAccepted_w h]; rfl) 4 _),
    fun h => traps_command (e := .copy) r (hq _) rfl (reason_bad (bne_iff_ne.mpr h) 6 _), fun hr h => ?count,
    fun h => traps_command (e := .exponent) r (hq _) rfl (reason_bad (bne_iff_ne.mpr h) 6 _),
    fun hrun h63 h15 h8 hfit => traps_casld_running r a b l hrun h63 h15 h8 hfit⟩
  case reserved =>
    refine traps_command (e := .matrix) r (hq _) rfl ((mput_registers hf _ _).trans (reason_bad ?_ 6 _))
    simpa [slotLineReserved] using h
  case foreign =>
    refine traps_command (e := .matrix) r (hq _) rfl
      ((mput_registers hf _ _).trans ((reason_good (slotLineReserved_false h63 h7) 6 _).trans (reason_bad ?_ 1 _)))
    show (!s.cc.claimed (D % 32) s.cur.hart) = true
    rw [h]; rfl
  case beyond =>
    refine traps_command (e := .matrix) r (hq _) rfl
      ((mput_registers hf _ _).trans ((reason_good (slotLineReserved_false h63 h7) 6 _).trans ((reason_good ?_ 1 _).trans (reason_bad ?_ 5 _))))
    · show (!s.cc.claimed (D % 32) s.cur.hart) = false
      rw [hc]; rfl
    · exact decide_eq_true h
  case count =>
    exact traps_command (e := .copy) r (hq _) rfl ((reason_good (bne_eq_false_iff_eq.mpr hr) 6 _).trans (reason_bad (decide_eq_true h) 2 _))

end Sys2Proof.Machine
end

section
/-! SUPPORT. What a hart and its core hold when a group starts (18 R369). -/

namespace Sys2Proof.Machine

/-- A hart that starts for a group holds four general registers (18 R369); the others are 0. -/
theorem startHart_rg (l : Launch) (p : Partition) (n i : Nat) {r : BitVec 5} (h1 : r ≠ 1) (h2 : r ≠ 2) (h3 : r ≠ 3) (h28 : r ≠ 28) :
    (l.startHart p n i).rg r = 0 := by
  have other : ∀ k : Nat, r ≠ BitVec.ofNat 5 k → k < 32 → k ≠ r.toNat := fun k hr hk e => hr (by rw [e, BitVec.ofNat_toNat, BitVec.setWidth_eq])
  unfold Hart.rg
  split
  · rfl
  · simp only [Launch.startHart, Vector.get_eq_getElem]
    rw [Vector.getElem_set_ne _ _ (other 28 h28 (by decide)), Vector.getElem_set_ne _ _ (other 3 h3 (by decide)),
      Vector.getElem_set_ne _ _ (other 2 h2 (by decide)), Vector.getElem_set_ne _ _ (other 1 h1 (by decide)), Vector.getElem_replicate]

@[simp] theorem get_replicate {α : Type} {n : Nat} (a : α) (i : Fin n) : (Vector.replicate n a).get i = a := by
  simp [Vector.get_eq_getElem]

/-- Setting harts of a core leaves its other parts alone. -/
theorem foldl_setHart (is : List Nat) (no : Nat → BitVec 2) (x : Nat → Hart) (k : Core) :
    ∃ hs, is.foldl (fun c i => c.setHart (no i) (x i)) k = { k with harts := hs } := by
  induction is generalizing k with
  | nil => exact ⟨k.harts, rfl⟩
  | cons i is ih =>
    obtain ⟨hs, e⟩ := ih (k.setHart (no i) (x i))
    exact ⟨hs, e⟩

/-- A new core is as `Core` gives it, but for its place, its image in local memory and its harts. -/
theorem newCore_eq (l : Launch) (p : Partition) (v n k : Nat) (img : List Byte × List Byte) :
    ∃ m hs, l.newCore p v n k img =
      { vf := some l.vf, vx := BitVec.ofNat 8 (vcX v), vy := BitVec.ofNat 7 (vcY v), vc := BitVec.ofNat 4 (vcC v), waymask := l.waymask,
        codesz := BitVec.ofNat 18 l.codesz, launch := l.id, image := l.image, lmem := m, harts := hs } := by
  obtain ⟨hs, e⟩ := foldl_setHart (List.range (k * l.hartsPer)) (BitVec.ofNat 2) (fun i => l.startHart p (n + i / l.hartsPer) (i % l.hartsPer)) _
  exact ⟨_, hs, e⟩

/-- Settles O57: every field is read off `startHart`, `newCore` and the state after reset. -/
theorem resetValues : Obligations.ResetValues := by
  unfold Obligations.ResetValues
  refine ⟨fun l p n i => ?_, fun l p v n k img e u => ?_, fun vf => ?_, rfl, rfl, rfl, fun c => rfl⟩
  · have hslot : ∀ k, ((l.startHart p n i).slot k).valid = false := fun k => by simp [Launch.startHart, Hart.slot]
    exact ⟨rfl, rfl, fun r => get_replicate _ _, fun r => get_replicate _ _, fun r h1 h2 h3 h28 => startHart_rg l p n i h1 h2 h3 h28,
      rfl, rfl, rfl, rfl, rfl, rfl, rfl, rfl, rfl, rfl, rfl, rfl, rfl, fun k => ⟨get_replicate _ k, get_replicate _ k, get_replicate _ k⟩,
      hslot, rfl, rfl, rfl⟩
  · obtain ⟨m, h, hc⟩ := newCore_eq l p v n k img
    simp [hc, Casement.casst]
  · have hp : State.reset.part vf = {} := get_replicate _ _
    simp [hp, Partition.queue]

end Sys2Proof.Machine
end

section
/-! SUPPORT. What a step does (01 R15, R26, R27): the move that the agenda names, and what stands at its end. -/

namespace Sys2Proof.Machine

/-! One move of the agenda. -/

theorem step_event {s : State} {i : Instr} {ms : List Move} (ha : s.agenda = .event i :: ms) (hi : isEvent i = true) :
    step s = mapNext State.bounded (exec i { s with agenda := ms }) := by
  simp only [step, ha, State.make, State.makeOne, hi, if_true]

theorem step_hart {s : State} {c : Nat} {h : BitVec 2} {ms : List Move} (ha : s.agenda = .hart c h :: ms) :
    step s = mapNext State.bounded (hartMove c h { s with agenda := ms }) := by
  simp only [step, ha, State.make, State.makeOne]

theorem step_sequencer {s : State} {c : Nat} {ms : List Move} (ha : s.agenda = .sequencer c :: ms) :
    step s = mapNext State.bounded (seqMove c { s with agenda := ms }) := by
  simp only [step, ha, State.make, State.makeOne]

theorem step_cycle_two {s : State} {a b : Move} {ms : List Move} (ha : s.agenda = .cycle 2 :: a :: b :: ms) :
    step s = mapNext State.bounded (State.makeAll { s with agenda := ms } (State.inCycle { s with agenda := a :: b :: ms } [a, b])) := by
  simp only [step, ha, State.make, List.drop_succ_cons, List.drop_zero, List.take_succ_cons, List.take_zero]

/-! A hart at its turn. -/

theorem finishing_of_unblocked {x : Hart} (hb : x.block = none) : x.finishing = false := by
  simp [Hart.finishing, Hart.midway, hb]

/-- The turn of a hart to which nothing comes before its instruction (01 R27). -/
theorem hartMove_issue {s : State} {c : Nat} {h : BitVec 2} (hat : s.atBoundary c h = true) (hb : (s.hartOf c h).block = none)
    (ho : (s.core c).overdue h = none) (hp : s.mayPass c h = false) (hd : (s.hartOf c h).due = none) (hf : s.firstReady c h = true) :
    hartMove c h s = (s.as c h).issue := by
  simp [hartMove, finishing_of_unblocked hb, ho, hp, hat, hd, hb, hf]

/-- A queued message for an empty register of a hart comes first (06 R156). -/
theorem hartMove_overdue {s : State} {c : Nat} {h : BitVec 2} {q : BitVec 4} (hl : (s.core c).live = true) (hb : (s.hartOf c h).block = none)
    (ho : (s.core c).overdue h = some q) : hartMove c h s = execOverflowDelivery c h q s := by
  simp [hartMove, finishing_of_unblocked hb, ho, hl]

theorem notIssued_none {s : State} (hh : s.held = false) (hk : s.locked = false) (hs : s.inLines s.cc.codeStall = none)
    (hp : s.inLines s.cc.codePoison = none) (hb : s.breakpoint = none) : s.notIssued = none := by
  simp [State.notIssued, hh, hk, hs, hp, hb]

/-- A hart that nothing holds at issue executes its current instruction. -/
theorem issue_current {s : State} {i : Instr} (hn : s.notIssued = none) (hi : s.current = i) : s.issue = mapNext (s.noteIssue i) (exec i s) := by
  simp only [State.issue, hn, hi]

theorem word_inside {s : State} (h : s.hart.pastEnd = false) : s.word = fetchWord s.cc s.hart s.hart.pc.toNat := by
  simp [State.word, h]

theorem word_pastEnd {s : State} (h : s.hart.pastEnd = true) : s.word = 0 := by simp [State.word, h]

theorem current_of_some {s : State} {i : Instr} (h : decodeWord s.word = some i) : s.current = i := by simp [State.current, h]

theorem current_of_none {s : State} (h : decodeWord s.word = none) : s.current = .undefinedEncoding s.word := by simp [State.current, h]

theorem decodeWord_zero : decodeWord 0 = none := by decide

/-- A sequencer's turn (11 R281). -/
theorem seqMove_ready {s : State} {c : Nat} {i : Instr} (hr : (s.core c).seqReady = true) (hi : decodeMicro (s.core c).microword = some i) :
    seqMove c s = exec i (s.as c (s.core c).cas.starter) := by
  simp only [seqMove, hr, if_true, hi]

/-! What stands at the end of a move. -/

/-- The harts of every core bounded, before the waits of WAYSETs and the blocking points are looked at. -/
def State.boundedHarts (s : State) : State := { s with cores := s.cores.map (fun e => (e.1, e.2.bounded)) }

theorem mapFind_mapValues {α β : Type} (f : Nat → α → β) (m : List (Nat × α)) (k : Nat) :
    mapFind (m.map (fun e => (e.1, f e.1 e.2))) k = (mapFind m k).map (f k) := by
  induction m with
  | nil => rfl
  | cons e m ih =>
    obtain ⟨j, v⟩ := e
    simp only [List.map_cons, mapFind, ih]
    split
    · subst_vars; rfl
    · split <;> rfl

theorem Core.hart_bounded (k : Core) (h : BitVec 2) : k.bounded.hart h = (k.hart h).bounded k.codesz.toNat := by
  simp [Core.bounded, Core.hart, Vector.get_eq_getElem]

theorem Hart.bounded_inside {n : Nat} {x : Hart} (h : x.pc.toNat < n ∨ n = 0) : x.bounded n = x := if_neg (by omega)

theorem Hart.bounded_outside {n : Nat} {x : Hart} (h : n ≤ x.pc.toNat) (hn : n ≠ 0) :
    x.bounded n = { x with pc := BitVec.ofNat 64 (n - 4), pastEnd := true } := if_pos ⟨hn, h⟩

theorem Core.bounded_noCode {k : Core} (h : k.codesz = 0) : k.bounded = k := by
  have hv : vmap (Hart.bounded k.codesz.toNat) k.harts = k.harts := by
    ext i hi : 1
    rw [getElem_vmap, Hart.bounded_inside (.inr (by rw [h]; rfl))]
  unfold Core.bounded
  rw [hv]

theorem core_boundedHarts (s : State) (c : Nat) : s.boundedHarts.core c = (s.core c).bounded := by
  simp only [State.core, State.boundedHarts, mapGet, mapFind_mapValues (fun _ => Core.bounded)]
  cases mapFind s.cores c with
  | none => exact (Core.bounded_noCode rfl).symm
  | some k => rfl

/-- A core at the end of a move. -/
def State.boundedCore (s : State) (c : Nat) : Core := (s.boundedHarts.keepWait c (s.core c).bounded).stalls (s.boundedHarts.atBlock c)

theorem stalls_none (k : Core) : k.stalls (fun _ => false) = k := by
  have hv : vmapIdx (fun _ (h : Hart) => h) k.harts = k.harts := by ext i hi : 1; simp
  simp [Core.stalls, hv]

theorem core_bounded (s : State) (c : Nat) : s.bounded.core c = s.boundedCore c := by
  have e : s.bounded.core c = ((mapFind s.boundedHarts.cores c).map (fun k => (s.boundedHarts.keepWait c k).stalls (s.boundedHarts.atBlock c))).getD {} := by
    simp only [← mapFind_mapValues (fun i k => (s.boundedHarts.keepWait i k).stalls (s.boundedHarts.atBlock i))]
    rfl
  have ec := core_boundedHarts s c
  rw [e, State.boundedCore, ← ec]
  simp only [State.core, mapGet] at ec ⊢
  cases hk : mapFind s.boundedHarts.cores c with
  | some k => rfl
  | none =>
    have idle : s.boundedHarts.atBlock c = fun _ => false := by
      funext h
      have hx : s.boundedHarts.hartOf c h = {} := by
        simp [State.hartOf, State.core, mapGet, hk, Core.hart]
      simp [State.atBlock, hx]
    rw [idle, stalls_none]
    rfl

theorem hart_stalls (k : Core) (f : BitVec 2 → Bool) (h : BitVec 2) :
    (k.stalls f).hart h = { k.hart h with stalled := ((k.stalls f).hart h).stalled } := by
  simp only [Core.stalls, Core.hart, Vector.get_eq_getElem, getElem_vmapIdx]
  split <;> rfl

theorem hartOf_boundedHarts (s : State) (c : Nat) (h : BitVec 2) :
    s.boundedHarts.hartOf c h = (s.hartOf c h).bounded (s.core c).codesz.toNat := by
  rw [State.hartOf, core_boundedHarts, Core.hart_bounded, State.hartOf]

/-- A hart at the end of a move: bounded, and with a note of blocking points. -/
theorem hartOf_bounded (s : State) (c : Nat) (h : BitVec 2) :
    s.bounded.hartOf c h = { s.boundedHarts.hartOf c h with stalled := (s.bounded.hartOf c h).stalled } := by
  have e : (s.boundedHarts.keepWait c (s.core c).bounded).hart h = s.boundedHarts.hartOf c h := by rw [State.hartOf, core_boundedHarts]; rfl
  rw [State.hartOf, core_bounded, State.boundedCore, hart_stalls, e]

/-- The waits of WAYSETs and the notes of blocking points do not bear on whether a hart is at a WAYSET. -/
theorem atWayset_bounded (s : State) (c : Nat) (h : BitVec 2) : s.bounded.atWayset c h = s.boundedHarts.atWayset c h := by
  have eh := hartOf_bounded s c h
  have ew : (s.bounded.as c h).word = (s.boundedHarts.as c h).word := by
    show (if (s.bounded.hartOf c h).pastEnd then 0 else fetchWord (s.bounded.core c) (s.bounded.hartOf c h) (s.bounded.hartOf c h).pc.toNat) =
      if (s.boundedHarts.hartOf c h).pastEnd then 0 else fetchWord (s.boundedHarts.core c) (s.boundedHarts.hartOf c h) (s.boundedHarts.hartOf c h).pc.toNat
    rw [eh, core_bounded, core_boundedHarts]
    rfl
  unfold State.atWayset
  rw [ew, eh]

/-- A WAYSET waits on only where its hart is at it (08 R187). -/
theorem wayWait_bounded (s : State) (c : Nat) :
    (s.bounded.core c).wayWait = (s.core c).wayWait.filter (fun w => s.bounded.atWayset c w.1) := by
  simp only [core_bounded, atWayset_bounded]
  rfl

/-! The moves of one cycle (12 R303). -/

theorem rank_le (s : State) (m : Move) : s.rank m ≤ 4 := by
  unfold State.rank
  split
  · split <;> omega
  all_goals omega

/-- Two moves of one cycle: the one of the lower place first. -/
theorem inCycle_two (s : State) (a b : Move) : s.inCycle [a, b] = if s.rank b < s.rank a then [b, a] else [a, b] := by
  have ha := rank_le s a
  have hb := rank_le s b
  simp only [State.inCycle, List.flatMap_cons, List.flatMap_nil, List.filter_cons, List.filter_nil]
  generalize s.rank a = x at ha ⊢
  generalize s.rank b = y at hb ⊢
  interval_cases x <;> interval_cases y <;> rfl

/-- Settles O60: the agenda names the move (`step_hart` and its kin), a hart with nothing before its instruction issues it (`hartMove_issue`,
`issue_current`), and `hartOf_bounded` and `wayWait_bounded` say what stands at the end. -/
theorem stepRunsDecoded : Obligations.StepRunsDecoded := by
  unfold Obligations.StepRunsDecoded
  refine ⟨fun s c h ms i => ?_, fun t u i => ⟨fun hi => if_pos hi, fun hi => if_neg (by simp [hi])⟩, fun u c h => ?_, fun s a b ms ha => ?_, fun s c d id h i => ?_⟩
  · intro x k t w runs
    refine ⟨fun ha hat hb ho hp hd hf hh hk hs hpo hbr => ?_, fun ha hl hb q ho => ?_, fun ha hr hi => ?_, fun ha hi => step_event ha hi⟩
    · have turn : ∀ j, t.current = j → runs j := fun j hj => by
        show step s = _
        rw [step_hart ha, hartMove_issue (s := { s with agenda := ms }) hat hb ho hp hd hf, ← issue_current (notIssued_none hh hk hs hpo hbr) hj]
        rfl
      have inside : x.pastEnd = false → t.word = w := fun hpe => word_inside (s := t) hpe
      have passed : x.pastEnd = true → t.word = 0 := fun hpe => word_pastEnd (s := t) hpe
      refine ⟨fun hpe _ => ⟨fun hw => turn i (current_of_some ?_), fun hw => turn _ ?_⟩, fun hpe => turn _ ?_⟩
      · rw [inside hpe, hw]
      · rw [current_of_none (by rw [inside hpe, hw]), inside hpe]
      · rw [current_of_none (by rw [passed hpe]; exact decodeWord_zero), passed hpe]
    · rw [step_hart ha, hartMove_overdue (s := { s with agenda := ms }) hl hb ho]
      rfl
    · rw [step_sequencer ha, seqMove_ready (s := { s with agenda := ms }) hr hi]
      rfl
  · intro n x
    have hx : u.bounded.hartOf c h = { (u.hartOf c h).bounded n with stalled := (u.bounded.hartOf c h).stalled } := by
      rw [hartOf_bounded, hartOf_boundedHarts]
    refine ⟨rfl, ?_, fun hpc hn => ?_, fun hpc => ?_, fun w => ?_⟩
    · rw [core_bounded]
      rfl
    · rw [hx, Hart.bounded_outside hpc hn]
    · rw [hx, Hart.bounded_inside hpc]
    · rw [wayWait_bounded, Option.filter_eq_some_iff]
  · rw [step_cycle_two ha, inCycle_two]
  · refine ⟨fun hi => ?_, rfl, rfl, rfl, rfl⟩
    simp only [State.rank, State.samples, current_of_some hi]
    cases i <;> rfl

end Sys2Proof.Machine
end

section
/-! SUPPORT. A tag error over a memory that is not in canonical form (log 3). -/

namespace Sys2Proof.Machine

/-- A module whose memory lists its cells out of order, so that the byte at 0 is hidden behind the byte at 512, and a slice line of way 0 that
holds the sector at 512, dirty and all zeros. -/
def hiddenByte : State :=
  { mem := [(512, 1), (0, 7)], slices := [{ x := 0, y := 0, line := 1, owner := 0, way := 0, valid := 1, dirty := 1 }] }

/-- The write-back of the line erases the cell at 512, and the byte at 0, which lies in no line of the way, is seen. -/
theorem hiddenByte_withdrawWay :
    memByte hiddenByte.mem 0 = 0 ∧ memByte (hiddenByte.withdrawWay 0 0 0 0 State.loseLine).mem 0 = 7 := by decide +kernel

/-- Refutes O53: its clause on a tag error (13 R323) says of every state that memory outside the lines of the way stays as it is. The statement
has no premise that the memory is in canonical form (`State.memOk`, log 3), and over `hiddenByte` the write-back of the way's line uncovers another
line's byte. -/
theorem not_errorContainment : ¬ Obligations.ErrorContainment := by
  unfold Obligations.ErrorContainment
  intro h
  obtain ⟨-, -, -, -, -, ⟨t, ht, -, -, -, -, outside⟩, -⟩ := h hiddenByte 0 0 0 0 0 0 0 0 { x := 0, y := 0, line := 0, owner := 0 } 0
  have ht' : t = hiddenByte.withdrawWay 0 0 0 0 State.loseLine := by
    injection ht with e
    exact e.symm
  have same := outside 0 (by decide)
  rw [ht', hiddenByte_withdrawWay.1, hiddenByte_withdrawWay.2] at same
  exact absurd same (by decide)

end Sys2Proof.Machine
end

section
/-! SUPPORT. Words and their fields (02 R34, R35): a word is read back field by field, and it is the sum of its fields. -/

namespace Sys2Proof

/-! Reading a field of a word that is written as a sum of fields, the highest first: the fields above it and below it do not count. -/

theorem field_eq_mod_div (x p q : Nat) : x / p % q = x % (p * q) / p := (Nat.mod_mul_right_div_self x p q).symm

theorem field_word {x p q k : Nat} (h : 2 ^ k % (p * q) = 0) : (BitVec.ofNat k x).toNat / p % q = x / p % q := by
  rw [BitVec.toNat_ofNat, field_eq_mod_div, Nat.mod_mod_of_dvd x (Nat.dvd_of_mod_eq_zero h), field_eq_mod_div x]

theorem field_above {x y m p q : Nat} (h : m % (p * q) = 0) : (x + y * m) / p % q = x / p % q := by
  obtain ⟨c, rfl⟩ := Nat.dvd_of_mod_eq_zero h
  rw [field_eq_mod_div, field_eq_mod_div x, Nat.mul_left_comm, Nat.add_mul_mod_self_left]

theorem field_below {x m p q j : Nat} {v : BitVec j} (h : p % (m * 2 ^ j) = 0) (hx : x / m % 2 ^ j = 0) :
    (x + v.toNat * m) / p % q = x / p % q := by
  obtain ⟨c, rfl⟩ := Nat.dvd_of_mod_eq_zero h
  rcases Nat.eq_zero_or_pos m with rfl | hm
  · rw [Nat.mul_zero, Nat.add_zero]
  · have drop : (x / m + v.toNat) / 2 ^ j = x / m / 2 ^ j := by
      rw [Nat.add_div_eq_of_add_mod_lt (by rw [hx, Nat.mod_eq_of_lt v.isLt, Nat.zero_add]; exact v.isLt), Nat.div_eq_of_lt v.isLt, Nat.add_zero]
    rw [← Nat.div_div_eq_div_mul, ← Nat.div_div_eq_div_mul, Nat.add_mul_div_right _ _ hm, drop, Nat.div_div_eq_div_mul, Nat.div_div_eq_div_mul, Nat.mul_assoc]

theorem field_below_lowest {x p q j : Nat} {v : BitVec j} (h : p % 2 ^ j = 0) (hx : x / 1 % 2 ^ j = 0) : (x + v.toNat) / p % q = x / p % q := by
  simpa using field_below (m := 1) (q := q) (v := v) (by rwa [Nat.one_mul]) hx

theorem field_same {x m q j : Nat} {v : BitVec j} (h : q % 2 ^ j = 0) (hm : 0 < m) (hx : x / m % q = 0) : (x + v.toNat * m) / m % q = v.toNat := by
  obtain ⟨c, rfl⟩ := Nat.dvd_of_mod_eq_zero h
  rw [Nat.add_mul_div_right _ _ hm, Nat.add_mod, hx, Nat.zero_add, Nat.mod_mod]
  rcases Nat.eq_zero_or_pos c with rfl | hc
  · rw [Nat.mul_zero, Nat.mod_zero]
  · exact Nat.mod_eq_of_lt (v.isLt.trans_le (Nat.le_mul_of_pos_right _ hc))

theorem field_same_lowest {x q j : Nat} {v : BitVec j} (h : q % 2 ^ j = 0) (hx : x / 1 % q = 0) : (x + v.toNat) / 1 % q = v.toNat := by
  simpa using field_same (v := v) h Nat.one_pos hx

theorem fv_eq_ofNat (n lo k : Nat) : fv n lo k = BitVec.ofNat k (n / 2 ^ lo % 2 ^ k) :=
  BitVec.eq_of_toNat_eq (by simp [fv])

theorem toNat_fv (n lo k : Nat) : (fv n lo k).toNat = fld n lo k := by
  rw [fv, BitVec.toNat_ofNat, fld]

/-! A word as the sum of its fields: a field is worth what stands below its end without what stands below its start, so the sum telescopes. -/

/-- What the bits of a number below bit `j` are worth, as an integer. -/
def lowBits (n j : Nat) : Int := (n % 2 ^ j : Nat)

theorem lowBits_zero (n : Nat) : lowBits n 0 = 0 := by
  rw [lowBits, Nat.pow_zero, Nat.mod_one, Nat.cast_zero]

theorem lowBits_add (n lo k : Nat) : lowBits n (lo + k) = lowBits n lo + fld n lo k * 2 ^ lo := by
  simp only [lowBits, fld, Nat.pow_add, Nat.mod_mul]
  push_cast
  ring

theorem fld_eq_iff {n lo k c : Nat} : fld n lo k = c ↔ lowBits n (lo + k) = lowBits n lo + c * 2 ^ lo := by
  rw [lowBits_add, add_right_inj, mul_left_inj' (by positivity), Nat.cast_inj]

theorem toNat_fv_mul {n lo k : Nat} {m : Int} (h : m = 2 ^ lo) : ((fv n lo k).toNat : Int) * m = lowBits n (lo + k) - lowBits n lo := by
  rw [lowBits_add, toNat_fv, h, add_sub_cancel_left]

theorem toNat_fv_zero {n k : Nat} : ((fv n 0 k).toNat : Int) = lowBits n k := by
  have whole := lowBits_add n 0 k
  rw [Nat.zero_add, lowBits_zero, zero_add, pow_zero, mul_one] at whole
  rw [whole, toNat_fv]

theorem ofNat_eq_of_lowBits {n x k : Nat} (h : (x : Int) = lowBits n k) : BitVec.ofNat k x = BitVec.ofNat k n := by
  rw [lowBits, Nat.cast_inj] at h
  rw [h]
  exact BitVec.eq_of_toNat_eq (by simp)

end Sys2Proof
end

section
/-! SUPPORT. Decoding the word of an instruction, and encoding what a word decodes to (24 R445). The proofs about each instruction are cut by
the order of the constructors, that of the table. -/

namespace Sys2Proof

/-- The fixed bits of the word of `i` select `i`, and each operand is read back from its field. -/
def Decodes (i : Instr) : Prop := ∀ w, encode i = some w → rawDecode w.toNat = some i

theorem decodeWord_eq_some_iff {w : BitVec 32} {i : Instr} : decodeWord w = some i ↔ rawDecode w.toNat = some i ∧ i.WellFormed := by
  unfold decodeWord Instr.WellFormed
  cases rawDecode w.toNat with
  | none => simp
  | some j =>
    simp only [Option.ite_none_right_eq_some, Option.some.injEq]
    exact ⟨fun ⟨hw, e⟩ => ⟨e, e ▸ hw⟩, fun ⟨e, hw⟩ => ⟨e ▸ hw, e⟩⟩

/-- 09 R233: VCMP has its condition in the two low bits of its function, so each of four functions is VCMP. -/
theorem decodes_vcmp (d a b : BitVec 5) (e : BitVec 4) (m p t : BitVec 1) (c : BitVec 2) : Decodes (.vcmp d a b e m p t c) := by
  simp only [Decodes, encode, forall_eq', Option.some.injEq]
  simp only [rawDecode, decodeMajor20, fv_eq_ofNat, fld, field_word, field_above, field_below, field_below_lowest, field_same, field_same_lowest,
    Nat.reducePow, Nat.reduceMul, Nat.reduceMod, Nat.reduceDiv, Nat.ofNat_pos, BitVec.ofNat_toNat, BitVec.setWidth_eq]
  have hc : c.toNat < 4 := c.isLt
  generalize c.toNat = k at hc
  interval_cases k <;> rfl

/-- 11 R282: WRC of the control register 0x050 is CASGO. -/
theorem decodes_wrc {a : BitVec 5} {c : BitVec 12} (hw : (Instr.wrc a c).WellFormed) : Decodes (.wrc a c) := by
  have hc : c.toNat ≠ 80 := fun e => absurd hw (by rw [BitVec.eq_of_toNat_eq (y := 0x050#12) e]; exact Bool.false_ne_true)
  simp only [Decodes, encode, forall_eq', Option.some.injEq]
  simp only [rawDecode, decodeMajor2A, fv_eq_ofNat, fld, field_word, field_above, field_below, field_below_lowest, field_same, field_same_lowest,
    Nat.reducePow, Nat.reduceMul, Nat.reduceMod, Nat.reduceDiv, Nat.ofNat_pos, BitVec.ofNat_toNat, BitVec.setWidth_eq, ↓reduceIte, hc]

/-- The instructions of the majors 0x00 to 0x0E (02 R37, R38, R41): the scalar ones that name no memory. -/
theorem decodes_scalar {i : Instr} (hi : i.ctorIdx < (Instr.ld 0 0 0 0 0).ctorIdx) : Decodes i := by
  cases i
  any_goals exact absurd hi (Nat.not_lt.2 (Nat.le_of_ble_eq_true rfl))
  all_goals simp only [Decodes, encode, forall_eq', Option.some.injEq]
  all_goals
    simp only [rawDecode, decodeMajor00, decodeMajor01, decodeMajor02, decodeMajor03, decodeMajor04, decodeMajor05, decodeMajor06, decodeMajor07,
      decodeMajor08, decodeMajor09, decodeMajor0A, decodeMajor0B, decodeMajor0C, decodeMajor0D, decodeMajor0E, fv_eq_ofNat, fld, field_word,
      field_above, field_below, field_below_lowest, field_same, field_same_lowest, Nat.reducePow, Nat.reduceMul, Nat.reduceMod, Nat.reduceDiv,
      Nat.ofNat_pos, ↓reduceIte, BitVec.ofNat_toNat, BitVec.setWidth_eq, and_self]

/-- The instructions of the majors 0x10 to 0x1C (02 R39, R42): memory, its objects, messages and bindings. -/
theorem decodes_memory {i : Instr} (lo : (Instr.ld 0 0 0 0 0).ctorIdx ≤ i.ctorIdx) (hi : i.ctorIdx < (Instr.vld 0 0 0 0 0 0 0).ctorIdx) : Decodes i := by
  cases i
  any_goals exact absurd lo (Nat.not_le.2 (Nat.le_of_ble_eq_true rfl))
  any_goals exact absurd hi (Nat.not_lt.2 (Nat.le_of_ble_eq_true rfl))
  all_goals simp only [Decodes, encode, forall_eq', Option.some.injEq]
  all_goals
    simp only [rawDecode, decodeMajor10, decodeMajor11, decodeMajor12, decodeMajor13, decodeMajor14, decodeMajor15, decodeMajor16, decodeMajor17,
      decodeMajor18, decodeMajor19, decodeMajor1A, decodeMajor1B, decodeMajor1C, fv_eq_ofNat, fld, field_word, field_above, field_below,
      field_below_lowest, field_same, field_same_lowest, Nat.reducePow, Nat.reduceMul, Nat.reduceMod, Nat.reduceDiv, Nat.ofNat_pos,
      ↓reduceIte, BitVec.ofNat_toNat, BitVec.setWidth_eq, and_self]

/-- The instructions of the majors 0x1D to 0x21 (02 R40): the vector instructions. -/
theorem decodes_vector {i : Instr} (lo : (Instr.vld 0 0 0 0 0 0 0).ctorIdx ≤ i.ctorIdx) (hi : i.ctorIdx < (Instr.mclaim 0 0 0).ctorIdx) : Decodes i := by
  cases i
  any_goals exact absurd lo (Nat.not_le.2 (Nat.le_of_ble_eq_true rfl))
  any_goals exact absurd hi (Nat.not_lt.2 (Nat.le_of_ble_eq_true rfl))
  case vcmp => apply decodes_vcmp
  all_goals simp only [Decodes, encode, forall_eq', Option.some.injEq]
  all_goals
    simp only [rawDecode, decodeMajor1D, decodeMajor1E, decodeMajor1F, decodeMajor20, decodeMajor21, fv_eq_ofNat, fld, field_word, field_above,
      field_below, field_same, Nat.reducePow, Nat.reduceMul, Nat.reduceMod, Nat.reduceDiv, Nat.ofNat_pos,
      ↓reduceIte, BitVec.ofNat_toNat, BitVec.setWidth_eq, and_self]

/-- The instructions of the majors 0x24 to 0x28 (02 R42): the engines, the Sash store and the Peephole. -/
theorem decodes_engines {i : Instr} (lo : (Instr.mclaim 0 0 0).ctorIdx ≤ i.ctorIdx) (hi : i.ctorIdx < (Instr.launch 0 0 0).ctorIdx) : Decodes i := by
  cases i
  any_goals exact absurd lo (Nat.not_le.2 (Nat.le_of_ble_eq_true rfl))
  any_goals exact absurd hi (Nat.not_lt.2 (Nat.le_of_ble_eq_true rfl))
  all_goals simp only [Decodes, encode, forall_eq', Option.some.injEq]
  all_goals
    simp only [rawDecode, decodeMajor24, decodeMajor25, decodeMajor26, decodeMajor27, decodeMajor28, fv_eq_ofNat, fld, field_word, field_above,
      field_below, field_same, Nat.reducePow, Nat.reduceMul, Nat.reduceMod, Nat.reduceDiv, Nat.ofNat_pos,
      ↓reduceIte, BitVec.ofNat_toNat, BitVec.setWidth_eq, and_self]

/-- The instructions of the majors 0x29 to 0x3F (02 R42), and the steps that have no word. -/
theorem decodes_system {i : Instr} (hw : i.WellFormed) (lo : (Instr.launch 0 0 0).ctorIdx ≤ i.ctorIdx) : Decodes i := by
  cases i
  any_goals exact absurd lo (Nat.not_le.2 (Nat.le_of_ble_eq_true rfl))
  case wrc => exact decodes_wrc hw
  all_goals simp only [Decodes, encode, forall_eq', Option.some.injEq, reduceCtorEq, false_implies, implies_true]
  all_goals
    simp only [rawDecode, decodeMajor29, decodeMajor2A, decodeMajor3E, decodeMajor3F, fv_eq_ofNat, fld, field_word, field_above, field_below,
      field_below_lowest, field_same, field_same_lowest, Nat.reducePow, Nat.reduceMul, Nat.reduceMod, Nat.reduceDiv, Nat.ofNat_pos, Nat.reduceEqDiff,
      ↓reduceIte, BitVec.ofNat_toNat, BitVec.setWidth_eq, and_self, false_and]

theorem decodes_of_wellFormed {i : Instr} (hw : i.WellFormed) : Decodes i := by
  rcases Nat.lt_or_ge i.ctorIdx (Instr.ld 0 0 0 0 0).ctorIdx with hi | lo
  · exact decodes_scalar hi
  rcases Nat.lt_or_ge i.ctorIdx (Instr.vld 0 0 0 0 0 0 0).ctorIdx with hi | lo'
  · exact decodes_memory lo hi
  rcases Nat.lt_or_ge i.ctorIdx (Instr.mclaim 0 0 0).ctorIdx with hi | lo''
  · exact decodes_vector lo' hi
  rcases Nat.lt_or_ge i.ctorIdx (Instr.launch 0 0 0).ctorIdx with hi | lo'''
  · exact decodes_engines lo'' hi
  · exact decodes_system hw lo'''

/-- Each leaf of the decoder: the bits that it tests and the fields that it reads are all the bits of the word. -/
theorem encode_of_rawDecode {n : Nat} {i : Instr} (h : rawDecode n = some i) : encode i = some (BitVec.ofNat 32 n) := by
  unfold rawDecode at h
  split at h
  any_goals
    simp only [decodeMajor00, decodeMajor01, decodeMajor02, decodeMajor03, decodeMajor04, decodeMajor05, decodeMajor06, decodeMajor07, decodeMajor08,
      decodeMajor09, decodeMajor0A, decodeMajor0B, decodeMajor0C, decodeMajor0D, decodeMajor0E, decodeMajor10, decodeMajor11, decodeMajor12,
      decodeMajor13, decodeMajor14, decodeMajor15, decodeMajor16, decodeMajor17, decodeMajor18, decodeMajor19, decodeMajor1A, decodeMajor1B,
      decodeMajor1C, decodeMajor1D, decodeMajor1E, decodeMajor1F, decodeMajor20, decodeMajor21, decodeMajor24, decodeMajor25, decodeMajor26,
      decodeMajor27, decodeMajor28, decodeMajor29, decodeMajor2A, decodeMajor3E, decodeMajor3F] at h
  all_goals
    repeat' split at h
  all_goals
    simp only [reduceCtorEq, Option.some.injEq] at h
  all_goals
    subst h
    refine congrArg some (ofNat_eq_of_lowBits ?_)
    simp only [fld_eq_iff, lowBits_zero, Nat.reduceAdd] at *
    simp only [Nat.cast_add, Nat.cast_mul, Nat.cast_ofNat, toNat_fv_mul, toNat_fv_zero, Nat.reduceAdd, Int.reducePow]
  any_goals omega
  all_goals
    simp only [lowBits] at *
    omega

end Sys2Proof
end

section
/-! SUPPORT. Microwords (11 R286), and the statement on encodings. -/

namespace Sys2Proof

/-- The microword with these fields and this OP (11 R286), as a number. -/
def microSum (op : Nat) (u : Micro) : Nat :=
  op * 2 ^ 60 + u.d.toNat * 2 ^ 56 + u.a.toNat * 2 ^ 52 + u.b.toNat * 2 ^ 48 + u.x.toNat * 2 ^ 32 + u.imm.toNat

theorem encodeMicro_eq_some_iff {i : Instr} {w : BitVec 64} :
    encodeMicro i = some w ↔ ∃ op u, microOp i = some (op, u) ∧ BitVec.ofNat 64 (microSum op u) = w := by
  unfold encodeMicro microSum
  cases microOp i with
  | none => simp
  | some f => exact ⟨fun h => ⟨f.1, f.2, rfl, Option.some.inj h⟩, fun ⟨op, u, e, hw⟩ => by cases e; exact congrArg some hw⟩

theorem decodeMicro_eq_some_iff {w : BitVec 64} {i : Instr} : decodeMicro w = some i ↔ rawDecodeMicro w.toNat = some i ∧ i.WellFormed := by
  unfold decodeMicro Instr.WellFormed
  cases rawDecodeMicro w.toNat with
  | none => simp
  | some j =>
    simp only [Option.ite_none_right_eq_some, Option.some.injEq]
    exact ⟨fun ⟨hw, e⟩ => ⟨e, e ▸ hw⟩, fun ⟨e, hw⟩ => ⟨e ▸ hw, e⟩⟩

theorem toNat_microSum {op : Nat} (hop : op < 16) (u : Micro) : (BitVec.ofNat 64 (microSum op u)).toNat = microSum op u := by
  rw [BitVec.toNat_ofNat]
  apply Nat.mod_eq_of_lt
  unfold microSum
  omega

theorem fld_microSum_op {op : Nat} (hop : op < 16) (u : Micro) : fld (microSum op u) 60 4 = op := by
  unfold fld microSum
  omega

theorem fld_microSum_x {op k : Nat} (hk : k ≤ 16) (u : Micro) : fld (microSum op u) 32 k = u.x.toNat % 2 ^ k := by
  have upper : microSum op u / 2 ^ 32 = 2 ^ 16 * (op * 2 ^ 12 + u.d.toNat * 2 ^ 8 + u.a.toNat * 2 ^ 4 + u.b.toNat) + u.x.toNat := by
    unfold microSum
    omega
  obtain ⟨c, hc⟩ := Nat.pow_dvd_pow 2 hk
  rw [fld, upper, hc, Nat.mul_assoc, Nat.mul_add_mod]

theorem microFields_microSum (op : Nat) (u : Micro) : microFields (microSum op u) = u := by
  obtain ⟨d, a, b, x, imm⟩ := u
  simp only [microFields, Micro.mk.injEq, ← BitVec.toNat_inj, toNat_fv, fld, microSum]
  omega

theorem microOp_lt {i : Instr} {op : Nat} {u : Micro} (h : microOp i = some (op, u)) : op < 16 := by
  cases i
  all_goals simp only [microOp, reduceCtorEq, Option.some.injEq, Prod.mk.injEq] at h
  all_goals omega

/-- 11 R287, R288, R290: OP selects the micro-operation; X tells MLOAD from the other MM, and the message from the other SIG. -/
theorem rawDecodeMicro_microSum {i : Instr} {op : Nat} {u : Micro} (hw : i.WellFormed) (h : microOp i = some (op, u)) :
    rawDecodeMicro (microSum op u) = some i := by
  have hop := fld_microSum_op (microOp_lt h) u
  have hx := fun k hk => fld_microSum_x (op := op) (k := k) hk u
  unfold Instr.WellFormed at hw
  cases i
  all_goals simp only [microOp, reduceCtorEq, Option.some.injEq, Prod.mk.injEq] at h
  all_goals
    obtain ⟨rfl, rfl⟩ := h
    simp only [Instr.wf, Bool.and_eq_true, beq_iff_eq] at hw
    simp only [rawDecodeMicro, microFields_microSum, hop]
  case microMm => simp [hx 2, hw]
  case microMmMload => simp [hx 2, hw]
  case microSig => simp [hx 1, hw]
  case microSigMessage => simp [hx 1, hw]

theorem microSum_fields (n : Nat) : BitVec.ofNat 64 (microSum (fld n 60 4) (microFields n)) = BitVec.ofNat 64 n := by
  apply ofNat_eq_of_lowBits
  have op := lowBits_add n 60 4
  simp only [microSum, microFields, Nat.cast_add, Nat.cast_mul, Nat.cast_pow, Nat.cast_ofNat, toNat_fv_mul, toNat_fv_zero]
  simp only [Nat.reduceAdd] at op ⊢
  omega

theorem encodeMicro_of_rawDecodeMicro {n : Nat} {i : Instr} (h : rawDecodeMicro n = some i) : encodeMicro i = some (BitVec.ofNat 64 n) := by
  refine encodeMicro_eq_some_iff.2 ⟨fld n 60 4, microFields n, ?_, microSum_fields n⟩
  have last : fld n 60 4 < 16 := Nat.mod_lt _ (by decide)
  unfold rawDecodeMicro at h
  repeat' split at h
  all_goals
    simp only [reduceCtorEq, Option.some.injEq] at h
  all_goals
    subst h
    simp only [microOp, *]
  have top : fld n 60 4 = 15 := by
    simp only [imp_false] at *
    omega
  rw [top]

/-- Settles O55: decoding reads back each field of the word that encoding writes, and the bits that a leaf of the decoder tests are, with the
fields that it reads, the whole word. -/
theorem encodingsAgree : Obligations.EncodingsAgree := by
  unfold Obligations.EncodingsAgree
  refine ⟨fun i hw => ⟨fun w h => ?_, fun w h => ?_⟩, fun i => ⟨fun w h => ?_, fun w h => ?_⟩⟩
  · exact decodeWord_eq_some_iff.2 ⟨decodes_of_wellFormed hw w h, hw⟩
  · obtain ⟨op, u, hu, rfl⟩ := encodeMicro_eq_some_iff.1 h
    exact decodeMicro_eq_some_iff.2 ⟨by rw [toNat_microSum (microOp_lt hu), rawDecodeMicro_microSum hw hu], hw⟩
  · obtain ⟨raw, hw⟩ := decodeWord_eq_some_iff.1 h
    exact ⟨hw, by rw [encode_of_rawDecode raw, BitVec.ofNat_toNat, BitVec.setWidth_eq]⟩
  · obtain ⟨raw, hw⟩ := decodeMicro_eq_some_iff.1 h
    exact ⟨hw, by rw [encodeMicro_of_rawDecodeMicro raw, BitVec.ofNat_toNat, BitVec.setWidth_eq]⟩

end Sys2Proof
end

section
/-! SUPPORT. A Sash operation whose scratch range lies in a way that a waiting WAYSET changes (08 R187; log 21): its unit holds it. -/

namespace Sys2Proof.Machine

/-- A held Sash operation stays where it is, ready or not. -/
theorem sashAccept_held {s : State} {id c : Nat} {h : BitVec 2} {r : Req} {op : SashOp} {handle : Word} {d : BitVec 5}
    (hr : s.reqNext id = some r) (hs : r.src = .hart c h) (hk : r.kind = .sash op handle d) (hh : s.sashHeld c r.vf handle op = true) :
    exec (.sashAccept id) s = .next s := by
  show execSashAccept id s = .next s
  simp only [execSashAccept, hr, hs, hk]
  rw [if_pos (.inr (.inr hh))]

/-- An answer stands in the net with its stage. -/
theorem exists_stage_answer (s : State) (r : Req) (site : Nat) (g : Stage) : ∃ q ∈ (s.answer r site g).net, q.stage = g :=
  ⟨{ r with stage := g, site := site, cls := if r.kind.acked then .acknowledgement else .response },
    List.mem_append_right _ (List.mem_singleton.2 rfl), rfl⟩

/-- SSLOAD of layer 0 of the record at 0x10000 to scratch offset 0x58000, which is in way 11. -/
def waysetLoad : Req :=
  { id := 3, src := .hart 5 1, cls := .request, kind := .sash (.load 0 0x58000) (handleOf 0 0 0x10000 1) 6, ea := 0, vf := 0, launch := 7, off := 60,
    prog := true, stage := .sent }

/-- Hart 0 of core 5, at a WAYSET that turns way 11 into a cache way. -/
def waysetHart : Hart := ({ xvec := 512, group := some ⟨7, 0, 0⟩ } : Hart).wg 6 0x7FF

/-- Core 5, all of whose ways are scratch. Its copy engine still writes way 11, for which the WAYSET of hart 0 waits, and hart 1 has sent `waysetLoad`. -/
def waysetCore : Core :=
  let k : Core :=
    { codesz := 1024, vf := some 0, vc := 5, launch := 7, lmem := memPutLE [] 0 4 ((encode (.wayset 5 6)).getD 0).toNat, wayWait := some (0, 0x7FF) }
  let copies : Cmd := { issuer := 1, seq := 1, off := 56, op := .cpy (k.ownAddr 0x58000) (k.ownAddr 0x1000) 128, cs := 0 }
  (({ k with copy := { run := some copies } }).setHart 0 waysetHart).setHart 1
    { xvec := 512, pc := 64, group := some ⟨7, 0, 1⟩, outst := [{ id := 3, pc := 60, dests := [6], credit := 0, passed := false }] }

/-- The module with this core. The record has one layer of one sector and a ring of two shutters, and lies in a page of 1 GiB that the partition's
table maps to 0x40000000. -/
def waysetWaits : State :=
  { (State.reset.modPart 0 (fun p => { p with valid := true, resident := true, remap := 0x8000000018018000, ptroot := 0x200000 })).setCore 5 waysetCore with
    cur := ⟨5, 0⟩, mem := memPutLE (memPutLE [] 0x200000 8 0x40000033) 0x40010000 128 (recNew 1 0 1 0 0 1), net := [waysetLoad], nextId := 4 }

/-- Hart 0 is at the WAYSET that the core's mark names, and the WAYSET waits: executed, it leaves the module as it is. -/
theorem waysetWaits_wayset : waysetWaits.atWayset 5 0 = true ∧ exec (.wayset 5 6) waysetWaits = .next waysetWaits :=
  ⟨by decide +kernel, congrArg Host.Outcome.next (by decide +kernel)⟩

theorem waysetWaits_next : waysetWaits.reqNext 3 = some waysetLoad ∧ waysetWaits.sashReady waysetLoad = true := by decide +kernel

theorem waysetWaits_sashHeld : waysetWaits.sashHeld 5 0 (handleOf 0 0 0x10000 1) (.load 0 0x58000) = true := by decide +kernel

/-- The operation itself has no fault. -/
theorem waysetWaits_sashOp : ∃ t v, waysetWaits.sashOp 5 0 (handleOf 0 0 0x10000 1) (.load 0 0x58000) = .ok (t, v) := by
  have ok : (waysetWaits.sashOp 5 0 (handleOf 0 0 0x10000 1) (.load 0 0x58000)).isOk = true := by decide +kernel
  cases e : waysetWaits.sashOp 5 0 (handleOf 0 0 0x10000 1) (.load 0 0x58000) with
  | error f => rw [e] at ok; cases ok
  | ok p => exact ⟨p.1, p.2, rfl⟩

/-- Refutes O44: its clause on SASH_ACCEPT says that a unit performs every operation that is ready (19 R388). The statement has no premise that no
WAYSET waits for a way of the operation's scratch range, which holds the operation (`State.sashHeld`; 08 R187, log 21): in `waysetWaits` the SSLOAD is
ready and without a fault, and the unit leaves it as it is. -/
theorem not_returns : ¬ Obligations.Returns := by
  unfold Obligations.Returns
  intro claim
  obtain ⟨ready, quiet⟩ := waysetWaits_next
  obtain ⟨t, v, op⟩ := waysetWaits_sashOp
  obtain ⟨-, toHart, -⟩ := claim waysetWaits 3 5 1 waysetLoad 0
  obtain ⟨-, -, -, -, -, accepts⟩ := toHart ready rfl
  have performed := (accepts _ _ _ rfl rfl quiet).1 t v op
  unfold Becomes at performed
  rw [sashAccept_held ready rfl rfl waysetWaits_sashHeld] at performed
  injection performed with same
  obtain ⟨q, mem, stage⟩ := exists_stage_answer (t.passed waysetLoad) waysetLoad
    (siteUnit (SashOp.unitOf (.load 0 0x58000) (handleOf 0 0 0x10000 1))) (.reply (BitVec.ofNat 1024 v) false 0 none)
  rw [← same] at mem
  rw [List.mem_singleton.1 mem] at stage
  exact nomatch stage

end Sys2Proof.Machine
end

section
/-! SUPPORT. What the integer functions of `Alu` give (04 R99 to R101), in the numbers that their operands stand for. -/

namespace Sys2Proof.Machine

/-! Shifts and products (R99). -/

theorem Alu.shl_eq (a b : Word) : Alu.shl a b = .pure (BitVec.ofNat 64 (a.toNat * 2 ^ (b.toNat % 64))) :=
  congrArg Fl.pure (BitVec.eq_of_toNat_eq (by rw [BitVec.toNat_shiftLeft, Nat.shiftLeft_eq, BitVec.toNat_ofNat]))

theorem Alu.shr_eq (a b : Word) : Alu.shr a b = .pure (BitVec.ofNat 64 (a.toNat / 2 ^ (b.toNat % 64))) := by
  refine congrArg Fl.pure (BitVec.eq_of_toNat_eq ?_)
  have hlt : a.toNat / 2 ^ (b.toNat % 64) < 2 ^ 64 := Nat.lt_of_le_of_lt (Nat.div_le_self _ _) a.isLt
  rw [BitVec.toNat_ushiftRight, Nat.shiftRight_eq_div_pow, BitVec.toNat_ofNat, Nat.mod_eq_of_lt hlt]

theorem Alu.sra_eq (a b : Word) : Alu.sra a b = .pure (BitVec.ofInt 64 (a.toInt / 2 ^ (b.toNat % 64))) := by
  rw [Alu.sra, BitVec.sshiftRight, Int.shiftRight_eq_div_pow, Nat.cast_pow, Nat.cast_ofNat]

theorem Alu.mul_eq (a b : Word) : Alu.mul a b = .pure (BitVec.ofInt 64 (a.toInt * b.toInt)) := by
  rw [Alu.mul, BitVec.ofInt_mul, BitVec.ofInt_toInt, BitVec.ofInt_toInt]

/-! Comparisons (R99). -/

theorem Alu.min_eq (a b : Word) : Alu.min a b = .pure (if a.toInt ≤ b.toInt then a else b) := by
  simp only [Alu.min, BitVec.sle_iff_toInt_le]

theorem Alu.max_eq (a b : Word) : Alu.max a b = .pure (if b.toInt ≤ a.toInt then a else b) := by
  simp only [Alu.max, BitVec.sle_iff_toInt_le]

theorem Alu.minu_eq (a b : Word) : Alu.minu a b = .pure (if a.toNat ≤ b.toNat then a else b) := by
  simp only [Alu.minu, BitVec.ule_iff_toNat_le]

theorem Alu.maxu_eq (a b : Word) : Alu.maxu a b = .pure (if b.toNat ≤ a.toNat then a else b) := by
  simp only [Alu.maxu, BitVec.ule_iff_toNat_le]

theorem Alu.slt_eq (a b : Word) : Alu.slt a b = .pure (if a.toInt < b.toInt then 1 else 0) := by
  simp only [Alu.slt, boolFl, b2w, BitVec.slt_iff_toInt_lt, Fl.pure]

theorem Alu.sltu_eq (a b : Word) : Alu.sltu a b = .pure (if a.toNat < b.toNat then 1 else 0) := by
  simp only [Alu.sltu, boolFl, b2w, BitVec.ult_iff_toNat_lt, Fl.pure]

theorem Alu.seq_eq (a b : Word) : Alu.seq a b = .pure (if a = b then 1 else 0) := by
  simp only [Alu.seq, boolFl, b2w, beq_iff_eq, Fl.pure]

theorem Alu.sne_eq (a b : Word) : Alu.sne a b = .pure (if a = b then 0 else 1) := by
  simp only [Alu.sne, boolFl, b2w, bne_iff_ne, ite_not, Fl.pure]

theorem Alu.addv_eq (a b : Word) :
    Alu.addv a b = ⟨a + b, if a.toInt + b.toInt < -(2 ^ 63) ∨ 2 ^ 63 - 1 < a.toInt + b.toInt then 0x80 else 0⟩ := by
  have h : (a.toInt + b.toInt < -2 ^ 63 ∨ 2 ^ 63 ≤ a.toInt + b.toInt) ↔ (a.toInt + b.toInt < -(2 ^ 63) ∨ 2 ^ 63 - 1 < a.toInt + b.toInt) := by
    omega
  simp only [Alu.addv, h]
  rfl

/-! Operations of one source (R101). -/

/-- CLZ counts the zero bits above the highest one bit. -/
theorem Alu.clz_spec (a : Word) : ∃ k, k ≤ 64 ∧ a.toNat < 2 ^ (64 - k) ∧ (k < 64 → 2 ^ (63 - k) ≤ a.toNat) ∧ Alu.clz a = .pure (BitVec.ofNat 64 k) := by
  by_cases h : a = 0
  · exact ⟨64, Nat.le_refl _, by simp [h], fun hk => absurd hk (Nat.lt_irrefl _), congrArg Fl.pure (if_pos h)⟩
  · have hne : a.toNat ≠ 0 := fun e => h (BitVec.eq_of_toNat_eq e)
    have hlog : Nat.log2 a.toNat < 64 := (Nat.log2_lt hne).mpr a.isLt
    refine ⟨63 - Nat.log2 a.toNat, by omega, ?_, fun _ => ?_, congrArg Fl.pure (if_neg h)⟩
    · rw [show 64 - (63 - Nat.log2 a.toNat) = Nat.log2 a.toNat + 1 by omega]
      exact Nat.lt_log2_self
    · rw [show 63 - (63 - Nat.log2 a.toNat) = Nat.log2 a.toNat by omega]
      exact Nat.log2_self_le hne

/-- `trailing` looks at k bits, and stops at the first that is one. -/
theorem Alu.trailing_spec (n k : Nat) :
    Alu.trailing n k ≤ k ∧ n % 2 ^ Alu.trailing n k = 0 ∧ (Alu.trailing n k < k → n.testBit (Alu.trailing n k) = true) := by
  induction k generalizing n with
  | zero => simp [Alu.trailing, Nat.mod_one]
  | succ k ih =>
    obtain ⟨hle, hmod, hbit⟩ := ih (n / 2)
    simp only [Alu.trailing]
    split
    next odd => exact ⟨Nat.zero_le _, Nat.mod_one _, fun _ => by simp [Nat.testBit_zero, odd]⟩
    next even =>
      refine ⟨by omega, ?_, fun hlt => ?_⟩
      · rw [Nat.add_comm, Nat.pow_succ', Nat.mod_mul, hmod]; omega
      · rw [Nat.add_comm, Nat.testBit_succ]; exact hbit (by omega)

/-- CTZ counts the zero bits below the lowest one bit. -/
theorem Alu.ctz_spec (a : Word) : ∃ k, k ≤ 64 ∧ a.toNat % 2 ^ k = 0 ∧ (k < 64 → a.getLsbD k = true) ∧ Alu.ctz a = .pure (BitVec.ofNat 64 k) :=
  have ⟨hle, hmod, hbit⟩ := Alu.trailing_spec a.toNat 64
  ⟨_, hle, hmod, hbit, rfl⟩

theorem Alu.ones_eq (n k : Nat) : Alu.ones n k = ((List.range k).filter (fun j => n.testBit j)).length := by
  induction k generalizing n with
  | zero => rfl
  | succ k ih =>
    have hfun : ((fun j => n.testBit j) ∘ Nat.succ) = fun j => (n / 2).testBit j := funext fun j => Nat.testBit_succ n j
    rw [Alu.ones, ih, List.range_succ_eq_map, List.filter_cons, List.filter_map, hfun]
    rcases Nat.mod_two_eq_zero_or_one n with h | h <;> simp [Nat.testBit_zero, h]
    omega

theorem Alu.popc_eq (a : Word) : Alu.popc a = .pure (BitVec.ofNat 64 ((List.range 64).filter (fun k => a.getLsbD k)).length) := by
  rw [Alu.popc, Alu.ones_eq]; rfl

theorem Alu.abs_eq (a : Word) : Alu.abs a = .pure (BitVec.ofInt 64 |a.toInt|) := by
  rw [Alu.abs, BitVec.msb_eq_toInt]
  by_cases h : a.toInt < 0
  · rw [decide_eq_true h, if_pos rfl, abs_of_neg h, BitVec.ofInt_neg, BitVec.ofInt_toInt]
  · rw [decide_eq_false h, if_neg Bool.false_ne_true, abs_of_nonneg (Int.not_lt.mp h), BitVec.ofInt_toInt]

/-! Division (R100). -/

theorem Alu.div_zero {a b : Word} (h : b = 0) : Alu.div a b = ⟨0xFFFFFFFFFFFFFFFF, if a = 0 then 0x10 else 0x08⟩ := if_pos h
theorem Alu.divu_zero {a b : Word} (h : b = 0) : Alu.divu a b = ⟨0xFFFFFFFFFFFFFFFF, if a = 0 then 0x10 else 0x08⟩ := if_pos h
theorem Alu.rem_zero {a b : Word} (h : b = 0) : Alu.rem a b = ⟨a, if a = 0 then 0x10 else 0x08⟩ := if_pos h
theorem Alu.remu_zero {a b : Word} (h : b = 0) : Alu.remu a b = ⟨a, if a = 0 then 0x10 else 0x08⟩ := if_pos h

/-- The one quotient that does not fit. -/
theorem Alu.div_overflow {a b : Word} (ha : a = 0x8000000000000000) (hb : b = 0xFFFFFFFFFFFFFFFF) :
    Alu.div a b = ⟨0x8000000000000000, 0x80⟩ := by rw [ha, hb]; rfl

theorem Alu.rem_overflow {a b : Word} (ha : a = 0x8000000000000000) (hb : b = 0xFFFFFFFFFFFFFFFF) : Alu.rem a b = ⟨0, 0⟩ := by
  rw [ha, hb]; rfl

theorem Alu.div_quotient {a b : Word} (hb : b ≠ 0) (fits : ¬(a = 0x8000000000000000 ∧ b = 0xFFFFFFFFFFFFFFFF)) :
    Alu.div a b = .pure (BitVec.ofInt 64 (a.toInt.tdiv b.toInt)) := (if_neg hb).trans (if_neg fits)

theorem Alu.divu_quotient {a b : Word} (hb : b ≠ 0) : Alu.divu a b = .pure (BitVec.ofNat 64 (a.toNat / b.toNat)) := if_neg hb

theorem Alu.rem_remainder {a b : Word} (hb : b ≠ 0) : Alu.rem a b = .pure (BitVec.ofInt 64 (a.toInt - a.toInt.tdiv b.toInt * b.toInt)) := by
  rw [Int.mul_comm, ← Int.tmod_def]; exact if_neg hb

theorem Alu.remu_remainder {a b : Word} (hb : b ≠ 0) : Alu.remu a b = .pure (BitVec.ofNat 64 (a.toNat % b.toNat)) := if_neg hb

end Sys2Proof.Machine
end

section
/-! SUPPORT. The instructions that compute one result from registers (04 R97): each is `State.compute` of a function of `Alu`. -/

namespace Sys2Proof.Machine

/-- An instruction of `len` bytes that computes a result retires with its value and its flags. -/
theorem wrote_of_compute {i : Instr} {s : State} {d : BitVec 5} {r : Fl Word} {v : Word} {fl : Flags} {len : Nat} (w : s.writable d)
    (e : exec i s = .next (s.compute d r len)) (h : r = ⟨v, fl⟩) :
    ∃ t, exec i s = .next t ∧ Wrote s t [(d, v)] (s.hart.pc + BitVec.ofNat 64 len) fl := by
  subst h; exact ⟨_, e, wrote_compute w _ len⟩

theorem retires_compute {i : Instr} {s : State} {d : BitVec 5} {r : Fl Word} {v : Word} {fl : Flags} (w : s.writable d)
    (e : exec i s = .next (s.compute d r)) (h : r = ⟨v, fl⟩) : Retires i s [(d, v)] fl := wrote_of_compute w e h

/-- Settles O1: each operation is `State.compute` of its function, whose value the lemmas on `Alu` give. -/
theorem integerResults : Obligations.IntegerResults := by
  unfold Obligations.IntegerResults
  refine ⟨fun s d a b m n w => ?_, fun s d a m w => ?_⟩
  · intro A B
    exact ⟨retires_compute w rfl rfl, retires_compute w rfl rfl, retires_compute w rfl rfl, retires_compute w rfl rfl, retires_compute w rfl rfl,
      retires_compute w rfl rfl, retires_compute w rfl (Alu.shl_eq A B), retires_compute w rfl (Alu.shr_eq A B), retires_compute w rfl (Alu.sra_eq A B),
      retires_compute w rfl (Alu.mul_eq A B), retires_compute w rfl rfl, retires_compute w rfl rfl, retires_compute w rfl (Alu.min_eq A B),
      retires_compute w rfl (Alu.max_eq A B), retires_compute w rfl (Alu.minu_eq A B), retires_compute w rfl (Alu.maxu_eq A B),
      retires_compute w rfl (Alu.slt_eq A B), retires_compute w rfl (Alu.sltu_eq A B), retires_compute w rfl (Alu.seq_eq A B),
      retires_compute w rfl (Alu.sne_eq A B), retires_compute w rfl rfl, retires_compute w rfl (Alu.addv_eq A B)⟩
  · intro A
    obtain ⟨k, hk, hlow, hhigh, clz⟩ := Alu.clz_spec A
    obtain ⟨j, hj, hzeros, hone, ctz⟩ := Alu.ctz_spec A
    exact ⟨⟨k, hk, hlow, hhigh, retires_compute w rfl clz⟩, ⟨j, hj, hzeros, hone, retires_compute w rfl ctz⟩,
      retires_compute w rfl (Alu.popc_eq A), retires_compute w rfl (Alu.abs_eq A)⟩

/-- Settles O2: the cases of R100 are those of the lemmas on `Alu`. -/
theorem divisionResults : Obligations.DivisionResults := by
  unfold Obligations.DivisionResults
  intro s d a b m n l w A B byZero
  refine ⟨fun hb => ?zero, fun ha hb => ?overflow, fun hb fits => ?signed, fun hb => ?unsigned⟩
  case zero =>
    exact ⟨retires_compute w rfl (Alu.div_zero hb), retires_compute w rfl (Alu.divu_zero hb), retires_compute w rfl (Alu.rem_zero hb),
      retires_compute w rfl (Alu.remu_zero hb)⟩
  case overflow => exact ⟨retires_compute w rfl (Alu.div_overflow ha hb), retires_compute w rfl (Alu.rem_overflow ha hb)⟩
  case signed => exact ⟨retires_compute w rfl (Alu.div_quotient hb fits), retires_compute w rfl (Alu.rem_remainder hb)⟩
  case unsigned => exact ⟨retires_compute w rfl (Alu.divu_quotient hb), retires_compute w rfl (Alu.remu_remainder hb)⟩

/-- Settles O4: each operation is `State.compute` of its function of `Alu`, whose operands and rounding mode it reads as R106, R109 and R111 say. -/
theorem floatAndSliResults : Obligations.FloatAndSliResults := by
  unfold Obligations.FloatAndSliResults
  refine ⟨fun s d a b m n p r c w => ?_, fun s d a b m n t l c w => ?_⟩
  · intro A B rm R
    have computes : ∀ {i : Instr} {v : Fl Word}, exec i s = .next (s.compute d v) → R i v := fun e => retires_compute w e rfl
    exact ⟨computes rfl, computes rfl, computes rfl, computes rfl, computes rfl, computes rfl, computes rfl, computes rfl, computes rfl, computes rfl,
      computes rfl, computes rfl, computes rfl, computes rfl⟩
  · intro A B R
    have computes : ∀ {i : Instr} {v : Fl Word}, exec i s = .next (s.compute d v) → R i v := fun e => retires_compute w e rfl
    exact ⟨computes rfl, computes rfl, computes rfl, computes rfl, computes rfl, computes rfl, computes rfl, computes rfl⟩

end Sys2Proof.Machine
end

section
/-! SUPPORT. Bytes of scratch and of sectors as numbers (08 R182, R191), and what a change of a core's memory leaves alone. -/

namespace Sys2Proof.Machine

theorem Core.sread_lt (k : Core) (o n : Nat) : k.sread o n < 2 ^ (8 * n) := by
  induction n generalizing o with
  | zero => simp [Core.sread]
  | succ n ih =>
    have hbyte := (memByte k.lmem (k.loc o)).isLt
    have hrest := ih (o + 1)
    rw [Core.sread, show 8 * (n + 1) = 8 + 8 * n by omega, Nat.pow_add]
    omega

/-- A read of m + n bytes is the read of the first m below that of the other n. -/
theorem Core.sread_add (k : Core) (o m n : Nat) : k.sread o (m + n) = k.sread o m + 2 ^ (8 * m) * k.sread (o + m) n := by
  induction m generalizing o with
  | zero => simp [Core.sread]
  | succ m ih =>
    rw [show m + 1 + n = (m + n) + 1 by omega, Core.sread, Core.sread, ih, show 8 * (m + 1) = 8 + 8 * m by omega, Nat.pow_add,
      show o + 1 + m = o + (m + 1) by omega]
    ring

theorem Core.sread_pair (k : Core) (o n : Nat) :
    k.sread o (2 * n) % 2 ^ (8 * n) = k.sread o n ∧ k.sread o (2 * n) / 2 ^ (8 * n) = k.sread (o + n) n := by
  have hlt := k.sread_lt o n
  rw [Nat.two_mul, Core.sread_add]
  exact ⟨by rw [Nat.add_mul_mod_self_left, Nat.mod_eq_of_lt hlt], by rw [Nat.add_mul_div_left _ _ (by positivity), Nat.div_eq_of_lt hlt, Nat.zero_add]⟩

theorem Sector.read_eq (x : Sector) (a : Nat) {n : Nat} (hn : 0 < n) : x.read a n = x.data.toNat / 2 ^ (8 * (a % 128)) % 2 ^ (8 * n) := by
  rw [Sector.read, bits, Nat.shiftRight_eq_div_pow, show 8 * (a % 128) + 8 * n - 1 + 1 - 8 * (a % 128) = 8 * n by omega]

theorem Sector.read_lt (x : Sector) (a : Nat) {n : Nat} (hn : 0 < n) : x.read a n < 2 ^ (8 * n) := by
  rw [Sector.read_eq x a hn]; exact Nat.mod_lt _ (by positivity)

/-! Loaded registers (04 R122, R127, R129). -/

theorem LoadDst.writes_ld {n v : Nat} (h : v < 2 ^ (8 * n)) (d : BitVec 5) (z : Bool) :
    (LoadDst.one d n (!z)).writes v = [(d, if z then BitVec.ofNat 64 v else sext64 v (8 * n))] := by
  cases z <;> simp [LoadDst.writes, Nat.mod_eq_of_lt h]

theorem LoadDst.writes_lda {n v : Nat} (h : v < 2 ^ (8 * n)) (d : BitVec 5) : (LoadDst.one d n false).writes v = [(d, BitVec.ofNat 64 v)] := by
  simp [LoadDst.writes, Nat.mod_eq_of_lt h]

theorem LoadDst.writes_ldp {n v : Nat} (h : v < 2 ^ (8 * (2 * n))) (d : BitVec 5) :
    (LoadDst.pair d n).writes v = [(d, BitVec.ofNat 64 (v % 2 ^ (8 * n))), (d + 1, BitVec.ofNat 64 (v / 2 ^ (8 * n)))] := by
  have hhigh : v / 2 ^ (8 * n) < 2 ^ (8 * n) := by
    rw [Nat.div_lt_iff_lt_mul (by positivity), ← Nat.pow_add]
    rwa [show 8 * n + 8 * n = 8 * (2 * n) by omega]
  rw [LoadDst.writes, Nat.mod_eq_of_lt hhigh]

theorem LoadDst.writes_ldp_sread (k : Core) (o n : Nat) (d : BitVec 5) :
    (LoadDst.pair d n).writes (k.sread o (2 * n)) = [(d, BitVec.ofNat 64 (k.sread o n)), (d + 1, BitVec.ofNat 64 (k.sread (o + n) n))] := by
  rw [LoadDst.writes_ldp (k.sread_lt o _), (k.sread_pair o n).1, (k.sread_pair o n).2]

/-! A store of the core's own hart: what it leaves of the core (04 R125). -/

/-- What of a core an access performed at issue looks at beside its memory. -/
structure SameUnit (k k' : Core) : Prop where
  vf : k'.vf = k.vf
  mode : ∀ h, (k'.hart h).mode = (k.hart h).mode
  pc : ∀ h, (k'.hart h).pc = (k.hart h).pc

theorem SameUnit.trans {a b c : Core} (x : SameUnit a b) (y : SameUnit b c) : SameUnit a c :=
  ⟨y.vf.trans x.vf, fun h => (y.mode h).trans (x.mode h), fun h => (y.pc h).trans (x.pc h)⟩

theorem sameUnit_swrite (k : Core) (o n v : Nat) : SameUnit k (k.swrite o n v) := ⟨rfl, fun _ => rfl, fun _ => rfl⟩

theorem sameUnit_cacheStore (k : Core) (a n v : Nat) : SameUnit k (k.cacheStore a n v) := ⟨rfl, fun _ => rfl, fun _ => rfl⟩

theorem sameUnit_noteCodeStore (k : Core) (o n : Nat) : SameUnit k (k.noteCodeStore o n) := by
  unfold Core.noteCodeStore
  simp only
  split
  · exact ⟨rfl, fun _ => rfl, fun _ => rfl⟩
  · exact ⟨rfl, fun h => by simp [Core.hart, Vector.get_eq_getElem], fun h => by simp [Core.hart, Vector.get_eq_getElem]⟩

theorem sameUnit_putRing (k : Core) (o r : Nat) : SameUnit k (k.putRing o r) := (sameUnit_noteCodeStore k o 32).trans (sameUnit_swrite _ _ _ _)

/-- Noting a store over code changes only the harts' copies of words and the note of written lines. -/
theorem noteCodeStore_eq (k : Core) (o n : Nat) : ∃ hs ws, k.noteCodeStore o n = { k with harts := hs, codeWritten := ws } := by
  unfold Core.noteCodeStore
  simp only
  split
  · exact ⟨k.harts, k.codeWritten, rfl⟩
  · exact ⟨_, _, rfl⟩

theorem sread_noteCodeStore (k : Core) (o n p m : Nat) : (k.noteCodeStore o n).sread p m = k.sread p m := by
  obtain ⟨hs, ws, e⟩ := noteCodeStore_eq k o n
  rw [e]
  induction m generalizing p with
  | zero => rfl
  | succ m ih => simp only [Core.sread, ih]; rfl

theorem header_noteCodeStore (k : Core) (o n off : Nat) : (k.noteCodeStore o n).header off = k.header off := by
  have hring : ∀ p, (k.noteCodeStore o n).ring p = k.ring p := fun p => sread_noteCodeStore k o n p 32
  have hunit : (k.noteCodeStore o n).watchers = k.watchers ∧ (k.noteCodeStore o n).scratchSize = k.scratchSize := by
    obtain ⟨hs, ws, e⟩ := noteCodeStore_eq k o n
    rw [e]; exact ⟨rfl, rfl⟩
  unfold Core.header
  congr 1
  funext w
  rw [hunit.1]
  cases k.watchers.get w with
  | none => rfl
  | some p =>
    have hup : ∀ r, (k.noteCodeStore o n).ringUp r = k.ringUp r := fun r => by rw [Core.ringUp, hunit.2, Core.ringUp]
    dsimp only
    rw [hring p, hup]

/-- A store that publishes nothing (08 R206). -/
theorem storeOwn_plain (k : Core) (off n v : Nat) {release : Bool} (h : release = true → n = 8 → k.header off = none) :
    k.storeOwn off n v release = some ((k.noteCodeStore off n).swrite off n v) := by
  unfold Core.storeOwn Core.storeScratch
  split
  next publishes =>
    simp only [Bool.and_eq_true, beq_iff_eq] at publishes
    rw [header_noteCodeStore, h publishes.1 publishes.2]
  next => rfl

/-- A store to a header word of a watched ring publishes its slot, or is refused (08 R206). -/
theorem storeOwn_header {k : Core} {off obj slot : Nat} (v : Nat) (h : k.header off = some (obj, slot)) :
    k.storeOwn off 8 v true = (ringPublish (k.sread obj 32) slot).map (fun r => ((k.noteCodeStore off 8).swrite off 8 v).putRing obj r) := by
  have hring : (k.noteCodeStore off 8).ring obj = k.sread obj 32 := sread_noteCodeStore k off 8 obj 32
  simp only [Core.storeOwn, Core.storeScratch, Bool.true_and, beq_self_eq_true, if_true, header_noteCodeStore, h, hring]
  cases ringPublish (k.sread obj 32) slot <;> rfl

/-- A store into the sector that is present at a (08 R191). -/
theorem cacheStore_eq (k : Core) (a n v : Nat) : k.cacheStore a n v =
    { k with cache := k.cache.map (fun x => if x.addr = a / 128 * 128 then
        { x with data := BitVec.ofNat 1024 (setBits x.data.toNat (8 * (a % 128) + 8 * n - 1) (8 * (a % 128)) v),
                 dirty := x.dirty ||| BitVec.ofNat 128 ((2 ^ n - 1) * 2 ^ (a % 128)) } else x) } := by
  simp only [Core.cacheStore, updWhere, sectorAddr, beq_iff_eq, Sector.write]

end Sys2Proof.Machine
end

section
/-! SUPPORT. Loads and stores at issue (04 R120 to R131): the form checks of an address, and what an access does by the class of its address. -/

namespace Sys2Proof.Machine

/-! The form checks (R121). -/

theorem bit_63 (a : Word) : bit a.toNat 63 = a.msb := by
  rw [BitVec.msb_eq_decide, bit, Nat.shiftRight_eq_div_pow, Bool.eq_iff_iff, beq_iff_eq, decide_eq_true_iff]
  have := a.isLt
  omega

section
variable {s : State} {ea : Word} {al : Nat}

theorem classify_misaligned (h : ea.toNat % al ≠ 0) (n : Nat) (win : Bool) : s.classify ea al n win = .error ⟨0x03, ea, 0⟩ := if_pos h

theorem classify_aboveGlobal (h : ea.toNat % al = 0) (hm : ea.msb = false) (h48 : 2 ^ 48 ≤ ea.toNat) (n : Nat) (win : Bool) :
    s.classify ea al n win = .error ⟨0x05, ea, 0⟩ := by
  have h63 : ea.toNat < 2 ^ 63 := by rw [BitVec.msb_eq_decide] at hm; simpa using hm
  have hbits : bits ea.toNat 62 48 ≠ 0 := by rw [bits, Nat.shiftRight_eq_div_pow]; omega
  simp only [State.classify, classifyAt, h, bit_63, hm, hbits, ne_eq, not_true_eq_false, not_false_eq_true, Bool.not_false, if_true, if_false]
  rfl

/-- A partitioned address that no cluster has (15 R328). -/
theorem classify_noCluster (h : ea.toNat % al = 0) (hm : ea.msb = true) (hc : bits ea.toNat 32 24 ≠ 0 ∨ 99 < bits ea.toNat 43 37) (n : Nat) (win : Bool) :
    s.classify ea al n win = .error ⟨0x04, ea, 0⟩ := by
  simp only [State.classify, classifyAt, h, bit_63, hm, addrY, if_pos hc, ne_eq, not_true_eq_false, Bool.not_true, Bool.false_eq_true, if_false]
  rfl

/-- An offset that lies neither in scratch nor in a window that the access may name. -/
theorem classify_noOffset {win : Bool} (h : ea.toNat % al = 0) (hm : ea.msb = true) (hc : bits ea.toNat 32 24 = 0 ∧ bits ea.toNat 43 37 ≤ 99)
    (ho : 0x05FFFF < addrOff ea ∧ addrOff ea < 0x800000 ∨ 0x8001FF < addrOff ea ∨ (win = false ∧ 0x800000 ≤ addrOff ea)) (n : Nat) :
    s.classify ea al n win = .error ⟨0x04, ea, 0⟩ := by
  have hform : ¬(bits ea.toNat 32 24 ≠ 0 ∨ 99 < bits ea.toNat 43 37) := by omega
  simp only [State.classify, classifyAt, h, bit_63, hm, addrY, if_neg hform, ne_eq, not_true_eq_false, Bool.not_true, Bool.false_eq_true, if_false]
  split
  next => rfl
  next inside =>
    simp only [Bool.and_eq_false_iff, decide_eq_false_iff_not] at inside
    rw [if_pos ⟨by simp; omega, by rcases ho with ho | ho | ⟨hw, -⟩ <;> [omega; omega; exact hw]⟩]
    rfl

/-- Own scratch beyond its size. -/
theorem classify_beyond {n : Nat} (h : ea.toNat % al = 0) (hm : ea.msb = true) (hc : bits ea.toNat 32 24 = 0 ∧ bits ea.toNat 43 37 ≤ 99)
    (ho : addrOff ea ≤ 0x05FFFF) (hmod : addrMod ea = 2047) (hown : bits ea.toNat 51 33 = s.cc.corxy.toNat % 2 ^ 19)
    (hsize : s.cc.scratchSize < addrOff ea + n) (win : Bool) : s.classify ea al n win = .error ⟨0x04, ea, 0⟩ := by
  have hform : ¬(bits ea.toNat 32 24 ≠ 0 ∨ 99 < bits ea.toNat 43 37) := by omega
  have hwin : (decide (0x800000 ≤ addrOff ea) && decide (addrOff ea ≤ 0x8001FF)) = false := by simp; omega
  simp only [State.classify, classifyAt, h, bit_63, hm, addrY, if_neg hform, hwin, hmod, if_pos hown, ne_eq, not_true_eq_false, Bool.not_true,
    Bool.false_eq_true, if_false, false_and, true_and, if_neg (Nat.not_lt.mpr ho), if_neg (Nat.not_le.mpr hsize)]
  rfl

/-- An access that raises the form check that its address fails (R121). -/
theorem addressFaults_of {i : Instr} {n : Nat} {win : Bool} (r : s.trapReady)
    (e : ∀ t, s.classify ea al n win = .error t → exec i s = .next (s.raise t)) :
    let cluster := bits ea.toNat 32 24 = 0 ∧ bits ea.toNat 43 37 ≤ 99
    (ea.toNat % al ≠ 0 → Traps i s 0x03 ea 0) ∧
    (ea.toNat % al = 0 → ea.msb = false → 2 ^ 48 ≤ ea.toNat → Traps i s 0x05 ea 0) ∧
    (ea.toNat % al = 0 → ea.msb = true → (bits ea.toNat 32 24 ≠ 0 ∨ 99 < bits ea.toNat 43 37) → Traps i s 0x04 ea 0) ∧
    (ea.toNat % al = 0 → ea.msb = true → cluster →
      (0x05FFFF < addrOff ea ∧ addrOff ea < 0x800000 ∨ 0x8001FF < addrOff ea ∨ (win = false ∧ 0x800000 ≤ addrOff ea)) → Traps i s 0x04 ea 0) ∧
    (ea.toNat % al = 0 → ea.msb = true → cluster → addrOff ea ≤ 0x05FFFF → addrMod ea = 2047 → bits ea.toNat 51 33 = s.cc.corxy.toNat % 2 ^ 19 →
      s.cc.scratchSize < addrOff ea + n → Traps i s 0x04 ea 0) := by
  have faults : ∀ {c : BitVec 8}, s.classify ea al n win = .error ⟨c, ea, 0⟩ → Traps i s c ea 0 := fun h => traps_of_raise r (e _ h)
  exact ⟨fun h => faults (classify_misaligned h n win), fun h hm h48 => faults (classify_aboveGlobal h hm h48 n win),
    fun h hm hc => faults (classify_noCluster h hm hc n win), fun h hm hc ho => faults (classify_noOffset h hm hc ho n),
    fun h hm hc ho hmod hown hsize => faults (classify_beyond h hm hc ho hmod hown hsize win)⟩

end

/-! Loads (R122, R127, R129): the destinations `dst` can be written. -/

theorem guarded_dests {s : State} {ds : List (BitVec 5)} (w : ∀ d ∈ ds, s.writable d) (k : State → State) : s.guarded (ds.map s.boundCheck) k = k s := by
  induction ds with
  | nil => rfl
  | cons d ds ih =>
    rw [List.map_cons, boundCheck_writable (w d List.mem_cons_self), guarded_none]
    exact ih (fun r hr => w r (List.mem_cons_of_mem d hr))

section
variable {i : Instr} {s : State} {ea : Word} {al n la len : Nat} {dst : LoadDst} {acq : Bool}

variable (e : exec i s = .next (s.loadAt ea al n dst la acq len))
include e

theorem load_raises_bound {t : Trap} (h : (dst.dests.map s.boundCheck).findSome? id = some t) : exec i s = .next (s.raise t) := by
  rw [e]
  simp only [State.loadAt, State.guarded, h]

variable (w : ∀ d ∈ dst.dests, s.writable d)
include w

theorem load_raises_fault {t : Trap} (h : s.classify ea al n false = .error t) : exec i s = .next (s.raise t) := by
  rw [e]
  simp only [State.loadAt, guarded_dests w, h]

/-- A load from own scratch. -/
theorem load_own_completes {off : Nat} {ws : List (BitVec 5 × Word)} (h : s.classify ea al n false = .ok (.own off))
    (hw : s.waitsFor (.own off) ea n = false) (hwatch : s.watchNow ea n true false = none) (hp : s.cc.spoisoned off n = false)
    (hws : dst.writes (s.cc.sread off n) = ws) : ∃ t, exec i s = .next t ∧ Wrote s t ws (s.hart.pc + BitVec.ofNat 64 len) 0 := by
  refine ⟨_, e, ?_⟩
  simp only [State.loadAt, guarded_dests w, h, hw, Bool.false_eq_true, if_false, hp, ← hws]
  exact wrote_loadNow hwatch dst _ 9 len

/-- A load outside the core's regions and its own scratch. -/
theorem load_far_asks {p : Place} (h : s.classify ea al n false = .ok p) (hw : s.waitsFor p ea n = false)
    (far : p = .global ∧ s.cc.regionAt ea.toNat = none ∨ p = .remote ∨ p = .fabric) :
    ∃ t, exec i s = .next t ∧ Asked s t (s.reqOf .request (.load n dst) ea) dst.dests la acq (s.hart.pc + BitVec.ofNat 64 len) := by
  have issues : s.loadAt ea al n dst la acq len = s.issueLong (s.reqOf .request (.load n dst) ea) dst.dests la acq len := by
    rcases far with ⟨rfl, hr⟩ | rfl | rfl <;> simp only [State.loadAt, guarded_dests w, h, hw, Bool.false_eq_true, if_false]
    rw [hr]; rfl
  exact ⟨_, e.trans (congrArg _ issues), asked_issueLong s _ dst.dests la acq len⟩

/-- A load of a sector that is present in the cache ways (08 R191). -/
theorem load_present_completes {ws : List (BitVec 5 × Word)} (h : s.classify ea al n false = .ok .global) (hw : s.waitsFor .global ea n = false)
    (hr : s.cc.regionAt ea.toNat ≠ none) {x : Sector} (hx : s.cc.sectorAt ea.toNat = some x) (hp : x.poison = false)
    (hwatch : s.watchNow ea n true false = none) (hws : dst.writes (x.read ea.toNat n) = ws) :
    ∃ t, exec i s = .next t ∧ Wrote s t ws (s.hart.pc + BitVec.ofNat 64 len) 0 := by
  refine ⟨_, e, ?_⟩
  simp only [State.loadAt, guarded_dests w, h, hw, Bool.false_eq_true, if_false, Option.isSome_iff_ne_none.mpr hr, if_true, hx, hp, ← hws]
  exact wrote_loadNow hwatch dst _ 10 len

/-- A load of a sector of a bound region that is absent (08 R191). -/
theorem load_absent_asks (h : s.classify ea al n false = .ok .global) (hw : s.waitsFor .global ea n = false) (hr : s.cc.regionAt ea.toNat ≠ none)
    (hx : s.cc.sectorAt ea.toNat = none) :
    ∃ t, exec i s = .next t ∧ Asked s t (s.reqOf .request (.fillLoad n dst) ea) dst.dests la acq (s.hart.pc + BitVec.ofNat 64 len) := by
  refine ⟨_, e, ?_⟩
  simp only [State.loadAt, guarded_dests w, h, hw, Bool.false_eq_true, if_false, Option.isSome_iff_ne_none.mpr hr, if_true, hx]
  exact asked_issueLong s _ dst.dests la acq len

end

/-! Stores (R123, R124, R128, R129). -/

/-- A store performed at issue changes the executing core by f, and retires. -/
theorem wrote_storedNow_mapCore {s : State} {ea : Word} {n : Nat} {f : Core → Core} (u : SameUnit s.cc (f s.cc))
    (hwatch : s.watchNow ea n false true = none) (len : Nat) :
    Wrote (s.mapCore f) ((s.mapCore f).storedNow ea n len) [] (s.hart.pc + BitVec.ofNat 64 len) 0 := by
  have hhart : (s.mapCore f).hart = (f s.cc).hart s.cur.hart := by rw [State.hart, State.cc_mapCore]; rfl
  have hwatch' : (s.mapCore f).watchNow ea n false true = none := by
    rw [← hwatch]
    simp only [State.watchNow, State.cvf, State.cc_mapCore, u.vf, hhart, u.mode]
    rfl
  have hpc : (s.mapCore f).hart.pc = s.hart.pc := by rw [hhart, u.pc]; rfl
  rw [← hpc]
  exact wrote_storedNow hwatch' len

/-- A posted access with room for it, and without (13 R320). -/
theorem postsTo_or_waits {i : Instr} {s : State} {cls : Class} {kind : ReqKind} {ea : Word} {fab : Bool} {len : Nat}
    (e : exec i s = .next (s.postNow cls kind ea fab len)) :
    (s.hart.postRoom = true → PostsTo i s (s.reqOf cls kind ea) fab (s.hart.pc + BitVec.ofNat 64 len)) ∧
    (s.hart.postRoom = false → exec i s = .next s) := by
  refine ⟨fun room => ⟨_, ?_, wrote_post s cls kind ea fab len⟩, fun full => ?_⟩
  · rw [e, State.postNow, if_pos room]
  · rw [e, State.postNow, full]; rfl

section
variable {i : Instr} {s : State} {ea : Word} {al n v len : Nat} {win release : Bool} (e : exec i s = .next (s.storeAt ea al n v win release len))
include e

theorem store_raises_fault {t : Trap} (h : s.classify ea al n win = .error t) : exec i s = .next (s.raise t) := by
  rw [e]
  simp only [State.storeAt, h]

/-- A store into own scratch whose controller performs it. -/
theorem store_own_completes {off : Nat} {f : Core → Core} (h : s.classify ea al n win = .ok (.own off)) (hw : s.waitsFor (.own off) ea n = false)
    (hs : s.cc.storeOwn off n v release = some (f s.cc)) (u : SameUnit s.cc (f s.cc)) (hwatch : s.watchNow ea n false true = none) :
    ∃ t, exec i s = .next t ∧ Wrote (s.mapCore f) t [] (s.hart.pc + BitVec.ofNat 64 len) 0 := by
  refine ⟨_, e, ?_⟩
  simp only [State.storeAt, h, hw, Bool.false_eq_true, if_false, hs]
  exact wrote_storedNow_mapCore u hwatch len

/-- A store into own scratch that publishes nothing. -/
theorem store_own_writes {off : Nat} (h : s.classify ea al n win = .ok (.own off)) (hw : s.waitsFor (.own off) ea n = false)
    (hwatch : s.watchNow ea n false true = none) (hpub : release = true → n = 8 → s.cc.header off = none) :
    ∃ t, exec i s = .next t ∧
      Wrote (s.mapCore (fun k => (k.noteCodeStore off n).swrite off n v)) t [] (s.hart.pc + BitVec.ofNat 64 len) 0 :=
  store_own_completes e (f := fun k => (k.noteCodeStore off n).swrite off n v) h hw (storeOwn_plain s.cc off n v hpub)
    ((sameUnit_noteCodeStore s.cc off n).trans (sameUnit_swrite _ off n v)) hwatch

/-- A store to a header word that its ring publishes (08 R206). -/
theorem store_own_publishes {off obj slot r : Nat} (h : s.classify ea al n win = .ok (.own off)) (hw : s.waitsFor (.own off) ea n = false)
    (hwatch : s.watchNow ea n false true = none) (hn : n = 8) (hrel : release = true) (hheader : s.cc.header off = some (obj, slot))
    (hpub : ringPublish (s.cc.sread obj 32) slot = some r) :
    ∃ t, exec i s = .next t ∧
      Wrote (s.mapCore (fun k => ((k.noteCodeStore off 8).swrite off 8 v).putRing obj r)) t [] (s.hart.pc + BitVec.ofNat 64 len) 0 := by
  subst hn hrel
  exact store_own_completes e (f := fun k => ((k.noteCodeStore off 8).swrite off 8 v).putRing obj r) h hw
    (by rw [storeOwn_header v hheader, hpub]; rfl)
    (((sameUnit_noteCodeStore s.cc off 8).trans (sameUnit_swrite _ off 8 v)).trans (sameUnit_putRing _ obj r)) hwatch

/-- A publication that its ring refuses (08 R206). -/
theorem store_refused_raises {off : Nat} (h : s.classify ea al n win = .ok (.own off)) (hw : s.waitsFor (.own off) ea n = false)
    (hs : s.cc.storeOwn off n v release = none) : exec i s = .next (s.raise ⟨0x10, ea, 4⟩) := by
  rw [e]
  simp only [State.storeAt, h, hw, Bool.false_eq_true, if_false, hs]
  rfl

/-- A store into a bound region: into a sector that is present, else it asks for the sector, or waits for room (08 R191; log 94). -/
theorem store_region (h : s.classify ea al n win = .ok .global) (hw : s.waitsFor .global ea n = false) (hr : s.cc.regionAt ea.toNat ≠ none) :
    (s.cc.sectorAt ea.toNat ≠ none → s.watchNow ea n false true = none →
      ∃ t, exec i s = .next t ∧ Wrote (s.mapCore (fun k => k.cacheStore ea.toNat n v)) t [] (s.hart.pc + BitVec.ofNat 64 len) 0) ∧
    (s.cc.sectorAt ea.toNat = none → s.hart.postRoom = true → ∃ t, exec i s = .next t ∧
      Asked s t (s.reqOf .request (.fillStore n (BitVec.ofNat 128 v)) ea) [] 0 false (s.hart.pc + BitVec.ofNat 64 len)) ∧
    (s.cc.sectorAt ea.toNat = none → s.hart.postRoom = false → exec i s = .next s) := by
  simp only [e, State.storeAt, h, hw, Bool.false_eq_true, if_false, Option.isSome_iff_ne_none.mpr hr, if_true]
  refine ⟨fun hx hwatch => ⟨_, rfl, ?_⟩, fun hx room => ⟨_, rfl, ?_⟩, fun hx full => ?_⟩
  · rw [if_pos (Option.isSome_iff_ne_none.mpr hx)]
    exact wrote_storedNow_mapCore (f := fun k => k.cacheStore ea.toNat n v) (sameUnit_cacheStore s.cc ea.toNat n v) hwatch len
  · rw [hx, if_pos room]
    exact asked_issueLong s _ [] 0 false len
  · rw [hx, full]; rfl

/-- A store outside the core's regions, its own scratch and the message windows is posted. -/
theorem store_far_posts {p : Place} (h : s.classify ea al n win = .ok p) (hw : s.waitsFor p ea n = false)
    (far : p = .global ∧ s.cc.regionAt ea.toNat = none ∨ p = .remote ∨ p = .fabric ∧ addrOff ea < 0x800000) :
    exec i s = .next (s.postNow .posted (.store n (BitVec.ofNat 128 v) release) ea (p == .fabric) len) := by
  rcases far with ⟨rfl, hr⟩ | rfl | ⟨rfl, ho⟩ <;> simp only [e, State.storeAt, h, hw, Bool.false_eq_true, if_false]
  · rw [hr]; rfl
  · rfl
  · rw [inWindow, decide_eq_false (Nat.not_le.mpr ho)]; rfl

/-- A store to a message window is a message (R124). -/
theorem store_window_posts {p : Place} (h : s.classify ea al n win = .ok p) (hw : s.waitsFor p ea n = false)
    (window : p = .window ∨ p = .fabric ∧ 0x800000 ≤ addrOff ea) :
    exec i s = .next (s.postNow .message (.message (BitVec.ofNat 64 v)) ea (p == .fabric) len) := by
  rcases window with rfl | ⟨rfl, ho⟩ <;> simp only [e, State.storeAt, h, hw, Bool.false_eq_true, if_false]
  · rfl
  · rw [inWindow, decide_eq_true ho]; rfl

end

/-! ST, STP and STR as accesses; STR waits for its hart's earlier accesses (R128). -/

theorem doSt_eq (s : State) (x : Option (BitVec 26)) (t a : BitVec 5) (y : BitVec 2) (o : BitVec 9) : s.doSt x t a y o =
    s.storeAt (s.memEA x a o (2 ^ y.toNat)) (2 ^ y.toNat) (2 ^ y.toNat) (s.low t (2 ^ y.toNat)) (2 ^ y.toNat == 8) false (pairLen x) := rfl

theorem doStp_eq (s : State) (x : Option (BitVec 26)) (t a : BitVec 5) (w : BitVec 1) (o : BitVec 9) : s.doStp x t a w o =
    s.storeAt (s.memEA x a o (if w = 1 then 8 else 4)) (2 * if w = 1 then 8 else 4) (2 * if w = 1 then 8 else 4)
      (s.lowPair t (if w = 1 then 8 else 4)) false false (pairLen x) := rfl

theorem released_iff {h : Hart} : h.released = true ↔ h.outst = [] ∧ h.orsLocal = 0 ∧ h.orsFab = 0 := by
  simp [Hart.released, Hart.quiet, Hart.orsZero]

theorem doStr_released {s : State} (free : s.hart.outst = [] ∧ s.hart.orsLocal = 0 ∧ s.hart.orsFab = 0) (x : Option (BitVec 26)) (t a : BitVec 5)
    (y : BitVec 2) (o : BitVec 9) : s.doStr x t a y o =
    s.storeAt (s.memEA x a o (2 ^ y.toNat)) (2 ^ y.toNat) (2 ^ y.toNat) (s.low t (2 ^ y.toNat)) (2 ^ y.toNat == 8) true (pairLen x) := by
  rw [State.doStr, if_pos (released_iff.mpr free)]

theorem doStr_waits {s : State} (busy : s.hart.outst ≠ [] ∨ s.hart.orsLocal ≠ 0 ∨ s.hart.orsFab ≠ 0) (x : Option (BitVec 26)) (t a : BitVec 5)
    (y : BitVec 2) (o : BitVec 9) : s.doStr x t a y o = s := by
  rw [State.doStr, if_neg]
  rw [released_iff]
  tauto

/-! The destinations of a load. -/

theorem writable_one {s : State} {d : BitVec 5} (w : s.writable d) (n : Nat) (sg : Bool) : ∀ r ∈ (LoadDst.one d n sg).dests, s.writable r := by
  simpa [LoadDst.dests] using w

theorem writable_pair {s : State} {d : BitVec 5} (w : s.writable d) (w' : s.writable (d + 1)) (n : Nat) : ∀ r ∈ (LoadDst.pair d n).dests, s.writable r := by
  simpa [LoadDst.dests] using ⟨w, w'⟩

end Sys2Proof.Machine
end

section
/-! SUPPORT. The statements on loads and stores. -/

namespace Sys2Proof.Machine

/-- Only an access of 8 bytes may name a message window (R124). -/
theorem size_eq_eight (y : BitVec 2) : (2 ^ y.toNat == 8) = (y == 3) := by revert y; decide

theorem size_pair_pos (w : BitVec 1) : 0 < 2 * (if w = 1 then 8 else 4) := by split <;> decide

theorem exec_st (t a : BitVec 5) (y : BitVec 2) (o : BitVec 9) (s : State) : exec (.st t a y o) s =
    .next (s.storeAt (s.memEA none a o (2 ^ y.toNat)) (2 ^ y.toNat) (2 ^ y.toNat) (s.low t (2 ^ y.toNat)) (2 ^ y.toNat == 8) false 4) :=
  congrArg Host.Outcome.next (doSt_eq s none t a y o)

theorem exec_str {s : State} (free : s.hart.outst = [] ∧ s.hart.orsLocal = 0 ∧ s.hart.orsFab = 0) (t a : BitVec 5) (y : BitVec 2) (o : BitVec 9) :
    exec (.str t a y o) s = .next (s.storeAt (s.memEA none a o (2 ^ y.toNat)) (2 ^ y.toNat) (2 ^ y.toNat) (s.low t (2 ^ y.toNat)) (2 ^ y.toNat == 8) true 4) :=
  congrArg Host.Outcome.next (doStr_released free none t a y o)

theorem exec_stp (t a : BitVec 5) (w : BitVec 1) (o : BitVec 9) (s : State) : exec (.stp t a w o) s =
    .next (s.storeAt (s.memEA none a o (if w = 1 then 8 else 4)) (2 * if w = 1 then 8 else 4) (2 * if w = 1 then 8 else 4)
      (s.lowPair t (if w = 1 then 8 else 4)) false false 4) :=
  congrArg Host.Outcome.next (doStp_eq s none t a w o)

/-- Settles O7: each load and store raises the form check that its address fails, and `addressFaults_of` says which. -/
theorem addressFaults : Obligations.AddressFaults := by
  unfold Obligations.AddressFaults
  intro s d a l z y w o ready wd T
  rw [← size_eq_eight]
  exact ⟨addressFaults_of ready fun t => load_raises_fault rfl (writable_one wd _ _),
    addressFaults_of ready fun t => load_raises_fault rfl (writable_one wd _ _),
    addressFaults_of ready fun t => store_raises_fault (exec_st d a y o s),
    fun hlocal hfab => addressFaults_of ready fun t => store_raises_fault (exec_str ⟨ready.1, hlocal, hfab⟩ d a y o),
    fun wd' => addressFaults_of ready fun t => load_raises_fault rfl (writable_pair wd wd' _),
    addressFaults_of ready fun t => store_raises_fault (exec_stp d a w o s)⟩

/-- Settles O8: each load by the class of its address. -/
theorem loads : Obligations.Loads := by
  unfold Obligations.Loads
  refine ⟨fun s d a l z y w o off wd => ?own, fun s d a l z y w o p wd => ?far, fun s d a l z y w o wd => ?region⟩
  case own =>
    intro ea ok
    refine ⟨fun ⟨h, hw, hwatch, hp⟩ => ?_, fun ⟨h, hw, hwatch, hp⟩ => ?_, fun wd' ⟨h, hw, hwatch, hp⟩ => ?_⟩
    · exact load_own_completes rfl (writable_one wd _ _) h hw hwatch hp (LoadDst.writes_ld (s.cc.sread_lt off _) d z.msb)
    · exact load_own_completes rfl (writable_one wd _ _) h hw hwatch hp (LoadDst.writes_lda (s.cc.sread_lt off _) d)
    · exact load_own_completes rfl (writable_pair wd wd' _) h hw hwatch hp (LoadDst.writes_ldp_sread s.cc off _ d)
  case far =>
    intro ea far
    refine ⟨fun ⟨h, hw, hfar⟩ => ?_, fun ⟨h, hw, hfar⟩ => ?_, fun wd' ⟨h, hw, hfar⟩ => ?_⟩
    · exact load_far_asks rfl (writable_one wd _ _) h hw hfar
    · exact load_far_asks rfl (writable_one wd _ _) h hw hfar
    · exact load_far_asks rfl (writable_pair wd wd' _) h hw hfar
  case region =>
    intro ea at_ hits misses
    refine ⟨fun ⟨h, hw, hr⟩ => ⟨fun x hx hp hwatch => ?_, fun hx => ?_⟩, fun ⟨h, hw, hr⟩ => ⟨fun x hx hp hwatch => ?_, fun hx => ?_⟩,
      fun wd' ⟨h, hw, hr⟩ => ⟨fun x hx hp hwatch => ?_, fun hx => ?_⟩⟩
    · have hn : 0 < 2 ^ (z.toNat % 4) := by positivity
      rw [← x.read_eq _ hn]
      exact load_present_completes rfl (writable_one wd _ _) h hw hr hx hp hwatch (LoadDst.writes_ld (x.read_lt _ hn) d z.msb)
    · exact load_absent_asks rfl (writable_one wd _ _) h hw hr hx
    · have hn : 0 < 2 ^ y.toNat := by positivity
      rw [← x.read_eq _ hn]
      exact load_present_completes rfl (writable_one wd _ _) h hw hr hx hp hwatch (LoadDst.writes_lda (x.read_lt _ hn) d)
    · exact load_absent_asks rfl (writable_one wd _ _) h hw hr hx
    · have hn := size_pair_pos w
      rw [← x.read_eq _ hn]
      exact load_present_completes rfl (writable_pair wd wd' _) h hw hr hx hp hwatch (LoadDst.writes_ldp (x.read_lt _ hn) d)
    · exact load_absent_asks rfl (writable_pair wd wd' _) h hw hr hx

/-! A doubleword (R123, R128). -/

theorem low_eight (s : State) (t : BitVec 5) : s.low t 8 = (s.rg t).toNat := Nat.mod_eq_of_lt (s.rg t).isLt

theorem ofNat_low_eight (s : State) (t : BitVec 5) : BitVec.ofNat 64 (s.low t 8) = s.rg t := by rw [low_eight, BitVec.ofNat_toNat, BitVec.setWidth_eq]

/-- Settles O9: each store by the class of its address; an STR issues where its hart's earlier accesses are performed (`exec_str`, `doStr_waits`). -/
theorem stores : Obligations.Stores := by
  unfold Obligations.Stores
  refine ⟨fun s t a y w o off => ?own, fun s t a y w o p => ?far, fun s t a y w o => ?region, fun s t a o off obj slot => ?ring,
    fun s t a y o busy => congrArg Host.Outcome.next (doStr_waits busy none t a y o)⟩
  case own =>
    intro ea ok low
    exact ⟨fun ⟨h, hw, hwatch⟩ => store_own_writes (exec_st t a y o s) h hw hwatch nofun,
      fun ⟨h, hw, hwatch⟩ ho hlocal hfab hplain => store_own_writes (exec_str ⟨ho, hlocal, hfab⟩ t a y o) h hw hwatch fun _ => hplain,
      fun ⟨h, hw, hwatch⟩ => store_own_writes (exec_stp t a w o s) h hw hwatch nofun⟩
  case far =>
    intro ea far low free P
    refine ⟨fun ⟨h, hw, hfar⟩ => postsTo_or_waits (store_far_posts (exec_st t a y o s) h hw hfar),
      fun ⟨h, hw, hfar⟩ hfree => postsTo_or_waits (store_far_posts (exec_str hfree t a y o) h hw hfar),
      fun ⟨h, hw, hfar⟩ => postsTo_or_waits (store_far_posts (exec_stp t a w o s) h hw hfar), fun h hw window => ?_⟩
    rw [← ofNat_low_eight]
    exact ⟨postsTo_or_waits (store_window_posts (exec_st t a 3 o s) h hw window),
      fun hfree => postsTo_or_waits (store_window_posts (exec_str hfree t a 3 o) h hw window)⟩
  case region =>
    intro ea low free caches
    have caches_of : ∀ {m n v : Nat} {win release : Bool} {i : Instr}, exec i s = .next (s.storeAt (ea m) n n v win release 4) → caches m n v win i := by
      intro m n v win release i e h hw hr
      have region := store_region e h hw hr
      simp only [cacheStore_eq] at region
      exact region
    exact ⟨⟨caches_of (exec_st t a y o s), fun hfree => caches_of (exec_str hfree t a y o)⟩, caches_of (exec_stp t a w o s)⟩
  case ring =>
    intro ea r count widx ahead full h hw ho hlocal hfab hheader
    have e : exec (.str t a 3 o) s = .next (s.storeAt ea 8 8 (s.low t 8) true true 4) := exec_str ⟨ho, hlocal, hfab⟩ t a 3 o
    rw [low_eight] at e
    refine ⟨fun room hwatch => store_own_publishes e h hw hwatch rfl rfl hheader (if_neg room), fun hfull ready => ?_⟩
    have hpub : ringPublish (s.cc.sread obj 32) slot = none := if_pos hfull
    exact traps_of_raise (t := ⟨0x10, ea, 4⟩) ready (store_refused_raises e h hw (by rw [storeOwn_header _ hheader, hpub]; rfl))

end Sys2Proof.Machine
end

section
/-! SUPPORT. A bound destination (04 R97, 05 R148), and transfers of control (04 R116 to R118). -/

namespace Sys2Proof.Machine

/-! BOUND_WRITE. -/

theorem boundCheck_bound {s : State} {d : BitVec 5} {k : BitVec 4} (hd : d ≠ 0) (hk : s.hart.slotOf d = some k) :
    s.boundCheck d = some ⟨0x0E, 0, BitVec.ofNat 64 (d.toNat + 2 ^ 8 * k.toNat)⟩ := by
  simp only [State.boundCheck, if_neg hd, hk]; rfl

/-- An instruction whose first check is that of its destination. -/
theorem traps_bound {i : Instr} {s : State} {d : BitVec 5} {k : BitVec 4} {checks cs : List (Option Trap)} {f : State → State} (hd : d ≠ 0)
    (hk : s.hart.slotOf d = some k) (r : s.trapReady) (e : exec i s = .next (s.guarded checks f)) (first : checks = s.boundCheck d :: cs) :
    Traps i s 0x0E 0 (BitVec.ofNat 64 (d.toNat + 2 ^ 8 * k.toNat)) :=
  traps_of_raise (t := ⟨0x0E, 0, BitVec.ofNat 64 (d.toNat + 2 ^ 8 * k.toNat)⟩) r (by rw [e, first, boundCheck_bound hd hk, guarded_some])

/-- Settles O5: the check of the destination comes first (`traps_bound`); of a pair, behind that of its first register (`load_raises_bound`). -/
theorem boundDestinationTraps : Obligations.BoundDestinationTraps := by
  unfold Obligations.BoundDestinationTraps
  intro s d e a b m n p w r l z z3 o i k j26 hd hk ready T
  have bound : ∀ {q : Instr} {checks cs : List (Option Trap)} {f : State → State}, exec q s = .next (s.guarded checks f) →
      checks = s.boundCheck d :: cs → T q := traps_bound hd hk ready
  have computes : ∀ {q : Instr} {v : Fl Word}, exec q s = .next (s.compute d v) → T q := fun e => bound e rfl
  have load : ∀ {q : Instr}, exec q s = .next (s.raise ⟨0x0E, 0, BitVec.ofNat 64 (d.toNat + 2 ^ 8 * k.toNat)⟩) → T q :=
    fun e => traps_of_raise ready e
  have check := boundCheck_bound hd hk
  refine ⟨fun h31 => ?jal, load (load_raises_bound rfl ?ldp), fun he hnext => load (load_raises_bound rfl ?second), computes rfl, computes rfl,
    computes rfl, computes rfl, computes rfl, computes rfl, computes rfl, computes rfl, bound rfl rfl, load (load_raises_bound rfl ?ld),
    bound rfl rfl, computes rfl, ?wait⟩
  case jal => subst h31; exact bound rfl rfl
  case ldp | ld => simp only [LoadDst.dests, List.map_cons, check, List.findSome?_cons, id]
  case second => simp only [LoadDst.dests, hnext, List.map_cons, boundCheck_writable he, check, List.findSome?_cons, id]
  case wait => exact bound (congrArg Host.Outcome.next (quietly_of_outst_nil ready.1 _)) rfl

/-! The target of a transfer (R116). -/

theorem targetCheck_inside {s : State} {t : Int} (h : 0 ≤ t ∧ t < s.cc.codesz.toNat) : s.targetCheck t = none := if_neg (by omega)

theorem targetCheck_outside {s : State} {t : Int} (h : t < 0 ∨ (s.cc.codesz.toNat : Int) ≤ t) :
    s.targetCheck t = some ⟨0x04, BitVec.ofInt 64 t, 0⟩ := if_pos h

/-- A write of g0 is no write (01 R16). -/
theorem Wrote.of_g0 {s t : State} {v next : Word} {fl : Flags} (x : Wrote s t [(0, v)] next fl) : Wrote s t [] next fl :=
  ⟨x.frame, x.pc, x.unblocked, x.regs, x.flags⟩

theorem wrote_jumpTo {s : State} {n : Int} (h : 0 ≤ s.hart.pc.toNat + n * 4 ∧ s.hart.pc.toNat + n * 4 < s.cc.codesz.toNat) :
    Wrote s (s.jumpTo n) [] (BitVec.ofInt 64 (s.hart.pc.toNat + n * 4)) 0 := by
  simp only [State.jumpTo, target, targetCheck_inside h, guarded_none, guarded_nil]
  exact (wrote_transfer s _ 0 0).of_g0

theorem jumpTo_outside {s : State} {n : Int} (h : s.hart.pc.toNat + n * 4 < 0 ∨ (s.cc.codesz.toNat : Int) ≤ s.hart.pc.toNat + n * 4) :
    s.jumpTo n = s.raise ⟨0x04, BitVec.ofInt 64 (s.hart.pc.toNat + n * 4), 0⟩ := by
  simp only [State.jumpTo, target, targetCheck_outside h, guarded_some]

/-! Branches (R116): p is the condition. -/

section
variable {i : Instr} {s : State} {c : Bool} {p : Prop} {o : BitVec 13} (e : exec i s = .next (s.branch c o)) (hc : c = true ↔ p)
include e hc

theorem branch_completes :
    (p → 0 ≤ s.hart.pc.toNat + o.toInt * 4 ∧ s.hart.pc.toNat + o.toInt * 4 < s.cc.codesz.toNat →
      ∃ u, exec i s = .next u ∧ Wrote s u [] (BitVec.ofInt 64 (s.hart.pc.toNat + o.toInt * 4)) 0) ∧
    (¬p → Retires i s [] 0) := by
  refine ⟨fun hp h => ⟨s.jumpTo o.toInt, ?_, wrote_jumpTo h⟩, fun hp => ⟨s.retire, ?_, wrote_retire s 4⟩⟩
  · rw [e, State.branch, if_pos (hc.mpr hp)]
  · rw [e, State.branch, if_neg (mt hc.mp hp)]

theorem branch_traps (r : s.trapReady) (hp : p)
    (h : s.hart.pc.toNat + o.toInt * 4 < 0 ∨ (s.cc.codesz.toNat : Int) ≤ s.hart.pc.toNat + o.toInt * 4) :
    Traps i s 0x04 (BitVec.ofInt 64 (s.hart.pc.toNat + o.toInt * 4)) 0 :=
  traps_of_raise (t := ⟨0x04, BitVec.ofInt 64 (s.hart.pc.toNat + o.toInt * 4), 0⟩) r
    (by rw [e, State.branch, if_pos (hc.mpr hp), jumpTo_outside h])

end

/-! Jumps with a link (R117, R118). -/

theorem exec_jal {s : State} (w : s.writable 31) (j : BitVec 26) : exec (.jal j) s =
    .next (s.guarded [s.targetCheck (s.hart.pc.toNat + j.toInt * 4)]
      (fun u => u.transfer (BitVec.ofInt 64 (s.hart.pc.toNat + j.toInt * 4)) 31 (u.hart.pc + 4))) := by
  show execJal j s = _
  simp only [execJal, boundCheck_writable w, guarded_none]
  rfl

theorem exec_jalr {s : State} {d a : BitVec 5} {i : BitVec 16} {t : Word} (ht : s.rg a + i.signExtend 64 = t) (w : s.writable d) :
    exec (.jalr d a i) s =
    .next (s.guarded [if t.toNat % 4 ≠ 0 then some ⟨0x03, t, 0⟩ else none, if s.cc.codesz.toNat ≤ t.toNat then some ⟨0x04, t, 0⟩ else none]
      (fun u => u.transfer t d (u.hart.pc + 4))) := by
  subst ht
  show execJalr d a i s = _
  simp only [execJalr, boundCheck_writable w, guarded_none]
  rfl

/-- Settles O6: a taken transfer passes `targetCheck` or raises its trap; of a JALR, behind the check of alignment. -/
theorem controlTransfers : Obligations.ControlTransfers := by
  unfold Obligations.ControlTransfers
  refine ⟨fun s d a b o j i => ?completes, fun s d a b o j i ready => ?traps⟩
  case completes =>
    intro A B inside goes br
    refine ⟨branch_completes rfl beq_iff_eq, branch_completes rfl bne_iff_ne, branch_completes rfl BitVec.slt_iff_toInt_lt,
      branch_completes rfl BitVec.sle_iff_toInt_le, branch_completes rfl BitVec.ult_iff_toNat_lt, branch_completes rfl BitVec.ule_iff_toNat_le,
      fun h => ⟨_, rfl, wrote_jumpTo h⟩, fun h w => ⟨_, exec_jal w j, ?_⟩, ?jalr⟩
    · rw [targetCheck_inside h, guarded_none, guarded_nil]
      exact wrote_transfer s _ 31 _
    case jalr =>
      intro t haligned hbelow w
      refine ⟨_, exec_jalr rfl w, ?_⟩
      rw [if_neg (not_not.mpr haligned), if_neg (Nat.not_le.mpr hbelow), guarded_none, guarded_none, guarded_nil, BitVec.ofInt_natCast,
        BitVec.ofNat_toNat, BitVec.setWidth_eq]
      exact wrote_transfer s _ d _
  case traps =>
    intro A B outside br
    refine ⟨branch_traps rfl beq_iff_eq ready, branch_traps rfl bne_iff_ne ready, branch_traps rfl BitVec.slt_iff_toInt_lt ready,
      branch_traps rfl BitVec.sle_iff_toInt_le ready, branch_traps rfl BitVec.ult_iff_toNat_lt ready,
      branch_traps rfl BitVec.ule_iff_toNat_le ready, fun h => ?jmp, fun h w => ?jal, ?jalr⟩
    case jmp =>
      refine traps_of_raise (t := ⟨0x04, BitVec.ofInt 64 (s.hart.pc.toNat + j.toInt * 4), 0⟩) ready ?_
      exact congrArg Host.Outcome.next (jumpTo_outside h)
    case jal =>
      refine traps_of_raise (t := ⟨0x04, BitVec.ofInt 64 (s.hart.pc.toNat + j.toInt * 4), 0⟩) ready ?_
      rw [exec_jal w, targetCheck_outside h, guarded_some]
    case jalr =>
      intro t w
      refine ⟨fun hmis => traps_of_raise (t := ⟨0x03, t, 0⟩) ready ?_, fun haligned habove => traps_of_raise (t := ⟨0x04, t, 0⟩) ready ?_⟩
      · rw [exec_jalr rfl w, if_pos hmis, guarded_some]
      · rw [exec_jalr rfl w, if_neg (not_not.mpr haligned), if_pos habove, guarded_none, guarded_some]

end Sys2Proof.Machine
end

section
/-! SUPPORT. The operations with an immediate (04 R103 to R105), alone and behind an IMX (02 R53 to R55). -/

namespace Sys2Proof.Machine

/-! Shift counts and signed comparisons of an immediate. -/

theorem shiftCount (k : BitVec 6) : (k.setWidth 64).toNat % 64 = k.toNat := by
  have := k.isLt
  rw [BitVec.toNat_setWidth]
  omega

theorem Alu.shl_count (a : Word) (k : BitVec 6) : Alu.shl a (k.setWidth 64) = .pure (BitVec.ofNat 64 (a.toNat * 2 ^ k.toNat)) := by
  rw [Alu.shl_eq, shiftCount]

theorem Alu.shr_count (a : Word) (k : BitVec 6) : Alu.shr a (k.setWidth 64) = .pure (BitVec.ofNat 64 (a.toNat / 2 ^ k.toNat)) := by
  rw [Alu.shr_eq, shiftCount]

theorem Alu.sra_count (a : Word) (k : BitVec 6) : Alu.sra a (k.setWidth 64) = .pure (BitVec.ofInt 64 (a.toInt / 2 ^ k.toNat)) := by
  rw [Alu.sra_eq, shiftCount]

theorem Alu.slt_signExtend {n : Nat} (hn : n ≤ 64) (a : Word) (i : BitVec n) :
    Alu.slt a (i.signExtend 64) = .pure (if a.toInt < i.toInt then 1 else 0) := by
  rw [Alu.slt_eq, BitVec.toInt_signExtend_of_le hn]

/-! What follows an IMX (02 R43, R53, R54). -/

/-- The meaning of instruction j as the second half of a pair whose IMX extends it with x. -/
def State.extended (s : State) (x : BitVec 26) : Instr → State
  | .addi d a i => s.doAddi (some x) d a i
  | .andi d a i => s.doAndi (some x) d a i
  | .ori d a i => s.doOri (some x) d a i
  | .xori d a i => s.doXori (some x) d a i
  | .slti d a i => s.doSlti (some x) d a i
  | .sltiu d a i => s.doSltiu (some x) d a i
  | .movi d i => s.doMovi (some x) d i
  | .ld d a l z o => s.doLd (some x) d a l z o
  | .st t a z o => s.doSt (some x) t a z o
  | .lda d a l z o => s.doLda (some x) d a l z o
  | .str t a z o => s.doStr (some x) t a z o
  | .ldp d a l z o => s.doLdp (some x) d a l z o
  | .stp t a z o => s.doStp (some x) t a z o
  | _ => s.raise s.illegal

/-- The instructions that take an extension (02 R53). -/
def takesExtension : Instr → Prop
  | .addi .. | .andi .. | .ori .. | .xori .. | .slti .. | .sltiu .. | .movi .. | .ld .. | .st .. | .lda .. | .str .. | .ldp .. | .stp .. => True
  | _ => False

theorem extended_of_not_takes {j : Instr} (h : ¬takesExtension j) (s : State) (x : BitVec 26) : s.extended x j = s.raise s.illegal := by
  unfold State.extended
  split
  case h_14 => rfl
  all_goals exact absurd trivial h

/-- An IMX executes as the pair with the instruction behind it. -/
theorem exec_imx_pair {s : State} {j : Instr} (inside : s.hart.pc.toNat + 4 < s.cc.codesz.toNat)
    (hj : decodeWord (fetchWord s.cc s.hart (s.hart.pc.toNat + 4)) = some j) (x : BitVec 26) : exec (.imx x) s = .next (s.extended x j) := by
  have hsucc : s.successor.bind decodeWord = some j := by rw [State.successor, if_pos inside]; exact hj
  show execImx x s = _
  simp only [execImx, hsucc, State.extended]
  cases j <;> rfl

/-- An IMX with no instruction behind it. -/
theorem exec_imx_alone {s : State} (h : s.successor.bind decodeWord = none) (x : BitVec 26) : exec (.imx x) s = .next (s.raise s.illegal) := by
  show execImx x s = _
  simp only [execImx, h]

theorem toNat_of_decodeWord_imx {w : BitVec 32} {x : BitVec 26} (h : decodeWord w = some (.imx x)) : w.toNat / 2 ^ 26 = 0x3E := by
  have hw := encode_of_rawDecode (decodeWord_eq_some_iff.mp h).1
  simp only [encode, Option.some.injEq, BitVec.ofNat_toNat, BitVec.setWidth_eq] at hw
  have := x.isLt
  rw [← hw, BitVec.toNat_ofNat]
  omega

/-- XINFO of an ILLEGAL at an IMX: its word, with the word behind it above (02 R43). -/
theorem illegalInfo_imx {s : State} {x : BitVec 26} (hp : s.hart.pastEnd = false)
    (h : decodeWord (fetchWord s.cc s.hart s.hart.pc.toNat) = some (.imx x)) :
    s.illegalInfo = (if s.hart.pc.toNat + 4 < s.cc.codesz.toNat then fetchWord s.cc s.hart (s.hart.pc.toNat + 4) else 0) ++
      fetchWord s.cc s.hart s.hart.pc.toNat := by
  simp only [State.illegalInfo, hp, Bool.false_eq_true, if_false, toNat_of_decodeWord_imx h, true_and]

/-- An IMX before a word that takes no extension. -/
theorem traps_imx_refused {s : State} {x : BitVec 26} (ready : s.trapReady) (hp : s.hart.pastEnd = false)
    (hx : decodeWord (fetchWord s.cc s.hart s.hart.pc.toNat) = some (.imx x)) (inside : s.hart.pc.toNat + 4 < s.cc.codesz.toNat)
    (refused : ∀ j, decodeWord (fetchWord s.cc s.hart (s.hart.pc.toNat + 4)) = some j → ¬takesExtension j) :
    Traps (.imx x) s 0x01 0 (fetchWord s.cc s.hart (s.hart.pc.toNat + 4) ++ fetchWord s.cc s.hart s.hart.pc.toNat) := by
  have hinfo := illegalInfo_imx hp hx
  rw [if_pos inside] at hinfo
  rw [← hinfo]
  refine traps_of_raise (t := s.illegal) ready ?_
  cases hj : decodeWord (fetchWord s.cc s.hart (s.hart.pc.toNat + 4)) with
  | none => exact exec_imx_alone (by rw [State.successor, if_pos inside]; exact hj) x
  | some j => rw [exec_imx_pair inside hj, extended_of_not_takes (refused j hj)]

/-- An IMX that is the last word of the code region (R54; log 58). -/
theorem traps_imx_last {s : State} {x : BitVec 26} (ready : s.trapReady) (hp : s.hart.pastEnd = false)
    (hx : decodeWord (fetchWord s.cc s.hart s.hart.pc.toNat) = some (.imx x)) (last : s.cc.codesz.toNat ≤ s.hart.pc.toNat + 4) :
    Traps (.imx x) s 0x01 0 ((fetchWord s.cc s.hart s.hart.pc.toNat).setWidth 64) := by
  have outside := Nat.not_lt.mpr last
  have hinfo := illegalInfo_imx hp hx
  rw [if_neg outside] at hinfo
  rw [show (fetchWord s.cc s.hart s.hart.pc.toNat).setWidth 64 = s.illegalInfo from (BitVec.setWidth_eq_append (by decide)).trans hinfo.symm]
  exact traps_of_raise (t := s.illegal) ready (exec_imx_alone (by rw [State.successor, if_neg outside]; rfl) x)

/-- Settles O3: alone an operation is `State.compute` of its function; behind an IMX it is that of `State.extended` (`exec_imx_pair`), where a load or
store is the access that O8 and O9 speak of, with another address and length. -/
theorem immediateResults : Obligations.ImmediateResults := by
  unfold Obligations.ImmediateResults
  refine ⟨fun s d a i k w => ?alone, fun s x d a i w inside => ?pairs, fun s x d a l z y u o off p inside => ?accesses, fun s x ready hp => ?illegal⟩
  case alone =>
    intro A
    exact ⟨retires_compute w rfl rfl, retires_compute w rfl rfl, retires_compute w rfl rfl, retires_compute w rfl rfl,
      retires_compute w rfl (Alu.slt_signExtend (by decide) A i), retires_compute w rfl (Alu.sltu_eq A _), retires_compute w rfl (Alu.shl_count A k),
      retires_compute w rfl (Alu.shr_count A k), retires_compute w rfl (Alu.sra_count A k), retires_compute w rfl rfl⟩
  case pairs =>
    intro word I pair
    have computes : ∀ {j : Instr} {r : Fl Word} {v : Word}, decodeWord word = some j → s.extended x j = s.compute d r 8 → r = .pure v → pair v :=
      fun hj e h => wrote_of_compute w ((exec_imx_pair inside hj x).trans (congrArg _ e)) h
    exact ⟨fun hj => computes hj rfl rfl, fun hj => computes hj rfl rfl, fun hj => computes hj rfl rfl, fun hj => computes hj rfl rfl,
      fun hj => computes hj rfl (Alu.slt_signExtend (by decide) _ I), fun hj => computes hj rfl (Alu.sltu_eq _ _), fun hj => computes hj rfl rfl⟩
  case accesses =>
    intro word ea at_ loads stores low free far asks posts
    have e : ∀ {j : Instr}, decodeWord word = some j → exec (.imx x) s = .next (s.extended x j) := fun hj => exec_imx_pair inside hj x
    have st := fun hj : decodeWord word = some (.st d a y o) => (e hj).trans (congrArg Host.Outcome.next (doSt_eq s (some x) d a y o))
    have str := fun (hfree : free) (hj : decodeWord word = some (.str d a y o)) =>
      (e hj).trans (congrArg Host.Outcome.next (doStr_released hfree (some x) d a y o))
    have stp := fun hj : decodeWord word = some (.stp d a u o) => (e hj).trans (congrArg Host.Outcome.next (doStp_eq s (some x) d a u o))
    have anyFabric : ∀ {A B C : Prop}, A ∨ B ∨ p = .fabric ∧ C → A ∨ B ∨ p = .fabric := fun h => h.imp_right (Or.imp_right And.left)
    refine ⟨fun hj wd => ⟨fun ⟨h, hw, hwatch⟩ hp => ?ld, fun ⟨h, hw, hfar⟩ => ?ldFar⟩,
      ⟨fun hj wd ⟨h, hw, hwatch⟩ hp => ?lda, fun hj wd ⟨h, hw, hfar⟩ => ?ldaFar, fun hj ⟨h, hw, hwatch⟩ => ?st, fun hj ⟨h, hw, hfar⟩ => ?stFar,
        fun hj ⟨h, hw, hwatch⟩ hfree hplain => ?str, fun hj ⟨h, hw, hfar⟩ hfree => ?strFar⟩,
      fun hj wd wd' ⟨h, hw, hwatch⟩ hp => ?ldp, fun hj wd wd' ⟨h, hw, hfar⟩ => ?ldpFar, fun hj ⟨h, hw, hwatch⟩ => ?stp,
      fun hj ⟨h, hw, hfar⟩ => ?stpFar⟩
    case ld => exact load_own_completes (e hj) (writable_one wd _ _) h hw hwatch hp (LoadDst.writes_ld (s.cc.sread_lt off _) d z.msb)
    case lda => exact load_own_completes (e hj) (writable_one wd _ _) h hw hwatch hp (LoadDst.writes_lda (s.cc.sread_lt off _) d)
    case ldp => exact load_own_completes (e hj) (writable_pair wd wd' _) h hw hwatch hp (LoadDst.writes_ldp_sread s.cc off _ d)
    case ldFar | ldaFar => exact load_far_asks (e hj) (writable_one wd _ _) h hw (anyFabric hfar)
    case ldpFar => exact load_far_asks (e hj) (writable_pair wd wd' _) h hw (anyFabric hfar)
    case st => exact store_own_writes (st hj) h hw hwatch nofun
    case str => exact store_own_writes (str hfree hj) h hw hwatch fun _ => hplain
    case stp => exact store_own_writes (stp hj) h hw hwatch nofun
    case stFar => exact postsTo_or_waits (store_far_posts (st hj) h hw hfar)
    case strFar => exact postsTo_or_waits (store_far_posts (str hfree hj) h hw hfar)
    case stpFar => exact postsTo_or_waits (store_far_posts (stp hj) h hw hfar)
  case illegal =>
    intro here word takes hx
    exact ⟨traps_imx_refused ready hp hx, traps_imx_last ready hp hx⟩

end Sys2Proof.Machine
end

section
/-! SUPPORT. What happens to a hart between its instructions: arrival passes and interrupts (05 R146; 06 R175), cycle counters (21 R419), wakes
from blocking points (18 R378) and sleep of its core (01 R30 to R32). -/

namespace Sys2Proof.Machine

/-! Arrival passes and interrupts (05 R146; 06 R175). -/

theorem exec_arrivalPass (s : State) (c : Nat) (h : BitVec 2) :
    exec (.arrivalPass c h) s = .next (if s.mayPass c h then s.modHart c h Hart.arrivalPass else s) := rfl

theorem modHart_congr {s : State} {c : Nat} {h : BitVec 2} {f g : Hart → Hart} (e : f (s.hartOf c h) = g (s.hartOf c h)) :
    s.modHart c h f = s.modHart c h g := by
  simp only [State.modHart, State.modCore, Core.modHart]
  exact congrArg (fun x => s.setCore c ((s.core c).setHart h x)) e

/-- A core whose hart h has left its blocking point: a WAYSET of it waits no longer (08 R187). -/
def Core.leaveBlock (k : Core) (h : BitVec 2) : Core :=
  { k.modHart h (fun t => { t with block := none }) with wayWait := if k.wayWait.any (fun w => w.1 == h) then none else k.wayWait }

theorem State.core_abandon (s : State) (c : Nat) (h : BitVec 2) : (s.abandon c h).core c = (s.core c).leaveBlock h :=
  State.core_modCore_same s c (fun k => k.leaveBlock h)

@[simp] theorem State.hartOf_abandon (s : State) (c : Nat) (h : BitVec 2) :
    (s.abandon c h).hartOf c h = { s.hartOf c h with block := none } := by
  rw [State.hartOf, State.core_abandon]
  exact Core.hart_modHart_same (s.core c) h (fun t => { t with block := none })

@[simp] theorem State.codesz_abandon (s : State) (c : Nat) (h : BitVec 2) : ((s.abandon c h).core c).codesz = (s.core c).codesz := by
  rw [State.core_abandon]
  rfl

@[simp] theorem State.codesz_modHart (s : State) (c : Nat) (h : BitVec 2) (f : Hart → Hart) : ((s.modHart c h f).core c).codesz = (s.core c).codesz := by
  simp [State.modHart]

theorem stopping_of_mayInterrupt {s : State} {c : Nat} {h : BitVec 2} (hm : s.mayInterrupt c h = true) : (s.hartOf c h).stopping = false := by
  simp only [State.mayInterrupt, State.atBoundary, Bool.and_eq_true, Bool.not_eq_true'] at hm
  simp [hm]

/-- The hart that enters its handler for an interrupt (06 R173): a step of the debug path goes on. -/
theorem enter_interrupt (y : Hart) (cause : BitVec 8) (addr info : Word) : y.enter true cause y.at addr info =
    { y with xcause := BitVec.ofNat 64 (b2n (y.mode == .supervisor) * 2 ^ 63 + 2 ^ 62 + cause.toNat), xpc := y.at &&& 0x1FFFC, xaddr := addr, xinfo := info,
             mode := .supervisor, ran := y.ran ||| 2, pc := y.xvec, pastEnd := false, block := none, wantsQ := none, stepArm := false,
             ibkSuppress := false } := by
  simp [Hart.enter, b2n]

/-- An interrupt that is due is taken: what is pending becomes f's, the blocking point is left, and the handler is entered. -/
theorem becomes_interruptEntry {s : State} {c : Nat} {h : BitVec 2} {f : Hart → Hart} {t : Trap} (hm : s.mayInterrupt c h = true)
    (hv : (s.hartOf c h).xvec.toNat < (s.core c).codesz.toNat) (hd : (s.hartOf c h).due = some (f (s.hartOf c h), some t))
    (hf : ∀ y, (f y).block = y.block ∧ (f y).stopping = y.stopping ∧ (f y).xvec = y.xvec) :
    Becomes (.interruptEntry c h) s (((s.modHart c h f).abandon c h).modHart c h (fun y => y.enter true t.cause y.at t.addr t.info)) := by
  obtain ⟨hblock, hstop, hvec⟩ := hf (s.hartOf c h)
  have pending : s.modHart c h (fun y => { f (s.hartOf c h) with block := y.block }) = s.modHart c h f := by
    refine modHart_congr ?_
    simp only [← hblock]
  have stays : ((s.modHart c h f).abandon c h).hartOf c h = { f (s.hartOf c h) with block := none } := by simp
  have enters : ((s.modHart c h f).abandon c h).enterTrap c h true t (f (s.hartOf c h)).at =
      ((s.modHart c h f).abandon c h).modHart c h (fun y => y.enter true t.cause y.at t.addr t.info) := by
    simp only [State.enterTrap, stays, hstop, stopping_of_mayInterrupt hm, State.codesz_abandon, State.codesz_modHart, hvec,
      Nat.not_le.mpr hv, Bool.false_eq_true, if_false]
    refine modHart_congr ?_
    rw [stays]
    rfl
  show execInterruptEntry c h s = _
  simp only [execInterruptEntry, hm, if_true, hd]
  rw [pending, enters]

theorem becomes_interruptEntry_none {s : State} {c : Nat} {h : BitVec 2} (hd : (s.hartOf c h).due = none) : Becomes (.interruptEntry c h) s s := by
  show execInterruptEntry c h s = _
  simp only [execInterruptEntry, hd, ite_self]

/-- A debug halt that is due leaves the blocking point and stops the hart where it is (06 R178). -/
theorem exec_interruptEntry_halt {s : State} {c : Nat} {h : BitVec 2} (hm : s.mayInterrupt c h = true) (hp : (s.hartOf c h).haltPend = true) :
    ∃ t, exec (.interruptEntry c h) s = .next t ∧ t.hartOf c h = { s.hartOf c h with haltPend := false, halted := true, block := none } := by
  have hd : (s.hartOf c h).due = some ({ s.hartOf c h with haltPend := false, halted := true }, none) := by simp [Hart.due, hp]
  refine ⟨(s.modHart c h (fun y => { s.hartOf c h with haltPend := false, halted := true, block := y.block })).abandon c h, ?_, by simp⟩
  show execInterruptEntry c h s = _
  simp only [execInterruptEntry, hm, if_true, hd]

section
variable {x : Hart} (hh : x.haltPend = false)
include hh

theorem due_poison {p : Word × Word} {ps : List (Word × Word)} (hp : x.poisonPend = p :: ps) :
    x.due = some ({ x with poisonPend := ps }, some ⟨0x07, p.1, p.2⟩) := by
  simp [Hart.due, hh, hp, cPOISON]

variable (hp : x.poisonPend = [])
include hp

theorem due_watch {p : Word × Word} {ps : List (Word × Word)} (hw : x.watchPend = p :: ps) :
    x.due = some ({ x with watchPend := ps }, some ⟨0x17, p.1, p.2⟩) := by
  simp [Hart.due, hh, hp, hw, cWATCH]

variable (hw : x.watchPend = [])
include hw

theorem due_supervisor (hm : x.mode = .supervisor) : x.due = none := by
  simp [Hart.due, hh, hp, hw, hm]

theorem due_step (hm : x.mode = .program) (hs : x.stepPend = true) : x.due = some ({ x with stepPend := false }, some ⟨0x16, 0, 0⟩) := by
  simp [Hart.due, hh, hp, hw, hm, hs, cSTEP]

theorem due_counterOvf (hm : x.mode = .program) (hs : x.stepPend = false) (ho : x.ovf ≠ 0) :
    x.due = some ({ x with ovf := 0, ovfHeld := false }, some ⟨0x19, 0, BitVec.ofNat 64 (x.ovf.toNat + 16 * b2n x.ovfHeld)⟩) := by
  have some_ : ¬x.ovf = 0#4 := ho
  simp [Hart.due, hh, hp, hw, hm, hs, some_, cCOUNTEROVF]

end

/-! Cycle counters (21 R419). -/

/-- The bit of CNTSEL's MODE that counts in a mode (21 R418). -/
def modeNo : Mode → Nat
  | .program => 13
  | .supervisor => 14

theorem modeBit_selected (n : Nat) (m : Mode) : (BitVec.ofNat 2 (bits n 14 13) &&& modeBit m != 0) = bit n (modeNo m) := by
  have hhigh : n >>> 14 = (n >>> 13) / 2 := Nat.shiftRight_succ n 13
  have hlow : bits n 14 13 = (n >>> 13) % 4 := rfl
  have program : ∀ q : Fin 4, (BitVec.ofNat 2 q &&& 1#2 != 0) = (q.val % 2 == 1) := by decide
  have supervisor : ∀ q : Fin 4, (BitVec.ofNat 2 q &&& 2#2 != 0) = (q.val / 2 % 2 == 1) := by decide
  have hq : (n >>> 13) % 4 < 4 := Nat.mod_lt _ (by decide)
  rw [hlow]
  cases m with
  | program =>
    refine (program ⟨_, hq⟩).trans ?_
    rw [modeNo, bit, show (n >>> 13) % 4 % 2 = (n >>> 13) % 2 by omega]
  | supervisor =>
    refine (supervisor ⟨_, hq⟩).trans ?_
    rw [modeNo, bit, hhigh, show (n >>> 13) % 4 / 2 % 2 = (n >>> 13) / 2 % 2 by omega]

theorem cyclesIn_iff (sel : Word) (m : Mode) : cyclesIn sel (modeBit m) = true ↔
    bit sel.toNat 15 = true ∧ bit sel.toNat (modeNo m) = true ∧
      (bits sel.toNat 7 0 = 1 ∨ bits sel.toNat 7 0 = 3 ∨ bits sel.toNat 7 0 = 4) := by
  have hevent : sel.toNat % 2 ^ 8 = bits sel.toNat 7 0 := rfl
  have hmode : bit sel.toNat (modeNo m) = true → bits sel.toNat 14 13 ≠ 0 := fun h e => by
    rw [← modeBit_selected, e] at h
    cases m <;> cases h
  simp only [cyclesIn, cycleEvent, modeBit_selected, hevent, Bool.and_eq_true, Bool.or_eq_true, bne_iff_ne, beq_iff_eq, or_assoc]
  tauto

theorem cycleNow_iff (s : State) (c : Nat) (h : BitVec 2) (sel : Word) : s.cycleNow c h sel = true ↔
    bit sel.toNat 15 = true ∧ bit sel.toNat (modeNo (s.hartOf c h).mode) = true ∧
      (bits sel.toNat 7 0 = 1 ∨ bits sel.toNat 7 0 = 3 ∧ s.atBlock c h = false ∨ bits sel.toNat 7 0 = 4 ∧ s.atBlock c h = true) := by
  have hevent : sel.toNat % 2 ^ 8 = bits sel.toNat 7 0 := rfl
  rw [State.cycleNow, Bool.and_eq_true, cyclesIn_iff, hevent]
  split
  next e => simp [e, and_assoc]
  next e => simp [e, and_assoc]
  next h3 h4 =>
    have n3 : bits sel.toNat 7 0 ≠ 3 := h3
    have n4 : bits sel.toNat 7 0 ≠ 4 := h4
    simp [n3, n4]

theorem becomes_counterWrap {s : State} {c : Nat} {h : BitVec 2} (k : BitVec 2) (hvf : (s.core c).vf ≠ none) (hg : (s.hartOf c h).group ≠ none) :
    let now := s.cycleNow c h ((s.hartOf c h).cntsel.get ⟨k.toNat, k.isLt⟩)
    (now = true → Becomes (.counterWrap c h k) s
      (s.modHart c h (fun y => { y with cnt := y.cnt.set k.toNat 0 k.isLt, ovf := y.ovf ||| (1#4 <<< k.toNat) }))) ∧
    (now = false → Becomes (.counterWrap c h k) s s) := by
  intro now
  have hresident : ((s.core c).vf.isSome && (s.hartOf c h).hosts) = true := by
    simp [Hart.hosts, Option.isSome_iff_ne_none, hvf, hg]
  have wraps : exec (.counterWrap c h k) s = .next (if now = true then
      s.modHart c h (fun y => { y with cnt := y.cnt.set k.toNat 0 k.isLt, ovf := y.ovf ||| (1#4 <<< k.toNat) }) else s) :=
    congrArg (fun b : Bool => Host.Outcome.next (if (b && now) = true then _ else s)) hresident
  exact ⟨fun hn => wraps.trans (congrArg _ (if_pos hn)), fun hn => wraps.trans (congrArg _ (if_neg (Bool.eq_false_iff.mp hn)))⟩

/-! Wakes from blocking points (18 R378). -/

/-- A change of the executing core that leaves the hart's pc alone, and then a retirement that writes one register. -/
theorem wrote_mapCore_writeRetire {s : State} {f : Core → Core} (u : SameUnit s.cc (f s.cc)) (d : BitVec 5) (v : Word) :
    Wrote (s.mapCore f) ((s.mapCore f).writeRetire d v) [(d, v)] (s.hart.pc + 4) 0 := by
  have hpc : (s.mapCore f).hart.pc = s.hart.pc := by
    rw [State.hart, State.cc_mapCore]
    exact u.pc s.cur.hart
  rw [← hpc]
  exact wrote_writeRetire (s.mapCore f) d v 0 4

theorem sameUnit_poisonFrom (k : Core) (src dst n : Nat) : SameUnit k (k.poisonFrom src dst n) := by
  unfold Core.poisonFrom
  split <;> exact ⟨rfl, fun _ => rfl, fun _ => rfl⟩

theorem wayHeld_none {s : State} (h : s.cc.wayWait = none) (p : Place) (ea : Word) (n : Nat) : s.wayHeld p ea n = false := by
  simp [State.wayHeld, h]

theorem ringHeld_none {s : State} (h : s.cc.wayWait = none) (r o : Nat) : s.ringHeld r o = false := by
  simp [State.ringHeld, wayHeld_none h]

/-- The loop of RPOP pops where the head slot is there and its type is wanted (08 R208). -/
theorem wrote_ringPop {s : State} {off dst : Nat} (d : BitVec 5) (ea gb : Word) (hw : s.cc.wayWait = none) (hup : s.cc.ringUp (s.cc.ring off) = true)
    (hstate : ringSTATE (s.cc.ring off) = false) (hfilled : ringFILLED (s.cc.ring off) ≠ 0)
    (htype : bit (ringVMASK (s.cc.ring off)) (bits (s.cc.sread (ringSlot (s.cc.ring off) (ringRIDX (s.cc.ring off)) + 8 * ringHOFF (s.cc.ring off)) 8)
      (ringTPOS (s.cc.ring off) + 3) (ringTPOS (s.cc.ring off))) = true)
    (hfit : dst + ringSSIZE (s.cc.ring off) ≤ s.cc.scratchSize) :
    let r := s.cc.ring off
    let n := ringSSIZE r
    let a := ringSlot r (ringRIDX r)
    Wrote (s.mapCore (fun k => (((k.noteCodeStore dst n).swrite dst n (s.cc.sread a n)).poisonFrom a dst n).putRing off
      (setBits (setBits r 31 0 (ringRIDX r + 1)) 176 160 (ringFILLED r - 1)))) (s.ringPop d ea gb off dst)
      [(d, BitVec.ofNat 64 (ringRIDX r))] (s.hart.pc + 4) 0 := by
  intro r n a
  have pops : s.ringPop d ea gb off dst = (s.mapCore (fun k => (((k.noteCodeStore dst n).swrite dst n (s.cc.sread a n)).poisonFrom a dst n).putRing off
      (setBits (setBits r 31 0 (ringRIDX r + 1)) 176 160 (ringFILLED r - 1)))).writeRetire d (BitVec.ofNat 64 (ringRIDX r)) := by
    simp only [State.ringPop, ringHeld_none hw, hup, hstate, hfilled, htype, Nat.not_lt.mpr hfit, Bool.false_eq_true, Bool.true_eq_false, if_false]
    rfl
  rw [pops]
  exact wrote_mapCore_writeRetire ((sameUnit_noteCodeStore _ dst n).trans ((sameUnit_swrite _ dst n _).trans
    ((sameUnit_poisonFrom _ a dst n).trans (sameUnit_putRing _ off _)))) d _

theorem modIssuer_self {k : Core} {i : BitVec 3} {e : Engine} {f : Issuer → Issuer} (hf : f (k.issuer i e) = k.issuer i e) : k.modIssuer i e f = k := by
  have hrow : (k.issuers.get (issuerIdx i)).set (engineIdx e).val (f (k.issuer i e)) (engineIdx e).isLt = k.issuers.get (issuerIdx i) := by
    rw [hf]
    exact Vector.set_getElem_self _
  have htable : k.issuers.set (issuerIdx i).val (k.issuers.get (issuerIdx i)) (issuerIdx i).isLt = k.issuers := Vector.set_getElem_self _
  unfold Core.modIssuer
  exact congrArg (fun v => { k with issuers := v }) ((congrArg (fun row => k.issuers.set (issuerIdx i).val row (issuerIdx i).isLt) hrow).trans htable)

/-- The end of a wait for an engine on which the hart has met neither a fault nor a flag (10 R252). -/
theorem wrote_engineReturn {s : State} {e : Engine} (d : BitVec 5) (hfault : (s.cc.issuer s.issuerNo e).faulted = false)
    (hflags : (s.cc.issuer s.issuerNo e).flags = []) :
    Wrote s (s.engineReturn e d) [(d, BitVec.ofNat 64 ((s.cc.issuer s.issuerNo e).seq.toNat * 2 ^ 32))] (s.hart.pc + 4) 0 := by
  have covered : (s.mapCore (fun k => k.modIssuer s.issuerNo e (fun u => { u with flags := [], faulted := false }))).mapHart (fun h => h.coverFlags []) =
      s.mapHart (fun h => h) := by
    have same : s.cc.modIssuer s.issuerNo e (fun u => { u with flags := [], faulted := false }) = s.cc :=
      modIssuer_self (by rw [← hflags, ← hfault])
    simp only [State.mapHart, State.modHart, State.mapCore, State.modCore_cur, State.modCore_modCore]
    exact congrArg (fun k : Core => s.setCore s.cur.core (k.modHart s.cur.hart (fun h => h))) same
  have returns : s.engineReturn e d = s.writeRetire d (BitVec.ofNat 64 ((s.cc.issuer s.issuerNo e).seq.toNat * 2 ^ 32)) := by
    simp only [State.engineReturn, hfault, hflags, Bool.false_eq_true, if_false, covered]
    exact State.mapHart_mapHart s _ _
  rw [returns]
  exact wrote_writeRetire s d _ 0 4

section
variable {s : State} {c : Nat} {h : BitVec 2} (hm : s.mayWake c h = true)
include hm

theorem exec_waitWake {d : BitVec 5} {mask : BitVec 16} (hb : (s.hartOf c h).block = some (.wait d mask)) (hd : (s.hartOf c h).waitDone mask = true) :
    exec (.waitWake c h) s = .next ((s.as c h).writeRetire d ((s.hartOf c h).full.setWidth 64)) := by
  show execWaitWake c h s = _
  simp only [execWaitWake, hm, hb, hd, if_true]

theorem exec_bwaitWake_flipped {off : Nat} {phase woken : Bool} (hb : (s.hartOf c h).block = some (.bwait off phase woken))
    (hf : barFaults ((s.core c).bar off) = 0) (hp : barPHASE ((s.core c).bar off) ≠ phase ∨ woken = true) :
    exec (.bwaitWake c h) s = .next (s.as c h).retire := by
  show execBwaitWake c h s = _
  by_cases same : barPHASE ((s.core c).bar off) = phase
  · have hwoken : woken = true := hp.resolve_left (not_not_intro same)
    simp only [execBwaitWake, hm, hb, bwaitSees, hf, same, hwoken, ne_eq, not_true_eq_false, if_false, if_true]
  · simp only [execBwaitWake, hm, hb, bwaitSees, hf, same, ne_eq, not_true_eq_false, if_false, if_true]

theorem becomes_bwaitWake_waiting {off : Nat} {phase : Bool} (hb : (s.hartOf c h).block = some (.bwait off phase false))
    (hf : barFaults ((s.core c).bar off) = 0) (hp : barPHASE ((s.core c).bar off) = phase) : Becomes (.bwaitWake c h) s s := by
  show execBwaitWake c h s = _
  simp only [execBwaitWake, hm, hb, bwaitSees, hf, hp, ne_eq, not_true_eq_false, Bool.false_eq_true, if_false, if_true]

theorem exec_rpopWake {d : BitVec 5} {off dst : Nat} (hb : (s.hartOf c h).block = some (.rpop d off dst)) (hr : (s.core c).ringReady off = true) :
    exec (.rpopWake c h) s = .next ((s.as c h).ringPop d ((s.core c).ownAddr off) ((s.core c).ownAddr dst) off dst) := by
  show execRpopWake c h s = _
  simp only [execRpopWake, hm, hb, hr, if_true]

theorem exec_engineWaitReturn {e : Engine} {d : BitVec 5} (hb : (s.hartOf c h).block = some (.engine e d))
    (hd : (s.core c).engineDone (h.setWidth 3) e = true) : exec (.engineWaitReturn c h) s = .next ((s.as c h).engineReturn e d) := by
  show execEngineWaitReturn c h s = _
  simp only [execEngineWaitReturn, hm, hb, hd, if_true]

theorem exec_engineWaitReturn_caswait {d : BitVec 5} (hb : (s.hartOf c h).block = some (.caswait d)) (hr : (s.core c).cas.state ≠ .running) :
    exec (.engineWaitReturn c h) s = .next ((s.as c h).writeRetire d (s.core c).cas.casst) := by
  show execEngineWaitReturn c h s = _
  simp only [execEngineWaitReturn, hm, hb, hr, if_true, if_false]

end

/-! Sleep (01 R30 to R32). -/

theorem becomes_coreSleepEntry {s : State} {c : Nat} (hl : (s.core c).live = true) (hw : (s.core c).working ≠ []) (hb : s.allBlocked c = true)
    (ha : s.anyWake c = false) (elapsed : BitVec 2) :
    Becomes (.coreSleepEntry c elapsed) s (s.modCore c (fun k => { k with sleep := .asleep (s.sleepDepth c elapsed) })) := by
  show execCoreSleepEntry c elapsed s = _
  simp [execCoreSleepEntry, hl, hw, hb, ha]

theorem becomes_coreSleepEntry_awake {s : State} {c : Nat} (h : s.allBlocked c = false ∨ s.anyWake c = true) (elapsed : BitVec 2) :
    Becomes (.coreSleepEntry c elapsed) s s := by
  show execCoreSleepEntry c elapsed s = _
  rcases h with e | e <;> simp [execCoreSleepEntry, e]

theorem becomes_coreWake {s : State} {c : Nat} {d : BitVec 2} (hs : (s.core c).sleep = .asleep d) (ha : s.anyWake c = true) :
    Becomes (.coreWake c) s (s.modCore c (fun k => { k with sleep := .waking d })) := by
  show execCoreWake c s = _
  simp [execCoreWake, hs, ha]

theorem exec_wakeComplete {s : State} {c : Nat} {d : BitVec 2} (hs : (s.core c).sleep = .waking d) (captured : Bool) :
    let t := (s.modCore c (fun k => { k with sleep := .awake }.giveOverflow.promoteHold.giveTokens)).giveMessages c
    exec (.wakeComplete c captured) s = .next (if d = 2 ∧ captured = false then t.contextError c else t) := by
  show execWakeComplete c captured s = _
  simp only [execWakeComplete, hs]

end Sys2Proof.Machine

namespace Sys2Proof
open Sys2Proof.Machine

/-- Settles O45: interrupts by what is due (`becomes_interruptEntry`), counters by `cycleNow_iff`, each wake by the end of its instruction. -/
theorem hartEvents : Obligations.HartEvents := by
  unfold Obligations.HartEvents
  intro s c h k captured elapsed x core u enters
  refine ⟨fun hp => ?_, fun hp => ?_, fun hm hv hh => ?_, fun hm hh => ?_, ?_, fun hm => ⟨?_, ?_, ?_, ?_, ?_⟩,
    fun hl hw hb ha => becomes_coreSleepEntry hl hw hb ha elapsed, fun _ hn => becomes_coreSleepEntry_awake hn elapsed,
    fun d hs ha => becomes_coreWake hs ha, fun d hs => ?_, rfl⟩
  · exact (exec_arrivalPass s c h).trans (congrArg _ (if_pos hp))
  · exact (exec_arrivalPass s c h).trans (congrArg _ (if_neg (Bool.eq_false_iff.mp hp)))
  · have takes : ∀ (f : Hart → Hart) {cause : BitVec 8} {addr info : Word}, x.due = some (f x, some ⟨cause, addr, info⟩) →
        (∀ y, (f y).block = y.block ∧ (f y).stopping = y.stopping ∧ (f y).xvec = y.xvec) → enters f cause addr info := fun f _ _ _ hd hf => by
      have entered := becomes_interruptEntry hm hv hd hf
      simp only [enter_interrupt] at entered
      exact entered
    refine ⟨fun p ps hp => takes (fun y => { y with poisonPend := ps }) (due_poison hh hp) ?_,
      fun hp p ps hw => takes (fun y => { y with watchPend := ps }) (due_watch hh hp hw) ?_,
      fun hp hw => ⟨fun hs => becomes_interruptEntry_none (due_supervisor hh hp hw hs),
        fun hs h1 => takes (fun y => { y with stepPend := false }) (due_step hh hp hw hs h1) ?_,
        fun hs h1 ho => takes (fun y => { y with ovf := 0, ovfHeld := false }) (due_counterOvf hh hp hw hs h1 ho) ?_⟩⟩
    all_goals exact fun _ => ⟨rfl, rfl, rfl⟩
  · obtain ⟨t, ht, hart⟩ := exec_interruptEntry_halt hm hh
    refine ⟨t, ht, ?_⟩
    rw [hart]
    exact ⟨rfl, rfl, rfl, rfl⟩
  · intro sel event mode counts hvf hgroup
    have hmode : mode = modeNo x.mode := by cases e : x.mode <;> simp [mode, e, modeNo]
    have hnow : s.cycleNow c h sel = true ↔ counts := by rw [cycleNow_iff, ← hmode]
    obtain ⟨wraps, stays⟩ := becomes_counterWrap k hvf hgroup
    exact ⟨fun hc => wraps (hnow.mpr hc), fun hc => stays (Bool.eq_false_iff.mpr (hnow.not.mpr hc))⟩
  · intro d mask hb hd
    exact ⟨_, exec_waitWake hm hb (by simpa [Hart.waitDone] using hd), wrote_writeRetire u d _ 0 4⟩
  · intro off phase woken hb hf
    refine ⟨fun hp => ⟨_, exec_bwaitWake_flipped hm hb hf hp, wrote_retire u 4⟩, fun hp hw => ?_⟩
    subst hw
    exact becomes_bwaitWake_waiting hm hb hf hp
  · intro d off dst hb hwait r n a type hup hstate hfilled htype hfit
    have ready : core.ringReady off = true := by simp [Core.ringReady, Core.ring, ringFILLED, r, hfilled]
    exact ⟨_, exec_rpopWake hm hb ready, wrote_ringPop (s := u) d _ _ hwait hup hstate hfilled htype hfit⟩
  · intro e d hb hd hfault hflags
    exact ⟨_, exec_engineWaitReturn hm hb hd, wrote_engineReturn (s := u) d hfault hflags⟩
  · intro d hb hr
    exact ⟨_, exec_engineWaitReturn_caswait hm hb hr, wrote_writeRetire u d _ 0 4⟩
  · intro t
    have completes := exec_wakeComplete hs captured
    refine ⟨fun hd => completes.trans (congrArg _ (if_neg ?_)), fun hd hc => completes.trans (congrArg _ (if_pos ⟨hd, hc⟩))⟩
    rintro ⟨hd2, lost⟩
    exact hd.elim (fun h => h hd2) (fun h => by simp [lost] at h)

end Sys2Proof
end

section
/-! SUPPORT. The binding table (05 R138 to R151): what captures a formula, what a change of the table and an evaluation leave alone, and the
evaluation of a binding that stands alone. -/

namespace Sys2Proof.Machine

/-! The captured words of a slot (01 R24). -/

theorem length_wordsFrom (k : Core) (h : Hart) (o n : Nat) : (wordsFrom k h o n).length = n := by
  induction n generalizing o with
  | zero => rfl
  | succ n ih => rw [wordsFrom, List.length_cons, ih]

/-- The number that a slot holds for its words. -/
def packedNat (ws : List (BitVec 32)) : Nat := ws.foldr (fun w acc => w.toNat + 2 ^ 32 * acc) 0

theorem packedNat_lt (ws : List (BitVec 32)) : packedNat ws < 2 ^ (32 * ws.length) := by
  induction ws with
  | nil => simp [packedNat]
  | cons w ws ih =>
    have hw := w.isLt
    have step : packedNat (w :: ws) = w.toNat + 2 ^ 32 * packedNat ws := rfl
    rw [step, List.length_cons, show 32 * (ws.length + 1) = 32 + 32 * ws.length by omega, Nat.pow_add]
    omega

theorem packedNat_word (ws : List (BitVec 32)) {i : Nat} (hi : i < ws.length) : packedNat ws / 2 ^ (32 * i) % 2 ^ 32 = ws[i].toNat := by
  induction ws generalizing i with
  | nil => exact absurd hi (Nat.not_lt_zero i)
  | cons w ws ih =>
    have hw := w.isLt
    have step : packedNat (w :: ws) = w.toNat + 2 ^ 32 * packedNat ws := rfl
    cases i with
    | zero => rw [step, Nat.mul_zero, Nat.pow_zero, Nat.div_one, List.getElem_cons_zero]; omega
    | succ i =>
      rw [step, show 32 * (i + 1) = 32 + 32 * i by omega, Nat.pow_add, ← Nat.div_div_eq_div_mul, Nat.add_mul_div_left _ _ (by decide),
        Nat.div_eq_of_lt hw, Nat.zero_add, List.getElem_cons_succ]
      exact ih (Nat.lt_of_succ_lt_succ hi)

/-- A slot reads back the words that it has captured. -/
theorem formula_packWords {sl : Slot} {ws : List (BitVec 32)} (hw : sl.words = packWords ws) (hn : ws.length = sl.nm1.toNat + 1) : sl.formula = ws := by
  have hlen : sl.nm1.toNat < 4 := sl.nm1.isLt
  have numbers : ([0, 1, 2, 3] : List Nat) = List.range 4 := rfl
  have hfit : packedNat ws < 2 ^ 128 := Nat.lt_of_lt_of_le (packedNat_lt ws) (Nat.pow_le_pow_right (by decide) (by omega))
  refine List.ext_getElem (by simp [Slot.formula, hn]; omega) fun i _ hi => BitVec.eq_of_toNat_eq ?_
  simp only [Slot.formula, numbers, List.getElem_take, List.getElem_map, List.getElem_range, BitVec.toNat_setWidth, BitVec.toNat_ushiftRight,
    Nat.shiftRight_eq_div_pow, hw]
  rw [← packedNat_word ws hi]
  exact congrArg (fun x => x / 2 ^ (32 * i) % 2 ^ 32) (Nat.mod_eq_of_lt hfit)

/-! A change of the table alone. -/

theorem rg_congr {h t : Hart} (e : t.g = h.g) (r : BitVec 5) : t.rg r = h.rg r := by rw [Hart.rg, e, Hart.rg]

theorem slot_congr {h t : Hart} (e : t.binds = h.binds) (k : BitVec 4) : t.slot k = h.slot k := by rw [Hart.slot, e, Hart.slot]

/-- t is h with another binding table. -/
def Rebinds (h t : Hart) : Prop := ∃ b, t = { h with binds := b }

theorem Rebinds.trans {a b c : Hart} (x : Rebinds a b) (y : Rebinds b c) : Rebinds a c := by
  obtain ⟨_, rfl⟩ := x
  obtain ⟨e, rfl⟩ := y
  exact ⟨e, rfl⟩

theorem rebinds_setSlot (h : Hart) (k : BitVec 4) (sl : Slot) : Rebinds h (h.setSlot k sl) := ⟨_, rfl⟩

theorem Rebinds.facts {h t : Hart} (x : Rebinds h t) : t.rest = h.rest ∧ t.outst = h.outst ∧ t.pc = h.pc ∧ t.g = h.g ∧ t.m = h.m ∧
    t.aflags = h.aflags ∧ t.arec = h.arec := by
  obtain ⟨_, rfl⟩ := x
  exact ⟨rfl, rfl, rfl, rfl, rfl, rfl, rfl⟩

/-- t is h with another binding table, whose slots differ from those of h in their level alone. -/
structure Relevelled (h t : Hart) : Prop where
  table : Rebinds h t
  slots : ∀ k, ∃ n, t.slot k = { h.slot k with level := n }

theorem Relevelled.refl (h : Hart) : Relevelled h h := ⟨⟨h.binds, rfl⟩, fun k => ⟨(h.slot k).level, rfl⟩⟩

theorem Relevelled.trans {a b c : Hart} (x : Relevelled a b) (y : Relevelled b c) : Relevelled a c := by
  refine ⟨x.table.trans y.table, fun k => ?_⟩
  obtain ⟨m, hm⟩ := x.slots k
  obtain ⟨n, hn⟩ := y.slots k
  exact ⟨n, by rw [hn, hm]⟩

theorem relevelled_setSlot (h : Hart) (k : BitVec 4) (n : BitVec 4) : Relevelled h (h.setSlot k { h.slot k with level := n }) := by
  refine ⟨rebinds_setSlot h k _, fun j => ?_⟩
  rw [Hart.slot_setSlot]
  split
  next e => exact ⟨n, by rw [e]⟩
  next => exact ⟨(h.slot j).level, rfl⟩

theorem relevelled_relevel (h : Hart) : Relevelled h h.relevel := by
  unfold Hart.relevel
  generalize levelTable h 16 = t
  induction slotNos generalizing h with
  | nil => exact .refl h
  | cons k ks ih =>
    rw [List.foldl_cons]
    refine Relevelled.trans ?_ (ih _)
    dsimp only
    split
    · exact relevelled_setSlot h k _
    · exact .refl h

theorem slot_withBinding (h : Hart) (k : BitVec 4) (d : BitVec 5) (n : BitVec 2) (ws : List (BitVec 32)) (j : BitVec 4) :
    (h.withBinding k d n ws).slot j =
      if j = k then { valid := true, dest := d, dirty := true, nm1 := n, level := 0, status := 0, words := packWords ws } else h.slot j :=
  Hart.slot_setSlot h k j _

theorem slotOf_eq_none {h : Hart} {r : BitVec 5} : h.slotOf r = none ↔ ∀ k, (h.slot k).valid = true → (h.slot k).dest ≠ r := by
  simp [Hart.slotOf, List.find?_eq_none, mem_slotNos]

/-! What of a slot a pass leaves alone (05 R143). -/

/-- A slot but for its DIRTY and STATUS. -/
def Slot.capture (sl : Slot) : Slot := { sl with dirty := false, status := 0 }

theorem slot_raiseFlags (h : Hart) (fl : Flags) (r : Word) (k : BitVec 4) : (h.raiseFlags fl r).slot k = h.slot k :=
  slot_congr (raiseFlags_binds h fl r) k

theorem slot_count (h : Hart) (e n : Nat) (k : BitVec 4) : (h.count e n).slot k = h.slot k := by
  obtain ⟨-, -, hbinds, -⟩ := count_fl h e n
  exact slot_congr hbinds k

theorem capture_markFor (h : Hart) (ws : List Operand) (k : BitVec 4) : ((h.markFor ws).slot k).capture = (h.slot k).capture := by
  rcases slot_markFor h ws k with e | e
  · rw [e]
  · rw [e]; rfl

theorem capture_evalSlot (h : Hart) (j : BitVec 4) (msg : Bool) (off : Word) (k : BitVec 4) :
    ((h.evalSlot j msg off).slot k).capture = (h.slot k).capture := by
  unfold Hart.evalSlot
  rw [capture_markFor, slot_count, Hart.slot_setSlot]
  split
  next e => rw [e]; rfl
  next => rw [slot_raiseFlags, Hart.slot_wg]

theorem capture_drainDirty (msg : Bool) (off : Word) (n : Nat) (h : Hart) (k : BitVec 4) :
    ((Hart.drainDirty msg off n h).slot k).capture = (h.slot k).capture := by
  induction n generalizing h with
  | zero => rfl
  | succ n ih =>
    unfold Hart.drainDirty
    split
    · rfl
    · rw [ih, capture_evalSlot]

theorem capture_evaluateBindings (h : Hart) (msg : Bool) (off : Word) (k : BitVec 4) :
    ((h.evaluateBindings msg off).slot k).capture = (h.slot k).capture := by
  unfold Hart.evaluateBindings
  split
  · rfl
  · rw [capture_drainDirty, slot_count]

theorem capture_retireTo (h : Hart) (next : Word) (ws : List Operand) (fl : Flags) (k : BitVec 4) :
    ((h.retireTo next ws fl).slot k).capture = (h.slot k).capture := by
  have passes : (h.retireTo next ws fl).slot k =
      ((((h.raiseFlags fl (arecInstr h.pc)).count 2 1).markFor ws).evaluateBindings false h.pc).slot k := rfl
  rw [passes, capture_evaluateBindings, capture_markFor, slot_count, slot_raiseFlags]

/-! The evaluation of a binding that stands alone (05 R143). -/

theorem foldl_eq_none_iff {α β : Type} {f : Option α → β → Option α} {p : β → Prop} (hf : ∀ b x, f b x = none ↔ b = none ∧ ¬p x) (l : List β)
    (b : Option α) : l.foldl f b = none ↔ b = none ∧ ∀ x ∈ l, ¬p x := by
  induction l generalizing b with
  | nil => simp
  | cons x xs ih => rw [List.foldl_cons, ih, hf, List.forall_mem_cons, and_assoc]

theorem nextDirty_eq_none {h : Hart} : h.nextDirty = none ↔ ∀ k, (h.slot k).valid = true → (h.slot k).dirty = false := by
  unfold Hart.nextDirty
  rw [foldl_eq_none_iff (p := fun k => (h.slot k).valid = true ∧ (h.slot k).dirty = true)]
  · simp [mem_slotNos]
  · intro b k
    by_cases hk : (h.slot k).valid = true ∧ (h.slot k).dirty = true
    · cases b with
      | none => simp [hk]
      | some j => simp only [hk.1, hk.2, Bool.and_self, if_true]; split <;> simp
    · simp only [Bool.and_eq_true, hk, if_false, not_false_eq_true, and_true]

theorem drainDirty_clean {h : Hart} (e : h.nextDirty = none) (msg : Bool) (off : Word) (n : Nat) : Hart.drainDirty msg off n h = h := by
  cases n with
  | zero => rfl
  | succ n => rw [Hart.drainDirty, e]

theorem drainDirty_dirty {h : Hart} {k : BitVec 4} (e : h.nextDirty = some k) (msg : Bool) (off : Word) (n : Nat) :
    Hart.drainDirty msg off (n + 1) h = Hart.drainDirty msg off n (h.evalSlot k msg off) := by
  rw [Hart.drainDirty, e]

theorem slot_markFor_unread {h : Hart} {ws : List Operand} {k : BitVec 4} (hr : ∀ o ∈ (h.slot k).sources, o ∉ ws) : (h.markFor ws).slot k = h.slot k := by
  have unread : (h.slot k).sources.any (fun o => (ws.filter (fun o => o != .g 0)).contains o) = false := by
    simp only [List.any_eq_false, List.contains_iff_mem, List.mem_filter]
    exact fun o ho hw => hr o ho hw.1
  unfold Hart.markFor
  simp only
  split
  · rfl
  · simp only [Hart.slot, Vector.get_eq_getElem, getElem_vmap] at unread ⊢
    rw [unread, Bool.and_false]
    rfl

/-- An evaluation leaves its own slot clean: a formula does not read its own register (05 R134). -/
theorem slot_evalSlot_same (h : Hart) (k : BitVec 4) (msg : Bool) (off : Word) : (h.evalSlot k msg off).slot k =
    { h.slot k with dirty := false, status := (h.slot k).status ||| (evalSteps h (h.slot k).dest (h.slot k).steps 0 0).fl } := by
  unfold Hart.evalSlot
  dsimp only
  rw [slot_markFor_unread, slot_count, Hart.slot_setSlot, if_pos rfl]
  rw [slot_count, Hart.slot_setSlot, if_pos rfl]
  intro o ho
  have hne := (List.mem_filter.mp ho).2
  simpa using hne

theorem markFor_g (h : Hart) (ws : List Operand) : (h.markFor ws).g = h.g := by
  unfold Hart.markFor
  simp only
  split <;> rfl

theorem raiseFlags_g (h : Hart) (fl : Flags) (r : Word) : (h.raiseFlags fl r).g = h.g := by
  unfold Hart.raiseFlags
  split
  · rfl
  · split <;> rfl

theorem count_g (h : Hart) (e n : Nat) : (h.count e n).g = h.g := by
  obtain ⟨-, -, -, hg⟩ := count_fl h e n
  exact hg

theorem count_m (h : Hart) (e n : Nat) : (h.count e n).m = h.m := by
  have kept := congrArg Hart.m (passed_count h e n).rest
  exact kept

theorem count_aflags (h : Hart) (e n : Nat) : (h.count e n).aflags = h.aflags := by
  obtain ⟨haflags, -⟩ := count_fl h e n
  exact haflags

theorem wg_aflags (h : Hart) (d : BitVec 5) (v : Word) : (h.wg d v).aflags = h.aflags := by
  unfold Hart.wg
  split <;> rfl

theorem evalSlot_rg {h : Hart} {k : BitVec 4} (hd : (h.slot k).dest ≠ 0) (msg : Bool) (off : Word) :
    (h.evalSlot k msg off).rg (h.slot k).dest = (evalSteps h (h.slot k).dest (h.slot k).steps 0 0).val := by
  unfold Hart.evalSlot
  dsimp only
  rw [rg_congr (markFor_g _ _), rg_congr (count_g _ _ _)]
  refine (rg_congr (raiseFlags_g _ _ _) _).trans ?_
  rw [Hart.rg_wg, if_pos ⟨rfl, hd⟩]

theorem evalSlot_aflags (h : Hart) (k : BitVec 4) (msg : Bool) (off : Word) :
    (h.evalSlot k msg off).aflags = h.aflags ||| (evalSteps h (h.slot k).dest (h.slot k).steps 0 0).fl.setWidth 64 := by
  unfold Hart.evalSlot
  dsimp only
  rw [(markFor_fl _ _).1, count_aflags]
  refine (raiseFlags_aflags _ _ _).trans ?_
  rw [wg_aflags]

/-- A pass over a table with one binding, which is dirty. -/
theorem evaluateBindings_single {h : Hart} {k : BitVec 4} (only : ∀ j, (h.slot j).valid = true → j = k) (hv : (h.slot k).valid = true)
    (hd : (h.slot k).dirty = true) (msg : Bool) (off : Word) : h.evaluateBindings msg off = (h.count 5 1).evalSlot k msg off := by
  have first : ∀ {t : Hart}, (∀ j, t.slot j = h.slot j) → t.nextDirty = some k := fun {t} same => by
    cases e : t.nextDirty with
    | none =>
      have clean := nextDirty_eq_none.mp e k (by rw [same]; exact hv)
      rw [same, hd] at clean
      cases clean
    | some j => rw [only j (by rw [← same j]; exact nextDirty_valid e)]
  have here : h.nextDirty = some k := first fun _ => rfl
  have after : ((h.count 5 1).evalSlot k msg off).nextDirty = none := by
    refine nextDirty_eq_none.mpr fun j hj => ?_
    have hvalid := (passed_evalSlot (h := h.count 5 1) (k := k) (by rw [slot_count]; exact hv) msg off).slots j
    rw [hvalid.1, slot_count] at hj
    rw [only j hj, slot_evalSlot_same]
  rw [Hart.evaluateBindings, here]
  exact (drainDirty_dirty (first (slot_count h 5 1)) msg off 15).trans (drainDirty_clean after msg off 15)

theorem operand_congr {h t : Hart} (hg : t.g = h.g) (hm : t.m = h.m) (o : Operand) : t.operand o = h.operand o := by
  cases o with
  | g r => exact rg_congr hg r
  | m r => simp only [Hart.operand, Hart.rm, hm]

theorem evalSteps_congr {h t : Hart} (e : ∀ o, t.operand o = h.operand o) (d : BitVec 5) (cs : List Calc) (v : Word) (fl : Flags) :
    evalSteps t d cs v fl = evalSteps h d cs v fl := by
  induction cs generalizing v fl with
  | nil => rfl
  | cons c cs ih => simp only [evalSteps, e, ih]

/-- The instruction retires on what a change of the executing hart makes of it. -/
theorem retireFrame_mapHart {s : State} {f : Hart → Hart} (hrest : (f s.hart).rest = s.hart.rest)
    (hout : (f s.hart).outst.map (fun o => { o with credit := 0 }) = s.hart.outst.map (fun o => { o with credit := 0 })) :
    RetireFrame s (s.mapHart f) := by
  refine ⟨?_, by rw [State.hart_mapHart]; exact hout⟩
  rw [State.hart_mapHart]
  exact mapHart_congr (Hart.eq_of_rest hrest)

end Sys2Proof.Machine
end

section
/-! SUPPORT. BIND (05 R138, R139): its checks, and what it leaves when they pass. -/

namespace Sys2Proof.Machine

section
variable {s : State} {d : BitVec 5} {n : BitVec 2}

/-- The words behind the instruction at the pc (05 R136). -/
def State.captured (s : State) (n : BitVec 2) : List (BitVec 32) := wordsFrom s.cc s.hart (s.hart.pc.toNat + 4) (n.toNat + 1)

theorem length_captured (s : State) (n : BitVec 2) : (s.captured n).length = n.toNat + 1 := length_wordsFrom _ _ _ _

/-- The hart that a BIND whose checks pass leaves. -/
def Hart.bound (h : Hart) (k : BitVec 4) (d : BitVec 5) (n : BitVec 2) (ws : List (BitVec 32)) : Hart :=
  (h.withBinding k d n ws).relevel.retireTo (BitVec.ofNat 64 (h.pc.toNat + 4 + 4 * (n.toNat + 1))) [] 0

variable (ho : s.hart.outst = []) (hstall : ∀ i, i < n.toNat + 1 → codeLine (s.hart.pc.toNat + 4 + 4 * i) ∉ s.cc.codeStall)
include ho hstall

/-- No captured word waits for its line: BIND goes on to its checks. -/
theorem exec_bind : exec (.bind d n) s = .next (s.guarded (s.bindChecks d (n.toNat + 1) (s.captured n)) (fun u =>
    let k := s.hart.freeSlot.getD 0
    let g := (s.hart.withBinding k d n (s.captured n)).greatestLevel
    if 8 < g.1 then u.raise ⟨cBINDDEPTH, 0, BitVec.ofNat 64 (g.1 + g.2 * 2 ^ 8)⟩
    else u.mapHart (fun _ => s.hart.bound k d n (s.captured n)))) := by
  have arrived : ¬(List.range (n.toNat + 1)).any (fun i => s.cc.codeStall.contains (codeLine (s.hart.pc.toNat + 4 + 4 * i))) = true := by
    simp only [List.any_eq_true, List.mem_range, List.contains_iff_mem, not_exists, not_and]
    exact hstall
  show execBind d n s = _
  rw [execBind, quietly_of_outst_nil ho]
  exact congrArg _ (if_neg arrived)

theorem exec_bind_binds {k : BitVec 4} (hc : (s.bindChecks d (n.toNat + 1) (s.captured n)).findSome? id = none) (hk : s.hart.freeSlot = some k)
    (hl : (s.hart.withBinding k d n (s.captured n)).greatestLevel.1 ≤ 8) :
    exec (.bind d n) s = .next (s.mapHart (fun h => h.bound k d n (s.captured n))) := by
  rw [exec_bind ho hstall, State.guarded, hc]
  simp only [hk, Option.getD_some, if_neg (Nat.not_lt.mpr hl)]
  exact congrArg _ (mapHart_congr rfl)

theorem exec_bind_raises {t : Trap} (hc : (s.bindChecks d (n.toNat + 1) (s.captured n)).findSome? id = some t) :
    exec (.bind d n) s = .next (s.raise t) := by
  rw [exec_bind ho hstall, State.guarded, hc]

end

/-! The checks (05 R138). -/

section
variable {s : State} {d : BitVec 5} {n : Nat} {ws : List (BitVec 32)}

theorem bindChecks_beyond (h : s.cc.codesz.toNat < s.hart.pc.toNat + 4 + 4 * n) :
    (s.bindChecks d n ws).findSome? id = some ⟨0x04, s.cc.codesz.setWidth 64, 0⟩ := by
  simp [State.bindChecks, h, cBOUNDS]

theorem bindChecks_dest (hc : (s.bindChecks d n ws).findSome? id = none) : d ≠ 0 := by
  rintro rfl
  have form := List.findSome?_eq_none_iff.mp hc (some ⟨cBINDFORM, 0, 0⟩) (by simp [State.bindChecks])
  cases form

variable (hin : s.hart.pc.toNat + 4 + 4 * n ≤ s.cc.codesz.toNat) (hp : ∀ i, i < n → codeLine (s.hart.pc.toNat + 4 + 4 * i) ∉ s.cc.codePoison)
include hin hp

theorem bindChecks_inside : ∃ cs, s.bindChecks d n ws = none :: none ::
    (if d = 0 then none else s.hart.slotOf d).map (fun k => ⟨cBINDFULL, 0, (1#64 <<< 56) ||| k.setWidth 64⟩) ::
    (if d = 0 then some ⟨cBINDFORM, 0, 0⟩ else (formFault d 0 true ws).map (fun r => ⟨cBINDFORM, 0, BitVec.ofNat 64 (r.1 * 2 ^ 8 + r.2)⟩)) :: cs := by
  have clean : (List.range n).find? (fun i => s.cc.codePoison.contains (codeLine (s.hart.pc.toNat + 4 + 4 * i))) = none := by
    simp only [List.find?_eq_none, List.mem_range, List.contains_iff_mem]
    exact hp
  simp only [State.bindChecks, if_neg (Nat.not_lt.mpr hin), clean, Option.map_none]
  exact ⟨_, rfl⟩

theorem bindChecks_g0 : (s.bindChecks 0 n ws).findSome? id = some ⟨0x0A, 0, 0⟩ := by
  obtain ⟨cs, e⟩ := bindChecks_inside (d := 0) (ws := ws) hin hp
  rw [e]
  rfl

theorem bindChecks_bound {k : BitVec 4} (hd : d ≠ 0) (hk : s.hart.slotOf d = some k) :
    (s.bindChecks d n ws).findSome? id = some ⟨0x0D, 0, (1#64 <<< 56) ||| k.setWidth 64⟩ := by
  obtain ⟨cs, e⟩ := bindChecks_inside (d := d) (ws := ws) hin hp
  rw [e, if_neg hd, hk]
  rfl

end

/-! The hart behind a BIND (05 R139). -/

theorem slot_bound_table (h : Hart) (k : BitVec 4) (d : BitVec 5) (n : BitVec 2) (ws : List (BitVec 32)) (j : BitVec 4) :
    ∃ l, (h.withBinding k d n ws).relevel.slot j = { (h.withBinding k d n ws).slot j with level := l } :=
  (relevelled_relevel (h.withBinding k d n ws)).slots j

theorem rebinds_bound_table (h : Hart) (k : BitVec 4) (d : BitVec 5) (n : BitVec 2) (ws : List (BitVec 32)) :
    Rebinds h (h.withBinding k d n ws).relevel :=
  (rebinds_setSlot h k _).trans (relevelled_relevel (h.withBinding k d n ws)).table

theorem writeAll_nil (h : Hart) : h.writeAll [] = h := rfl

theorem hartWrote_retireTo_nil (h : Hart) (next : Word) : HartWrote h (h.retireTo next [] 0) [] next 0 := hartWrote_retireTo h [] [] next 0

/-- BIND retires. -/
theorem bound_retires (h : Hart) (k : BitVec 4) (d : BitVec 5) (n : BitVec 2) (ws : List (BitVec 32)) :
    (h.bound k d n ws).rest = h.rest ∧
    (h.bound k d n ws).outst.map (fun o => { o with credit := 0 }) = h.outst.map (fun o => { o with credit := 0 }) ∧
    (h.bound k d n ws).pc = BitVec.ofNat 64 (h.pc.toNat + 4 + 4 * (n.toNat + 1)) := by
  obtain ⟨trest, tout, -⟩ := (rebinds_bound_table h k d n ws).facts
  rw [Hart.bound]
  obtain ⟨hrest, hout, hpc, -⟩ := hartWrote_retireTo_nil (h.withBinding k d n ws).relevel (BitVec.ofNat 64 (h.pc.toNat + 4 + 4 * (n.toNat + 1)))
  rw [tout] at hout
  exact ⟨hrest.trans trest, hout, hpc⟩

/-- BIND captures its words. -/
theorem bound_captures (h : Hart) (k : BitVec 4) (d : BitVec 5) (n : BitVec 2) (ws : List (BitVec 32)) :
    ((h.bound k d n ws).slot k).valid = true ∧ ((h.bound k d n ws).slot k).dest = d ∧ ((h.bound k d n ws).slot k).nm1 = n ∧
    ((h.bound k d n ws).slot k).words = packWords ws := by
  obtain ⟨l, hl⟩ := slot_bound_table h k d n ws k
  rw [slot_withBinding, if_pos rfl] at hl
  have same : ((h.bound k d n ws).slot k).capture = _ := capture_retireTo (h.withBinding k d n ws).relevel _ [] 0 k
  rw [hl] at same
  simp only [Slot.capture, Slot.mk.injEq, true_and] at same
  obtain ⟨hvalid, hdest, hnm1, -, hwords⟩ := same
  exact ⟨hvalid, hdest, hnm1, hwords⟩

/-- BIND changes bound registers alone. -/
theorem bound_rg {h : Hart} {k : BitVec 4} {d r : BitVec 5} (n : BitVec 2) (ws : List (BitVec 32)) (hr : r ≠ d) (hs : h.slotOf r = none) :
    (h.bound k d n ws).rg r = h.rg r := by
  have unbound : (h.withBinding k d n ws).relevel.slotOf r = none := by
    refine slotOf_eq_none.mpr fun j => ?_
    obtain ⟨l, hl⟩ := slot_bound_table h k d n ws j
    rw [hl, slot_withBinding]
    split
    · exact fun _ => hr.symm
    · exact slotOf_eq_none.mp hs j
  rw [Hart.bound]
  have kept := (hartWrote_retireTo_nil (h.withBinding k d n ws).relevel (BitVec.ofNat 64 (h.pc.toNat + 4 + 4 * (n.toNat + 1)))).regs r (.inr unbound)
  obtain ⟨-, -, -, tg, -⟩ := (rebinds_bound_table h k d n ws).facts
  rw [writeAll_nil] at kept
  exact kept.trans (rg_congr tg r)

/-- An instruction that writes no register and sets no flag lets the table's pass run. -/
theorem retireTo_nil (h : Hart) (next : Word) : h.retireTo next [] 0 = ((h.count 2 1).evaluateBindings false h.pc).goOn next := by
  rw [retireTo_goOn]
  simp [Hart.raiseFlags, Hart.markFor]

/-- Such an instruction evaluates a dirty binding that stands alone. -/
theorem retireTo_nil_single {x : Hart} {k : BitVec 4} (only : ∀ j, (x.slot j).valid = true → j = k) (hv : (x.slot k).valid = true)
    (hd : (x.slot k).dirty = true) (hdest : (x.slot k).dest ≠ 0) (next : Word) :
    let v := evalSteps x (x.slot k).dest (x.slot k).steps 0 0
    let t := x.retireTo next [] 0
    t.rg (x.slot k).dest = v.val ∧ t.slot k = { x.slot k with dirty := false, status := (x.slot k).status ||| v.fl } ∧
      t.aflags = x.aflags ||| v.fl.setWidth 64 := by
  intro v t
  have hslot : ((x.count 2 1).count 5 1).slot k = x.slot k := by rw [slot_count, slot_count]
  have hm : ((x.count 2 1).count 5 1).m = x.m := by rw [count_m, count_m]
  have value : evalSteps ((x.count 2 1).count 5 1) (x.slot k).dest (x.slot k).steps 0 0 = v :=
    evalSteps_congr (operand_congr (by rw [count_g, count_g]) hm) _ _ _ _
  have evaluated : (x.count 2 1).evaluateBindings false x.pc = ((x.count 2 1).count 5 1).evalSlot k false x.pc :=
    evaluateBindings_single (fun j hj => only j (by rwa [slot_count] at hj)) (by rw [slot_count, hv]) (by rw [slot_count, hd]) false x.pc
  have register := evalSlot_rg (h := (x.count 2 1).count 5 1) (k := k) (by rwa [hslot]) false x.pc
  have slots := slot_evalSlot_same ((x.count 2 1).count 5 1) k false x.pc
  have flags := evalSlot_aflags ((x.count 2 1).count 5 1) k false x.pc
  rw [hslot, value, ← evaluated] at register slots flags
  obtain ⟨-, -, -, -, goRg, goFlags, -, goBinds⟩ := goOn_facts ((x.count 2 1).evaluateBindings false x.pc) next
  simp only [t, retireTo_nil, goRg, goFlags, slot_congr goBinds, slots, flags, count_aflags, and_true]
  exact register

/-- The first evaluation of a binding that stands alone. -/
theorem bound_evaluates {h : Hart} (u : h.unbound) (k : BitVec 4) {d : BitVec 5} (hd : d ≠ 0) {n : BitVec 2} {ws : List (BitVec 32)}
    (hn : ws.length = n.toNat + 1) :
    let v := evalSteps h d (stepsOf ws) 0 0
    (h.bound k d n ws).rg d = v.val ∧ ((h.bound k d n ws).slot k).status = v.fl ∧ ((h.bound k d n ws).slot k).dirty = false ∧
      (h.bound k d n ws).aflags = h.aflags ||| v.fl.setWidth 64 := by
  intro v
  obtain ⟨-, -, -, tg, tm, taflags, -⟩ := (rebinds_bound_table h k d n ws).facts
  obtain ⟨l, hl⟩ := slot_bound_table h k d n ws k
  rw [slot_withBinding, if_pos rfl] at hl
  have only : ∀ j, ((h.withBinding k d n ws).relevel.slot j).valid = true → j = k := fun j hj => by
    obtain ⟨m, hm⟩ := slot_bound_table h k d n ws j
    rw [hm, slot_withBinding] at hj
    by_contra hne
    rw [if_neg hne] at hj
    exact absurd hj (by simp [u j])
  rw [Hart.bound]
  generalize (h.withBinding k d n ws).relevel = x at tg tm taflags hl only
  have dest : (x.slot k).dest = d := by rw [hl]
  have steps : (x.slot k).steps = stepsOf ws := by
    rw [Slot.steps, formula_packWords (ws := ws) (by rw [hl]) (by rw [hl]; exact hn)]
  have value : evalSteps x (x.slot k).dest (x.slot k).steps 0 0 = v := by
    rw [dest, steps]
    exact evalSteps_congr (operand_congr tg tm) d (stepsOf ws) 0 0
  obtain ⟨register, slots, flags⟩ := retireTo_nil_single only (by rw [hl]) (by rw [hl]) (by rw [dest]; exact hd)
    (BitVec.ofNat 64 (h.pc.toNat + 4 + 4 * (n.toNat + 1)))
  rw [value] at register slots flags
  rw [dest] at register
  rw [slots, flags, taflags]
  refine ⟨register, ?_, rfl, rfl⟩
  rw [hl]
  exact BitVec.zero_or

/-- Settles O19: a BIND whose checks pass makes the hart `Hart.bound`, and the first check that fails is its trap. -/
theorem bindCaptures : Obligations.BindCaptures := by
  unfold Obligations.BindCaptures
  refine ⟨fun s d n k => ?_, fun s d n k ready => ?_⟩
  · intro c pc ws ho hstall hchecks hfree hlevel
    obtain ⟨hrest, hout, hpc⟩ := bound_retires s.hart k d n ws
    obtain ⟨hvalid, hdest, hnm1, hwords⟩ := bound_captures s.hart k d n ws
    refine ⟨_, exec_bind_binds ho hstall hchecks hfree hlevel, retireFrame_mapHart hrest hout, ?_⟩
    rw [State.hart_mapHart]
    exact ⟨hpc, hvalid, hdest, hnm1, hwords, fun r hr hs => bound_rg n ws hr hs,
      fun u => bound_evaluates u k (bindChecks_dest hchecks) (length_captured s n)⟩
  · intro c pc hstall
    have raises : ∀ {t : Trap}, (s.bindChecks d c (s.captured n)).findSome? id = some t → Traps (.bind d n) s t.cause t.addr t.info :=
      fun hc => traps_of_raise ready (exec_bind_raises ready.1 hstall hc)
    refine ⟨fun hout => raises (bindChecks_beyond hout), fun hin hp => ⟨fun hd => ?_, fun hd hk => raises (bindChecks_bound hin hp hd hk)⟩⟩
    subst hd
    exact raises (bindChecks_g0 hin hp)

end Sys2Proof.Machine
end

section
/-! SUPPORT. UNBIND, BSTAT and BCLR (05 R149 to R151). -/

namespace Sys2Proof.Machine

/-! UNBIND (R149). -/

/-- The binding table of h without the binding of register a. -/
def Hart.unbind (h : Hart) (a : BitVec 5) : Hart :=
  match (if a = 0 then none else h.slotOf a) with
  | some k => (h.setSlot k {}).relevel
  | none => h

theorem unbind_bound {h : Hart} {a : BitVec 5} {k : BitVec 4} (ha : a ≠ 0) (hk : h.slotOf a = some k) : h.unbind a = (h.setSlot k {}).relevel := by
  rw [Hart.unbind, if_neg ha, hk]

theorem unbind_g0 (h : Hart) : h.unbind 0 = h := rfl

theorem unbind_unbound {h : Hart} {a : BitVec 5} (hk : h.slotOf a = none) : h.unbind a = h := by
  rw [Hart.unbind, hk, ite_self]

theorem rebinds_unbind (h : Hart) (a : BitVec 5) : Rebinds h (h.unbind a) := by
  unfold Hart.unbind
  split
  · exact (rebinds_setSlot h _ _).trans (relevelled_relevel _).table
  · exact ⟨h.binds, rfl⟩

theorem exec_unbind {s : State} (ho : s.hart.outst = []) (a : BitVec 5) :
    exec (.unbind a) s = .next (s.mapHart (fun h => ((h.unbind a).count 2 1).goOn (h.pc + 4))) := by
  show execUnbind a s = _
  rw [execUnbind, quietly_of_outst_nil ho]
  rfl

/-- What UNBIND leaves of its hart. -/
theorem unbind_retires (h : Hart) (a : BitVec 5) :
    let t := ((h.unbind a).count 2 1).goOn (h.pc + 4)
    t.rest = h.rest ∧ t.outst.map (fun o => { o with credit := 0 }) = h.outst.map (fun o => { o with credit := 0 }) ∧ t.pc = h.pc + 4 ∧
      t.block = none ∧ (∀ r, t.rg r = h.rg r) ∧ t.aflags = h.aflags ∧ t.arec = h.arec ∧ t.binds = (h.unbind a).binds := by
  obtain ⟨trest, tout, -, tg, -, taflags, tarec⟩ := (rebinds_unbind h a).facts
  obtain ⟨gorest, goout, gopc, goblock, gorg, goaflags, goarec, gobinds⟩ := goOn_facts ((h.unbind a).count 2 1) (h.pc + 4)
  obtain ⟨caflags, carec, cbinds, cg⟩ := count_fl (h.unbind a) 2 1
  have counted := passed_count (h.unbind a) 2 1
  refine ⟨gorest.trans (counted.rest.trans trest), goout.trans ?_, gopc, goblock, fun r => (gorg r).trans (rg_congr (cg.trans tg) r),
    goaflags.trans (caflags.trans taflags), goarec.trans (carec.trans tarec), gobinds.trans cbinds⟩
  rw [counted.same.2.1, tout]

theorem slot_unbind {h : Hart} {a : BitVec 5} {k : BitVec 4} (ha : a ≠ 0) (hk : h.slotOf a = some k) (j : BitVec 4) :
    ∃ l, (h.unbind a).slot j = if j = k then { level := l } else { h.slot j with level := l } := by
  obtain ⟨l, hl⟩ := (relevelled_relevel (h.setSlot k {})).slots j
  refine ⟨l, ?_⟩
  rw [unbind_bound ha hk, hl, Hart.slot_setSlot]
  split <;> rfl

/-- UNBIND of a register that is not bound only retires. -/
theorem retires_unbind {s : State} (ho : s.hart.outst = []) {a : BitVec 5} (hu : s.hart.unbind a = s.hart) : Retires (.unbind a) s [] 0 := by
  obtain ⟨hrest, hout, hpc, hblock, hrg, haflags, harec, hbinds⟩ := unbind_retires s.hart a
  refine ⟨_, exec_unbind ho a, wrote_mapHart ⟨hrest, hout, hpc, hblock, fun r _ => hrg r, fun _ => ⟨?_, ?_, ?_⟩⟩⟩
  · rw [haflags]; simp
  · rw [harec]; simp [arecAfter]
  · rw [hbinds, hu]

/-! BSTAT (R150). -/

/-- What BSTAT reads for register a. -/
def Hart.bindWord (h : Hart) (a : BitVec 5) : Word :=
  if a = 0 then h.bindSummary
  else match h.slotOf a with
    | some k => bindStatus k (h.slot k)
    | none => 0

theorem retires_bstat {s : State} (ho : s.hart.outst = []) {d : BitVec 5} (w : s.writable d) (a : BitVec 5) :
    Retires (.bstat d a) s [(d, s.hart.bindWord a)] 0 := by
  refine retires_compute (r := .pure (s.hart.bindWord a)) w ?_ rfl
  show execBstat d a s = _
  rw [execBstat, quietly_of_outst_nil ho]
  rfl

theorem retires_bstat_bound {s : State} (ho : s.hart.outst = []) {d a : BitVec 5} (w : s.writable d) (ha : a ≠ 0) {k : BitVec 4}
    (hk : s.hart.slotOf a = some k) : Retires (.bstat d a) s [(d, bindStatus k (s.hart.slot k))] 0 := by
  have read := retires_bstat ho w a
  rwa [Hart.bindWord, if_neg ha, hk] at read

theorem retires_bstat_unbound {s : State} (ho : s.hart.outst = []) {d a : BitVec 5} (w : s.writable d) (ha : a ≠ 0)
    (hk : s.hart.slotOf a = none) : Retires (.bstat d a) s [(d, 0)] 0 := by
  have read := retires_bstat ho w a
  rwa [Hart.bindWord, if_neg ha, hk] at read

/-- The slots in use. -/
def Hart.used (h : Hart) : List (BitVec 4) := slotNos.filter (fun k => (h.slot k).valid)

theorem mem_used {h : Hart} {k : BitVec 4} : k ∈ h.used ↔ (h.slot k).valid = true := by
  simp [Hart.used, mem_slotNos]

theorem length_used_le (h : Hart) : h.used.length ≤ 16 := List.length_filter_le _ slotNos

theorem foldl_add_two_pow (l : List (BitVec 4)) (m : Nat) : l.foldl (fun m k => m + 2 ^ k.toNat) m = m + ((l.map BitVec.toNat).map (2 ^ ·)).sum := by
  induction l generalizing m with
  | nil => simp
  | cons k ks ih => rw [List.foldl_cons, ih]; simp [Nat.add_assoc]

/-- The slots in use as a bit mask. -/
def Hart.usedMask (h : Hart) : Nat := h.used.foldl (fun m k => m + 2 ^ k.toNat) 0

theorem testBit_usedMask (h : Hart) (i : Nat) : h.usedMask.testBit i = true ↔ ∃ k ∈ h.used, k.toNat = i := by
  have rising : (h.used.map BitVec.toNat).SortedLT := by
    have all : (slotNos.map BitVec.toNat).SortedLT := by decide
    exact (all.pairwise.sublist (List.filter_sublist.map _)).sortedLT
  rw [Hart.usedMask, foldl_add_two_pow, Nat.zero_add, ← Nat.mem_bitIndices, Nat.bitIndices_sum_map_two_pow rising, List.mem_map]

theorem usedMask_lt (h : Hart) : h.usedMask < 2 ^ 16 := by
  refine Nat.lt_pow_two_of_testBit _ fun i hi => Bool.eq_false_iff.mpr fun ht => ?_
  obtain ⟨k, -, hk⟩ := (testBit_usedMask h i).mp ht
  have := k.isLt
  omega

/-- The flags of all bindings. -/
def Hart.usedFlags (h : Hart) : Flags := h.used.foldl (fun m k => m ||| (h.slot k).status) 0

theorem getLsbD_foldl_or (l : List (BitVec 4)) (f : BitVec 4 → Flags) (m : Flags) (b : Nat) :
    (l.foldl (fun m k => m ||| f k) m).getLsbD b = true ↔ m.getLsbD b = true ∨ ∃ k ∈ l, (f k).getLsbD b = true := by
  induction l generalizing m with
  | nil => simp
  | cons k ks ih => rw [List.foldl_cons, ih]; simp [or_assoc]

theorem getLsbD_usedFlags (h : Hart) (b : Nat) :
    h.usedFlags.getLsbD b = true ↔ ∃ j : BitVec 4, (h.slot j).valid = true ∧ (h.slot j).status.getLsbD b = true := by
  rw [Hart.usedFlags, getLsbD_foldl_or]
  simp [mem_used]

theorem bindSummary_toNat (h : Hart) :
    h.bindSummary.toNat = (16 - h.used.length) * 2 ^ 24 + h.usedFlags.toNat * 2 ^ 16 + h.usedMask := by
  have hmask := usedMask_lt h
  have hflags := h.usedFlags.isLt
  refine (BitVec.toNat_ofNat _ _).trans (Nat.mod_eq_of_lt ?_)
  show (16 - h.used.length) * 2 ^ 24 + h.usedFlags.toNat * 2 ^ 16 + h.usedMask < 2 ^ 64
  omega

theorem bindSummary_lt (h : Hart) : h.bindSummary.toNat < 2 ^ 29 := by
  have hmask := usedMask_lt h
  have hflags := h.usedFlags.isLt
  rw [bindSummary_toNat]
  omega

theorem bindSummary_free (h : Hart) : bits h.bindSummary.toNat 28 24 + h.used.length = 16 := by
  have hmask := usedMask_lt h
  have hflags := h.usedFlags.isLt
  have hused := length_used_le h
  rw [bits, Nat.shiftRight_eq_div_pow, bindSummary_toNat]
  omega

theorem bindSummary_slot (h : Hart) (j : BitVec 4) : h.bindSummary.getLsbD j.toNat = (h.slot j).valid := by
  have hlow : h.bindSummary.toNat % 2 ^ 16 = h.usedMask := by
    have hmask := usedMask_lt h
    rw [bindSummary_toNat]
    omega
  have hbit : h.bindSummary.toNat.testBit j.toNat = h.usedMask.testBit j.toNat := by
    rw [← hlow, Nat.testBit_mod_two_pow, decide_eq_true (show j.toNat < 16 from j.isLt), Bool.true_and]
  have hmem : (∃ k ∈ h.used, k.toNat = j.toNat) ↔ (h.slot j).valid = true :=
    ⟨fun ⟨k, hk, e⟩ => mem_used.mp (BitVec.eq_of_toNat_eq e ▸ hk), fun hv => ⟨j, mem_used.mpr hv, rfl⟩⟩
  exact hbit.trans (Bool.eq_iff_iff.mpr ((testBit_usedMask h j.toNat).trans hmem))

theorem bindSummary_flag (h : Hart) {b : Nat} (hb : b < 8) : h.bindSummary.getLsbD (16 + b) = true ↔
    ∃ j : BitVec 4, (h.slot j).valid = true ∧ (h.slot j).status.getLsbD b = true := by
  have hmid : h.bindSummary.toNat / 2 ^ 16 % 2 ^ 8 = h.usedFlags.toNat := by
    have hmask := usedMask_lt h
    have hflags := h.usedFlags.isLt
    rw [bindSummary_toNat]
    omega
  have hbit : h.bindSummary.toNat.testBit (16 + b) = h.usedFlags.toNat.testBit b := by
    rw [← hmid, Nat.testBit_mod_two_pow, decide_eq_true hb, Bool.true_and, Nat.testBit_div_two_pow, Nat.add_comm]
  rw [← getLsbD_usedFlags]
  exact Bool.eq_iff_iff.mp hbit

/-! BCLR (R151). -/

/-- The hart without the STATUS of the binding of a, or of all (R151). -/
def Hart.clearStatus (h : Hart) (a : BitVec 5) : Hart :=
  { h with binds := h.binds.map (fun sl => if a = 0 ∨ (sl.valid = true ∧ sl.dest = a) then { sl with status := 0 } else sl) }

theorem exec_bclr {s : State} (ho : s.hart.outst = []) (a : BitVec 5) : exec (.bclr a) s = .next (s.mapHart (fun h => h.clearStatus a)).retire := by
  have same : ∀ h : Hart, { h with binds := vmap (fun sl => if a = 0 || (sl.valid && sl.dest == a) then { sl with status := 0 } else sl) h.binds } =
      h.clearStatus a := fun h => by simp [Hart.clearStatus, vmap_eq]
  show execBclr a s = _
  rw [execBclr, quietly_of_outst_nil ho]
  simp only [same]

theorem wrote_bclr (s : State) (a : BitVec 5) :
    Wrote (s.mapHart (fun h => h.clearStatus a)) (s.mapHart (fun h => h.clearStatus a)).retire [] (s.hart.pc + 4) 0 := by
  have hpc : (s.mapHart (fun h => h.clearStatus a)).hart.pc = s.hart.pc := by rw [State.hart_mapHart]; rfl
  rw [← hpc]
  exact wrote_retire (s.mapHart (fun h => h.clearStatus a)) 4

theorem bclr_retires (s : State) (a : BitVec 5) : RetireFrame s (s.mapHart (fun h => h.clearStatus a)).retire := by
  have once : (s.mapHart (fun h => h.clearStatus a)).retire = s.mapHart (fun h => (h.clearStatus a).retire 4 [] 0) :=
    State.mapHart_mapHart s _ _
  obtain ⟨hrest, hout, -⟩ := hartWrote_retireTo_nil (s.hart.clearStatus a) ((s.hart.clearStatus a).pc + 4)
  rw [once]
  exact retireFrame_mapHart hrest hout

/-- Settles O20: UNBIND is `Hart.unbind`, BSTAT reads `Hart.bindWord`, and BCLR is a retirement behind `Hart.clearStatus`. -/
theorem bindingManagement : Obligations.BindingManagement := by
  unfold Obligations.BindingManagement
  refine ⟨fun s d a ho => ⟨?_, fun w => ⟨_, retires_bstat ho w a⟩, ⟨_, exec_bclr ho a, bclr_retires s a, (wrote_bclr s a).pc⟩⟩,
    fun s d a k ho => ⟨fun ha hk => ⟨?_, fun w => retires_bstat_bound ho w ha hk⟩,
      fun ha hk => ⟨retires_unbind ho (unbind_unbound hk), fun w => retires_bstat_unbound ho w ha hk⟩,
      retires_unbind ho (unbind_g0 s.hart), fun w => ?_, ⟨_, exec_bclr ho a, wrote_bclr s a⟩⟩⟩
  · obtain ⟨hrest, hout, hpc, -, hrg, haflags, harec, -⟩ := unbind_retires s.hart a
    refine ⟨_, exec_unbind ho a, retireFrame_mapHart hrest hout, ?_⟩
    rw [State.hart_mapHart]
    exact ⟨hpc, hrg, haflags, harec⟩
  · obtain ⟨hrest, hout, hpc, -, hrg, -, -, hbinds⟩ := unbind_retires s.hart a
    refine ⟨_, exec_unbind ho a, retireFrame_mapHart hrest hout, ?_⟩
    rw [State.hart_mapHart]
    simp only [slot_congr hbinds]
    refine ⟨hpc, ?_, hrg, fun j hj => ?_⟩
    · obtain ⟨l, hl⟩ := slot_unbind ha hk k
      rw [hl, if_pos rfl]
    · obtain ⟨l, hl⟩ := slot_unbind ha hk j
      rw [hl, if_neg hj]
      exact ⟨rfl, rfl, rfl⟩
  · exact ⟨_, retires_bstat ho w 0, bindSummary_lt s.hart, bindSummary_free s.hart, bindSummary_slot s.hart, fun b hb => bindSummary_flag s.hart hb⟩

end Sys2Proof.Machine
end

section
/-! SUPPORT. Instructions that only retire, that take a trap behind their retirement, and that return from one (06 R164 to R173). -/

namespace Sys2Proof.Machine

/-- An instruction that with nothing outstanding only retires. -/
theorem retires_quietly {i : Instr} {s : State} (ho : s.hart.outst = []) (e : exec i s = .next (s.quietly (fun s => s.retire))) :
    Retires i s [] 0 :=
  ⟨s.retire, by rw [e, quietly_of_outst_nil ho], wrote_retire s 4⟩

/-! A trap taken by the executing hart (R173). -/

/-- The hart that enters its handler for a trap: a step of the debug path ends. -/
theorem enter_trap (h : Hart) (cause : BitVec 8) (xpc addr info : Word) : h.enter false cause xpc addr info =
    { h with xcause := BitVec.ofNat 64 (b2n (h.mode == .supervisor) * 2 ^ 63 + cause.toNat), xpc := xpc &&& 0x1FFFC, xaddr := addr, xinfo := info,
             mode := .supervisor, ran := h.ran ||| 2, pc := h.xvec, pastEnd := false, block := none, wantsQ := none, stepArm := false,
             ibkSuppress := false, halted := h.halted || h.stepOnce, stepOnce := false } := by
  simp [Hart.enter, b2n]

/-- A hart that nothing stops, and whose handler lies in the code region, enters it. -/
theorem enterTrap_enters {s : State} (hs : s.hart.stopping = false) (hx : s.hart.xvec.toNat < s.cc.codesz.toNat) (t : Trap) (xpc : Word) :
    s.enterTrap s.cur.core s.cur.hart false t xpc = s.mapHart (fun h => h.enter false t.cause xpc t.addr t.info) := by
  have stays : (s.hartOf s.cur.core s.cur.hart).stopping = false := hs
  have handler : ¬(s.core s.cur.core).codesz.toNat ≤ (s.hartOf s.cur.core s.cur.hart).xvec.toNat := Nat.not_le.mpr hx
  simp only [State.enterTrap, stays, Bool.false_eq_true, if_false, handler, State.mapHart]

/-- A retirement leaves alone what the entry of a trap looks at. -/
theorem Wrote.keeps_handler {s t : State} {ws : List (BitVec 5 × Word)} {next : Word} {fl : Flags} (w : Wrote s t ws next fl) :
    t.hart.stopping = s.hart.stopping ∧ t.hart.xvec = s.hart.xvec ∧ t.cc.codesz = s.cc.codesz ∧ t.hart.mode = s.hart.mode := by
  obtain ⟨frame, -⟩ := w.frame
  rw [frame, State.hart_mapHart, State.cc_mapHart]
  exact ⟨rfl, rfl, rfl, rfl⟩

/-- A trap that follows a retirement. -/
theorem enterTrap_of_wrote {s t : State} {ws : List (BitVec 5 × Word)} {next : Word} {fl : Flags} (r : s.trapReady) (w : Wrote s t ws next fl)
    (x : Trap) (xpc : Word) :
    t.enterTrap t.cur.core t.cur.hart false x xpc = t.mapHart (fun h => h.enter false x.cause xpc x.addr x.info) := by
  obtain ⟨-, hstop, hxvec⟩ := r
  obtain ⟨stop, xvec, codesz, -⟩ := w.keeps_handler
  exact enterTrap_enters (by rw [stop, hstop]) (by rw [xvec, codesz]; exact hxvec) x xpc

/-- A change of the executing hart that leaves alone what a trap waits for. -/
theorem trapReady_mapHart {s : State} {f : Hart → Hart} (r : s.trapReady) (hout : (f s.hart).outst = s.hart.outst)
    (hstop : (f s.hart).stopping = s.hart.stopping) (hxvec : (f s.hart).xvec = s.hart.xvec) : (s.mapHart f).trapReady := by
  simpa only [State.trapReady, State.hart_mapHart, State.cc_mapHart, Core.modHart_codesz, hout, hstop, hxvec] using r

/-! TRAP, BRK and undefined words (R169; 02 R43). -/

theorem exec_trap {s : State} (r : s.trapReady) (k : BitVec 12) :
    exec (.trap k) s = .next (s.retire.mapHart (fun h => h.enter false 0x18 (s.hart.pc + 4) 0 (k.setWidth 64))) := by
  show execTrap k s = _
  rw [execTrap, quietly_of_outst_nil r.1]
  exact congrArg Host.Outcome.next (enterTrap_of_wrote r (wrote_retire s 4) ⟨0x18, 0, k.setWidth 64⟩ _)

theorem traps_brk {s : State} (r : s.trapReady) (k : BitVec 12) : Traps (.brk k) s 0x15 0 (k.setWidth 64) := by
  refine traps_of_raise (t := ⟨cBREAK, 0, k.setWidth 64⟩) r ?_
  show execBrk k s = _
  rw [execBrk, quietly_of_outst_nil r.1]

theorem traps_undefinedEncoding {s : State} (r : s.trapReady) (w : BitVec 32) : Traps (.undefinedEncoding w) s 0x01 0 (w.setWidth 64) :=
  traps_of_raise (t := ⟨cILLEGAL, 0, w.setWidth 64⟩) r rfl

/-! ERET and ERET.S (R170, R178). -/

/-- Counting an event changes the counters and their note of wraps alone. -/
theorem countIn_eq (h : Hart) (e n k : Nat) (hk : k < 4) : ∃ c o, h.countIn e n k hk = { h with cnt := c, ovf := o } := by
  unfold Hart.countIn
  split
  · exact ⟨_, _, rfl⟩
  · exact ⟨h.cnt, h.ovf, rfl⟩

theorem count_eq (h : Hart) (e n : Nat) : ∃ c o, h.count e n = { h with cnt := c, ovf := o } := by
  unfold Hart.count
  split
  · exact ⟨h.cnt, h.ovf, rfl⟩
  · obtain ⟨_, _, e0⟩ := countIn_eq h e n 0 (by decide)
    obtain ⟨_, _, e1⟩ := countIn_eq (h.countIn e n 0 (by decide)) e n 1 (by decide)
    obtain ⟨_, _, e2⟩ := countIn_eq ((h.countIn e n 0 (by decide)).countIn e n 1 (by decide)) e n 2 (by decide)
    obtain ⟨c, o, e3⟩ := countIn_eq (((h.countIn e n 0 (by decide)).countIn e n 1 (by decide)).countIn e n 2 (by decide)) e n 3 (by decide)
    exact ⟨c, o, by rw [e3, e2, e1, e0]⟩

/-- The hart that returns from its handler. -/
theorem eret_eq (h : Hart) (step : Bool) : h.eret step =
    { h.count 2 1 with mode := if h.xcause.msb then .supervisor else .program,
                       ran := h.ran ||| (if h.xcause.msb then modeBit .supervisor else modeBit .program), pc := h.xpc, ibkSuppress := true, block := none,
                       stepArm := step, stepPend := h.stepPend || h.stepArm, halted := h.halted || h.stepOnce, stepOnce := false } := by
  obtain ⟨c, o, e⟩ := count_eq h 2 1
  simp only [Hart.eret, Hart.stepDone, e]
  cases h.xcause.msb <;> rfl

/-- In supervisor mode, with its target in the code region, a return is `Hart.eret`. -/
theorem doEret_returns {s : State} (ho : s.hart.outst = []) (hm : s.hart.mode = .supervisor) (hx : s.hart.xpc.toNat < s.cc.codesz.toNat)
    (step : Bool) : s.doEret step = s.mapHart (fun h => h.eret step) := by
  have mode : ¬s.hart.mode = .program := by rw [hm]; decide
  simp only [State.doEret, quietly_of_outst_nil ho, if_neg mode, if_neg (Nat.not_le.mpr hx), guarded_none, guarded_nil]

theorem doEret_program {s : State} (ho : s.hart.outst = []) (hm : s.hart.mode = .program) (step : Bool) : s.doEret step = s.raise s.priv := by
  simp only [State.doEret, quietly_of_outst_nil ho, if_pos hm, guarded_some]

theorem doEret_outside {s : State} (ho : s.hart.outst = []) (hm : s.hart.mode = .supervisor) (hx : s.cc.codesz.toNat ≤ s.hart.xpc.toNat)
    (step : Bool) : s.doEret step = s.raise ⟨cBOUNDS, s.hart.xpc, 0⟩ := by
  have mode : ¬s.hart.mode = .program := by rw [hm]; decide
  simp only [State.doEret, quietly_of_outst_nil ho, if_neg mode, if_pos hx, guarded_none, guarded_some]

/-- ERET and ERET.S are one return, with or without a STEP armed. -/
theorem exec_eret (s : State) : exec .eret s = .next (s.doEret false) ∧ exec .eretS s = .next (s.doEret true) := ⟨rfl, rfl⟩

/-- Settles O15: a trap behind its retirement is `enterTrap_of_wrote`, and a return is `Hart.eret` or the trap of the first check that fails. -/
theorem trapsAndReturns : Obligations.TrapsAndReturns := by
  unfold Obligations.TrapsAndReturns
  refine ⟨fun s k w r => ⟨⟨_, wrote_retire s 4, ?_⟩, traps_brk r k, traps_undefinedEncoding r w⟩,
    fun s ho => ⟨fun hm hx => ?_, fun hm hx r => ?_, fun hm r => ?_⟩⟩
  · rw [exec_trap r]
    simp only [enter_trap]
    rfl
  · obtain ⟨plain, stepping⟩ := exec_eret s
    rw [plain, stepping, doEret_returns ho hm hx, doEret_returns ho hm hx]
    simp only [eret_eq, and_self]
  · obtain ⟨plain, stepping⟩ := exec_eret s
    rw [doEret_outside ho hm hx] at plain stepping
    exact ⟨traps_of_raise r plain, traps_of_raise r stepping⟩
  · obtain ⟨plain, stepping⟩ := exec_eret s
    rw [doEret_program ho hm] at plain stepping
    exact ⟨traps_of_raise r plain, traps_of_raise r stepping⟩

/-! SLEEP and HINT (R171; 02 R56, R57). -/

/-- A prefetch of a partitioned address asks for nothing. -/
theorem prefetch_partitioned {s : State} {a : Word} (h : a.msb = true) (core : Bool) : s.prefetch core a = s := by
  simp [State.prefetch, h]

theorem retires_hint_noPrefetch {k : BitVec 6} (h1 : k ≠ 1) (h2 : k ≠ 2) (s : State) (p : BitVec 20) : Retires (.hint k p) s [] 0 := by
  refine ⟨s.retire, ?_, wrote_retire s 4⟩
  show execHint k p s = _
  simp only [execHint, h1, h2, false_and, if_false]

theorem retires_hint_partitioned {s : State} {p : BitVec 20} (h : (s.rg (BitVec.ofNat 5 (p.toNat / 2 ^ 15)) + wrap (toS p.toNat 15 * 128)).msb = true)
    (k : BitVec 6) : Retires (.hint k p) s [] 0 := by
  refine ⟨s.retire, ?_, wrote_retire s 4⟩
  show execHint k p s = _
  simp only [execHint, prefetch_partitioned h, ite_self]

/-- Settles O16: SLEEP and a HINT that prefetches nothing only retire. -/
theorem noEffectInstructions : Obligations.NoEffectInstructions := by
  unfold Obligations.NoEffectInstructions
  exact fun s a k p ho => ⟨retires_quietly ho rfl, fun h1 h2 => retires_hint_noPrefetch h1 h2 s p, fun h => retires_hint_partitioned h k⟩

end Sys2Proof.Machine
end

section
/-! SUPPORT. Fences, ISYNC and TFENCE (06 R164 to R166; 13 R321). -/

namespace Sys2Proof.Machine

/-! What an instruction of 02 R47 waits for. -/

theorem quietly_of_outst_ne_nil {s : State} (h : s.hart.outst ≠ []) (k : State → State) : s.quietly k = s := by
  simp [State.quietly, Hart.quiet, h]

/-- A change of the executing hart that leaves its pc alone, and then a retirement. -/
theorem wrote_mapHart_retire (s : State) {f : Hart → Hart} (hpc : (f s.hart).pc = s.hart.pc) :
    Wrote (s.mapHart f) (s.mapHart f).retire [] (s.hart.pc + 4) 0 := by
  have w := wrote_retire (s.mapHart f) 4
  rwa [State.hart_mapHart, hpc] at w

theorem exec_fence_waits {s : State} (h : s.hart.outst ≠ [] ∨ s.hart.orsLocal ≠ 0 ∨ s.hart.orsFab ≠ 0) (c : BitVec 3) :
    exec (.fence c) s = .next s := by
  have busy : ¬s.hart.released = true := by rw [released_iff]; tauto
  show execFence c s = _
  rw [execFence, if_neg busy]

theorem retires_fence {s : State} (ho : s.hart.outst = []) (hl : s.hart.orsLocal = 0) (hf : s.hart.orsFab = 0) (c : BitVec 3) :
    Retires (.fence c) s [] 0 := by
  refine ⟨s.retire, ?_, wrote_retire s 4⟩
  show execFence c s = _
  rw [execFence, if_pos (released_iff.mpr ⟨ho, hl, hf⟩)]

/-- What FENCE.S waits for: scope FAB (f = 1) for both counts, scope MOD for LOCAL. -/
def Hart.storesDone (h : Hart) (f : BitVec 1) : Prop := h.outst = [] ∧ h.orsLocal = 0 ∧ (f = 1 → h.orsFab = 0)

theorem fenceS_ready_iff {h : Hart} {f : BitVec 1} :
    (h.quiet && (if f = 0 then h.orsLocal == 0 else h.orsZero)) = true ↔ h.storesDone f := by
  obtain rfl | rfl : f = 0 ∨ f = 1 := by revert f; decide
  · simp [Hart.storesDone, Hart.quiet]
  · simp [Hart.storesDone, Hart.quiet, Hart.orsZero]

theorem exec_fenceS_waits {s : State} {f : BitVec 1} (h : ¬s.hart.storesDone f) : exec (.fenceS f) s = .next s := by
  show execFenceS f s = _
  simp only [execFenceS, mt fenceS_ready_iff.mp h, Bool.false_eq_true, if_false]

theorem retires_fenceS {s : State} {f : BitVec 1} (h : s.hart.storesDone f) (hlog : s.hart.rejLog = []) : Retires (.fenceS f) s [] 0 := by
  refine ⟨s.retire, ?_, wrote_retire s 4⟩
  show execFenceS f s = _
  simp only [execFenceS, fenceS_ready_iff.mpr h, if_true, hlog]

/-! TFENCE (R166). -/

/-- The executing hart without its AREC. -/
def State.arecCleared (s : State) : State := s.mapHart (fun h => { h with arec := 0 })

theorem hart_arecCleared (s : State) : s.arecCleared.hart = { s.hart with arec := 0 } := State.hart_mapHart s _

theorem wrote_arecCleared (s : State) : Wrote s.arecCleared s.arecCleared.retire [] (s.hart.pc + 4) 0 := wrote_mapHart_retire s rfl

theorem exec_tfence_retires {s : State} (ho : s.hart.outst = []) (h : s.hart.aflags.setWidth 8 &&& s.hart.trapen.setWidth 8 = 0#8) :
    exec .tfence s = .next s.arecCleared.retire := by
  show execTfence s = _
  rw [execTfence, quietly_of_outst_nil ho]
  exact congrArg Host.Outcome.next (if_pos h)

/-- Where an enabled flag is set, ARITH follows the retirement. -/
theorem exec_tfence_traps {s : State} (r : s.trapReady) (h : s.hart.aflags.setWidth 8 &&& s.hart.trapen.setWidth 8 ≠ 0#8) :
    exec .tfence s = .next (s.arecCleared.retire.mapHart (fun h => h.enter false 0x09 (s.hart.pc + 4) 0 s.hart.arec)) := by
  show execTfence s = _
  rw [execTfence, quietly_of_outst_nil r.1]
  refine congrArg Host.Outcome.next ((if_neg h).trans ?_)
  exact enterTrap_of_wrote (trapReady_mapHart r rfl rfl rfl) (wrote_arecCleared s) ⟨0x09, 0, s.hart.arec⟩ _

/-- What TFENCE leaves of a hart without bindings that enters its handler. -/
theorem tfence_handler {s : State} (u : s.hart.unbound) (xpc info : Word) :
    let t := s.arecCleared.retire.mapHart (fun h => h.enter false 0x09 xpc 0 info)
    t.hart.xcause = BitVec.ofNat 64 (b2n (s.hart.mode == .supervisor) * 2 ^ 63 + 0x09) ∧ t.hart.xpc = xpc &&& 0x1FFFC ∧ t.hart.xinfo = info ∧
      t.hart.xaddr = 0 ∧ t.hart.arec = 0 ∧ t.hart.mode = .supervisor ∧ t.hart.pc = s.hart.xvec ∧ t.hart.aflags = s.hart.aflags ∧
      (∀ r, t.hart.rg r = s.hart.rg r) ∧ t.mem = s.mem ∧ t.cc.lmem = s.cc.lmem := by
  intro t
  have unbound : s.arecCleared.hart.unbound := by rw [hart_arecCleared]; exact u
  obtain ⟨-, xvec, -, mode⟩ := (wrote_arecCleared s).keeps_handler
  obtain ⟨aflags, arec, -⟩ := (wrote_arecCleared s).flags unbound
  have regs : ∀ r, s.arecCleared.retire.hart.rg r = s.hart.rg r := fun r => by
    rw [(wrote_arecCleared s).regs r (.inr (unbound_slotOf unbound r)), hart_arecCleared]; rfl
  rw [hart_arecCleared] at xvec mode aflags arec
  have entered : t.hart = s.arecCleared.retire.hart.enter false 0x09 xpc 0 info := State.hart_mapHart _ _
  rw [entered, enter_trap]
  refine ⟨by rw [mode]; rfl, rfl, rfl, rfl, arec, rfl, xvec, ?_, regs, rfl, ?_⟩
  · exact aflags.trans (by simp)
  · simp [t, State.retire, State.arecCleared]

/-! The piece of a rejected store that FENCE.S reports (13 R321). -/

/-- Bits o to o + y - 1 of the mask are set, and o is a multiple of y. -/
def alignedPiece (mask : BitVec 16) (o y : Nat) : Prop := o % y = 0 ∧ ∀ k, k < y → bit mask.toNat (o + k) = true

theorem all_upFrom {p : Nat → Bool} (a n : Nat) : (upFrom a n).all p = true ↔ ∀ k, k < n → p (a + k) = true := by
  induction n generalizing a with
  | zero => simp [upFrom]
  | succ n ih =>
    rw [upFrom, List.all_cons, Bool.and_eq_true, ih]
    constructor
    · rintro ⟨first, others⟩ k hk
      cases k with
      | zero => exact first
      | succ k => rw [Nat.add_comm k 1, ← Nat.add_assoc]; exact others k (by omega)
    · exact fun all => ⟨all 0 (by omega), fun k hk => by rw [Nat.add_assoc, Nat.add_comm 1 k]; exact all (k + 1) (by omega)⟩

theorem bit_eq_testBit (n k : Nat) : bit n k = n.testBit k := by
  rw [Nat.testBit_eq_decide_div_mod_eq, bit, Nat.shiftRight_eq_div_pow]; rfl

theorem bit_toNat {n : Nat} (x : BitVec n) (k : Nat) : bit x.toNat k = x.getLsbD k := by
  rw [bit_eq_testBit, BitVec.testBit_toNat]

theorem bit_mask_lt {mask : BitVec 16} {o : Nat} (h : bit mask.toNat o = true) : o < 16 := by
  rw [bit_toNat] at h
  exact BitVec.lt_of_getLsbD h

/-- The piece begins at the lowest bit that is set. -/
theorem pieceAt_eq {mask : BitVec 16} {o : Nat} (hset : bit mask.toNat o = true) (hlow : ∀ k, k < o → ¬bit mask.toNat k = true) : pieceAt mask = o := by
  obtain ⟨-, zeros, one⟩ := Alu.trailing_spec mask.toNat 16
  have notAbove : ¬o < pieceAt mask := fun h => by
    have clear : (mask.toNat % 2 ^ pieceAt mask).testBit o = mask.toNat.testBit o := by rw [Nat.testBit_mod_two_pow]; simp [h]
    rw [pieceAt, zeros, Nat.zero_testBit, ← bit_eq_testBit, hset] at clear
    cases clear
  have notBelow : ¬pieceAt mask < o := fun h => hlow _ h (by
    rw [bit_eq_testBit]; exact one (Nat.lt_trans h (bit_mask_lt hset)))
  omega

/-- The piece has the largest of the sizes 4, 2 and 1 that is aligned and set throughout. -/
theorem pieceSize_eq {mask : BitVec 16} {z : Nat} (h : z = 4 ∧ alignedPiece mask (pieceAt mask) 4 ∨
    z = 2 ∧ ¬alignedPiece mask (pieceAt mask) 4 ∧ alignedPiece mask (pieceAt mask) 2 ∨
    z = 1 ∧ ¬alignedPiece mask (pieceAt mask) 4 ∧ ¬alignedPiece mask (pieceAt mask) 2) : pieceSize mask = z := by
  have size : ∀ y, (pieceAt mask % y == 0 && (upFrom (pieceAt mask) y).all (fun k => bit mask.toNat k)) = true ↔ alignedPiece mask (pieceAt mask) y :=
    fun y => by rw [Bool.and_eq_true, beq_iff_eq, all_upFrom]; rfl
  unfold pieceSize
  rcases h with ⟨rfl, four⟩ | ⟨rfl, notFour, two⟩ | ⟨rfl, notFour, notTwo⟩
  · exact if_pos ((size 4).mpr four)
  · exact (if_neg (mt (size 4).mp notFour)).trans (if_pos ((size 2).mpr two))
  · exact (if_neg (mt (size 4).mp notFour)).trans (if_neg (mt (size 2).mp notTwo))

/-- FENCE.S with an entry in the log takes STORE_REJECT for its first piece, which leaves the log. -/
theorem exec_fenceS_rejects {s : State} {f : BitVec 1} {e : RejEntry} {es : List RejEntry} (r : s.trapReady) (h : s.hart.storesDone f)
    (hlog : s.hart.rejLog = e :: es) :
    exec (.fenceS f) s = .next (s.mapHart (fun h => { h with rejLog := logRest (e :: es) }.enter false (rejectTrap e (logRest (e :: es)).length).cause h.at
      (rejectTrap e (logRest (e :: es)).length).addr (rejectTrap e (logRest (e :: es)).length).info)) := by
  show execFenceS f s = _
  simp only [execFenceS, fenceS_ready_iff.mpr h, if_true, hlog]
  rw [raise_ready (trapReady_mapHart r rfl rfl rfl)]
  exact congrArg Host.Outcome.next (State.mapHart_mapHart s _ _)

/-- The data of a piece of z bytes at byte o. -/
theorem bits_piece (n o : Nat) {z : Nat} (hz : 0 < z) : bits n (8 * (o + z) - 1) (8 * o) = n / 2 ^ (8 * o) % 2 ^ (8 * z) := by
  rw [bits, Nat.shiftRight_eq_div_pow]
  congr 2
  omega

/-- Settles O12: each fence by what it waits for; a TFENCE traps behind its retirement (`enterTrap_of_wrote`), and the piece that FENCE.S reports is
given by `pieceAt_eq` and `pieceSize_eq`. -/
theorem fences : Obligations.Fences := by
  unfold Obligations.Fences
  refine ⟨fun s c f ho => ⟨fun hl hf => retires_fence ho hl hf c, fun hl hf hlog => retires_fenceS ⟨ho, hl, hf⟩ hlog, ?_, fun h => ?_⟩,
    fun s c f => ⟨fun h => exec_fence_waits h c, fun h => exec_fenceS_waits ?_, fun h => ⟨?_, ?_⟩⟩, fun s r u h => ?_,
    fun s f e es o z r hl hf hlog => ?_⟩
  · refine ⟨_, ?_, wrote_mapHart_retire s rfl⟩
    show execIsync s = _
    rw [execIsync, quietly_of_outst_nil ho]
  · exact ⟨_, exec_tfence_retires ho h, wrote_arecCleared s⟩
  · rintro ⟨ho, hl, hf⟩
    rcases h with h | h | ⟨h1, h⟩
    · exact h ho
    · exact h hl
    · exact h (hf h1)
  · show execIsync s = _
    rw [execIsync, quietly_of_outst_ne_nil h]
  · show execTfence s = _
    rw [execTfence, quietly_of_outst_ne_nil h]
  · exact ⟨_, exec_tfence_traps r h, tfence_handler u _ _⟩
  · intro set piece hset hlow hz
    have first := pieceAt_eq hset hlow
    have size : pieceSize e.mask = z := pieceSize_eq (by rw [first]; exact hz)
    have pos : 0 < z := by rcases hz with ⟨rfl, -⟩ | ⟨rfl, -⟩ | ⟨rfl, -⟩ <;> decide
    intro mask left
    have rest : logRest (e :: es) = left := by
      simp only [logRest, RejEntry.rest, first, size]
      rfl
    rw [exec_fenceS_rejects r ⟨r.1, hl, hf⟩ hlog, rest]
    simp only [enter_trap, rejectTrap, first, size, bits_piece _ _ pos]
    rfl

end Sys2Proof.Machine
end

section
/-! SUPPORT. Message registers (06 R156 to R160): reading, writing, and what MTAKE, MPEEK, WAIT and MSEND answer. -/

namespace Sys2Proof.Machine

/-! Registers and their full bits. -/

theorem Hart.rm_wm (h : Hart) (r j : BitVec 4) (v : Word) : (h.wm r v).rm j = if j = r then v else h.rm j := by
  simp only [Hart.rm, Hart.wm, Vector.get_eq_getElem]
  split
  next e => subst e; exact Vector.getElem_set_self _
  next e => exact Vector.getElem_set_ne _ _ (fun n => e (BitVec.eq_of_toNat_eq n.symm))

/-- The bit of register j in the mask of register r. -/
theorem getLsbD_registerMask (r j : BitVec 4) : (1#16 <<< r.toNat).getLsbD j.toNat = decide (j = r) := by
  revert r j; decide

theorem bit_set_register (x : BitVec 16) (r j : BitVec 4) : bit (x ||| (1#16 <<< r.toNat)).toNat j.toNat = (decide (j = r) || bit x.toNat j.toNat) := by
  rw [bit_toNat, bit_toNat, BitVec.getLsbD_or, getLsbD_registerMask, Bool.or_comm]

theorem bit_clear_register (x : BitVec 16) (r j : BitVec 4) : bit (x &&& ~~~(1#16 <<< r.toNat)).toNat j.toNat = (!decide (j = r) && bit x.toNat j.toNat) := by
  have inside : j.toNat < 16 := j.isLt
  rw [bit_toNat, bit_toNat, BitVec.getLsbD_and, BitVec.getLsbD_not, getLsbD_registerMask, Bool.and_comm, decide_eq_true inside, Bool.true_and]

theorem Hart.isFull_setFull (h : Hart) (r j : BitVec 4) (b : Bool) : (h.setFull r b).isFull j = if j = r then b else h.isFull j := by
  cases b with
  | true => exact (bit_set_register h.full r j).trans (by by_cases e : j = r <;> simp [e, Hart.isFull])
  | false => exact (bit_clear_register h.full r j).trans (by by_cases e : j = r <;> simp [e, Hart.isFull])

/-! MTAKE, MPEEK and WAIT (R159, R160). -/

theorem exec_mtake {s : State} {d : BitVec 5} (w : s.writable d) (r : BitVec 4) :
    ∃ u, exec (.mtake d r) s = .next u ∧
      Wrote (s.mapHart (fun h => { h with full := h.full &&& ~~~(1#16 <<< r.toNat) })) u [(d, s.hart.rm r)] (s.hart.pc + 4) 0 := by
  refine ⟨(s.mapHart (fun h => h.setFull r false)).writeRetire d (s.hart.rm r), ?_, ?_⟩
  · show execMtake d r s = _
    rw [execMtake, guarded_bound w]
  · have wrote := wrote_writeRetire (s.mapHart (fun h => h.setFull r false)) d (s.hart.rm r) 0 4
    rwa [State.hart_mapHart] at wrote

theorem retires_mpeek {s : State} {d : BitVec 5} (w : s.writable d) (r : BitVec 4) : Retires (.mpeek d r) s [(d, s.hart.rm r)] 0 :=
  retires_compute (r := .pure (s.hart.rm r)) w rfl rfl

theorem waitDone_iff {h : Hart} {mask : BitVec 16} : h.waitDone mask = true ↔ mask = 0 ∨ h.full &&& mask ≠ 0 := by
  simp [Hart.waitDone]

theorem retires_wait {s : State} {d a : BitVec 5} (w : s.writable d) (ho : s.hart.outst = []) (hd : s.hart.waitDone ((s.rg a).setWidth 16) = true) :
    Retires (.wait d a) s [(d, s.hart.full.setWidth 64)] 0 := by
  refine ⟨s.writeRetire d (s.hart.full.setWidth 64), ?_, wrote_writeRetire s d _ 0 4⟩
  show execWait d a s = _
  simp only [execWait, quietly_of_outst_nil ho, guarded_bound w, hd, if_true]

theorem exec_wait_blocks {s : State} {d a : BitVec 5} (w : s.writable d) (ho : s.hart.outst = [])
    (hd : s.hart.waitDone ((s.rg a).setWidth 16) = false) :
    exec (.wait d a) s = .next (s.blockOn (.wait d ((s.rg a).setWidth 16))) := by
  show execWait d a s = _
  simp only [execWait, quietly_of_outst_nil ho, guarded_bound w, hd, Bool.false_eq_true, if_false]

/-! MSEND (R158; 13 R320). -/

/-- The fields of the address of a message window are in their ranges. -/
def inMessageWindow (t : Word) : Prop := t.msb = true ∧ bits t.toNat 32 24 = 0 ∧ 0x800000 ≤ addrOff t ∧ addrOff t ≤ 0x8001FF ∧ addrY t ≤ 99

theorem windowCheck_passes {t : Word} (ha : t.toNat % 8 = 0) (h : inMessageWindow t) : windowCheck t = none := by
  obtain ⟨msb, form, low, high, row⟩ := h
  simp only [windowCheck, ha, msb, form, ne_eq, not_true_eq_false, if_false, Bool.true_eq_false, false_or]
  exact if_neg (by omega)

theorem windowCheck_misaligned {t : Word} (ha : t.toNat % 8 ≠ 0) : windowCheck t = some ⟨0x03, t, 0⟩ := if_pos ha

theorem windowCheck_outside {t : Word} (ha : t.toNat % 8 = 0)
    (h : t.msb = false ∨ bits t.toNat 32 24 ≠ 0 ∨ addrOff t < 0x800000 ∨ 0x8001FF < addrOff t ∨ 99 < addrY t) : windowCheck t = some ⟨0x04, t, 0⟩ :=
  (if_neg (not_not.mpr ha)).trans (if_pos h)

theorem traps_msend {s : State} {a b : BitVec 5} {t : Trap} (r : s.trapReady) (h : windowCheck (s.resolve (s.rg a)) = some t) :
    Traps (.msend a b) s t.cause t.addr t.info := by
  refine traps_of_raise r ?_
  show execMsend a b s = _
  simp only [execMsend, h, guarded_some]

/-- An MSEND whose address passes, and which no earlier access holds, is posted. -/
theorem exec_msend_posts {s : State} {a b : BitVec 5} (h : windowCheck (s.resolve (s.rg a)) = none)
    (hov : s.overlapping (s.resolve (s.rg a)) 8 = false) :
    exec (.msend a b) s = .next (s.postNow .message (.message (s.rg b)) (s.resolve (s.rg a)) (addrMod (s.resolve (s.rg a)) != 2047) 4) := by
  show execMsend a b s = _
  simp only [execMsend, h, guarded_none, guarded_nil, hov, Bool.false_eq_true, if_false]

/-- Settles O18: MTAKE, MPEEK and WAIT by their lemmas; MSEND is posted, or waits for room, behind `windowCheck`. -/
theorem messageResults : Obligations.MessageResults := by
  unfold Obligations.MessageResults
  refine ⟨fun s d a b r w => ⟨exec_mtake w r, retires_mpeek w r, fun ho h => retires_wait w ho (waitDone_iff.mpr h), fun ho hmask hfull => ?_,
    fun ha msb form low high row hov => ⟨fun room => ?_, fun full => ?_⟩⟩,
    fun s a b r => ⟨fun h => traps_msend r (windowCheck_misaligned h), fun ha h => traps_msend r (windowCheck_outside ha h)⟩⟩
  · refine exec_wait_blocks w ho (Bool.eq_false_iff.mpr fun h => ?_)
    rcases waitDone_iff.mp h with h | h
    · exact hmask h
    · exact h hfull
  · exact posts_of room (exec_msend_posts (windowCheck_passes ha ⟨msb, form, low, high, row⟩) hov)
  · rw [exec_msend_posts (windowCheck_passes ha ⟨msb, form, low, high, row⟩) hov, State.postNow, full]
    rfl

end Sys2Proof.Machine
end

section
/-! SUPPORT. Delivery of messages (06 R156, R162; 13 R448; 01 R33). -/

namespace Sys2Proof.Machine

/-! An arrival at a register (R156; 05 R146). -/

/-- The arrival of v changes the VALUE of a source of a binding (05 R146). -/
def Hart.changesSource (x : Hart) (q : BitVec 4) (v : Word) : Prop :=
  x.rm q ≠ v ∧ ∃ n, (x.slot n).valid = true ∧ (x.slot n).sources.contains (.m q) = true

theorem changesSource_iff {x : Hart} {q : BitVec 4} {v : Word} :
    (x.rm q != v && slotNos.any (fun k => (x.slot k).valid && (x.slot k).sources.contains (.m q))) = true ↔ x.changesSource q v := by
  simp only [Bool.and_eq_true, bne_iff_ne, List.any_eq_true, Hart.changesSource]
  exact and_congr_right fun _ => ⟨fun ⟨n, _, h⟩ => ⟨n, h⟩, fun ⟨n, h⟩ => ⟨n, mem_slotNos n, h⟩⟩

theorem arrive_writes {x : Hart} {q : BitVec 4} {v : Word} (h : ¬x.changesSource q v) : x.arrive q v = (x.wm q v).setFull q true :=
  if_neg (mt changesSource_iff.mp h)

theorem arrive_waits {x : Hart} {q : BitVec 4} {v : Word} (h : x.changesSource q v) : x.arrive q v =
    { x with arrPend := x.arrPend ||| (1#16 <<< q.toNat), arrVal := x.arrVal.set q.toNat v q.isLt } :=
  if_pos (changesSource_iff.mpr h)

theorem arrive_other {x : Hart} {q j : BitVec 4} (v : Word) (h : j ≠ q) : (x.arrive q v).rm j = x.rm j ∧ (x.arrive q v).isFull j = x.isFull j := by
  by_cases source : x.changesSource q v
  · rw [arrive_waits source]; exact ⟨rfl, rfl⟩
  · rw [arrive_writes source]
    exact ⟨(Hart.rm_wm x q j v).trans (if_neg h), (Hart.isFull_setFull (x.wm q v) q j true).trans (if_neg h)⟩

/-- The arrivals of the registers rs are written. -/
def Hart.applyArrivals (h : Hart) (rs : List (BitVec 4)) : Hart :=
  rs.foldl (fun h r => (h.wm r (h.arrVal.get ⟨r.toNat, r.isLt⟩)).setFull r true) h

theorem applyArrivals_register (h : Hart) (rs : List (BitVec 4)) (q : BitVec 4) :
    (h.applyArrivals rs).rm q = (if q ∈ rs then h.arrVal.get ⟨q.toNat, q.isLt⟩ else h.rm q) ∧
      (h.applyArrivals rs).isFull q = (decide (q ∈ rs) || h.isFull q) := by
  induction rs generalizing h with
  | nil => exact ⟨rfl, rfl⟩
  | cons r rs ih =>
    obtain ⟨value, full⟩ := ih ((h.wm r (h.arrVal.get ⟨r.toNat, r.isLt⟩)).setFull r true)
    have written : ((h.wm r (h.arrVal.get ⟨r.toNat, r.isLt⟩)).setFull r true).rm q = if q = r then h.arrVal.get ⟨r.toNat, r.isLt⟩ else h.rm q :=
      Hart.rm_wm h r q _
    have filled : ((h.wm r (h.arrVal.get ⟨r.toNat, r.isLt⟩)).setFull r true).isFull q = if q = r then true else h.isFull q :=
      Hart.isFull_setFull _ r q true
    rw [written] at value
    rw [filled] at full
    refine ⟨value.trans ?_, full.trans ?_⟩
    · by_cases e : q = r <;> by_cases m : q ∈ rs <;> simp [e, m, Hart.setFull, Hart.wm]
    · by_cases e : q = r <;> by_cases m : q ∈ rs <;> simp [e, m]

/-- A pass leaves the message registers alone. -/
theorem Passed.registers {h t : Hart} (p : Passed h t) (q : BitVec 4) : t.rm q = h.rm q ∧ t.isFull q = h.isFull q := by
  have values : t.m = h.m := show t.rest.m = h.rest.m by rw [p.rest]
  have full : t.full = h.full := show t.rest.full = h.rest.full by rw [p.rest]
  exact ⟨by rw [Hart.rm, values, Hart.rm], by rw [Hart.isFull, full, Hart.isFull]⟩

/-- The pass of a hart's arrivals writes each register with a waiting arrival. -/
theorem arrivalPass_register {h : Hart} {q : BitVec 4} (hp : bit h.arrPend.toNat q.toNat = true) :
    h.arrivalPass.rm q = h.arrVal.get ⟨q.toNat, q.isLt⟩ ∧ h.arrivalPass.isFull q = true := by
  have waiting : q ∈ slotNos.filter (fun r => bit h.arrPend.toNat r.toNat) := List.mem_filter.mpr ⟨mem_slotNos q, hp⟩
  obtain ⟨value, full⟩ := applyArrivals_register h (slotNos.filter (fun r => bit h.arrPend.toNat r.toNat)) q
  rw [if_pos waiting] at value
  rw [decide_eq_true waiting, Bool.true_or] at full
  let applied : Hart := { h.applyArrivals (slotNos.filter (fun r => bit h.arrPend.toNat r.toNat)) with arrPend := 0 }
  have passed : Passed applied h.arrivalPass := (passed_markFor _ _).trans (passed_evaluateBindings _ true _)
  exact ⟨(passed.registers q).1.trans value, (passed.registers q).2.trans full⟩

/-- An arrival that waits is taken at the next pass. -/
theorem arrive_then_pass {x : Hart} {q : BitVec 4} {v : Word} (h : x.changesSource q v) :
    (x.arrive q v).rm q = x.rm q ∧ (x.arrive q v).taken q = true ∧ (x.arrive q v).arrivalPass.rm q = v ∧
      (x.arrive q v).arrivalPass.isFull q = true := by
  have pending : bit (x.arrive q v).arrPend.toNat q.toNat = true := by
    rw [arrive_waits h]
    exact (bit_set_register x.arrPend q q).trans (by rw [decide_eq_true rfl, Bool.true_or])
  obtain ⟨value, full⟩ := arrivalPass_register pending
  refine ⟨by rw [arrive_waits h]; rfl, by rw [Hart.taken, pending, Bool.or_true], value.trans ?_, full⟩
  rw [arrive_waits h, Vector.get_eq_getElem]
  exact Vector.getElem_set_self _

/-! A message reaches its core (R156, R162). -/

theorem any_same_eq (ms : List Msg) (h : BitVec 2) (q : BitVec 4) (v : Word) :
    ms.any (Msg.same ⟨h, q, v⟩) = ms.any (fun o => o.hart == h && o.reg == q) := by
  refine congrArg ms.any (funext fun o => ?_)
  rw [Msg.same, Bool.beq_comm (a := h), Bool.beq_comm (a := q)]

section
variable {k : Core} {h : BitVec 2} {q : BitVec 4} {v : Word}

theorem deliver_writes (hold : k.hold = []) (ht : (k.hart h).taken q = false) (hq : k.overflow.any (fun o => o.hart == h && o.reg == q) = false) :
    k.deliver ⟨h, q, v⟩ = some (k.modHart h (fun x => x.arrive q v)) := by
  simp [Core.deliver, hold, ht, any_same_eq, hq]

theorem occupied_of (ht : (k.hart h).taken q = true ∨ k.overflow.any (fun o => o.hart == h && o.reg == q) = true) :
    (!(k.hart h).taken q && !k.overflow.any (fun o => o.hart == h && o.reg == q)) = false := by
  rcases ht with e | e
  · rw [e]; rfl
  · rw [e, Bool.not_true, Bool.and_false]

theorem deliver_queues (hold : k.hold = []) (ht : (k.hart h).taken q = true ∨ k.overflow.any (fun o => o.hart == h && o.reg == q) = true)
    (room : k.overflow.length < 8) : k.deliver ⟨h, q, v⟩ = some { k with overflow := k.overflow ++ [⟨h, q, v⟩] } := by
  simp only [Core.deliver, hold, List.isEmpty_nil, Bool.not_true, Bool.false_eq_true, if_false, any_same_eq, occupied_of ht]
  exact if_pos room

theorem deliver_full (hold : k.hold = []) (ht : (k.hart h).taken q = true ∨ k.overflow.any (fun o => o.hart == h && o.reg == q) = true)
    (full : 8 ≤ k.overflow.length) : k.deliver ⟨h, q, v⟩ = none := by
  simp only [Core.deliver, hold, List.isEmpty_nil, Bool.not_true, Bool.false_eq_true, if_false, any_same_eq, occupied_of ht]
  exact if_neg (Nat.not_lt.mpr full)

end

/-! The request of a message (13 R448). -/

/-- A step that performs a message at its core, by the stage of the request. -/
def performsMessage (i : Instr) (id : Nat) (r : Req) : Prop :=
  (i = .messageArrival id ∧ ∃ x, r.stage = .toCore x) ∨ (i = .messageRetry id ∧ ∃ x, r.stage = .refusedFull x)

section
variable {s : State} {id : Nat} {r : Req} {v : Word}

theorem onReq_of_next {at_ : Stage → Bool} {kinds : ReqKind → Bool} (hn : s.reqNext id = some r) (hs : at_ r.stage = true) (hk : kinds r.kind = true)
    (f : Req → State) : s.onReq id at_ kinds f = .next (f r) := by
  simp only [State.onReq, hn, hs, hk, Bool.and_self, if_true]

theorem exec_message {i : Instr} (hn : s.reqNext id = some r) (hk : r.kind = .message v) (hi : performsMessage i id r) :
    exec i s = .next (s.tryMessage r) := by
  have kind : r.kind.isMessage = true := by rw [hk]; rfl
  rcases hi with ⟨rfl, x, stage⟩ | ⟨rfl, x, stage⟩
  · exact onReq_of_next (at_ := Stage.isCore) hn (by rw [stage]; rfl) kind _
  · exact onReq_of_next (at_ := Stage.isRefused) hn (by rw [stage]; rfl) kind _

theorem exec_evictedMessageHold (hn : s.reqNext id = some r) (hk : r.kind = .message v) {vf : BitVec 4} {x : Nat} (hs : r.stage = .toEvicted vf x) :
    exec (.evictedMessageHold id) s = .next (s.tryMessage r) :=
  onReq_of_next (at_ := Stage.isEvicted) hn (by rw [hs]; rfl) (by rw [hk]; rfl) _

theorem msg_of_kind (hk : r.kind = .message v) : r.msg = ⟨winHart (addrOff r.ea), winReg (addrOff r.ea), v⟩ := by
  simp only [Req.msg, hk]

/-- A refused message carries the rejection back. -/
theorem refuse_message (hk : r.kind = .message v) (cause : BitVec 8) (info : Word) (now : Bool) (site : Nat) :
    s.refuse r cause info now site = s.answer r site (.rejected cause) := by
  simp only [State.refuse, hk, ReqKind.posted, if_true]

theorem tryMessage_located {c : Nat} (hl : s.locate r.vf (addrVcore r.ea) = some c) : s.tryMessage r = s.tryMessageCore r c := by
  simp only [State.tryMessage, hl]

theorem tryMessage_saved {j : Nat} (hl : s.locate r.vf (addrVcore r.ea) = none) (hj : (s.part r.vf).savedAt (addrVcore r.ea) = some j) :
    s.tryMessage r = s.tryMessageSaved r j := by
  simp only [State.tryMessage, hl, hj]

/-- A hart that hosts no group refuses it. -/
theorem tryMessageCore_unhosted {c : Nat} {m : Msg} (hm : r.msg = m) (hk : r.kind = .message v)
    (h : (s.core c).hostsPart r.vf = false ∨ ((s.core c).hart m.hart).group = none) :
    s.tryMessageCore r c = s.answer r (2 ^ 16 + c) (.rejected 0x06) := by
  have unhosted : (s.core c).hostsPart r.vf = false ∨ ((s.core c).hart r.msg.hart).hosts = false := 
    h.imp_right fun none => by rw [Hart.hosts, hm, none]; rfl
  rw [State.tryMessageCore]
  exact (if_pos unhosted).trans (refuse_message hk cPROT 0 true (siteCore c))

theorem hosted_of_group {c : Nat} {h : BitVec 2} (hp : (s.core c).hostsPart r.vf = true) (hg : ((s.core c).hart h).group ≠ none) :
    ¬((s.core c).hostsPart r.vf = false ∨ ((s.core c).hart h).hosts = false) := by
  simp [hp, Hart.hosts, Option.isSome_iff_ne_none.mpr hg]

/-- The router of a sleeping core keeps it. -/
theorem tryMessageCore_asleep {c : Nat} {m : Msg} (hm : r.msg = m) (hp : (s.core c).hostsPart r.vf = true) (hg : ((s.core c).hart m.hart).group ≠ none)
    (hs : (s.core c).sleep ≠ .awake) : s.tryMessageCore r c = s.putReq { r with stage := .toCore c } := by
  rw [State.tryMessageCore, hm]
  exact (if_neg (hosted_of_group hp hg)).trans (if_pos hs)

theorem tryMessageCore_delivers {c : Nat} {m : Msg} {k : Core} (hm : r.msg = m) (hp : (s.core c).hostsPart r.vf = true)
    (hg : ((s.core c).hart m.hart).group ≠ none) (hs : (s.core c).sleep = .awake) (hd : (s.core c).deliver m = some k) :
    s.tryMessageCore r c = (s.setCore c k).answer r (2 ^ 16 + c) (.acknowledged (s.reqWatch r)) := by
  simp only [State.tryMessageCore, hm, if_neg (hosted_of_group hp hg), hs, ne_eq, not_true_eq_false, if_false, hd]
  rfl

theorem tryMessageCore_full {c : Nat} {m : Msg} (hm : r.msg = m) (hp : (s.core c).hostsPart r.vf = true) (hg : ((s.core c).hart m.hart).group ≠ none)
    (hs : (s.core c).sleep = .awake) (hd : (s.core c).deliver m = none) : s.tryMessageCore r c = s.putReq { r with stage := .refusedFull c } := by
  simp only [State.tryMessageCore, hm, if_neg (hosted_of_group hp hg), hs, ne_eq, not_true_eq_false, if_false, hd]

/-- A message for a saved context is held with it. -/
theorem tryMessageSaved_holds {j : Nat} {m : Msg} {x : Saved} (hm : r.msg = m) (hx : (s.part r.vf).saved[j]? = some x) (hg : (x.core.hart m.hart).group ≠ none)
    (room : x.hold.length < Config.holdSize) : s.tryMessageSaved r j = (s.modPart r.vf (fun p =>
      { p with saved := p.saved.mapIdx (fun n y => if n = j then { y with hold := y.hold ++ [m] } else y) })).answer r (2 ^ 20)
        (.acknowledged (s.reqWatch r)) := by
  have hosted : (x.core.hart m.hart).hosts = true := Option.isSome_iff_ne_none.mpr hg
  simp only [State.tryMessageSaved, hm, hx, hosted, Bool.true_eq_false, if_false, if_pos room]
  rfl

end

/-! A queued message reaches its register (R156, R162). -/

theorem promoteHold_nil {k : Core} (hold : k.hold = []) : k.promoteHold = k := by
  rw [Core.promoteHold, hold, promote, ← hold]

theorem giveTokens_nil {k : Core} (tokens : k.tokens = []) : k.giveTokens = k := by
  rw [Core.giveTokens, tokens, List.foldl_nil, ← tokens]

/-- Where neither the hold nor the tokens wait, nothing follows a delivery. -/
theorem nothingWaits {k : Core} (hold : k.hold = []) (tokens : k.tokens = []) : k.promoteHold.giveTokens = k := by
  rw [promoteHold_nil hold, giveTokens_nil tokens]

theorem promoteHold_single {k : Core} {h : BitVec 2} {q : BitVec 4} {v : Word} (ht : (k.hart h).taken q = false) (hq : k.overflow = [])
    (hold : k.hold = [⟨h, q, v⟩]) : k.promoteHold = { k with hold := [] }.modHart h (fun x => x.arrive q v) := by
  have free : (!(k.hart h).taken q && !k.overflow.any (Msg.same ⟨h, q, v⟩)) = true := by rw [ht, hq]; rfl
  rw [Core.promoteHold, hold, promote]
  exact (if_neg Bool.false_ne_true).trans (if_pos free)

section
variable {s : State} {c : Nat} {h : BitVec 2} {q : BitVec 4} {v : Word}

theorem exec_overflowDelivery_queued {rest : List Msg} (live : (s.core c).live = true) (ht : ((s.core c).hart h).taken q = false)
    (hold : (s.core c).hold = []) (tokens : (s.core c).tokens = []) (hq : (s.core c).overflow = ⟨h, q, v⟩ :: rest) :
    exec (.overflowDelivery c h q) s = .next (s.setCore c ({ s.core c with overflow := rest }.modHart h (fun x => x.arrive q v))) := by
  have first : takeFirst (fun m => m.hart == h && m.reg == q) (s.core c).overflow = some (⟨h, q, v⟩, rest) := by
    rw [hq, takeFirst, beq_self_eq_true, beq_self_eq_true]; rfl
  show execOverflowDelivery c h q s = _
  simp only [execOverflowDelivery, live, ht, Bool.not_false, Bool.and_self, if_true, first]
  refine congrArg (fun k => Host.Outcome.next (s.setCore c k)) (nothingWaits ?_ ?_)
  · exact hold
  · exact tokens

theorem exec_overflowDelivery_held (live : (s.core c).live = true) (ht : ((s.core c).hart h).taken q = false)
    (tokens : (s.core c).tokens = []) (hq : (s.core c).overflow = []) (hold : (s.core c).hold = [⟨h, q, v⟩]) :
    exec (.overflowDelivery c h q) s = .next (s.setCore c ({ s.core c with hold := [] }.modHart h (fun x => x.arrive q v))) := by
  have none : takeFirst (fun m => m.hart == h && m.reg == q) (s.core c).overflow = none := by rw [hq]; rfl
  have waiting : ((s.core c).hold ++ (s.core c).tokens).any (fun m => m.hart == h && m.reg == q) = true := by simp [hold]
  show execOverflowDelivery c h q s = _
  simp only [execOverflowDelivery, live, ht, Bool.not_false, Bool.and_self, if_true, none, waiting]
  refine congrArg (fun k => Host.Outcome.next (s.setCore c k)) ?_
  exact (congrArg Core.giveTokens (promoteHold_single ht hq hold)).trans (giveTokens_nil tokens)

end

/-- Settles O42: an arrival by whether it changes a source (`arrive_writes`, `arrive_then_pass`), a message by what its core does with it
(`Core.deliver`), a queued one by `takeFirst`. -/
theorem messageDelivery : Obligations.MessageDelivery := by
  unfold Obligations.MessageDelivery
  intro s id c r value h q
  refine ⟨fun x => ⟨fun source => ?_, fun source => ?_, fun j hj => arrive_other value hj⟩, fun hn hk hh hq => ⟨fun hl i hi => ?_, ?_⟩,
    fun live ht hold tokens rest hover => exec_overflowDelivery_queued live ht hold tokens hover,
    fun live ht tokens hover hold => exec_overflowDelivery_held live ht tokens hover hold⟩
  · rw [arrive_writes source]
    exact ⟨(Hart.rm_wm x q q value).trans (if_pos rfl), (Hart.isFull_setFull (x.wm q value) q q true).trans (if_pos rfl)⟩
  · obtain ⟨value, taken, passed⟩ := arrive_then_pass source
    exact ⟨value, taken, passed⟩
  · have performed : exec i s = .next (s.tryMessageCore r c) := by rw [exec_message hn hk hi, tryMessage_located hl]
    have msg : r.msg = ⟨h, q, value⟩ := by rw [msg_of_kind hk, hh, hq]
    refine ⟨fun no => performed.trans (congrArg _ (tryMessageCore_unhosted msg hk no)),
      fun hp hg => ⟨fun hs => performed.trans (congrArg _ (tryMessageCore_asleep msg hp hg hs)), fun hs hold => ?_⟩⟩
    refine ⟨fun ht hq => ?_, fun ht => ⟨fun room => ?_, fun noRoom => ?_⟩⟩
    · exact performed.trans (congrArg _ (tryMessageCore_delivers msg hp hg hs (deliver_writes hold ht hq)))
    · exact performed.trans (congrArg _ (tryMessageCore_delivers msg hp hg hs (deliver_queues hold ht room)))
    · exact performed.trans (congrArg _ (tryMessageCore_full msg hp hg hs (deliver_full hold ht noRoom)))
  · rintro hl ⟨vf, v, stage⟩ j x hj hx hg room
    have msg : r.msg = ⟨h, q, value⟩ := by rw [msg_of_kind hk, hh, hq]
    exact ((exec_evictedMessageHold hn hk stage).trans (congrArg _ (tryMessage_saved hl hj))).trans (congrArg _ (tryMessageSaved_holds msg hx hg room))

end Sys2Proof.Machine
end

section
/-! SUPPORT. The debug path (06 R175 to R179): what holds the others of a group, and what an access reads and writes. -/

namespace Sys2Proof.Machine

theorem modCore_congr {s : State} {c : Nat} {f g : Core → Core} (e : f (s.core c) = g (s.core c)) : s.modCore c f = s.modCore c g :=
  congrArg (s.setCore c) e

theorem hostsAt_iff {s : State} {c : Nat} {h : BitVec 2} :
    s.hostsAt c h = true ↔ (s.core c).vf ≠ none ∧ (s.hartOf c h).group ≠ none ∧ (s.hartOf c h).exited = false := by
  simp [State.hostsAt, Hart.hosts, Option.isSome_iff_ne_none, and_assoc]

/-! The others of a group (R178). -/

theorem hart_foldl_held (b : Bool) (is : List (BitVec 2)) (k : Core) (j : BitVec 2) :
    (is.foldl (fun k i => k.modHart i (fun x => { x with held := b })) k).hart j = { k.hart j with held := if j ∈ is then b else (k.hart j).held } := by
  induction is generalizing k with
  | nil => rfl
  | cons i is ih =>
    rw [List.foldl_cons, ih]
    by_cases e : j = i
    · subst e
      rw [Core.hart_modHart_same]
      by_cases m : j ∈ is <;> simp [m]
    · rw [Core.hart_modHart_other _ _ e]
      simp [e]

theorem lmem_foldl_held (b : Bool) (is : List (BitVec 2)) (k : Core) :
    (is.foldl (fun k i => k.modHart i (fun x => { x with held := b })) k).lmem = k.lmem := by
  induction is generalizing k with
  | nil => rfl
  | cons i is ih => exact ih _

/-- A hart is held or released where it is one of the others. -/
theorem hart_holdOthers (k : Core) (h : BitVec 2) (b : Bool) (i : BitVec 2) :
    (k.holdOthers h b).hart i = { k.hart i with held := if i ∈ k.others h then b else (k.hart i).held } := hart_foldl_held b _ k i

theorem lmem_holdOthers (k : Core) (h : BitVec 2) (b : Bool) : (k.holdOthers h b).lmem = k.lmem := lmem_foldl_held b _ k

theorem not_mem_others (k : Core) (h : BitVec 2) : h ∉ k.others h := by
  unfold Core.others
  split
  · simp
  · exact List.not_mem_nil

/-- A hart's group does not hold the hart itself. -/
theorem hart_holdOthers_self (k : Core) (h : BitVec 2) (b : Bool) : (k.holdOthers h b).hart h = k.hart h := by
  rw [hart_holdOthers, if_neg (not_mem_others k h)]

theorem others_holdOthers (k : Core) (h : BitVec 2) (b : Bool) : (k.holdOthers h b).others h = k.others h := by
  simp only [Core.others, Core.hartsOf, hart_holdOthers]

theorem hart_held (k : Core) (h i : BitVec 2) : (k.holdOthers h true).hart i = { k.hart i with held := (k.hart i).held || (k.others h).contains i } := by
  rw [hart_holdOthers]
  by_cases m : i ∈ k.others h <;> simp [m]

theorem hart_released (k : Core) (h i : BitVec 2) :
    (k.holdOthers h false).hart i = { k.hart i with held := (k.hart i).held && !(k.others h).contains i } := by
  rw [hart_holdOthers]
  by_cases m : i ∈ k.others h <;> simp [m]

/-- Whether the others have completed what they have begun. -/
theorem othersDone_holdOthers (k : Core) (h : BitVec 2) (b : Bool) :
    ((k.holdOthers h b).others h).all (fun i => !((k.holdOthers h b).hart i).completing) = true ↔ ∀ i ∈ k.others h, (k.hart i).completing = false := by
  have same : ∀ i, ((k.holdOthers h b).hart i).completing = (k.hart i).completing := fun i => by rw [hart_holdOthers]; rfl
  simp [others_holdOthers, same]

/-! DEBUG_HALT, DEBUG_STEP and DEBUG_RESUME. -/

section
variable {s : State} {c : Nat} {h : BitVec 2}

theorem exec_debugHalt_pends (hh : s.hostsAt c h = true) (hr : (s.hartOf c h).halted = false) :
    exec (.debugHalt c h) s = .next (s.modHart c h (fun a => { a with haltPend := true })) :=
  congrArg Host.Outcome.next (if_pos (by rw [hh, hr]; rfl))

theorem exec_debugHalt_none (hn : s.hostsAt c h = false ∨ (s.hartOf c h).halted = true) : exec (.debugHalt c h) s = .next s :=
  congrArg Host.Outcome.next (if_neg (by rcases hn with e | e <;> simp [e]))

theorem exec_debugStep_running (hr : (s.hartOf c h).halted = false) : exec (.debugStep c h) s = .next s :=
  congrArg Host.Outcome.next (if_neg (by simp [hr]))

theorem exec_debugResume_running (hr : (s.hartOf c h).halted = false) : exec (.debugResume c h) s = .next s :=
  congrArg Host.Outcome.next (if_neg (by simp [hr]))

/-- While one of the others still completes, a step only holds them. -/
theorem exec_debugStep_holds (hh : s.hostsAt c h = true) (hs : (s.hartOf c h).halted = true)
    (busy : ∃ i ∈ (s.core c).others h, ((s.core c).hart i).completing = true) :
    exec (.debugStep c h) s = .next (s.setCore c ((s.core c).holdOthers h true)) := by
  have waits : ¬(((s.core c).holdOthers h true).others h).all (fun i => !(((s.core c).holdOthers h true).hart i).completing) = true := fun done => by
    obtain ⟨i, mem, completing⟩ := busy
    rw [(othersDone_holdOthers _ _ _).mp done i mem] at completing
    cases completing
  refine congrArg Host.Outcome.next ((if_pos ?_).trans (if_neg waits))
  rw [hh, hs]; rfl

theorem exec_debugStep_steps (hh : s.hostsAt c h = true) (hs : (s.hartOf c h).halted = true)
    (done : ∀ i ∈ (s.core c).others h, ((s.core c).hart i).completing = false) :
    exec (.debugStep c h) s = .next ((s.setCore c ((s.core c).holdOthers h true)).modHart c h
      (fun x => { x with halted := false, stepOnce := true, ibkSuppress := true })) := by
  refine congrArg Host.Outcome.next ((if_pos ?_).trans (if_pos ((othersDone_holdOthers _ _ _).mpr done)))
  rw [hh, hs]; rfl

theorem exec_debugResume_goes (hh : s.hostsAt c h = true) (hs : (s.hartOf c h).halted = true) :
    exec (.debugResume c h) s = .next ((s.setCore c ((s.core c).holdOthers h false)).modHart c h
      (fun x => { x with halted := false, stepOnce := false, ibkSuppress := true })) := by
  refine congrArg Host.Outcome.next (if_pos ?_)
  rw [hh, hs]; rfl

/-- What a change of hart h behind a hold of its others leaves. -/
theorem held_modHart (b : Bool) (f : Hart → Hart) :
    let t := (s.setCore c ((s.core c).holdOthers h b)).modHart c h f
    t.mem = s.mem ∧ (t.core c).lmem = (s.core c).lmem ∧ (t.core c).hart h = f (s.hartOf c h) ∧
      ∀ i, i ≠ h → (t.core c).hart i = ((s.core c).holdOthers h b).hart i := by
  intro t
  have core : t.core c = ((s.core c).holdOthers h b).modHart h f := by
    simp only [t, State.modHart, State.core_modCore_same, State.core_setCore_same]
  rw [core]
  refine ⟨rfl, lmem_holdOthers _ _ _, ?_, fun i hi => Core.hart_modHart_other _ f hi⟩
  rw [Core.hart_modHart_same, hart_holdOthers_self]; rfl

/-! DEBUG_ACCESS (R179). -/

theorem exec_debugAccess_none (hn : s.hostsAt c h = false ∨ (s.hartOf c h).halted = false) (x : DebugAccess) : exec (.debugAccess c h x) s = .next s :=
  congrArg Host.Outcome.next (if_pos (by rcases hn with e | e <;> simp [e]))

end

/-! The fields of what an access writes. -/

theorem ofNat_bits {w : Nat} (v : BitVec w) {hi lo n : Nat} (hn : hi + 1 - lo = n) : BitVec.ofNat n (bits v.toNat hi lo) = v.extractLsb' lo n := by
  refine BitVec.eq_of_toNat_eq ?_
  rw [BitVec.toNat_ofNat, bits, hn, Nat.mod_mod, BitVec.extractLsb'_toNat]

/-- A binding-table slot in its 192 bits (01 R24). -/
theorem slotOfBits_eq (v : BitVec 192) : slotOfBits v =
    { valid := v.getLsbD 0, dest := v.extractLsb' 4 5, dirty := v.getLsbD 9, nm1 := v.extractLsb' 10 2, level := v.extractLsb' 12 4,
      status := v.extractLsb' 16 8, words := v.extractLsb' 64 128 } := by
  simp only [slotOfBits, bit_toNat, ofNat_bits v (show 8 + 1 - 4 = 5 from rfl), ofNat_bits v (show 11 + 1 - 10 = 2 from rfl),
    ofNat_bits v (show 15 + 1 - 12 = 4 from rfl), ofNat_bits v (show 23 + 1 - 16 = 8 from rfl), ofNat_bits v (show 191 + 1 - 64 = 128 from rfl)]

/-- The state that bits [1:0] of CASST name (11 R283). -/
def runStateOf (n : BitVec 2) : RunState := if n = 0 then .idle else if n = 1 then .running else if n = 2 then .stopped else .faulted

theorem setCasst_eq (k : Casement) (v : Word) : k.setCasst v =
    { k with mrows := v.extractLsb' 48 16, cause := v.extractLsb' 40 8, foff := v.extractLsb' 8 24, flags := v.extractLsb' 2 6,
             state := runStateOf (v.extractLsb' 0 2),
             upc := if runStateOf (v.extractLsb' 0 2) = .running then v.extractLsb' 32 8 else k.upc,
             casUpc := if runStateOf (v.extractLsb' 0 2) = .running then k.casUpc else v.extractLsb' 32 8 } := by
  have named : bits v.toNat 1 0 = (v.extractLsb' 0 2).toNat := by rw [BitVec.extractLsb'_toNat]; rfl
  have four : v.extractLsb' 0 2 = 0 ∨ v.extractLsb' 0 2 = 1 ∨ v.extractLsb' 0 2 = 2 ∨ v.extractLsb' 0 2 = 3 := by
    generalize v.extractLsb' 0 2 = n
    revert n; decide
  simp only [Casement.setCasst, named, ofNat_bits v (show 63 + 1 - 48 = 16 from rfl), ofNat_bits v (show 47 + 1 - 40 = 8 from rfl),
    ofNat_bits v (show 31 + 1 - 8 = 24 from rfl), ofNat_bits v (show 7 + 1 - 2 = 6 from rfl), ofNat_bits v (show 39 + 1 - 32 = 8 from rfl)]
  rcases four with e | e | e | e <;> rw [e] <;> rfl

/-- HARTID, CORXY and VFID are what a hart reads of them; where it is does not change (log 74). -/
theorem ctlWrite_ids (u : State) (c : Nat) (h : BitVec 2) (v : Word) {n : Nat} (hn : n < 3) :
    { (u.as c h).ctlWrite n v with cur := u.cur } =
      u.modHart c h (fun a => { a with ids := mapSet a.ids n (v &&& ([3, 0x7FFFF, 0xF] : List Word).getD n 0) }) := by
  match n with
  | 0 | 1 | 2 => rfl

theorem debugWritable_ids {n : Nat} (hn : n < 3) : debugWritable n = true := by
  simp [debugWritable, show n ≤ 3 by omega]

theorem vf_accrueAt (s : State) (c : Nat) (h : BitVec 2) : ((s.accrueAt c h).core c).vf = (s.core c).vf := by
  rw [State.accrueAt, State.modHart, State.core_modCore_same, Core.modHart_vf]; rfl

/-! The accesses of a halted hart (R179). -/

section
variable {s : State} {c : Nat} {h : BitVec 2} (hh : s.hostsAt c h = true) (hs : (s.hartOf c h).halted = true)
include hh hs

/-- An access does what its case says. -/
theorem exec_debugAccess {x : DebugAccess} {t : State}
    (e : exec (.debugAccess c h x) s = .next (if (s.hostsAt c h && (s.hartOf c h).halted) = false then s else t)) :
    exec (.debugAccess c h x) s = .next t := by
  rw [e, if_neg (by rw [hh, hs]; decide)]

theorem exec_debugRead :
    let u := s.accrueAt c h
    exec (.debugAccess c h .read) s =
      .next { u with belineLog := u.belineLog ++ [.debugRead c h (u.core c) (s.part ((s.core c).vf.getD 0)).dwt] } := by
  have read := exec_debugAccess hh hs (x := .read) (t := (s.accrueAt c h).logBeline
    (.debugRead c h ((s.accrueAt c h).core c) ((s.accrueAt c h).part (((s.accrueAt c h).core c).vf.getD 0)).dwt)) rfl
  rwa [vf_accrueAt] at read

theorem exec_debugWriteIds {num : BitVec 12} {i : Nat} (hi : i < 3) (hn : num.toNat = i) (v : Word) :
    exec (.debugAccess c h (.writeControl num v)) s = .next ((s.accrueAt c h).modHart c h
      (fun a => { a with ids := mapSet a.ids i (v &&& ([3, 0x7FFFF, 0xF] : List Word).getD i 0) })) := by
  subst hn
  refine (exec_debugAccess hh hs rfl).trans (congrArg Host.Outcome.next ((if_pos (debugWritable_ids hi)).trans ?_))
  exact ctlWrite_ids (s.accrueAt c h) c h v hi

theorem exec_debugWriteControl_closed {num : BitVec 12} (hn : debugWritable num.toNat = false) (v : Word) :
    exec (.debugAccess c h (.writeControl num v)) s = .next s :=
  (exec_debugAccess hh hs rfl).trans (congrArg Host.Outcome.next (if_neg (by rw [hn]; decide)))

theorem exec_debugReadObject {off n : Nat} (inside : off + n ≤ (s.core c).scratchSize) :
    exec (.debugAccess c h (.readObject off n)) s =
      .next { s with belineLog := s.belineLog ++ [.debugObject c off (bytesOfLE n ((s.core c).sread off n))] } :=
  (exec_debugAccess hh hs rfl).trans (congrArg Host.Outcome.next (if_pos inside))

theorem exec_debugWritePc {v : Word} (inside : (v &&& 0x1FFFC).toNat < (s.core c).codesz.toNat) :
    exec (.debugAccess c h (.writePc v)) s = .next (s.modHart c h (fun a => { a with pc := v &&& 0x1FFFC, pastEnd := false })) :=
  (exec_debugAccess hh hs rfl).trans (congrArg Host.Outcome.next (if_pos inside))

theorem exec_debugWritePc_outside {v : Word} (outside : (s.core c).codesz.toNat ≤ (v &&& 0x1FFFC).toNat) :
    exec (.debugAccess c h (.writePc v)) s = .next s :=
  (exec_debugAccess hh hs rfl).trans (congrArg Host.Outcome.next (if_neg (Nat.not_lt.mpr outside)))

theorem exec_debugWriteG {r : BitVec 5} (hr : r ≠ 0) (v : Word) :
    exec (.debugAccess c h (.writeG r v)) s = .next (s.modHart c h (fun a => { a with g := a.g.set r.toNat v r.isLt })) :=
  (exec_debugAccess hh hs rfl).trans (congrArg Host.Outcome.next (modHart_congr (if_neg hr)))

theorem exec_debugWriteM (q : BitVec 4) (v : Word) (b : Bool) : ∃ t, exec (.debugAccess c h (.writeM q v b)) s = .next t ∧
    (t.hartOf c h).rm q = v ∧ (t.hartOf c h).isFull q = b ∧ (t.hartOf c h).pc = (s.hartOf c h).pc ∧ (t.hartOf c h).g = (s.hartOf c h).g ∧
      (t.hartOf c h).arrPend = (s.hartOf c h).arrPend ∧
      ∀ j, j ≠ q → (t.hartOf c h).rm j = (s.hartOf c h).rm j ∧ (t.hartOf c h).isFull j = (s.hartOf c h).isFull j := by
  refine ⟨s.modHart c h (fun a => (a.wm q v).setFull q b), exec_debugAccess hh hs rfl, ?_⟩
  rw [State.hartOf_modHart_same]
  refine ⟨(Hart.rm_wm _ q q v).trans (if_pos rfl), (Hart.isFull_setFull _ q q b).trans (if_pos rfl), rfl, rfl, rfl, fun j hj => ⟨?_, ?_⟩⟩
  · exact (Hart.rm_wm _ q j v).trans (if_neg hj)
  · exact (Hart.isFull_setFull _ q j b).trans (if_neg hj)

theorem exec_debugWriteSlot (q : BitVec 4) (v : BitVec 192) : exec (.debugAccess c h (.writeSlot q v)) s = .next (s.modHart c h (fun a =>
    a.setSlot q { valid := v.getLsbD 0, dest := v.extractLsb' 4 5, dirty := v.getLsbD 9, nm1 := v.extractLsb' 10 2, level := v.extractLsb' 12 4,
                  status := v.extractLsb' 16 8, words := v.extractLsb' 64 128 })) := by
  have written := exec_debugAccess hh hs (x := .writeSlot q v) (t := s.modHart c h (fun a => a.setSlot q (slotOfBits v))) rfl
  rwa [slotOfBits_eq] at written

theorem exec_debugWriteOrscnt (v : Word) : exec (.debugAccess c h (.writeOrscnt v)) s =
    .next (s.modHart c h (fun a => { a with orsLocal := v.extractLsb' 0 16, orsFab := v.extractLsb' 16 16 })) := by
  have written := exec_debugAccess hh hs (x := .writeOrscnt v) (t := s.modHart c h (fun a =>
    { a with orsLocal := BitVec.ofNat 16 (bits v.toNat 15 0), orsFab := BitVec.ofNat 16 (bits v.toNat 31 16) })) rfl
  rwa [ofNat_bits v (show 15 + 1 - 0 = 16 from rfl), ofNat_bits v (show 31 + 1 - 16 = 16 from rfl)] at written

theorem exec_debugWriteScratch {off : Nat} {bs : List Byte} (inside : off + bs.length ≤ (s.core c).scratchSize) :
    ∃ t, exec (.debugAccess c h (.writeScratch off bs)) s = .next t ∧ (t.core c).harts = (s.core c).harts ∧ t.mem = s.mem ∧
      (t.core c).lmem = ((s.core c).swrite off bs.length (leOfBytes bs)).lmem := by
  refine ⟨s.modCore c (fun k => k.debugWrite off bs), ?_, ?_⟩
  · exact (exec_debugAccess hh hs rfl).trans (congrArg Host.Outcome.next (modCore_congr (if_pos inside)))
  · rw [State.core_modCore_same]
    exact ⟨rfl, rfl, rfl⟩

theorem exec_debugWriteScratch_outside {off : Nat} {bs : List Byte} (outside : (s.core c).scratchSize < off + bs.length) :
    exec (.debugAccess c h (.writeScratch off bs)) s = .next (s.modCore c (fun k => k)) :=
  (exec_debugAccess hh hs rfl).trans (congrArg Host.Outcome.next (modCore_congr (if_neg (Nat.not_le.mpr outside))))

theorem exec_debugWriteCasst (v : Word) :
    let state := runStateOf (v.extractLsb' 0 2)
    exec (.debugAccess c h (.writeCasst v)) s = .next (s.modCore c (fun k => { k with cas := { k.cas with
      mrows := v.extractLsb' 48 16, cause := v.extractLsb' 40 8, foff := v.extractLsb' 8 24, flags := v.extractLsb' 2 6, state := state,
      upc := if state = .running then v.extractLsb' 32 8 else k.cas.upc, casUpc := if state = .running then k.cas.casUpc else v.extractLsb' 32 8 } })) := by
  have written := exec_debugAccess hh hs (x := .writeCasst v) (t := s.modCore c (fun k => { k with cas := k.cas.setCasst v })) rfl
  simpa only [setCasst_eq] using written

end

/-- Settles O52: each step of the debug path by whether the hart hosts a group and is halted; an access of a halted hart does what its case says
(`exec_debugAccess`), and what it writes is read off the fields of its operand. -/
theorem debugPath : Obligations.DebugPath := by
  unfold Obligations.DebugPath
  intro s c h v b r q t num slot off n bs u w x
  refine ⟨fun hh hr => ?_, fun hn => ?_, fun hh hs => ?_⟩
  · have hosts : s.hostsAt c h = true := hostsAt_iff.mpr hh
    exact ⟨exec_debugHalt_pends hosts hr, exec_debugStep_running hr, exec_debugResume_running hr, exec_debugAccess_none (.inr hr) x⟩
  · have hosts : s.hostsAt c h = false := Bool.eq_false_iff.mpr (mt hostsAt_iff.mp hn)
    exact ⟨exec_debugHalt_none (.inl hosts), exec_debugAccess_none (.inl hosts) x⟩
  have hosts : s.hostsAt c h = true := hostsAt_iff.mpr hh
  have access : ∀ (x : DebugAccess) (t : State),
      exec (.debugAccess c h x) s = .next (if (s.hostsAt c h && (s.hartOf c h).halted) = false then s else t) → Becomes (.debugAccess c h x) s t :=
    fun x t => exec_debugAccess hosts hs
  have casst := exec_debugWriteCasst hosts hs v
  refine ⟨exec_debugHalt_none (.inr hs), fun busy => ?_, fun done => ?_, ?_, ⟨exec_debugRead hosts hs, fun i hi hnum => exec_debugWriteIds hosts hs hi hnum v⟩,
    exec_debugReadObject hosts hs, exec_debugWritePc hosts hs, exec_debugWritePc_outside hosts hs, access (.writeMode true) _ rfl, access (.writeMode false) _ rfl,
    fun hr => exec_debugWriteG hosts hs hr v, access (.writeG 0 v) _ rfl, exec_debugWriteM hosts hs q v b, access (.writeV r t) _ rfl,
    fun closed => exec_debugWriteControl_closed hosts hs closed v, exec_debugWriteSlot hosts hs q slot, exec_debugWriteOrscnt hosts hs v,
    exec_debugWriteScratch hosts hs, exec_debugWriteScratch_outside hosts hs, access (.writeSequencer q u) _ rfl, access (.writeMicroword w v) _ rfl,
    access (.writeUpc w) _ rfl, fun i => access (.writeStarter i) _ rfl, fun e f record addr => access (.writeEngine e u f record addr) _ rfl,
    access (.writeQueue .matrix n true) _ rfl, access (.writeQueue .copy n true) _ rfl, access (.writeQueue .exponent n false) _ rfl, ?_⟩
  · refine ⟨_, exec_debugStep_holds hosts hs busy, ?_, fun i _ => ?_⟩
    · rw [State.core_setCore_same, hart_holdOthers_self]; rfl
    · rw [State.core_setCore_same, hart_held]
  · obtain ⟨mem, lmem, self, others⟩ := held_modHart (s := s) (c := c) (h := h) true
      (fun x => { x with halted := false, stepOnce := true, ibkSuppress := true })
    exact ⟨_, exec_debugStep_steps hosts hs done, mem, lmem, self, fun i hi => (others i hi).trans (hart_held _ h i)⟩
  · obtain ⟨mem, lmem, self, others⟩ := held_modHart (s := s) (c := c) (h := h) false
      (fun x => { x with halted := false, stepOnce := false, ibkSuppress := true })
    exact ⟨_, exec_debugResume_goes hosts hs, mem, lmem, self, fun i hi => (others i hi).trans (hart_released _ h i)⟩
  · refine ⟨fun e => ?_, fun e => ?_, fun e => ?_, fun e => ?_⟩ <;> rw [e] at casst <;> exact casst

end Sys2Proof.Machine
end

section
/-! SUPPORT. Scratch after a write (08 R182): the offsets below its size name different bytes of local memory. -/

namespace Sys2Proof.Machine

theorem le_nthWay (mask f w n : Nat) : w ≤ nthWay mask f w n := by
  induction f generalizing mask w n with
  | zero => exact Nat.le_refl w
  | succ f ih =>
    rw [nthWay]
    split
    · split
      · exact Nat.le_refl w
      · exact Nat.le_of_succ_le (ih _ (w + 1) _)
    · exact Nat.le_of_succ_le (ih _ (w + 1) _)

/-- The set bits of a way mask are numbered in rising order. -/
theorem nthWay_lt {mask f w m n : Nat} (hmn : m < n) (hn : n < Alu.ones mask f) : nthWay mask f w m < nthWay mask f w n := by
  induction f generalizing mask w m n with
  | zero => simp [Alu.ones] at hn
  | succ f ih =>
    rw [Alu.ones] at hn
    rw [nthWay, nthWay]
    split
    next odd =>
      rw [if_neg (show n ≠ 0 by omega)]
      split
      · exact le_nthWay _ _ (w + 1) _
      · exact ih (by omega) (by omega)
    next even => exact ih hmn (by omega)

theorem nthWay_injective {mask f w m n : Nat} (hm : m < Alu.ones mask f) (hn : n < Alu.ones mask f) (h : nthWay mask f w m = nthWay mask f w n) : m = n := by
  rcases Nat.lt_trichotomy m n with lt | eq | gt
  · exact absurd h (Nat.ne_of_lt (nthWay_lt lt hn))
  · exact eq
  · exact absurd h (Nat.ne_of_gt (nthWay_lt gt hm))

theorem loc_injective {k : Core} {o p : Nat} (ho : o < k.scratchSize) (hp : p < k.scratchSize) (h : k.loc o = k.loc p) : o = p := by
  simp only [Core.scratchSize, Core.ways] at ho hp
  simp only [Core.loc] at h
  have way : o / 32768 = p / 32768 := nthWay_injective (mask := k.waymask.toNat) (f := 12) (w := 0) (by omega) (by omega) (by omega)
  omega

theorem wf_swriteCells {k : Core} {m : List Host.Cell} (o n v : Nat) (h : Memory.wf m = true) : Memory.wf (swriteCells k m o n v) = true := by
  induction n generalizing m o v with
  | zero => exact h
  | succ n ih => exact ih _ _ (wf_memPut _ _ h)

/-- A write leaves the bytes of local memory that it does not name. -/
theorem memByte_swriteCells_other {k : Core} {m : List Host.Cell} {o n a : Nat} (v : Nat) (h : Memory.wf m = true)
    (ha : ∀ i, i < n → a ≠ k.loc (o + i)) : memByte (swriteCells k m o n v) a = memByte m a := by
  induction n generalizing m o v with
  | zero => rfl
  | succ n ih =>
    rw [swriteCells, ih _ (wf_memPut _ _ h) fun i hi => by rw [show o + 1 + i = o + (i + 1) by omega]; exact ha (i + 1) (by omega)]
    exact memByte_memPut_other _ h (ha 0 (by omega))

/-- A read depends on the way mask and on the bytes that it names. -/
theorem sread_congr {k k' : Core} {o n : Nat} (hw : k'.waymask = k.waymask)
    (h : ∀ i, i < n → memByte k'.lmem (k.loc (o + i)) = memByte k.lmem (k.loc (o + i))) : k'.sread o n = k.sread o n := by
  induction n generalizing o with
  | zero => rfl
  | succ n ih =>
    have hloc : k'.loc o = k.loc o := by rw [Core.loc, hw, Core.loc]
    have first : memByte k'.lmem (k.loc o) = memByte k.lmem (k.loc o) := h 0 (by omega)
    have others : k'.sread (o + 1) n = k.sread (o + 1) n := ih fun i hi => by
      rw [show o + 1 + i = o + (i + 1) by omega]; exact h (i + 1) (by omega)
    rw [Core.sread, Core.sread, hloc, first, others]

theorem sread_of_swriteCells {k k' : Core} {m : List Host.Cell} {o n v : Nat} (h : Memory.wf m = true) (hin : o + n ≤ k.scratchSize)
    (hw : k'.waymask = k.waymask) (hm : k'.lmem = swriteCells k m o n v) : k'.sread o n = v % 2 ^ (8 * n) := by
  induction n generalizing m o v with
  | zero => simp [Core.sread, Nat.mod_one]
  | succ n ih =>
    have first : memByte k'.lmem (k.loc o) = BitVec.ofNat 8 v := by
      rw [hm, swriteCells, memByte_swriteCells_other _ (wf_memPut _ _ h) fun i hi e => ?_, memByte_memPut_same _ _ h]
      have := loc_injective (by omega) (by omega) e
      omega
    have hloc : k'.loc o = k.loc o := by rw [Core.loc, hw, Core.loc]
    rw [Core.sread, hloc, first, ih (wf_memPut _ _ h) (by omega) hm, BitVec.toNat_ofNat, show 8 * (n + 1) = 8 + 8 * n by omega, Nat.pow_add, Nat.mod_mul]

/-- Settles O10: the bytes of a write lie at different places (`loc_injective`), and no other read meets one of them. -/
theorem scratchReadAfterWrite : Obligations.ScratchReadAfterWrite := by
  unfold Obligations.ScratchReadAfterWrite
  intro k o n v wf inside
  refine ⟨sread_of_swriteCells wf inside rfl rfl, fun o' n' inside' apart => ?_, wf_swriteCells o n v wf⟩
  refine sread_congr rfl fun i' hi' => memByte_swriteCells_other v wf fun i hi e => ?_
  have := loc_injective (by omega) (by omega) e
  omega

end Sys2Proof.Machine
end

section
/-! SUPPORT. What region instructions do with the cache ways (08 R194 to R198): write-backs first, and nothing to do where nothing is dirty. -/

namespace Sys2Proof.Machine

/-! Checks: the first that fails is the trap. -/

theorem guarded_pass {s : State} {cs : List (Option Trap)} (h : cs.findSome? id = none) (k : State → State) : s.guarded cs k = k s := by
  simp only [State.guarded, h]

theorem guarded_fail {s : State} {cs : List (Option Trap)} {t : Trap} (h : cs.findSome? id = some t) (k : State → State) : s.guarded cs k = s.raise t := by
  simp only [State.guarded, h]

theorem bits_62_48 {a : Nat} (h : a < 2 ^ 48) : bits a 62 48 = 0 := by
  rw [bits, Nat.shiftRight_eq_div_pow]; omega

theorem msb_eq_false {a : Word} (h : a.toNat < 2 ^ 48) : a.msb = false := by
  rw [BitVec.msb_eq_decide]; simp; omega

theorem objCheck_passes {obj : Word} (h8 : obj.toNat % 8 = 0) (h48 : obj.toNat < 2 ^ 48) : (objCheck obj).findSome? id = none := by
  simp [objCheck, h8]; omega

theorem rangeChecks_passes {a n : Word} (ha : a.toNat < 2 ^ 48) (hn : a.toNat + n.toNat ≤ 2 ^ 48) : (rangeChecks a n).findSome? id = none := by
  simp [rangeChecks, msb_eq_false ha, bits_62_48 ha]; omega

/-- No byte at 2^48, which lies above every global address (log 33). -/
theorem rangeChecks_edge {a n : Word} (ha : a.toNat = 2 ^ 48) : (rangeChecks a n).findSome? id = some ⟨0x05, a, 0⟩ := by
  have hmsb : a.msb = false := by rw [BitVec.msb_eq_decide, ha]; rfl
  have hbits : bits a.toNat 62 48 ≠ 0 := by rw [ha]; decide
  simp [rangeChecks, hmsb, hbits, cXLATE]

/-- The other entries do not meet the range of an RBIND. -/
def State.apartFrom (s : State) (e : BitVec 3) (b z : Nat) : Prop :=
  ∀ i : BitVec 3, i ≠ e → (s.cc.region i).valid = true → b + z ≤ (s.cc.region i).base ∨ (s.cc.region i).base + 512 * (s.cc.region i).size ≤ b

theorem rbindChecks_passes {s : State} {e : BitVec 3} {base size obj : Word} (hb : base.toNat % 512 = 0) (hz : size.toNat % 512 = 0) (hz0 : 0 < size.toNat)
    (ho : obj.toNat % 8 = 0) (ho48 : obj.toNat < 2 ^ 48) (hend : base.toNat + size.toNat ≤ 2 ^ 48) (apart : s.apartFrom e base.toNat size.toNat) :
    (s.rbindChecks e base size obj).findSome? id = none := by
  have none : ∀ l : List (BitVec 3), l.any (fun i => i != e && (s.cc.region i).valid &&
      overlaps (s.cc.region i).base (512 * (s.cc.region i).size) base.toNat size.toNat) = false := by
    refine fun l => List.any_eq_false.mpr fun i _ h => ?_
    simp only [Bool.and_eq_true, bne_iff_ne, overlaps, decide_eq_true_eq] at h
    have := apart i h.1.1 h.1.2
    omega
  simp [State.rbindChecks, hb, hz, Nat.ne_of_gt hz0, ho, none]; omega

/-! Write-backs (R194). -/

/-- The request that writes the dirty bytes of a sector back from core c. -/
def Req.writesBack (r : Req) (c : Nat) (x : Sector) : Prop :=
  r.src = .core c ∧ r.kind = .writeBack x.data x.dirty x.poison ∧ r.ea = BitVec.ofNat 64 x.addr

theorem patchFill_writesBack {r : Req} {c : Nat} {x : Sector} (h : r.writesBack c x) (c' : Nat) (y : Sector) : patchFill c' y r = r := by
  have notFill : r.fillsFor c' y.addr = false := by simp [Req.fillsFor, h.2.1]
  unfold patchFill
  split
  · rw [notFill]; rfl
  · rfl

/-- Sending write-backs touches the requests on their way and what their launch counts. -/
theorem sendBacks_eq (s : State) (c : Nat) (xs : List Sector) :
    ∃ net next launches, s.sendBacks c xs = { s with net := net, nextId := next, launches := launches } := by
  unfold State.sendBacks
  induction xs generalizing s with
  | nil => exact ⟨s.net, s.nextId, s.launches, rfl⟩
  | cons x xs ih =>
    rw [List.foldl_cons]
    split
    · exact ih s
    · obtain ⟨net, next, launches, e⟩ := ih _
      exact ⟨net, next, launches, e⟩

theorem sendBacks_clean {s : State} {c : Nat} {xs : List Sector} (h : ∀ x ∈ xs, x.dirty = 0) : s.sendBacks c xs = s := by
  unfold State.sendBacks
  induction xs with
  | nil => rfl
  | cons x xs ih =>
    rw [List.foldl_cons, if_pos (h x List.mem_cons_self)]
    exact ih fun y hy => h y (List.mem_cons_of_mem x hy)

/-- A write-back on its way stays on its way while others are sent. -/
theorem mem_net_sendBacks {s : State} {r : Req} {c' : Nat} {x : Sector} (hr : r ∈ s.net) (h : r.writesBack c' x) (c : Nat) (xs : List Sector) :
    r ∈ (s.sendBacks c xs).net := by
  unfold State.sendBacks
  induction xs generalizing s with
  | nil => exact hr
  | cons y xs ih =>
    rw [List.foldl_cons]
    refine ih ?_
    split
    · exact hr
    · exact List.mem_map.mpr ⟨r, List.mem_append_left _ hr, patchFill_writesBack h c y⟩

theorem exists_writeBack {s : State} {c : Nat} {xs : List Sector} {x : Sector} (hx : x ∈ xs) (hd : x.dirty ≠ 0) :
    ∃ r ∈ (s.sendBacks c xs).net, r.writesBack c x := by
  induction xs generalizing s with
  | nil => cases hx
  | cons y xs ih =>
    rcases List.mem_cons.mp hx with rfl | later
    · let r : Req := { wbReq c (s.core c) x with id := s.nextId }
      have back : r.writesBack c x := ⟨rfl, rfl, rfl⟩
      refine ⟨r, ?_, back⟩
      show r ∈ (State.sendBacks (if x.dirty = 0 then s else _) c xs).net
      rw [if_neg hd]
      refine mem_net_sendBacks ?_ back c xs
      exact List.mem_map.mpr ⟨r, List.mem_append_right _ (List.mem_singleton.mpr rfl), patchFill_writesBack back c x⟩
    · exact ih later

/-! A flush before an instruction goes on. -/

theorem dirty_of_anyDirty {k : Core} {p : Sector → Bool} (h : k.anyDirty p = false) {x : Sector} (hx : x ∈ k.cache) (hp : p x = true) : x.dirty = 0 := by
  have := List.any_eq_false.mp h x hx
  simpa [hp] using this

theorem flush_clean {s : State} {c : Nat} {p : Sector → Bool} (h : (s.core c).anyDirty p = false) (drop : Bool) :
    s.flush c p drop = s.modCore c (fun k => { k with cache := if drop then k.cache.filter (fun x => !p x) else k.cache }) := by
  have clean : ∀ x ∈ (s.core c).cache, p x = true → x.dirty = 0 := fun x hx hp => dirty_of_anyDirty h hx hp
  rw [State.flush, sendBacks_clean fun x hx => clean x (List.mem_filter.mp hx).1 (List.mem_filter.mp hx).2]
  refine modCore_congr ?_
  cases drop with
  | true => rfl
  | false =>
    have same : updWhere p (fun x => { x with dirty := 0 }) (s.core c).cache = (s.core c).cache := by
      refine (List.map_congr_left fun x hx => ?_).trans (List.map_id _)
      split
      next hp => rw [← clean x hx hp]; rfl
      next => rfl
    simp only [Bool.false_eq_true, if_false, same]

/-- Nothing that the test picks has dirty bytes, lies in a way that another hart's WAYSET changes, or is on its way back. -/
structure State.Clean (s : State) (p : Sector → Bool) : Prop where
  held : s.flushHeld p = false
  dirty : s.cc.anyDirty p = false
  backs : s.backsPending s.cur.core = false

theorem flushed_clean {s : State} {p : Sector → Bool} (h : s.Clean p) (drop : Bool) (k : State → State) : s.flushed p drop k =
    k (s.mapCore (fun k => { k with cache := if drop then k.cache.filter (fun x => !p x) else k.cache })) := by
  have dirty : (s.core s.cur.core).anyDirty p = false := h.dirty
  have backs : (s.flush s.cur.core p drop).backsPending s.cur.core = false := by rw [flush_clean dirty]; exact h.backs
  simp only [State.flushed, h.held, h.dirty, backs, Bool.or_self, Bool.false_eq_true, if_false]
  rw [flush_clean dirty]
  rfl

/-- Sectors with dirty bytes are written back, and the instruction waits in place. -/
theorem flushed_dirty {s : State} {p : Sector → Bool} (held : s.flushHeld p = false) (dirty : s.cc.anyDirty p = true) (drop : Bool) (k : State → State) :
    s.flushed p drop k = (s.flush s.cur.core p drop).blockOn (.writeBack none) := by
  simp only [State.flushed, held, dirty, Bool.true_or, Bool.false_eq_true, if_false, if_true]

theorem flushed_held {s : State} {p : Sector → Bool} (held : s.flushHeld p = true) (drop : Bool) (k : State → State) : s.flushed p drop k = s := by
  simp only [State.flushed, held, if_true]

theorem hart_flush (s : State) (p : Sector → Bool) (drop : Bool) : (s.flush s.cur.core p drop).hart = s.hart := by
  obtain ⟨net, next, launches, e⟩ := sendBacks_eq s s.cur.core ((s.core s.cur.core).cache.filter p)
  simp only [State.flush, e, State.hart, State.cc, State.modCore_cur, State.core_modCore_same]
  rfl

theorem mem_flush (s : State) (p : Sector → Bool) (drop : Bool) : (s.flush s.cur.core p drop).mem = s.mem := by
  obtain ⟨net, next, launches, e⟩ := sendBacks_eq s s.cur.core ((s.core s.cur.core).cache.filter p)
  simp only [State.flush, e, State.modCore_mem]

/-- An instruction that flushes what p picks, first of all (R194; R187). -/
theorem flush_comes_first {i : Instr} {s : State} {p : Sector → Bool} {drop : Bool} {k : State → State} (e : exec i s = .next (s.flushed p drop k)) :
    (s.flushHeld p = true → exec i s = .next s) ∧ (s.flushHeld p = false → s.cc.anyDirty p = true →
      ∃ t, exec i s = .next t ∧ t.hart.block = some (.writeBack none) ∧ t.hart.pc = s.hart.pc ∧ (∀ r, t.hart.rg r = s.hart.rg r) ∧ t.mem = s.mem ∧
        (∀ x ∈ s.cc.cache, p x = true → x.dirty ≠ 0 → ∃ r ∈ t.net, r.src = .core s.cur.core ∧ r.kind = .writeBack x.data x.dirty x.poison ∧
          r.ea = BitVec.ofNat 64 x.addr)) := by
  refine ⟨fun held => by rw [e, flushed_held held], fun held dirty => ⟨_, by rw [e, flushed_dirty held dirty], ?_⟩⟩
  have hart : ((s.flush s.cur.core p drop).blockOn (.writeBack none)).hart = { s.hart with block := some (.writeBack none) } := by
    rw [State.blockOn, State.hart_mapHart, hart_flush]
  rw [hart]
  exact ⟨rfl, rfl, fun _ => rfl, mem_flush s p drop, fun x hx hp hd => exists_writeBack (List.mem_filter.mpr ⟨hx, hp⟩) hd⟩

end Sys2Proof.Machine
end

section
/-! SUPPORT. The statements on the region, cache, synchronisation and way instructions (08 R186, R187, R194 to R198). -/

namespace Sys2Proof.Machine

/-- A change of the executing core that leaves the hart's pc alone, and then a retirement without a register write. -/
theorem wrote_mapCore_retire {s : State} {f : Core → Core} (u : SameUnit s.cc (f s.cc)) : Wrote (s.mapCore f) (s.mapCore f).retire [] (s.hart.pc + 4) 0 := by
  have hpc : (s.mapCore f).hart.pc = s.hart.pc := by
    rw [State.hart, State.cc_mapCore]
    exact u.pc s.cur.hart
  rw [← hpc]
  exact wrote_retire (s.mapCore f) 4

theorem sameUnit_cache (k : Core) (c : List Sector) : SameUnit k { k with cache := c } := ⟨rfl, fun _ => rfl, fun _ => rfl⟩

/-! A change of the core that changes nothing is lost behind one of its hart. -/

theorem mapCore_self_mapHart (s : State) (f : Hart → Hart) : (s.mapCore (fun k => k)).mapHart f = s.mapHart f :=
  State.modCore_modCore s s.cur.core (fun k => k) (fun k => k.modHart s.cur.hart f)

theorem State.mapCore_mapCore (s : State) (f g : Core → Core) : (s.mapCore f).mapCore g = s.mapCore (fun k => g (f k)) :=
  State.modCore_modCore s s.cur.core f g

/-- What is fetched again depends on the requests on their way alone. -/
theorem State.mapCore_refetch (s : State) (f : Core → Core) (c : Nat) (q : Sector → Bool) :
    (s.mapCore f).refetch c q = (s.refetch c q).mapCore f := rfl

/-- Sectors leave the cache ways where they are clean; older copies are fetched again, and the core's other parts become those of f. -/
theorem drops_clean {i : Instr} {s : State} {p q : Sector → Bool} {f : Core → Core} (clean : s.Clean p) (u : ∀ k, SameUnit k (f k))
    (e : exec i s = .next (s.flushed p true (fun s => ((s.refetch s.cur.core q).mapCore f).retire))) :
    ∃ t, exec i s = .next t ∧
      Wrote ((s.refetch s.cur.core q).mapCore (fun k => f { k with cache := k.cache.filter (fun x => !p x) })) t [] (s.hart.pc + 4) 0 := by
  refine ⟨_, by rw [e, flushed_clean clean], ?_⟩
  rw [State.mapCore_refetch, State.mapCore_mapCore, State.mapCore_cur]
  exact wrote_mapCore_retire (s := s.refetch s.cur.core q) ((sameUnit_cache _ _).trans (u _))

/-- Clean sectors stay where they are. -/
theorem keeps_clean {s : State} {p : Sector → Bool} (clean : s.Clean p) (k : State → State) : s.flushed p false k = k (s.mapCore (fun k => k)) :=
  flushed_clean clean false k

/-! ACQ and REL (R196, R197). -/

theorem exec_acquire {i : Instr} {s : State} {a : BitVec 5} {x : Bool} (e : exec i s = .next (s.acquire a x)) (ho : s.hart.outst = [])
    (h8 : (s.resolve (s.rg a)).toNat % 8 = 0) (h48 : (s.resolve (s.rg a)).toNat < 2 ^ 48) (apart : s.overlapping (s.resolve (s.rg a)) 8 = false) :
    Waits i s (s.reqOf .request (.acq x) (s.resolve (s.rg a))) .acq := by
  rw [Waits, e, State.acquire, quietly_of_outst_nil ho, guarded_pass (objCheck_passes h8 h48), apart]
  rfl

theorem quiet_of_outst_nil {h : Hart} (ho : h.outst = []) : h.quiet = true := by simp [Hart.quiet, ho]

/-- A release, once the hart's earlier accesses are performed, writes back and asks the home. -/
theorem exec_release {i : Instr} {s : State} {a : BitVec 5} {x : Bool} (e : exec i s = .next (s.releaseObj a x)) (ho : s.hart.outst = [])
    (hl : s.hart.orsLocal = 0) (hf : s.hart.orsFab = 0) (h8 : (s.resolve (s.rg a)).toNat % 8 = 0) (h48 : (s.resolve (s.rg a)).toNat < 2 ^ 48) :
    exec i s = .next (s.flushed (s.cc.ofObj (s.resolve (s.rg a)).toNat) false (fun t =>
      (t.send (t.reqOf .request (.rel x) (s.resolve (s.rg a)))).blockOn (.rel t.nextId))) := by
  have zero : s.hart.orsZero = true := by simp [Hart.orsZero, hl, hf]
  rw [e, State.releaseObj]
  simp only [quiet_of_outst_nil ho, Bool.true_eq_false, if_false]
  rw [guarded_pass (objCheck_passes h8 h48), if_pos zero]

theorem waits_release {i : Instr} {s : State} {ea : Word} {x : Bool} {p : Sector → Bool} (clean : s.Clean p)
    (e : exec i s = .next (s.flushed p false (fun t => (t.send (t.reqOf .request (.rel x) ea)).blockOn (.rel t.nextId)))) :
    Waits i s (s.reqOf .request (.rel x) ea) .rel := by
  have req : (s.mapCore (fun k => k)).reqOf .request (.rel x) ea = s.reqOf .request (.rel x) ea := by
    simp only [State.reqOf, State.hart, State.cc_mapCore, State.mapCore_cur]
  rw [Waits, e, keeps_clean clean, req]
  exact congrArg Host.Outcome.next (mapCore_self_mapHart (s.send (s.reqOf .request (.rel x) ea)) _)

/-! The instructions whose checks pass. -/

theorem exec_rbind {s : State} {e : BitVec 3} {a b : BitVec 5}
    (h : (s.rbindChecks e (s.resolve (s.rg a)) (s.rg b) (s.resolve (s.rg (b + 1)))).findSome? id = none) :
    exec (.rbind e a b) s = .next (s.flushed (s.cc.region e).covers true (fun t =>
      ((t.refetch t.cur.core (fun x => (s.cc.region e).covers x || x.within (s.resolve (s.rg a)).toNat (s.rg b).toNat)).mapCore (fun k =>
        k.setRegion e ⟨true, (s.resolve (s.rg a)).toNat, (s.rg b).toNat / 512, (s.resolve (s.rg (b + 1))).toNat⟩)).retire)) :=
  congrArg Host.Outcome.next (guarded_pass h _)

theorem exec_runbind {s : State} {e : BitVec 3} (h : (s.cc.region e).valid = true) :
    exec (.runbind e) s = .next (s.flushed (s.cc.region e).covers true (fun t =>
      ((t.refetch t.cur.core (s.cc.region e).covers).mapCore (fun k => k.setRegion e {})).retire)) :=
  congrArg Host.Outcome.next (if_pos h)

theorem exec_cwb {s : State} {a b : BitVec 5} (h : (rangeChecks (s.resolve (s.rg a)) (s.rg b)).findSome? id = none) :
    exec (.cwb a b) s = .next (s.flushed (fun x => x.within (s.resolve (s.rg a)).toNat (s.rg b).toNat) false (fun t => t.retire)) :=
  congrArg Host.Outcome.next (guarded_pass h _)

theorem exec_cinv {s : State} {a b : BitVec 5} (h : (rangeChecks (s.resolve (s.rg a)) (s.rg b)).findSome? id = none) :
    exec (.cinv a b) s = .next (s.flushed (fun x => x.within (s.resolve (s.rg a)).toNat (s.rg b).toNat) true (fun t =>
      (t.refetch t.cur.core (fun x => x.within (s.resolve (s.rg a)).toNat (s.rg b).toNat)).retire)) :=
  congrArg Host.Outcome.next (guarded_pass h _)

theorem sameUnit_setRegion (e : BitVec 3) (r : Region) (k : Core) : SameUnit k (k.setRegion e r) := ⟨rfl, fun _ => rfl, fun _ => rfl⟩

/-- Settles O22: each of the instructions flushes first (`flush_comes_first`). -/
theorem writeBacksFirst : Obligations.WriteBacksFirst := by
  unfold Obligations.WriteBacksFirst
  intro s e a b A size waits
  refine ⟨fun valid => flush_comes_first (exec_runbind valid), fun pass => flush_comes_first (exec_rbind pass), fun hA hend => ?_,
    fun ho hl hf h8 h48 => ⟨flush_comes_first (exec_release rfl ho hl hf h8 h48), flush_comes_first (exec_release rfl ho hl hf h8 h48)⟩⟩
  have pass := rangeChecks_passes hA hend
  exact ⟨flush_comes_first (exec_cwb pass), flush_comes_first (exec_cinv pass)⟩


/-! WAYSET (R186, R187). -/

theorem sameUnit_reway (k : Core) (m : BitVec 12) : SameUnit k { k.reway m with wayWait := none } := ⟨rfl, fun _ => rfl, fun _ => rfl⟩

/-- A WAYSET that leaves the code ways alone, while no other one waits. -/
theorem exec_wayset {s : State} {d a : BitVec 5} (ho : s.hart.outst = []) (w : s.writable d) (h12 : (s.rg a).toNat < 2 ^ 12)
    (code : lowestWays (s.rg a).toNat ((s.cc.codesz.toNat + 32767) / 32768) = lowestWays s.cc.waymask.toNat ((s.cc.codesz.toNat + 32767) / 32768))
    (mine : ∀ w, s.cc.wayWait = some w → w.1 = s.cur.hart) :
    exec (.wayset d a) s = .next (
      if s.wayBusy (BitVec.ofNat 12 (s.rg a).toNat) then s.mapCore (fun k => { k with wayWait := some (s.cur.hart, BitVec.ofNat 12 (s.rg a).toNat) })
      else (s.mapCore (fun k => { k.reway (BitVec.ofNat 12 (s.rg a).toNat) with wayWait := none })).writeRetire d (s.cc.waymask.setWidth 64)) := by
  have notOther : s.cc.wayWait.any (fun w => w.1 != s.cur.hart) = false := by
    cases hw : s.cc.wayWait with
    | none => rfl
    | some w => simp [mine w hw]
  have inRange : ¬((s.rg a).toNat / 2 ^ 12 ≠ 0 ∨ lowestWays (s.rg a).toNat ((s.cc.codesz.toNat + 32767) / 32768) ≠
      lowestWays s.cc.waymask.toNat ((s.cc.codesz.toNat + 32767) / 32768)) := by
    rw [code, Nat.div_eq_of_lt h12]; simp
  show execWayset d a s = _
  rw [execWayset, quietly_of_outst_nil ho, ← BitVec.ofNat_toNat]
  simp only [if_neg inRange, boundCheck_writable w, guarded_none, guarded_nil, notOther, Bool.false_eq_true, if_false]

/-- The bytes and sectors of a way whose use changes leave it (R186). -/
theorem reway_eq (k : Core) {new : Nat} (h : new < 2 ^ 12) : k.reway (BitVec.ofNat 12 new) =
    { k with waymask := BitVec.ofNat 12 new, lmem := k.lmem.filter (fun c => bit k.waymask.toNat (c.1 / 32768) == bit new (c.1 / 32768)),
             lpoison := k.lpoison.filter (fun x => bit k.waymask.toNat (128 * x / 32768) == bit new (128 * x / 32768)),
             cache := k.cache.filter (fun x => bit k.waymask.toNat x.way == bit new x.way) } := by
  simp only [Core.reway, BitVec.toNat_ofNat, Nat.mod_eq_of_lt h, bne, Bool.not_not]

/-- Settles O21: an instruction whose checks pass flushes first, which is nothing here (`drops_clean`, `keeps_clean`). -/
theorem regionInstructions : Obligations.RegionInstructions := by
  unfold Obligations.RegionInstructions
  intro s e d a b G A size obj old new clean covered drops
  have clean_of : ∀ {p}, clean p → s.Clean p := fun ⟨held, dirty, backs⟩ => ⟨held, dirty, backs⟩
  refine ⟨?rbind, ?runbind, ?runbindEmpty, ?cache, ?edge, ?sync, ?wayset⟩
  case rbind =>
    intro hA hsize hsize0 h8 h48 hend apart hclean
    exact drops_clean (clean_of hclean) (sameUnit_setRegion e _) (exec_rbind (rbindChecks_passes hA hsize hsize0 h8 h48 hend apart))
  case runbind =>
    exact fun valid hclean => drops_clean (clean_of hclean) (sameUnit_setRegion e {}) (exec_runbind valid)
  case runbindEmpty =>
    refine fun empty => ⟨s.retire, ?_, wrote_retire s 4⟩
    exact congrArg Host.Outcome.next (if_neg (by rw [empty]; exact Bool.false_ne_true))
  case cache =>
    intro hA hend hclean
    have pass := rangeChecks_passes hA hend
    refine ⟨⟨s.retire, ?_, wrote_retire s 4⟩, ?_⟩
    · rw [exec_cwb pass, keeps_clean (clean_of hclean)]
      exact congrArg Host.Outcome.next (mapCore_self_mapHart s _)
    · refine drops_clean (f := fun k => k) (clean_of hclean) (fun k => ⟨rfl, fun _ => rfl, fun _ => rfl⟩) ((exec_cinv pass).trans ?_)
      exact congrArg (fun k => Host.Outcome.next (s.flushed covered true k)) (funext fun t => (mapCore_self_mapHart (t.refetch t.cur.core covered) _).symm)
  case edge =>
    intro ready hA _
    have fail : (rangeChecks G (s.rg b)).findSome? id = some ⟨0x05, G, 0⟩ := rangeChecks_edge hA
    exact ⟨traps_of_raise (t := ⟨0x05, G, 0⟩) ready (congrArg Host.Outcome.next (guarded_fail fail _)),
      traps_of_raise (t := ⟨0x05, G, 0⟩) ready (congrArg Host.Outcome.next (guarded_fail fail _))⟩
  case sync =>
    intro ho h8 h48
    refine ⟨fun apart => ⟨exec_acquire rfl ho h8 h48 apart, exec_acquire rfl ho h8 h48 apart⟩, fun hl hf hclean => ?_⟩
    exact ⟨waits_release (clean_of hclean) (exec_release rfl ho hl hf h8 h48), waits_release (clean_of hclean) (exec_release rfl ho hl hf h8 h48)⟩
  case wayset =>
    intro ho w h12 code mine stays
    have answer := exec_wayset ho w h12 code mine
    refine ⟨fun busy => by rw [answer, if_pos busy], fun free => ⟨_, by rw [answer, if_neg (by rw [free]; exact Bool.false_ne_true)], ?_⟩⟩
    have changed : s.mapCore (fun k => { k.reway (BitVec.ofNat 12 new) with wayWait := none }) = s.mapCore (fun k =>
        { k with waymask := BitVec.ofNat 12 new, lmem := k.lmem.filter (fun c => stays (c.1 / 32768)),
                 lpoison := k.lpoison.filter (fun x => stays (128 * x / 32768)), cache := k.cache.filter (fun x => stays x.way), wayWait := none }) :=
      modCore_congr (by rw [reway_eq _ h12]; rfl)
    rw [← changed]
    exact wrote_mapCore_writeRetire (f := fun k => { k.reway (BitVec.ofNat 12 new) with wayWait := none }) (sameUnit_reway _ _) d _

end Sys2Proof.Machine
end

section
/-! SUPPORT. An entry of the region table that is valid and holds no line, which meets no range (08 R192, R195). -/

namespace Sys2Proof.Machine

/-- Hart 0 of core 0 in a code region of 1 KiB, with nothing outstanding; entry 1 is valid, begins at 512 and holds no line; g3 holds 1,024. -/
def State.withEmptyEntry : State :=
  (State.reset.mapCore (fun k => { k with codesz := 1024, regions := k.regions.set 1 ⟨true, 512, 0, 0⟩ })).mapHart (fun h =>
    { h with xvec := 512, g := h.g.set 3 1024 })

/-- Refutes O25: RBIND compares ranges by `overlaps`, and an entry that is valid and holds no line shares a byte with none; the statement's
`base < A + size ∧ A < base + 512 * 0` holds where `base` lies inside the range. So RBIND of [0, 1024) beside an entry of no line at 512 completes,
and the hart goes on at 4 where BOUNDS would put it at its handler. No RBIND makes such an entry (R195: ALIGN for a size of 0). -/
theorem not_regionAndObjectTraps : ¬ Obligations.RegionAndObjectTraps := by
  unfold Obligations.RegionAndObjectTraps
  intro h
  obtain ⟨-, -, -, overlap, -⟩ := h.1 State.withEmptyEntry 0 0 2 3 (by decide +kernel)
  have trap := overlap (by decide +kernel) (by decide +kernel) (by decide +kernel) ⟨1, by decide +kernel⟩
  have completes := exec_rbind (s := State.withEmptyEntry) (e := 0) (a := 2) (b := 3) (by decide +kernel)
  rw [flushed_clean ⟨by decide +kernel, by decide +kernel, by decide +kernel⟩] at completes
  have same := Host.Outcome.next.inj (completes.symm.trans trap)
  have pcs := congrArg (fun t : State => t.hart.pc) same
  revert pcs
  decide +kernel

end Sys2Proof.Machine
end

section
/-! SUPPORT. Barrier objects of the own scratch (08 R199 to R201): their fields, and what each instruction makes of one. -/

namespace Sys2Proof.Machine

/-! The fields of an object (R199). -/

theorem bits_lt (x h l : Nat) : bits x h l < 2 ^ (h + 1 - l) := Nat.mod_lt _ (by positivity)

/-- An object put together from its fields is read back field by field. -/
theorem barMk_fields {p e f : Nat} (hp : p < 2 ^ 36) (he : e < 2 ^ 16) (hf : f < 2 ^ 3) (r : Nat) (ph : Bool) :
    barPENDING (barMk p e r ph f) = p ∧ barEXPECTED (barMk p e r ph f) = e ∧ barARRIVED (barMk p e r ph f) = r % 2 ^ 16 ∧
    barPHASE (barMk p e r ph f) = ph ∧ barFaults (barMk p e r ph f) = f := by
  simp only [barPENDING, barEXPECTED, barARRIVED, barPHASE, barFaults, barMk, bits, bit, Nat.shiftRight_eq_div_pow]
  have hr : r % 2 ^ 16 < 2 ^ 16 := Nat.mod_lt _ (by decide)
  cases ph <;> simp only [b2n, Bool.false_eq_true, if_true, if_false, beq_iff_eq, beq_eq_false_iff_ne, ne_eq] <;> omega

/-- An object written out, where ARRIVED fits its field. -/
theorem barMk_eq {r : Nat} (hr : r < 2 ^ 16) (p e : Nat) (ph : Bool) (f : Nat) :
    barMk p e r ph f = p + e * 2 ^ 64 + r * 2 ^ 80 + b2n ph * 2 ^ 100 + f * 2 ^ 101 := by rw [barMk, Nat.mod_eq_of_lt hr]

theorem barComplete_barMk {p e : Nat} (hp : p < 2 ^ 36) (he : e < 2 ^ 16) (r : Nat) (ph : Bool) :
    barComplete (barMk p e r ph 0) = if r % 2 ^ 16 = e ∧ p = 0 then barMk 0 e 0 (!ph) 0 else barMk p e r ph 0 := by
  obtain ⟨pending, expected, arrived, phase, faults⟩ := barMk_fields hp he (f := 0) (by decide) r ph
  have again : barMk p e (r % 2 ^ 16) ph 0 = barMk p e r ph 0 := by simp only [barMk, Nat.mod_mod]
  simp only [barComplete, pending, expected, arrived, phase, faults, and_true, again]

/-! BARR (R201) on each of its cases. -/

section
variable {b : Nat}

theorem barArrive_faulted (h : barFaults b ≠ 0) : barArrive b = ⟨b, .error (barFaults b)⟩ := if_pos h

variable (h0 : barFaults b = 0)
include h0

theorem barArrive_over (h : barARRIVED b = barEXPECTED b) :
    barArrive b = ⟨barMk (barPENDING b) (barEXPECTED b) (barARRIVED b) (barPHASE b) 4, .error 4⟩ := by simp [barArrive, h0, h]

/-- An arrival that is counted; the last one flips the phase where no byte is pending. -/
theorem barArrive_counts (h : barARRIVED b ≠ barEXPECTED b) :
    barArrive b = if (barARRIVED b + 1) % 2 ^ 16 = barEXPECTED b ∧ barPENDING b = 0
      then ⟨barMk 0 (barEXPECTED b) 0 (!barPHASE b) 0, .ok (b2n (barPHASE b) + 2)⟩
      else ⟨barMk (barPENDING b) (barEXPECTED b) (barARRIVED b + 1) (barPHASE b) 0, .ok (b2n (barPHASE b))⟩ := by
  have hp : barPENDING b < 2 ^ 36 := bits_lt b 35 0
  have he : barEXPECTED b < 2 ^ 16 := bits_lt b 79 64
  simp only [barArrive, h0, h, ne_eq, not_true_eq_false, if_false, barComplete_barMk hp he]
  split
  · rw [(barMk_fields (by decide) he (by decide) 0 (!barPHASE b)).2.2.2.1]
    cases barPHASE b <;> rfl
  · rw [(barMk_fields hp he (by decide) (barARRIVED b + 1) (barPHASE b)).2.2.2.1, bne_self_eq_false]
    rfl

end

/-! An object of the own scratch (R200). -/

theorem classify_aligned {s : State} {ea : Word} {al n : Nat} {win : Bool} {p : Place} (h : s.classify ea al n win = .ok p) : ea.toNat % al = 0 := by
  by_contra mis
  rw [classify_misaligned mis] at h
  cases h

theorem ownObject_own {s : State} {ea : Word} {n off : Nat} (h : s.classify ea n n false = .ok (.own off)) : s.ownObject ea n = .ok off := by
  simp only [State.ownObject, classify_aligned h, h, ne_eq, not_true_eq_false, if_false]

/-- An instruction on an object that it may use at once. -/
theorem onObject_own {s : State} {d a : BitVec 5} {n off : Nat} (w : s.writable d) (h : s.classify (s.resolve (s.rg a)) n n false = .ok (.own off))
    (free : s.wayHeld (.own off) (s.resolve (s.rg a)) n = false) (k : State → Word → Nat → State) :
    s.onObject d a n k = k s (s.resolve (s.rg a)) off := by
  simp only [State.onObject, guarded_bound w, ownObject_own h, free, Bool.false_eq_true, if_false]

/-! Writing an object, and a trap that keeps what has been written (R201). -/

/-- What taking a trap looks at. -/
structure SameTrap (k k' : Core) : Prop where
  codesz : k'.codesz = k.codesz
  harts : ∀ h, (k'.hart h).outst = (k.hart h).outst ∧ (k'.hart h).stopping = (k.hart h).stopping ∧ (k'.hart h).xvec = (k.hart h).xvec

theorem SameTrap.trans {a b c : Core} (x : SameTrap a b) (y : SameTrap b c) : SameTrap a c :=
  ⟨y.codesz.trans x.codesz, fun h => ⟨(y.harts h).1.trans (x.harts h).1, (y.harts h).2.1.trans (x.harts h).2.1, (y.harts h).2.2.trans (x.harts h).2.2⟩⟩

theorem sameTrap_noteCodeStore (k : Core) (o n : Nat) : SameTrap k (k.noteCodeStore o n) := by
  unfold Core.noteCodeStore
  simp only
  split
  · exact ⟨rfl, fun _ => ⟨rfl, rfl, rfl⟩⟩
  · exact ⟨rfl, fun h => by simp [Core.hart, Vector.get_eq_getElem]⟩

theorem barFlip_keeps (o v : Nat) (h : Hart) : (h.barFlip o v).outst = h.outst ∧ (h.barFlip o v).stopping = h.stopping ∧
    (h.barFlip o v).xvec = h.xvec ∧ (h.barFlip o v).mode = h.mode ∧ (h.barFlip o v).pc = h.pc := by
  unfold Hart.barFlip
  split
  · split <;> exact ⟨rfl, rfl, rfl, rfl, rfl⟩
  · exact ⟨rfl, rfl, rfl, rfl, rfl⟩

/-- The object is written in one access, and the harts that wait for another phase are to wake. -/
theorem putOwnBar_eq (k : Core) (o v : Nat) : k.putOwnBar o v =
    { (k.noteCodeStore o 16).swrite o 16 v with harts := ((k.noteCodeStore o 16).swrite o 16 v).harts.map (Hart.barFlip o v) } := by
  simp only [Core.putOwnBar, Core.putBar, vmap_eq]

theorem hart_putOwnBar (k : Core) (o v : Nat) (h : BitVec 2) : (k.putOwnBar o v).hart h = ((k.noteCodeStore o 16).hart h).barFlip o v := by
  simp only [Core.putOwnBar, Core.putBar, Core.hart, Vector.get_eq_getElem, getElem_vmap]
  rfl

theorem sameTrap_putOwnBar (k : Core) (o v : Nat) : SameTrap k (k.putOwnBar o v) := by
  refine (sameTrap_noteCodeStore k o 16).trans ⟨rfl, fun h => ?_⟩
  obtain ⟨outst, stopping, xvec, -, -⟩ := barFlip_keeps o v ((k.noteCodeStore o 16).hart h)
  rw [hart_putOwnBar]
  exact ⟨outst, stopping, xvec⟩

theorem sameUnit_putOwnBar (k : Core) (o v : Nat) : SameUnit k (k.putOwnBar o v) := by
  refine (sameUnit_noteCodeStore k o 16).trans ⟨rfl, fun h => ?_, fun h => ?_⟩ <;> rw [hart_putOwnBar]
  · exact (barFlip_keeps o v _).2.2.2.1
  · exact (barFlip_keeps o v _).2.2.2.2

theorem trapReady_mapCore {s : State} {f : Core → Core} (ready : s.trapReady) (u : SameTrap s.cc (f s.cc)) : (s.mapCore f).trapReady := by
  have hart : (s.mapCore f).hart = (f s.cc).hart s.cur.hart := by rw [State.hart, State.cc_mapCore]; rfl
  obtain ⟨outst, stopping, xvec⟩ := u.harts s.cur.hart
  rw [State.trapReady, hart, State.cc_mapCore, outst, stopping, xvec, u.codesz]
  exact ready

theorem trapsOn_raiseKeeping {i : Instr} {s : State} {f : Core → Core} {t : Trap} (ready : s.trapReady) (u : SameTrap s.cc (f s.cc))
    (e : exec i s = .next (s.raiseKeeping f t)) : TrapsOn i s f t.cause t.addr t.info := by
  rw [TrapsOn, e, State.raiseKeeping, if_pos (quiet_of_outst_nil ready.1), raise_ready (trapReady_mapCore ready u)]
  simp [Hart.enter, b2n]

/-! The instructions (R200, R201). -/

section
variable {s : State} {d a : BitVec 5} {off : Nat} (w : s.writable d) (h : s.classify (s.resolve (s.rg a)) 16 16 false = .ok (.own off))
variable (free : s.wayHeld (.own off) (s.resolve (s.rg a)) 16 = false)
include w h free

theorem exec_barr_own (l : BitVec 4) :
    exec (.barr d a l) s = .next (s.barDone (s.resolve (s.rg a)) off d (barArrive (s.cc.bar off))) := by
  show execBarr d a l s = _
  simp only [execBarr, guarded_bound w, classify_aligned h, h, free, ne_eq, not_true_eq_false, Bool.false_eq_true, if_false]

theorem exec_bexp_own (b : BitVec 5) :
    exec (.bexp d a b) s = .next (s.barDone (s.resolve (s.rg a)) off d (barExpect (s.cc.bar off) (s.rg b).toNat)) :=
  congrArg Host.Outcome.next (onObject_own w h free _)

theorem exec_btest_own : exec (.btest d a) s = .next (s.writeRetire d (BitVec.ofNat 64 (bits (s.cc.bar off) 127 64))) :=
  congrArg Host.Outcome.next (onObject_own w h free _)

end

/-- A BWAIT by what it finds at its object: an end, nothing yet, or a fault (R201). -/
theorem exec_bwait_own {s : State} {a : BitVec 5} {off : Nat} (h : s.classify (s.resolve (s.rg a)) 16 16 false = .ok (.own off))
    (free : s.wayHeld (.own off) (s.resolve (s.rg a)) 16 = false) (b : BitVec 5) :
    let x := s.cc.bar off
    let phase := bit (s.rg b).toNat 0
    (barFaults x = 0 → barPHASE x ≠ phase → exec (.bwait a b) s = .next s.retire) ∧
    (barFaults x = 0 → barPHASE x = phase → exec (.bwait a b) s = .next (s.blockOn (.bwait off phase false))) ∧
    (barFaults x ≠ 0 → exec (.bwait a b) s = .next (s.raise ⟨0x11, s.resolve (s.rg a), BitVec.ofNat 64 (barFaults x)⟩)) := by
  intro x phase
  have runs : exec (.bwait a b) s = execBwait a b s := rfl
  rw [runs, execBwait, onObject_own (.inl rfl : s.writable 0) h free]
  refine ⟨fun h0 flipped => ?_, fun h0 same => ?_, fun hf => ?_⟩
  · rw [show bwaitSees (s.cc.bar off) _ = some none from (if_neg (not_not.mpr h0)).trans (if_neg flipped)]
  · rw [show bwaitSees (s.cc.bar off) _ = none from (if_neg (not_not.mpr h0)).trans (if_pos same)]
  · rw [show bwaitSees (s.cc.bar off) _ = some (some (barFaults x)) from if_pos hf]
    rfl

theorem exec_barr_remote {s : State} {d a : BitVec 5} (w : s.writable d) (h : s.classify (s.resolve (s.rg a)) 16 16 false = .ok .remote)
    (apart : s.overlapping (s.resolve (s.rg a)) 16 = false) (l : BitVec 4) :
    exec (.barr d a l) s = .next (s.issueLong (s.reqOf .request (.barr d) (s.resolve (s.rg a))) [d] l.toNat false 4) := by
  show execBarr d a l s = _
  simp only [execBarr, guarded_bound w, classify_aligned h, h, apart, ne_eq, not_true_eq_false, Bool.false_eq_true, if_false]

section
variable {i : Instr} {s : State} {ea : Word} {off v b : Nat} {d : BitVec 5} {r : BarRes} (e : exec i s = .next (s.barDone ea off d r))
include e

theorem retires_barDone (hr : r = ⟨b, .ok v⟩) : RetiresOn i s (fun k => k.putOwnBar off b) [(d, BitVec.ofNat 64 v)] 0 := by
  subst hr
  exact ⟨_, e, wrote_mapCore_writeRetire (f := fun k => k.putOwnBar off b) (sameUnit_putOwnBar s.cc off b) d _⟩

theorem traps_barDone (ready : s.trapReady) (hr : r = ⟨b, .error v⟩) : TrapsOn i s (fun k => k.putOwnBar off b) 0x11 ea (BitVec.ofNat 64 v) := by
  subst hr
  exact trapsOn_raiseKeeping (f := fun k => k.putOwnBar off b) (t := ⟨0x11, ea, BitVec.ofNat 64 v⟩) ready (sameTrap_putOwnBar s.cc off b) e

end

/-- Settles O23: BARR and BEXP are `barArrive` and `barExpect` of the object; its fields are written back as `barMk` puts them together. -/
theorem barrierResults : Obligations.BarrierResults := by
  unfold Obligations.BarrierResults
  intro s d a b l off w ea x pending expected arrived phase faults n obj put next full
  have put_eq : ∀ v, put v = fun k => k.putOwnBar off v := fun v => funext fun k => (putOwnBar_eq k off v).symm
  have obj_eq : ∀ p f, obj p expected arrived phase f = barMk p expected arrived phase f :=
    fun p f => (barMk_eq (bits_lt x 95 80) p expected phase f).symm
  have obj_empty : ∀ e ph, obj 0 e 0 ph 0 = barMk 0 e 0 ph 0 := fun e ph => (barMk_eq (by decide) 0 e ph 0).symm
  simp only [put_eq, obj_eq, obj_empty]
  refine ⟨fun h free => ⟨?binit, ?counts, ?faulted, ?tooMany, ?bexp, ?overflow, ?bwaitDone, ?bwaitBlocks, ?bwaitFaulted, ?btest⟩,
    fun h apart => ⟨_, exec_barr_remote w h apart l, asked_issueLong s _ [d] l.toNat false 4⟩⟩
  case binit =>
    refine ⟨_, congrArg Host.Outcome.next (onObject_own (.inl rfl) h free _), ?_⟩
    exact wrote_mapCore_retire (f := fun k => k.putOwnBar off (barMk 0 (n % 2 ^ 16) 0 false 0)) (sameUnit_putOwnBar _ _ _)
  case counts =>
    intro h0 more
    have arrive := barArrive_counts h0 more
    exact ⟨fun hfull => retires_barDone (exec_barr_own w h free l) (arrive.trans (if_pos hfull)),
      fun hnot => retires_barDone (exec_barr_own w h free l) (arrive.trans (if_neg hnot))⟩
  case faulted => exact fun ready hf => traps_barDone (exec_barr_own w h free l) ready (barArrive_faulted hf)
  case tooMany => exact fun ready h0 all => traps_barDone (exec_barr_own w h free l) ready (barArrive_over h0 all)
  case bexp => exact fun fits => retires_barDone (exec_bexp_own w h free b) (if_neg (show ¬2 ^ 36 - 1 < pending + n by omega))
  case overflow => exact fun ready large => traps_barDone (exec_bexp_own w h free b) ready (if_pos (show 2 ^ 36 - 1 < pending + n by omega))
  case bwaitDone => exact fun h0 flipped => ⟨s.retire, (exec_bwait_own h free b).1 h0 flipped, wrote_retire s 4⟩
  case bwaitBlocks =>
    intro h0 same
    rw [same]
    exact (exec_bwait_own h free b).2.1 h0 same
  case bwaitFaulted =>
    exact fun ready hf => traps_of_raise (t := ⟨0x11, ea, BitVec.ofNat 64 faults⟩) ready ((exec_bwait_own h free b).2.2 hf)
  case btest =>
    have high : bits x 127 64 = x / 2 ^ 64 := by
      have := s.cc.sread_lt off 16
      rw [bits, Nat.shiftRight_eq_div_pow]
      exact Nat.mod_eq_of_lt (by omega)
    rw [← high]
    exact ⟨_, exec_btest_own w h free, wrote_writeRetire s d _ 0 4⟩

end Sys2Proof.Machine
end

section
/-! SUPPORT. Elements of a tile (01 R17) and the writing of a vector register (09 R215, R216): each element is read back as it was written. -/

namespace Sys2Proof.Machine

/-! Fields of w bits of a number. -/

/-- Field k, where each field has w bits. -/
def fieldAt (w x k : Nat) : Nat := x / 2 ^ (w * k) % 2 ^ w

theorem bits_field {w : Nat} (hw : 0 < w) (x k : Nat) : bits x (w * k + w - 1) (w * k) = fieldAt w x k := by
  rw [bits, Nat.shiftRight_eq_div_pow, show w * k + w - 1 + 1 - w * k = w by omega]
  rfl

/-- A field depends on the bits below its end. -/
theorem fieldAt_mod {w k b : Nat} (h : w * k + w ≤ b) (x : Nat) : fieldAt w (x % 2 ^ b) k = fieldAt w x k := by
  have hb : 2 ^ b = 2 ^ (w * k) * 2 ^ (b - w * k) := by rw [← Nat.pow_add, Nat.add_sub_cancel' (by omega)]
  rw [fieldAt, hb, Nat.mod_mul_right_div_self, Nat.mod_mod_of_dvd _ (Nat.pow_dvd_pow 2 (by omega))]
  rfl

theorem fieldAt_ofNat {w k b : Nat} (h : w * k + w ≤ b) (x : Nat) : fieldAt w (BitVec.ofNat b x).toNat k = fieldAt w x k := by
  rw [BitVec.toNat_ofNat, fieldAt_mod h]

/-- Fields above a number of bits depend on what lies above them. -/
theorem fieldAt_above {w k b : Nat} (h : b ≤ w * k) {x y : Nat} (e : x / 2 ^ b = y / 2 ^ b) : fieldAt w x k = fieldAt w y k := by
  have hk : 2 ^ (w * k) = 2 ^ b * 2 ^ (w * k - b) := by rw [← Nat.pow_add, Nat.add_sub_cancel' h]
  rw [fieldAt, fieldAt, hk, ← Nat.div_div_eq_div_mul, ← Nat.div_div_eq_div_mul, e]

theorem fieldAt_setBits {w : Nat} (hw : 0 < w) (x k v j : Nat) :
    fieldAt w (setBits x (w * k + w - 1) (w * k) v) j = if j = k then v % 2 ^ w else fieldAt w x j := by
  have hset : setBits x (w * k + w - 1) (w * k) v =
      (x / 2 ^ (w * k + w) * 2 ^ w + v % 2 ^ w) * 2 ^ (w * k) + x % 2 ^ (w * k) := by
    simp only [setBits, show w * k + w - 1 + 1 = w * k + w by omega, Nat.add_sub_cancel_left]
    rw [Nat.pow_add (m := w * k) (n := w)]
    ring
  have hhigh : setBits x (w * k + w - 1) (w * k) v / 2 ^ (w * k) = x / 2 ^ (w * k + w) * 2 ^ w + v % 2 ^ w := by
    rw [hset, Nat.mul_comm, Nat.mul_add_div (by positivity), Nat.div_eq_of_lt (Nat.mod_lt _ (by positivity)), Nat.add_zero]
  rcases Nat.lt_trichotomy j k with below | rfl | above
  · have hend : w * j + w ≤ w * k := by rw [← Nat.mul_succ]; exact Nat.mul_le_mul_left w below
    rw [if_neg (Nat.ne_of_lt below), ← fieldAt_mod hend, ← fieldAt_mod hend x, hset, Nat.mul_add_mod_self_right, Nat.mod_mod]
  · rw [if_pos rfl, fieldAt, hhigh, Nat.mul_add_mod_self_right, Nat.mod_mod]
  · have hend : w * k + w ≤ w * j := by rw [← Nat.mul_succ]; exact Nat.mul_le_mul_left w above
    rw [if_neg (Nat.ne_of_gt above)]
    refine fieldAt_above hend ?_
    rw [Nat.pow_add, ← Nat.div_div_eq_div_mul, hhigh, Nat.mul_comm _ (2 ^ w), Nat.mul_add_div (by positivity), Nat.div_eq_of_lt (Nat.mod_lt _ (by positivity)),
      Nat.add_zero, Nat.pow_add]

/-- Fields that are set one after the other, each to the value of its place. -/
theorem fieldAt_foldl_setBits {w : Nat} (hw : 0 < w) (g : Nat → Nat) (ks : List Nat) (x j : Nat) :
    fieldAt w ((ks.map (fun k => (k, g k))).foldl (fun t v => setBits t (w * v.1 + w - 1) (w * v.1) v.2) x) j =
      if j ∈ ks then g j % 2 ^ w else fieldAt w x j := by
  induction ks generalizing x with
  | nil => rfl
  | cons k ks ih =>
    rw [List.map_cons, List.foldl_cons, ih, fieldAt_setBits hw]
    by_cases later : j ∈ ks
    · rw [if_pos later, if_pos (List.mem_cons_of_mem k later)]
    · rw [if_neg later]
      by_cases here : j = k
      · rw [if_pos here, if_pos (List.mem_cons.mpr (.inl here)), here]
      · rw [if_neg here, if_neg (by simp [here, later])]

/-! Packed elements. -/

theorem fieldAt_packEls (w : Nat) (xs : List Nat) {k : Nat} (hk : k < xs.length) : fieldAt w (packEls w xs) k = xs[k] % 2 ^ w := by
  induction xs generalizing k with
  | nil => cases hk
  | cons x xs ih =>
    cases k with
    | zero => simp [fieldAt, packEls, Nat.add_mul_mod_self_left]
    | succ k =>
      have next : packEls w (x :: xs) / 2 ^ w = packEls w xs := by
        rw [packEls, Nat.add_mul_div_left _ _ (by positivity), Nat.div_eq_of_lt (Nat.mod_lt _ (by positivity)), Nat.zero_add]
      rw [List.getElem_cons_succ, ← ih (Nat.lt_of_succ_lt_succ hk), fieldAt, Nat.mul_succ, Nat.add_comm, Nat.pow_add, ← Nat.div_div_eq_div_mul, next]
      rfl

theorem flatMap_range_pairs (m r : Nat) :
    (List.range r).flatMap (fun i => (List.range m).map (fun j => (i, j))) = (List.range (r * m)).map (fun k => (k / m, k % m)) := by
  induction r with
  | zero => simp
  | succ r ih =>
    rw [List.range_succ, List.flatMap_append, ih, Nat.succ_mul, List.range_add, List.map_append, List.flatMap_singleton, List.map_map]
    congr 1
    refine List.map_congr_left fun j hj => ?_
    have hj : j < m := List.mem_range.mp hj
    simp only [Function.comp_apply, Nat.mul_comm r m, Nat.mul_add_div (Nat.lt_of_le_of_lt (Nat.zero_le j) hj), Nat.mul_add_mod,
      Nat.div_eq_of_lt hj, Nat.mod_eq_of_lt hj, Nat.add_zero]

/-! Elements of a tile, where m of w bits fill a row. -/

theorem position_lt {m i j : Nat} (hi : i < 8) (hj : j < m) : i * m + j < 8 * m :=
  calc i * m + j < i * m + m := by omega
    _ = (i + 1) * m := (Nat.succ_mul i m).symm
    _ ≤ 8 * m := Nat.mul_le_mul_right m hi

theorem position_split {m j : Nat} (i : Nat) (hj : j < m) : (i * m + j) / m = i ∧ (i * m + j) % m = j := by
  rw [Nat.mul_comm, Nat.mul_add_div (by omega), Nat.mul_add_mod, Nat.div_eq_of_lt hj, Nat.mod_eq_of_lt hj]
  exact ⟨rfl, rfl⟩

section
variable {w m : Nat} (hm : w * m = 128) {i j : Nat} (hi : i < 8) (hj : j < m)
include hm

theorem width_pos : 0 < w := Nat.pos_of_ne_zero fun h => by rw [h, Nat.zero_mul] at hm; cases hm

theorem perRow_eq : 128 / w = m := by rw [← hm, Nat.mul_div_cancel_left _ (width_pos hm)]

theorem tileEl_field (t : Tile) (i j : Nat) : tileEl t w i j = fieldAt w t.toNat (i * m + j) := by
  have place : 128 * i + w * j = w * (i * m + j) := by rw [← hm]; ring
  rw [tileEl, place, bits_field (width_pos hm)]

theorem tileEl_lt (t : Tile) (i j : Nat) : tileEl t w i j < 2 ^ w := by
  rw [tileEl_field hm]; exact Nat.mod_lt _ (by positivity)

include hi hj

/-- An element of a tile that is given by its fields. -/
theorem tileEl_ofNat (x : Nat) : tileEl (BitVec.ofNat 1024 x) w i j = fieldAt w x (i * m + j) := by
  have hend : w * (i * m + j) + w ≤ 1024 :=
    calc w * (i * m + j) + w = w * (i * m + j + 1) := (Nat.mul_succ _ _).symm
      _ ≤ w * (8 * m) := Nat.mul_le_mul_left w (position_lt hi hj)
      _ = 8 * (w * m) := Nat.mul_left_comm w 8 m
      _ = 1024 := by rw [hm]
  rw [tileEl_field hm, fieldAt_ofNat hend]

theorem tileEl_tileOf (f : Nat → Nat → Fl Nat) : tileEl (tileOf w f).val w i j = (f i j).val % 2 ^ w := by
  obtain ⟨row, col⟩ := position_split i hj
  have hlt := position_lt hi hj
  simp only [tileOf, positions, perRow_eq hm, flatMap_range_pairs]
  rw [tileEl_ofNat hm hi hj, fieldAt_packEls _ _ (by simpa using hlt)]
  simp [row, col]

/-- An element that a load replaces, and one that it keeps. -/
theorem tileEl_fillTile {n : Nat} (hn : w = 8 * n) (base : Tile) (ks : List Nat) (g : Nat → Nat) :
    tileEl (fillTile n base (ks.map (fun k => (k, g k)))) w i j = if i * m + j ∈ ks then g (i * m + j) % 2 ^ w else tileEl base w i j := by
  subst hn
  rw [fillTile, tileEl_ofNat hm hi hj, fieldAt_foldl_setBits (width_pos hm), tileEl_field hm]

end

end Sys2Proof.Machine
end

section
/-! SUPPORT. Vector registers as an instruction writes them (09 R215, R216). -/

namespace Sys2Proof.Machine

/-! Which elements are computed (R215, R216). -/

section
variable {h : Hart} {e : BitVec 4} {m : BitVec 1} {i j : Nat}

theorem active_iff : h.active e i j = true ↔ i < h.rows ∧ maskCol e j < min h.vlen (perRow e) := by
  rw [Hart.active, Bool.and_eq_true, decide_eq_true_iff, decide_eq_true_iff]

theorem judge_edge (out : ¬(i < h.rows ∧ maskCol e j < min h.vlen (perRow e))) : h.judge e m i j = .edge :=
  if_pos (by rw [Bool.not_eq_true', ← Bool.not_eq_true, active_iff]; exact out)

theorem judge_eq_compute (c : h.judge e m i j = .compute) :
    (i < h.rows ∧ maskCol e j < min h.vlen (perRow e)) ∧ ¬(m = 1 ∧ maskBit (h.rv 0) e i j = false) := by
  unfold Hart.judge at c
  split at c
  · cases c
  next active =>
    split at c
    · cases c
    next shown =>
      rw [Bool.not_eq_true', Bool.not_eq_false, active_iff] at active
      exact ⟨active, by simpa using shown⟩

variable (inside : i < h.rows ∧ maskCol e j < min h.vlen (perRow e))
include inside

theorem judge_inside : h.judge e m i j = if m == 1 && !maskBit (h.rv 0) e i j then .masked else .compute :=
  if_neg (by rw [active_iff.mpr inside]; exact Bool.false_ne_true)

theorem judge_masked (hidden : m = 1 ∧ maskBit (h.rv 0) e i j = false) : h.judge e m i j = .masked := by
  rw [judge_inside inside, hidden.1, hidden.2]; rfl

theorem judge_compute (shown : ¬(m = 1 ∧ maskBit (h.rv 0) e i j = false)) : h.judge e m i j = .compute := by
  rw [judge_inside inside, if_neg]
  simpa using shown

end

/-! A destination register (R216). -/

section
variable {w k : Nat} (hk : w * k = 128) {i j : Nat} (hi : i < 8) (hj : j < k) {old : Tile} {p t : BitVec 1} {judge : Nat → Nat → Judge}
variable {f : Nat → Nat → Fl Nat}
include hk

theorem tileEl_keep (pol : BitVec 1) (old : Tile) : (keep pol w (tileEl old w i j)).val % 2 ^ w = if pol = 1 then 2 ^ w - 1 else tileEl old w i j := by
  have hpos : 0 < 2 ^ w := by positivity
  rw [keep]
  split
  · exact Nat.mod_eq_of_lt (Nat.sub_lt hpos Nat.one_pos)
  · exact Nat.mod_eq_of_lt (tileEl_lt hk old i j)

include hi hj

theorem tileEl_writeTile_edge (hjudge : judge i j = .edge) :
    tileEl (writeTile w old p t judge f).val w i j = if t = 1 then 2 ^ w - 1 else tileEl old w i j := by
  rw [writeTile, tileEl_tileOf hk hi hj, hjudge]
  exact tileEl_keep hk t old

theorem tileEl_writeTile_masked (hjudge : judge i j = .masked) :
    tileEl (writeTile w old p t judge f).val w i j = if p = 1 then 2 ^ w - 1 else tileEl old w i j := by
  rw [writeTile, tileEl_tileOf hk hi hj, hjudge]
  exact tileEl_keep hk p old

end

theorem count_wv (h : Hart) (d : BitVec 5) (x : Tile) (e n : Nat) : (h.wv d x).count e n = (h.count e n).wv d x := by
  have countIn_wv : ∀ (h : Hart) (k : Nat) (hk : k < 4), (h.wv d x).countIn e n k hk = (h.countIn e n k hk).wv d x := by
    intro h k hk
    unfold Hart.countIn
    by_cases c : counts (h.cntsel.get ⟨k, hk⟩) h.mode e = true
    · rw [if_pos c, if_pos (show counts ((h.wv d x).cntsel.get ⟨k, hk⟩) (h.wv d x).mode e = true from c)]; rfl
    · rw [if_neg c, if_neg (show ¬counts ((h.wv d x).cntsel.get ⟨k, hk⟩) (h.wv d x).mode e = true from c)]
  unfold Hart.count
  split
  · rfl
  · simp only [countIn_wv]

/-- An access that is counted and then writes a vector register, and retires. -/
theorem wrote_counted_wv (s : State) (d : BitVec 5) (v : Tile) (event : Nat) :
    Wrote (s.mapHart (fun h => h.wv d v)) (s.mapHart (fun h => ((h.count event 1).wv d v).retire 4 [] 0)) [] (s.hart.pc + 4) 0 := by
  have split : s.mapHart (fun h => ((h.count event 1).wv d v).retire 4 [] 0) =
      (s.mapHart (fun h => h.wv d v)).mapHart (fun h => (h.count event 1).retire 4 [] 0) := by
    rw [State.mapHart_mapHart]
    exact mapHart_congr (by rw [count_wv])
  have hpc : ((s.mapHart (fun h => h.wv d v)).hart.count event 1).pc = s.hart.pc := by
    rw [(passed_count _ event 1).same.1, State.hart_mapHart]
    rfl
  rw [split]
  refine wrote_mapHart (hartWrote_count (e := event) (n := 1) ?_)
  rw [← hpc]
  exact hartWrote_retireTo _ [] [] _ 0

end Sys2Proof.Machine
end

section
/-! SUPPORT. Vector loads (09 R222 to R224): one that has all its bytes at issue, and one that waits for its requests. -/

namespace Sys2Proof.Machine

/-! Element types in memory (R222). -/

theorem memType_facts {e : BitVec 4} (h : etAny e = true) : etNibble (memType e) = false ∧
    etBits (memType e) = 8 * etBytes (memType e) ∧ etBits (memType e) * perRow (memType e) = 128 := by
  revert e; decide

theorem sext64_32 (x : Nat) : sext64 x 32 = (BitVec.ofNat 32 x).signExtend 64 := by
  have signed : toS x 32 = (BitVec.ofNat 32 x).toInt := by
    rw [toS, BitVec.toInt_eq_toNat_cond, BitVec.toNat_ofNat]
    split <;> omega
  rw [sext64, signed]
  rfl

/-! The elements that a load reads. -/

theorem mem_vaddrs {s : State} {f : BitVec 4} {m : BitVec 1} {at_ : Nat → Nat → Word} {x : Nat × Word} (hx : x ∈ s.vaddrs f m at_) :
    let i := x.1 / perRow f
    let j := x.1 % perRow f
    i < 8 ∧ (i < s.hart.rows ∧ maskCol f j < min s.hart.vlen (perRow f)) ∧ ¬(m = 1 ∧ maskBit (s.hart.rv 0) f i j = false) ∧
      x.2 = s.resolve (at_ i j) := by
  simp only [State.vaddrs, List.mem_map, List.mem_filter, List.mem_range, beq_iff_eq] at hx
  obtain ⟨k, ⟨hk, hjudge⟩, rfl⟩ := hx
  refine ⟨Nat.div_lt_of_lt_mul (by rwa [Nat.mul_comm]), (judge_eq_compute hjudge).1, (judge_eq_compute hjudge).2, rfl⟩

theorem mapM_some {α β : Type} {f : α → Option β} {g : α → β} {xs : List α} (h : ∀ x ∈ xs, f x = some (g x)) : xs.mapM f = some (xs.map g) := by
  induction xs with
  | nil => rfl
  | cons x xs ih =>
    rw [List.mapM_cons, h x List.mem_cons_self, ih fun y hy => h y (List.mem_cons_of_mem x hy)]
    rfl

theorem mapM_none {α β : Type} {f : α → Option β} {xs : List α} (h : ∃ x ∈ xs, f x = none) : xs.mapM f = none := by
  induction xs with
  | nil => obtain ⟨x, hx, -⟩ := h; cases hx
  | cons x xs ih =>
    rw [List.mapM_cons]
    cases hfx : f x with
    | none => rfl
    | some v =>
      obtain ⟨y, hy, hfy⟩ := h
      rcases List.mem_cons.mp hy with rfl | hy
      · rw [hfx] at hfy; cases hfy
      · rw [ih ⟨y, hy, hfy⟩]; rfl

/-! A load of bytes of the own scratch. -/

/-- The n bytes of an element lie in the own scratch and are there to be read: no other access meets them, no watchpoint, no poison. -/
structure State.ReadsOwn (s : State) (n : Nat) (ea : Word) : Prop where
  place : s.classify ea n n false = .ok (.own (addrOff ea))
  free : s.waitsFor (.own (addrOff ea)) ea n = false
  unwatched : s.watchNow ea n true false = none
  sound : s.cc.spoisoned (addrOff ea) n = false

section
variable {s : State} {n : Nat} {xs : List (Nat × Word)} (own : ∀ x ∈ xs, s.ReadsOwn n x.2)
include own

theorem vform_own : s.vform false n xs = none :=
  List.findSome?_eq_none_iff.mpr fun x hx => by rw [(own x hx).place]

theorem vbusy_own : s.vbusy n xs = false :=
  List.any_eq_false.mpr fun x hx => by simp only [(own x hx).place, (own x hx).free]; exact Bool.false_ne_true

theorem vwatch_own : s.vwatch n xs true false = none :=
  List.findSome?_eq_none_iff.mpr fun x hx => by rw [(own x hx).unwatched]; rfl

theorem vnear_own : xs.mapM (fun x => s.vnear x.2 n) = some (xs.map (fun x => (s.cc.sread (addrOff x.2) n, false))) :=
  mapM_some fun x hx => by simp only [State.vnear, (own x hx).place, Core.nearRead, (own x hx).sound]

theorem vloaded_own (d : BitVec 5) (base : Tile) (event : Nat) :
    s.vloaded d base n event xs (xs.map (fun x => (s.cc.sread (addrOff x.2) n, false))) =
      s.mapHart (fun h => ((h.count event 1).wv d (fillTile n base (xs.map (fun x => (x.1, s.cc.sread (addrOff x.2) n))))).retire 4 [] 0) := by
  simp only [State.vloaded, vwatch_own own, ← List.map_prod_left_eq_zip, List.map_map]
  have sound : (xs.map (fun x => (x, s.cc.sread (addrOff x.2) n, false))).find? (fun x => x.2.2) = none := by
    simp
  simp only [sound, Option.map_none, Hart.watchedAt]
  rfl

end

/-- The register that a load of bytes of the own scratch writes. -/
def State.loadedTile (s : State) (d : BitVec 5) (f : BitVec 4) (m p t : BitVec 1) (at_ : Nat → Nat → Word) : Tile :=
  fillTile (etBytes f) (writeTile (etBits f) (s.hart.rv d) p t (s.hart.judge f m) (fun _ _ => ⟨0, 0⟩)).val
    ((s.vaddrs f m at_).map (fun x => (x.1, s.cc.sread (addrOff x.2) (etBytes f))))

/-- A load all of whose elements lie in the own scratch. -/
theorem vload_own {s : State} {d : BitVec 5} {f : BitVec 4} {m p t : BitVec 1} {at_ : Nat → Nat → Word}
    (own : ∀ x ∈ s.vaddrs f m at_, s.ReadsOwn (etBytes f) x.2) :
    s.vload d f m p t at_ = s.mapHart (fun h => ((h.count 9 1).wv d (s.loadedTile d f m p t at_)).retire 4 [] 0) := by
  rw [State.vload, vform_own own, guarded_none, guarded_nil]
  simp only [vbusy_own own, vnear_own own, vloaded_own own, Bool.false_eq_true, if_false]
  rw [if_pos (List.all_eq_true.mpr fun x hx => by rw [(own x hx).place])]
  rfl

/-- The elements that are read have the places of the computed ones. -/
theorem vaddrs_values (s : State) (f : BitVec 4) (m : BitVec 1) (at_ : Nat → Nat → Word) (v : Word → Nat) :
    (s.vaddrs f m at_).map (fun x => (x.1, v x.2)) =
      ((List.range (8 * perRow f)).filter (fun k => s.hart.judge f m (k / perRow f) (k % perRow f) == .compute)).map
        (fun k => (k, v (s.resolve (at_ (k / perRow f) (k % perRow f))))) := by
  rw [State.vaddrs, List.map_map]
  rfl

/-- A computed element is the bytes at its address; any other is as the register's policies leave it. -/
theorem tileEl_loadedTile {s : State} {d : BitVec 5} {f : BitVec 4} {m p t : BitVec 1} {at_ : Nat → Nat → Word} (hbits : etBits f = 8 * etBytes f)
    (hrow : etBits f * perRow f = 128) {i j : Nat} (hi : i < 8) (hj : j < perRow f) :
    tileEl (s.loadedTile d f m p t at_) (etBits f) i j =
      if s.hart.judge f m i j = .compute then s.cc.sread (addrOff (s.resolve (at_ i j))) (etBytes f) % 2 ^ etBits f
      else tileEl (writeTile (etBits f) (s.hart.rv d) p t (s.hart.judge f m) (fun _ _ => ⟨0, 0⟩)).val (etBits f) i j := by
  obtain ⟨row, col⟩ := position_split i hj
  rw [State.loadedTile, vaddrs_values s f m at_ (fun ea => s.cc.sread (addrOff ea) (etBytes f)), tileEl_fillTile hrow hi hj hbits]
  simp only [List.mem_filter, List.mem_range, row, col, beq_iff_eq, and_iff_right (position_lt hi hj)]

theorem elementwise_vload {q : Instr} {s : State} {d : BitVec 5} {f : BitVec 4} {m p t : BitVec 1} {at_ : Nat → Nat → Word}
    (hbits : etBits f = 8 * etBytes f) (hrow : etBits f * perRow f = 128) (runs : exec q s = .next (s.vload d f m p t at_))
    (own : ∀ x ∈ s.vaddrs f m at_, s.ReadsOwn (etBytes f) x.2) :
    Elementwise q s d f m p t (fun i j => ⟨s.cc.sread (addrOff (s.resolve (at_ i j))) (etBytes f), 0⟩) := by
  refine ⟨s.loadedTile d f m p t at_, 0, ⟨_, runs.trans (congrArg _ (vload_own own)), wrote_counted_wv s d _ 9⟩, fun i j hi hj => ?_, fun k hk => by simp⟩
  rw [perRow_eq hrow] at hj
  rw [tileEl_loadedTile hbits hrow hi hj]
  refine ⟨fun out => ?_, fun inside hidden => ?_, fun inside shown => ?_⟩
  · have edge := judge_edge (m := m) out
    rw [if_neg (by rw [edge]; exact nofun), tileEl_writeTile_edge hrow hi hj edge]
  · have masked := judge_masked inside hidden
    rw [if_neg (by rw [masked]; exact nofun), tileEl_writeTile_masked hrow hi hj masked]
  · rw [if_pos (judge_compute inside shown)]

/-! A load that waits (R224). -/

/-- How an element of a load stands at its blocking point: its bytes are there, or its request, or its sector's fill, is on its way. -/
structure State.Served (s : State) (n : Nat) (net : List Req) (e : VElem) : Prop where
  near : ∀ v, s.vnear e.ea n = some v → e.wait = none ∧ e.val = v.1 ∧ e.poison = v.2
  far : s.vnear e.ea n = none → ∃ r ∈ net, e.wait = some r.id ∧ s.nextId ≤ r.id ∧ r.src = .hart s.cur.core s.cur.hart ∧
    (if s.inRegion e.ea then (r.kind = .vfill false n ∨ r.kind = .velem n) ∧ sectorAddr r.ea.toNat = sectorAddr e.ea.toNat
     else r.kind = .velem n ∧ r.ea = e.ea)

theorem State.Served.mono {s : State} {n : Nat} {net net' : List Req} {e : VElem} (h : s.Served n net e) (sub : ∀ r ∈ net, r ∈ net') : s.Served n net' e :=
  ⟨h.near, fun hfar => have ⟨r, hr, rest⟩ := h.far hfar; ⟨r, sub r hr, rest⟩⟩

/-- The requests for elements so far are on their way; nothing else of the state has changed. -/
structure State.Sending (s : State) (n : Nat) (t : State) (acc : List VElem) (xs : List (Nat × Word)) : Prop where
  rest : t = { s with net := t.net, nextId := t.nextId }
  ids : s.nextId ≤ t.nextId
  served : ∀ e ∈ acc, s.Served n t.net e
  elements : acc.map (fun e => (e.pos, e.ea)) = xs

theorem sectorAddr_of_served {s : State} {n : Nat} {r : Req} {ea : Word}
    (h : if s.inRegion ea then (r.kind = .vfill false n ∨ r.kind = .velem n) ∧ sectorAddr r.ea.toNat = sectorAddr ea.toNat
      else r.kind = .velem n ∧ r.ea = ea) :
    (r.kind = .vfill false n ∨ r.kind = .velem n) ∧ sectorAddr r.ea.toNat = sectorAddr ea.toNat := by
  split at h
  · exact h
  · exact ⟨.inr h.1, by rw [h.2]⟩

/-- One more element: its bytes, a fill that another element waits for already, or a request of its own. -/
theorem sending_vsend {s t : State} {n : Nat} {acc : List VElem} {xs : List (Nat × Word)} (h : s.Sending n t acc xs) (x : Nat × Word) :
    s.Sending n (t.vsend n acc x).1 (t.vsend n acc x).2 (xs ++ [x]) := by
  obtain ⟨rest, ids, served, elements⟩ := h
  have near_eq : t.vnear x.2 n = s.vnear x.2 n := by rw [rest]; rfl
  have region_eq : t.inRegion x.2 = s.inRegion x.2 := by rw [rest]; rfl
  have cur_eq : t.cur = s.cur := by rw [rest]
  have append : ∀ e : VElem, (e.pos, e.ea) = x → (acc ++ [e]).map (fun e => (e.pos, e.ea)) = xs ++ [x] := fun e he => by
    rw [List.map_append, elements, List.map_singleton, he]
  have each : ∀ {net : List Req} {e : VElem}, (∀ r ∈ t.net, r ∈ net) → s.Served n net e → ∀ y ∈ acc ++ [e], s.Served n net y := fun sub he y hy =>
    (List.mem_append.mp hy).elim (fun hy => (served y hy).mono sub) (fun hy => List.mem_singleton.mp hy ▸ he)
  unfold State.vsend
  rw [near_eq, region_eq]
  cases hnear : s.vnear x.2 n with
  | some v =>
    refine ⟨rest, ids, each (fun _ hr => hr) ⟨fun u hu => ?_, fun hfar => ?_⟩, append _ rfl⟩
    · cases hnear.symm.trans hu; exact ⟨rfl, rfl, rfl⟩
    · cases hnear.symm.trans hfar
  | none =>
    dsimp only
    split
    next e found =>
      refine ⟨rest, ids, each (fun _ hr => hr) ⟨fun u hu => ?_, fun _ => ?_⟩, append _ rfl⟩
      · cases hnear.symm.trans hu
      · have he := List.mem_of_find?_eq_some found
        have test := List.find?_some found
        simp only [Bool.and_eq_true, beq_iff_eq] at test
        obtain ⟨⟨fill, waits⟩, sector⟩ := test
        have hfar : s.vnear e.ea n = none := by
          cases hv : s.vnear e.ea n with
          | none => rfl
          | some v => rw [((served e he).near v hv).1] at waits; cases waits
        obtain ⟨r, hr, hid, hnext, hsrc, what⟩ := (served e he).far hfar
        obtain ⟨kind, addr⟩ := sectorAddr_of_served what
        exact ⟨r, hr, hid, hnext, hsrc, by rw [if_pos fill]; exact ⟨kind, addr.trans sector⟩⟩
    next =>
      have sub : ∀ r ∈ t.net, r ∈ (t.send (t.reqOf .request (if s.inRegion x.2 = true then .vfill false n else .velem n) x.2)).net :=
        fun r hr => List.mem_append_left _ hr
      refine ⟨?_, Nat.le_succ_of_le ids, each sub ⟨fun u hu => ?_, fun _ => ?_⟩, append _ rfl⟩
      · rw [rest]; rfl
      · cases hnear.symm.trans hu
      · refine ⟨_, List.mem_append_right _ (List.mem_singleton.mpr rfl), rfl, ids, by rw [← cur_eq]; rfl, ?_⟩
        split
        · exact ⟨.inl rfl, rfl⟩
        · exact ⟨rfl, rfl⟩

theorem sending_vsendAll {s t : State} {n : Nat} {acc : List VElem} {xs ys : List (Nat × Word)} (h : s.Sending n t acc xs) :
    s.Sending n (t.vsendAll n acc ys).1 (t.vsendAll n acc ys).2 (xs ++ ys) := by
  induction ys generalizing t acc xs with
  | nil => rw [List.append_nil]; exact h
  | cons y ys ih =>
    rw [List.append_cons, State.vsendAll]
    exact ih (sending_vsend h y)

/-- A load that lacks the bytes of an element sends its requests and waits for all of them. -/
theorem vload_waits {s : State} {d : BitVec 5} {f : BitVec 4} {m p t : BitVec 1} {at_ : Nat → Nat → Word}
    (form : s.vform false (etBytes f) (s.vaddrs f m at_) = none) (busy : s.vbusy (etBytes f) (s.vaddrs f m at_) = false)
    (lacks : ∃ x ∈ s.vaddrs f m at_, s.vnear x.2 (etBytes f) = none) :
    ∃ u base es, s.vload d f m p t at_ = u.blockOn (.vload (etBytes f) d base es) ∧ s.Sending (etBytes f) u es (s.vaddrs f m at_) := by
  have sent : s.Sending (etBytes f) (s.vsendAll (etBytes f) [] (s.vaddrs f m at_)).1 (s.vsendAll (etBytes f) [] (s.vaddrs f m at_)).2 (s.vaddrs f m at_) :=
    sending_vsendAll (xs := []) ⟨rfl, Nat.le_refl _, nofun, rfl⟩
  refine ⟨_, (writeTile (etBits f) (s.hart.rv d) p t (s.hart.judge f m) (fun _ _ => ⟨0, 0⟩)).val, _, ?_, sent⟩
  rw [State.vload, form, guarded_none, guarded_nil]
  simp only [busy, mapM_none lacks, Bool.false_eq_true, if_false]

theorem onMap_own {s : State} {a : BitVec 5} {off : Nat} (h : s.classify (s.resolve (s.rg a)) 16 16 false = .ok (.own off))
    (free : s.wayHeld (.own off) 0 16 = false) (k : State → Nat → State) : s.onMap a k = k s (s.cc.sread off 16) := by
  simp only [State.onMap, ownObject_own h, free, Bool.false_eq_true, if_false]

theorem exec_vldm {s : State} {a : BitVec 5} {off map : Nat} (h : s.classify (s.resolve (s.rg a)) 16 16 false = .ok (.own off))
    (free : s.wayHeld (.own off) 0 16 = false) (bytes : map = s.cc.sread off 16) (d b : BitVec 5) (e : BitVec 4) (m p t : BitVec 1) :
    exec (.vldm d a b e m p t) s = .next (s.vload d (memType e) m p t (s.addrMap map b (etBytes (memType e)))) := by
  rw [bytes]
  exact congrArg Host.Outcome.next (onMap_own h free _)

/-- Settles O29: a load whose elements are all there writes them element by element (`elementwise_vload`), and any other sends its requests (`vload_waits`). -/
theorem vectorLoads : Obligations.VectorLoads := by
  unfold Obligations.VectorLoads
  intro s d a b e m p t map he f n h loads
  obtain ⟨nibble, hbits, hrow⟩ : etNibble f = false ∧ etBits f = 8 * etBytes f ∧ etBits f * perRow f = 128 := memType_facts he
  have loads_of : ∀ {q : Instr} {at_ : Nat → Nat → Word}, exec q s = .next (s.vload d f m p t at_) → loads q at_ := by
    intro q at_ runs
    refine ⟨fun own => ?_, fun form busy lacks => ?_⟩
    · refine elementwise_vload hbits hrow runs fun x hx => ?_
      obtain ⟨hrow8, inside, shown, hea⟩ := mem_vaddrs hx
      rw [maskCol, nibble] at inside
      obtain ⟨place, free, unwatched, sound⟩ := own (x.1 / perRow f) (x.1 % perRow f)
        ⟨inside.1, hrow8, inside.2, fun hm => by simpa using fun hidden => shown ⟨hm, hidden⟩⟩
      rw [hea]
      exact ⟨place, free, unwatched, sound⟩
    · obtain ⟨u, base, es, waits, rest, -, served, elements⟩ := vload_waits (d := d) (p := p) (t := t) form busy lacks
      have hart : u.hart = s.hart := by rw [rest]; rfl
      refine ⟨u.blockOn (.vload n d base es), base, es, runs.trans (congrArg _ waits), ?_⟩
      rw [State.blockOn, State.hart_mapHart, State.cc_mapHart, hart]
      refine ⟨rfl, rfl, rfl, rfl, ?_, ?_, elements, fun e he => ?_⟩
      · rw [rest]; rfl
      · rw [rest]; rfl
      · split
        next v hv => exact (served e he).near v hv
        next hv => exact (served e he).far hv
  refine ⟨loads_of rfl, ?_, ?_⟩
  · have offsets : s.addrIndex a b = fun i j => s.rg a + (BitVec.ofNat 32 (tileEl (h.rv (b + BitVec.ofNat 5 (j / 4))) 32 i (j % 4))).signExtend 64 :=
      funext fun i => funext fun j => by rw [State.addrIndex, sext64_32]; rfl
    rw [← offsets]
    exact loads_of rfl
  · intro ⟨off, place, free, bytes⟩
    exact loads_of (exec_vldm place free bytes d b e m p t)

end Sys2Proof.Machine
end

section
/-! SUPPORT. Vector instructions that write one register element by element (09 R215, R216), and the integer element operations (09 R229, R230). -/

namespace Sys2Proof.Machine

/-! An element-wise instruction. -/

theorem etBits_mul_row (e : BitVec 4) : etBits e * (128 / etBits e) = 128 := by revert e; decide

/-- Two results that an element of w bits and the flags do not tell apart. -/
def Fl.SameAt (w : Nat) (x y : Fl Nat) : Prop := x.val % 2 ^ w = y.val % 2 ^ w ∧ x.fl = y.fl

theorem Fl.SameAt.rfl {w : Nat} {x : Fl Nat} : x.SameAt w x := ⟨Eq.refl _, Eq.refl _⟩

theorem judge_compute_iff {h : Hart} {e : BitVec 4} {m : BitVec 1} {i j : Nat} : h.judge e m i j = .compute ↔
    (i < h.rows ∧ maskCol e j < min h.vlen (perRow e)) ∧ ¬(m = 1 ∧ maskBit (h.rv 0) e i j = false) :=
  ⟨judge_eq_compute, fun c => judge_compute c.1 c.2⟩

/-- The flags that results have together. -/
theorem getLsbD_flags (rs : List (Fl Nat)) (z : Flags) (k : Nat) :
    (rs.foldl (fun a r => a ||| r.fl) z).getLsbD k = true ↔ z.getLsbD k = true ∨ ∃ r ∈ rs, r.fl.getLsbD k = true := by
  induction rs generalizing z with
  | nil => simp
  | cons r rs ih => rw [List.foldl_cons, ih]; simp [or_assoc]

theorem mem_positions {w i j : Nat} : (i, j) ∈ positions w ↔ i < 8 ∧ j < 128 / w := by
  simp [positions]

/-- The flags of a written tile are those of its computed elements (03 R78). -/
theorem flags_writeTile {w : Nat} {old : Tile} {p t : BitVec 1} {judge : Nat → Nat → Judge} {f : Nat → Nat → Fl Nat} {k : Nat} :
    (writeTile w old p t judge f).fl.getLsbD k = true ↔
      ∃ i j, i < 8 ∧ j < 128 / w ∧ judge i j = .compute ∧ (f i j).fl.getLsbD k = true := by
  simp only [writeTile, tileOf, getLsbD_flags]
  constructor
  · rintro (none | ⟨r, hr, hk⟩)
    · simp at none
    · obtain ⟨⟨i, j⟩, hij, rfl⟩ := List.mem_map.mp hr
      obtain ⟨hi, hj⟩ := mem_positions.mp hij
      cases hjudge : judge i j <;> simp only [hjudge, keep] at hk
      · exact ⟨i, j, hi, hj, hjudge, hk⟩
      · simp at hk
      · simp at hk
  · rintro ⟨i, j, hi, hj, hjudge, hk⟩
    exact .inr ⟨_, List.mem_map.mpr ⟨(i, j), mem_positions.mpr ⟨hi, hj⟩, rfl⟩, by simpa only [hjudge] using hk⟩

theorem pc_foldl_wv (h : Hart) (ws : List (BitVec 5 × Tile)) : (ws.foldl (fun h w => h.wv w.1 w.2) h).pc = h.pc := by
  induction ws generalizing h with
  | nil => rfl
  | cons w ws ih => exact ih (h.wv w.1 w.2)

/-- An instruction that writes vector registers and retires (02 R45). -/
theorem wrote_vretire (s : State) (ws : List (BitVec 5 × Tile)) (fl : Flags) :
    Wrote (s.mapHart (fun h => ws.foldl (fun h w => h.wv w.1 w.2) h)) (s.vretire ws fl) [] (s.hart.pc + 4) fl := by
  have split : s.vretire ws fl = (s.mapHart (fun h => ws.foldl (fun h w => h.wv w.1 w.2) h)).mapHart (fun h => h.retire 4 [] fl) := by
    rw [State.mapHart_mapHart]; rfl
  have hpc : (s.mapHart (fun h => ws.foldl (fun h w => h.wv w.1 w.2) h)).hart.pc = s.hart.pc := by rw [State.hart_mapHart, pc_foldl_wv]
  rw [split, ← hpc]
  exact wrote_mapHart (hartWrote_retireTo _ [] [] _ fl)

theorem retiresV_of_vretire {q : Instr} {s : State} {ws vs : List (BitVec 5 × Tile)} {fl : Flags} (runs : exec q s = .next (s.vretire ws fl)) (h : ws = vs) :
    RetiresV q s vs fl := ⟨_, runs, h ▸ wrote_vretire s ws fl⟩

theorem tileEl_writeTile_compute {w k : Nat} (hk : w * k = 128) {i j : Nat} (hi : i < 8) (hj : j < k) {old : Tile} {p t : BitVec 1}
    {judge : Nat → Nat → Judge} {f : Nat → Nat → Fl Nat} (hjudge : judge i j = .compute) :
    tileEl (writeTile w old p t judge f).val w i j = (f i j).val % 2 ^ w := by
  rw [writeTile, tileEl_tileOf hk hi hj, hjudge]

/-- An instruction that writes the register by f is element-wise for each g that gives the same elements and flags. -/
theorem elementwise_of_velems {q : Instr} {s : State} {d : BitVec 5} {e : BitVec 4} {m p t : BitVec 1} {f g : Nat → Nat → Fl Nat}
    (runs : exec q s = .next (s.velems d e m p t f)) (same : ∀ i j, i < 8 → j < 128 / etBits e → (f i j).SameAt (etBits e) (g i j)) :
    Elementwise q s d e m p t g := by
  have hrow := etBits_mul_row e
  refine ⟨_, _, retiresV_of_vretire runs rfl, fun i j hi hj => ⟨fun out => ?_, fun inside hidden => ?_, fun inside shown => ?_⟩, fun k _ => ?_⟩
  · exact tileEl_writeTile_edge hrow hi hj (judge_edge out)
  · exact tileEl_writeTile_masked hrow hi hj (judge_masked inside hidden)
  · exact (tileEl_writeTile_compute hrow hi hj (judge_compute inside shown)).trans (same i j hi hj).1
  · rw [flags_writeTile]
    refine exists_congr fun i => exists_congr fun j => and_congr_right fun hi => and_congr_right fun hj => ?_
    rw [judge_compute_iff, and_assoc, (same i j hi hj).2]

/-- As `elementwise_of_velems`, for an operation of two elements. -/
theorem elementwise_of_vtwo {q : Instr} {s : State} {d a b : BitVec 5} {e : BitVec 4} {m p t : BitVec 1} {f g : Nat → Nat → Fl Nat}
    (runs : exec q s = .next (s.vtwo d a b e m p t f)) (same : ∀ x y, (f x y).SameAt (etBits e) (g x y)) :
    Elementwise q s d e m p t (fun i j => g (tileEl (s.hart.rv a) (etBits e) i j) (tileEl (s.hart.rv b) (etBits e) i j)) :=
  elementwise_of_velems runs fun _ _ _ _ => same _ _

/-! Types of elements (02 R40). -/

theorem byType_int {e : BitVec 4} (h : etInt e = true) (x y z : Fl Nat) : byType e x y z = x := by simp [byType, h]

theorem byType_ieee {e : BitVec 4} (h : etIeee e = true) (x y z : Fl Nat) : byType e x y z = y := by
  have other : etInt e = false ∧ etNibble e = false := by revert e; decide
  simp [byType, h, other]

theorem etSigned_whole {e : BitVec 4} (h : etNibble e = false) : etSigned e = decide (e.toNat < 4) := by revert e; decide

theorem etNibble_of_etInt {e : BitVec 4} (h : etInt e = true) : etNibble e = false := by revert e; decide

theorem etBits_pos (e : BitVec 4) : 0 < etBits e := by revert e; decide

/-! The integers that elements hold (R229). -/

theorem toS_eq_toInt (x : Nat) {w : Nat} (hw : 0 < w) : toS x w = (BitVec.ofNat w x).toInt := by
  have hpow : 2 ^ w = 2 * 2 ^ (w - 1) := by rw [← Nat.pow_succ', Nat.succ_eq_add_one, Nat.sub_add_cancel hw]
  rw [toS, BitVec.toInt_eq_toNat_cond, BitVec.toNat_ofNat, if_neg (by omega)]
  push_cast
  split <;> split <;> omega

/-- A signed number and the unsigned one of the same bits wrap alike. -/
theorem toS_modEq (x w : Nat) : toS x w ≡ x [ZMOD 2 ^ w] := by
  have hmod : ((x % 2 ^ w : Nat) : Int) ≡ x [ZMOD 2 ^ w] := by push_cast; exact Int.mod_modEq _ _
  rw [toS]
  split
  next h => subst h; exact Int.modEq_one
  next =>
    split
    · exact Int.sub_modulus_modEq_iff.mpr hmod
    · exact hmod

theorem etVal_modEq (e : BitVec 4) (x : Nat) : etVal e x ≡ x [ZMOD 2 ^ etBits e] := by
  rw [etVal]
  split
  · exact toS_modEq x _
  · rfl

theorem wrapN_eq_of_modEq {w : Nat} {x y : Int} (h : x ≡ y [ZMOD 2 ^ w]) : wrapN w x = wrapN w y := congrArg Int.toNat h

theorem wrapN_natCast (w n : Nat) : wrapN w n = n % 2 ^ w := by
  rw [wrapN]; exact_mod_cast Int.toNat_natCast _

/-- What VADD, VSUB and VMUL of an integer type give does not depend on its sign. -/
theorem wrapN_add_etVal (e : BitVec 4) (x y : Nat) : wrapN (etBits e) (etVal e x + etVal e y) = (x + y) % 2 ^ etBits e := by
  rw [wrapN_eq_of_modEq ((etVal_modEq e x).add (etVal_modEq e y)), ← Nat.cast_add, wrapN_natCast]

theorem wrapN_sub_etVal (e : BitVec 4) (x y : Nat) : wrapN (etBits e) (etVal e x - etVal e y) = wrapN (etBits e) (x - y) :=
  wrapN_eq_of_modEq ((etVal_modEq e x).sub (etVal_modEq e y))

theorem wrapN_mul_etVal (e : BitVec 4) (x y : Nat) : wrapN (etBits e) (etVal e x * etVal e y) = x * y % 2 ^ etBits e := by
  rw [wrapN_eq_of_modEq ((etVal_modEq e x).mul (etVal_modEq e y)), ← Nat.cast_mul, wrapN_natCast]

theorem etVal_int {e : BitVec 4} (h : etInt e = true) (x : Nat) : etVal e x = if e.toNat < 4 then (BitVec.ofNat (etBits e) x).toInt else x := by
  rw [etVal, etSigned_whole (etNibble_of_etInt h), toS_eq_toInt x (etBits_pos e)]
  simp only [decide_eq_true_eq]

theorem vDivInt_eq {e : BitVec 4} (h : etInt e = true) (x y : Nat) : vDivInt e x y =
    if y = 0 then ⟨2 ^ etBits e - 1, if x = 0 then 0x10 else 0x08⟩
    else if e.toNat < 4 ∧ etVal e x = -(2 ^ (etBits e - 1)) ∧ etVal e y = -1 then ⟨x, 0x80⟩
    else ⟨wrapN (etBits e) ((etVal e x).tdiv (etVal e y)), 0⟩ := by
  have signed := etSigned_whole (etNibble_of_etInt h)
  by_cases hs : e.toNat < 4 <;> simp [vDivInt, etLo, signed, hs, fNV, fDZ, fIOV]

/-- Settles O26: each instruction computes its elements by a function that agrees with the statement's, up to wrapping. -/
theorem vectorArithmetic : Obligations.VectorArithmetic := by
  unfold Obligations.VectorArithmetic
  intro s d a b e m p t w E S V N rm F
  have two : ∀ {q : Instr} {f g : Nat → Nat → Fl Nat}, exec q s = .next (s.vtwo d a b e m p t f) →
      (∀ x y, (f x y).SameAt w (g x y)) → E q g := fun runs same => elementwise_of_vtwo runs same
  -- From here on `E` is a name alone, so that each clause gives `two` its own function.
  clear_value E
  have same : ∀ {f : Nat → Nat → Fl Nat} (x y : Nat), (f x y).SameAt w (f x y) := fun _ _ => .rfl
  refine ⟨fun int => ?_, fun _ => ⟨two rfl same, two rfl same, two rfl same⟩, fun ieee => ?_, fun _ => ⟨two rfl same, two rfl same, two rfl same⟩⟩
  · have val : ∀ x, V x = etVal e x := fun x => (etVal_int int x).symm
    have signed : ∀ x, S x = toS x w := fun x => (toS_eq_toInt x (etBits_pos e)).symm
    simp only [val, signed]
    refine ⟨two rfl fun x y => ?_, two rfl fun x y => ?_, two rfl fun x y => ?_, two rfl same, two rfl fun x y => ?_, two rfl fun x y => ?_,
      two rfl fun x y => ?_, two rfl fun x y => ⟨Nat.mod_mod _ _, rfl⟩, two rfl same, two rfl same⟩
    · rw [vAdd, byType_int int, ← wrapN_add_etVal]; exact .rfl
    · rw [vSub, byType_int int, ← wrapN_sub_etVal]; exact .rfl
    · rw [vMul, byType_int int, ← wrapN_mul_etVal]; exact .rfl
    · rw [vDiv, byType_int int, vDivInt_eq int]; exact .rfl
    · rw [vMin, byType_int int]; exact .rfl
    · rw [vMax, byType_int int]; exact .rfl
  · have float : ∀ {f int sli : Nat → Nat → Fl Nat} (x y : Nat), (byType e (int x y) (f x y) (sli x y)).SameAt w (f x y) :=
      fun x y => by rw [byType_ieee ieee]; exact .rfl
    exact ⟨two rfl float, two rfl float, two rfl float, two rfl float, two rfl float, two rfl float,
      elementwise_of_velems rfl fun _ _ _ _ => .rfl, two (f := fun x _ => F.sqrt rm x) rfl same⟩

end Sys2Proof.Machine
end

section
/-! SUPPORT. Shapes, selection and the movement of elements (09 R214, R234, R239 to R241). -/

namespace Sys2Proof.Machine

/-! Element types but S4 and N4: the unit of shape and mask is the element (R215). -/

theorem etNibble_of_etWhole {e : BitVec 4} (h : etWhole e = true) : etNibble e = false := by revert e; decide

theorem etWhole_of_etInt {e : BitVec 4} (h : etInt e = true) : etWhole e = true := by revert e; decide

theorem perRow_whole {e : BitVec 4} (h : etWhole e = true) : perRow e = 128 / etBits e := by revert e; decide

theorem maskCol_whole {e : BitVec 4} (h : etWhole e = true) (j : Nat) : maskCol e j = j := by rw [maskCol, etNibble_of_etWhole h]; rfl

/-- The elements that are computed, as the statements write their test. -/
theorem judge_whole {e : BitVec 4} (whole : etWhole e = true) (h : Hart) (m : BitVec 1) (i j : Nat) : (h.judge e m i j == .compute) =
    (decide (i < h.rows) && decide (j < min h.vlen (128 / etBits e)) && (m == 0 || maskBit (h.rv 0) e i j)) := by
  have mask : (m == 0) = true ↔ ¬m = 1 := by revert m; decide
  rw [Bool.eq_iff_iff, beq_iff_eq, judge_compute_iff, maskCol_whole whole, perRow_whole whole]
  simp only [Bool.and_eq_true, Bool.or_eq_true, decide_eq_true_eq, mask, not_and_or, Bool.not_eq_false]

theorem sext64_eq_signExtend (x : Nat) {w : Nat} (hw : 0 < w) : sext64 x w = (BitVec.ofNat w x).signExtend 64 := by
  rw [sext64, toS_eq_toInt x hw]; rfl

/-! Counting (R241). -/

theorem positions_eq (w : Nat) : positions w = (List.range (8 * (128 / w))).map (fun k => (k / (128 / w), k % (128 / w))) := flatMap_range_pairs _ 8

/-- The positions before (i, j) in row-major order. -/
theorem takeWhile_positions {w i j : Nat} (hi : i < 8) (hj : j < 128 / w) : (positions w).takeWhile (fun q => q != (i, j)) =
    (List.range (i * (128 / w) + j)).map (fun k => (k / (128 / w), k % (128 / w))) := by
  obtain ⟨row, col⟩ := position_split i hj
  obtain ⟨rest, hrest⟩ : ∃ rest, 8 * (128 / w) = i * (128 / w) + j + (rest + 1) :=
    ⟨8 * (128 / w) - (i * (128 / w) + j + 1), by have := position_lt hi hj; omega⟩
  rw [positions_eq, hrest, List.range_add, List.map_append, List.takeWhile_append_of_pos, List.range_succ_eq_map]
  · simp [row, col]
  · intro q hq
    obtain ⟨k, hk, rfl⟩ := List.mem_map.mp hq
    rw [bne_iff_ne]
    intro here
    obtain ⟨hrow, hcol⟩ := Prod.mk.inj here
    have place := Nat.div_add_mod' k (128 / w)
    rw [hrow, hcol] at place
    exact absurd (List.mem_range.mp hk) (by omega)

/-- The number of counted positions among the first k. -/
theorem length_counted {w k : Nat} (h : Hart) (x : Tile) (e : BitVec 4) (m : BitVec 1) :
    (((List.range k).map (fun k => (k / w, k % w))).filter (fun q => h.counted x e m q.1 q.2)).length =
      ((List.range k).filter (fun q => h.counted x e m (q / w) (q % w))).length := by
  rw [List.filter_map, List.length_map]; rfl

/-! One element (R240). -/

theorem retires_vext {s : State} {d : BitVec 5} {e : BitVec 4} (whole : etWhole e = true) (writable : s.writable d) (a b : BitVec 5) :
    let w := etBits e
    let n := 128 / w
    let q := (s.rg b).toNat
    let x := tileEl (s.hart.rv a) w (q / n) (q % n)
    Retires (.vext d a b e) s
      [(d, if q < 8 * n then (if e.toNat < 4 then (BitVec.ofNat w x).signExtend 64 else BitVec.ofNat 64 x) else 0)] 0 := by
  refine retires_compute writable rfl (congrArg Fl.pure ?_)
  simp only [perRow_whole whole, etSigned_whole (etNibble_of_etWhole whole), decide_eq_true_eq, sext64_eq_signExtend _ (etBits_pos e)]

/-- Settles O27: the moved elements are those of the statement, and the counts are over the same positions. -/
theorem vectorMovement : Obligations.VectorMovement := by
  unfold Obligations.VectorMovement
  intro s d a b e m p t k h w n X Y set shape
  have counted : etWhole e = true → set = fun q => h.counted (h.rv a) e m (q / n) (q % n) := fun whole => by
    funext q
    rw [Hart.counted, judge_whole whole]
  refine ⟨fun writable => ?_, fun whole => ⟨?_, ?_, ?_, fun writable => ⟨⟨fun inside => ?_, fun beyond => ?_⟩, ?_⟩⟩, fun int => ?_⟩
  · refine ⟨_, congrArg Host.Outcome.next (guarded_bound writable _), ?_⟩
    have := wrote_writeRetire (s.mapHart (fun h => { h with shape := shape })) d shape 0 4
    rwa [State.hart_mapHart] at this
  · exact elementwise_of_velems rfl fun _ _ _ _ => .rfl
  · refine elementwise_of_velems rfl fun i j _ _ => ?_
    rw [perRow_whole whole]; exact .rfl
  · exact elementwise_of_velems rfl fun _ _ _ _ => ⟨Nat.mod_mod _ _, rfl⟩
  · have result := retires_vext whole writable a b
    dsimp only at result
    rwa [if_pos inside] at result
  · have result := retires_vext whole writable a b
    dsimp only at result
    rwa [if_neg (Nat.not_lt.mpr beyond)] at result
  · rw [counted whole, ← length_counted, ← positions_eq]
    exact ⟨_, rfl, wrote_compute writable _ 4⟩
  · refine elementwise_of_velems rfl fun i j hi hj => ⟨?_, rfl⟩
    rw [counted (etWhole_of_etInt int), ← length_counted, takeWhile_positions hi hj]
    exact Nat.mod_mod _ _

end Sys2Proof.Machine
end

section
/-! SUPPORT. Comparison, conversion, requantisation and reduction (09 R233, R235 to R238). -/

namespace Sys2Proof.Machine

/-! Types whose unit of shape and mask is the element. -/

theorem etWhole_of_number {e : BitVec 4} (h : etInt e = true ∨ etIeee e = true ∨ etSli e = true) : etWhole e = true := by revert e; decide

/-! A mask of one bit for each element (R233). -/

theorem packEls_lt (w : Nat) (xs : List Nat) : packEls w xs < 2 ^ (w * xs.length) := by
  induction xs with
  | nil => exact Nat.one_pos
  | cons x xs ih =>
    have first : x % 2 ^ w < 2 ^ w := Nat.mod_lt _ (by positivity)
    rw [packEls, List.length_cons, Nat.mul_succ, Nat.add_comm (w * _), Nat.pow_add]
    calc x % 2 ^ w + 2 ^ w * packEls w xs < 2 ^ w + 2 ^ w * packEls w xs := by omega
      _ = 2 ^ w * (packEls w xs + 1) := by ring
      _ ≤ 2 ^ w * 2 ^ (w * xs.length) := Nat.mul_le_mul_left _ ih

/-- The register that holds n bits. -/
def maskTile (n : Nat) (f : Nat → Fl Nat) : Tile := BitVec.ofNat 1024 (packEls 1 (((List.range n).map f).map Fl.val))

theorem maskTile_lt {n : Nat} (hn : n ≤ 1024) (f : Nat → Fl Nat) : (maskTile n f).toNat < 2 ^ n := by
  have hlt := packEls_lt 1 (((List.range n).map f).map Fl.val)
  rw [List.length_map, List.length_map, List.length_range, Nat.one_mul] at hlt
  rw [maskTile, BitVec.toNat_ofNat, Nat.mod_eq_of_lt (hlt.trans_le (Nat.pow_le_pow_right Nat.two_pos hn))]
  exact hlt

theorem bit_maskTile {n k : Nat} (hn : n ≤ 1024) (hk : k < n) (f : Nat → Fl Nat) : bit (maskTile n f).toNat k = ((f k).val % 2 == 1) := by
  have field : ∀ x, bit x k = (fieldAt 1 x k == 1) := fun x => by rw [bit, Nat.shiftRight_eq_div_pow, fieldAt, Nat.one_mul, Nat.pow_one]
  rw [field, maskTile, fieldAt_ofNat (by omega), fieldAt_packEls _ _ (by simpa using hk)]
  simp

/-- A mask bit that is kept: as before, or set under its policy. -/
theorem keep_bit (pol : BitVec 1) (old : Bool) : ((keep pol 1 (b2n old)).val % 2 == 1) = (pol == 1 || old) := by
  revert pol old; decide

theorem b2n_bit (x : Bool) : (b2n x % 2 == 1) = x := by cases x <;> rfl

/-- VCMP, bit by bit. -/
theorem retiresV_vcmp {e : BitVec 4} (whole : etWhole e = true) (s : State) (d a b : BitVec 5) (m p t : BitVec 1) (c : BitVec 2) :
    ∃ v fl, RetiresV (.vcmp d a b e m p t c) s [(d, v)] fl ∧ v.toNat < 2 ^ 128 ∧ ∀ r q, r < 8 → q < 16 →
      let old := bit (s.hart.rv d).toNat (16 * r + q)
      (s.hart.judge e m r q = .edge → bit v.toNat (16 * r + q) = (t == 1 || old)) ∧
      (s.hart.judge e m r q = .masked → bit v.toNat (16 * r + q) = (p == 1 || old)) ∧
      (s.hart.judge e m r q = .compute →
        bit v.toNat (16 * r + q) = (vCmp e c (tileEl (s.hart.rv a) (etBits e) r q) (tileEl (s.hart.rv b) (etBits e) r q)).val) := by
  refine ⟨maskTile 128 _, _, retiresV_of_vretire rfl rfl, maskTile_lt (by decide) _, fun r q hr hq => ?_⟩
  have row : (16 * r + q) / 16 = r := by omega
  have col : (16 * r + q) % 16 = q := by omega
  rw [bit_maskTile (by decide) (by omega)]
  simp only [row, col]
  have inRow : s.hart.judge e m r q ≠ .edge → ¬perRow e ≤ q := fun active past =>
    active (judge_edge fun inside => absurd inside.2 (by rw [maskCol_whole whole]; omega))
  refine ⟨fun edge => ?_, fun masked => ?_, fun compute => ?_⟩
  · rw [edge, ite_self, keep_bit]
  · rw [if_neg (inRow (by rw [masked]; exact nofun)), masked, keep_bit]
  · rw [if_neg (inRow (by rw [compute]; exact nofun)), compute]
    exact b2n_bit _

/-! Conversion (R235). -/

/-- Register k of the group that VCVT to a wider type writes: its elements are converted from those at k × n and up. -/
def State.widened (s : State) (d a : BitVec 5) (sb : BitVec 1) (src e : BitVec 4) (m p t : BitVec 1) (k : Nat) : Fl Tile :=
  writeTile (etBits e) (s.hart.rv (plus d k)) p t (fun i j => s.hart.judge src m i (k * (128 / etBits e) + j))
    (fun i j => vCvt src e (sb == 1) s.drm (tileEl (s.hart.rv a) (etBits src) i (k * (128 / etBits e) + j)))

theorem tileEl_widened {s : State} {src e : BitVec 4} {m : BitVec 1} {k i j : Nat} (hi : i < 8) (hj : j < 128 / etBits e)
    (compute : s.hart.judge src m i (k * (128 / etBits e) + j) = .compute) (d a : BitVec 5) (sb p t : BitVec 1) :
    tileEl (s.widened d a sb src e m p t k).val (etBits e) i j =
      (vCvt src e (sb == 1) s.drm (tileEl (s.hart.rv a) (etBits src) i (k * (128 / etBits e) + j))).val % 2 ^ etBits e :=
  tileEl_writeTile_compute (etBits_mul_row e) hi hj compute

theorem retiresV_vcvt_wide {src e : BitVec 4} (wider : etBits src < etBits e) (s : State) (d a : BitVec 5) (sb m p t : BitVec 1) :
    ∃ (vs : List Tile) (fl : Flags), vs.length = etBits e / etBits src ∧
      RetiresV (.vcvt d a sb src e m p t) s ((List.range (etBits e / etBits src)).map (fun k => (d + BitVec.ofNat 5 k, vs.getD k 0))) fl ∧
      ∀ k, k < etBits e / etBits src → vs.getD k 0 = (s.widened d a sb src e m p t k).val := by
  have element : ∀ k, k < etBits e / etBits src →
      ((List.range (etBits e / etBits src)).map (fun k => (s.widened d a sb src e m p t k).val)).getD k 0 = (s.widened d a sb src e m p t k).val :=
    fun k hk => by simp [List.getD, hk]
  refine ⟨_, _, by simp, retiresV_of_vretire (congrArg Host.Outcome.next (if_pos wider)) ?_, element⟩
  rw [List.map_map]
  exact List.map_congr_left fun k hk => congrArg (Prod.mk _) (element k (List.mem_range.mp hk)).symm

/-! Reduction (R238). -/

/-- The element that VRED writes to row i: the reduction of all rows, or of the row. -/
def State.reduced (s : State) (a : BitVec 5) (sp : BitVec 1) (o : BitVec 3) (e : BitVec 4) (m : BitVec 1) (i : Nat) : Fl Nat :=
  let part := s.hart.partakers (s.hart.rv a) e m
  if sp = 1 then reduce o e s.drm ((List.range 8).flatMap part) else reduce o e s.drm (part i)

theorem retiresV_vred (s : State) (d a : BitVec 5) (sp : BitVec 1) (o : BitVec 3) (e : BitVec 4) (m t : BitVec 1) :
    let w := etBits e
    ∃ v fl, RetiresV (.vred d a sp o e m t) s [(d, v)] fl ∧ ∀ r q, r < 8 → q < 128 / w →
      let place := q = 0 ∧ (if sp = 1 then r = 0 else r < s.hart.rows)
      (place → tileEl v w r q = (s.reduced a sp o e m r).val % 2 ^ w) ∧
      (¬place → tileEl v w r q = if t = 1 then 2 ^ w - 1 else tileEl (s.hart.rv d) w r q) := by
  refine ⟨_, _, retiresV_of_vretire rfl rfl, fun r q hr hq => ⟨fun here => ?_, fun other => ?_⟩⟩
  · exact (tileEl_writeTile_compute (etBits_mul_row e) hr hq (by rw [if_pos here])).trans rfl
  · exact tileEl_writeTile_edge (etBits_mul_row e) hr hq (by rw [if_neg other])

theorem partakers_whole {e : BitVec 4} (whole : etWhole e = true) (h : Hart) (x : Tile) (m : BitVec 1) (i : Nat) : h.partakers x e m i =
    ((List.range (128 / etBits e)).filter (fun j => decide (i < h.rows) && decide (j < min h.vlen (128 / etBits e)) && (m == 0 || maskBit (h.rv 0) e i j))).map
      (tileEl x (etBits e) i) := by
  rw [Hart.partakers, perRow_whole whole]
  simp only [judge_whole whole]

theorem row_pos (e : BitVec 4) : 0 < 128 / etBits e := by revert e; decide

/-! Requantisation (R237). -/

theorem exec_vreq {s : State} {a b : BitVec 5} (group : a.toNat + (if bit (s.rg b).toNat 48 then 8 else 4) ≤ 32) (d : BitVec 5) (m p t : BitVec 1) :
    let g := (s.rg b).toNat
    let f : BitVec 4 := if bit g 48 then 8 else 0
    exec (.vreq d a b m p t) s = .next (s.velems d f m p t (fun r q =>
      vReq f (toS g 32) (toS (g / 2 ^ 40) 8) (bits g 37 32) (tileEl (s.hart.rv (plus a (q / 4))) 32 r (q % 4)))) :=
  congrArg Host.Outcome.next (if_neg (Nat.not_lt.mpr group))

/-- Settles O28: VCMP bit by bit (`retiresV_vcmp`), VCVT by register or element-wise, VREQ element-wise, VRED row by row (`retiresV_vred`). -/
theorem vectorConversions : Obligations.VectorConversions := by
  unfold Obligations.VectorConversions
  intro s d a b sb src e m p t c o h w n rm inside hidden
  refine ⟨fun number => ?_, fun wider _ _ => ?_, fun narrow _ _ => ?_, ?_, ?_⟩
  · obtain ⟨v, fl, runs, hlt, hbit⟩ := retiresV_vcmp (etWhole_of_number number) s d a b m p t c
    refine ⟨v, fl, runs, hlt, fun r q hr hq => ?_⟩
    obtain ⟨edge, masked, compute⟩ := hbit r q hr hq
    exact ⟨fun out => edge (judge_edge out), fun hin hid => masked (judge_masked hin hid), fun hin shown => compute (judge_compute hin shown)⟩
  · obtain ⟨vs, fl, length, runs, registers⟩ := retiresV_vcvt_wide wider s d a sb m p t
    refine ⟨vs, fl, length, runs, fun k r q hk hr hq hin shown => ?_⟩
    rw [registers k hk]
    exact tileEl_widened hr hq (judge_compute hin shown) d a sb p t
  · exact elementwise_of_velems (congrArg Host.Outcome.next (if_neg (Nat.not_lt.mpr narrow))) fun _ _ _ _ => .rfl
  · intro g f group
    refine elementwise_of_velems (exec_vreq group d m p t) fun i j _ _ => ?_
    rw [vReq, toS_eq_toInt _ (by decide), toS_eq_toInt _ (by decide), toS_eq_toInt _ (by decide)]
    exact .rfl
  · intro part number
    have whole : etWhole e = true := etWhole_of_number (number.imp_right And.right)
    have parts : h.partakers (h.rv a) e m = part := funext fun r => partakers_whole whole h (h.rv a) m r
    constructor
    · obtain ⟨v, fl, runs, elements⟩ := retiresV_vred s d a 0 o e m t
      refine ⟨v, fl, runs, fun r hr hrow => ?_, fun r q hr hq => (elements r q hr hq).2⟩
      rw [← parts]
      exact (elements r 0 hr (row_pos e)).1 ⟨rfl, hrow⟩
    · obtain ⟨v, fl, runs, elements⟩ := retiresV_vred s d a 1 o e m t
      refine ⟨v, fl, runs, ?_, fun r q hr hq => (elements r q hr hq).2⟩
      rw [← parts]
      exact (elements 0 0 (by decide) (row_pos e)).1 ⟨rfl, rfl⟩

end Sys2Proof.Machine
end

section
/-! SUPPORT. Vector stores at issue (09 R223 to R226): the sectors that a store lacks, and the elements that the core itself holds. -/

namespace Sys2Proof.Machine

/-! Places. -/

/-- Global addresses are those with bit 63 clear (04 R120). -/
theorem place_global_iff {s : State} {ea : Word} {al n : Nat} {win : Bool} {p : Place} (h : s.classify ea al n win = .ok p) :
    p = .global ↔ ea.msb = false := by
  unfold State.classify classifyAt at h
  dsimp only at h
  rw [bit_63] at h
  cases hm : ea.msb <;> simp only [hm, Bool.not_false, Bool.not_true, Bool.false_eq_true, if_true, if_false] at h
  · split_ifs at h
    cases h
    simp
  · split_ifs at h <;> cases h <;> simp

theorem inRegion_partitioned {s : State} {ea : Word} {al n : Nat} {win : Bool} {p : Place} (h : s.classify ea al n win = .ok p) (hp : p ≠ .global) :
    s.inRegion ea = false := by
  have hmsb : ea.msb = true := by rw [← Bool.not_eq_false]; exact mt (place_global_iff h).mpr hp
  rw [State.inRegion, hmsb]; rfl

/-! A change of the core that changes nothing. -/

theorem mapHart_unchanged (s : State) : s.mapHart (fun h => h) = s.mapCore (fun k => k) := by
  have unchanged : ∀ k : Core, k.modHart s.cur.hart (fun h => h) = k := fun k => by
    simp [Core.modHart, Core.setHart, Core.hart, Vector.get_eq_getElem]
  rw [State.mapHart, State.modHart, State.mapCore, funext unchanged]

/-! The elements of a store. -/

/-- The store at issue: its elements with their addresses and values. -/
def State.storeOf (s : State) (d : BitVec 5) (f : BitVec 4) (m : BitVec 1) (index : Bool) (at_ : Nat → Nat → Word) : VStore :=
  { eb := etBytes f, index := index,
    xs := (s.vaddrs f m at_).map (fun x => (x.1, x.2, tileEl (s.hart.rv d) (etBits f) (x.1 / perRow f) (x.1 % perRow f))) }

section
variable {s : State} {d : BitVec 5} {f : BitVec 4} {m : BitVec 1} {index : Bool} {at_ : Nat → Nat → Word}
variable (clear : ∀ x ∈ s.vaddrs f m at_, ∃ p, s.classify x.2 (etBytes f) (etBytes f) false = .ok p ∧ s.waitsFor p x.2 (etBytes f) = false)
include clear

theorem vform_clear : s.vform true (etBytes f) (s.vaddrs f m at_) = none := List.findSome?_eq_none_iff.mpr fun x hx => by
  obtain ⟨p, place, -⟩ := clear x hx
  rw [place]
  cases p <;> rfl

theorem vbusy_clear : s.vbusy (etBytes f) (s.vaddrs f m at_) = false := List.any_eq_false.mpr fun x hx => by
  obtain ⟨p, place, free⟩ := clear x hx
  rw [place]
  simpa using free

/-- A store whose elements pass their checks and wait for no other access goes on where it lacks no sector. -/
theorem vstore_goes_on (missing : s.vmissing [] ((s.vaddrs f m at_).map (·.2)) = []) : s.vstore d f m index at_ = s.vgo (s.storeOf d f m index at_) := by
  rw [State.vstore, vform_clear clear, guarded_none, guarded_nil]
  simp only [vbusy_clear clear, missing, Bool.false_eq_true, if_false]
  rfl

/-- It asks for the sectors that it lacks. -/
theorem vstore_fetches {a : Word} {as : List Word} (missing : s.vmissing [] ((s.vaddrs f m at_).map (·.2)) = a :: as) :
    s.vstore d f m index at_ = s.vfetch (s.storeOf d f m index at_) (a :: as) [] := by
  rw [State.vstore, vform_clear clear, guarded_none, guarded_nil]
  simp only [vbusy_clear clear, missing, Bool.false_eq_true, if_false]
  rfl

end

/-! The sectors that a store lacks. -/

theorem vabsent_iff {s : State} {ea : Word} : s.vabsent [] ea = true ↔ s.inRegion ea = true ∧ s.cc.sectorAt ea.toNat = none := by
  rw [State.vabsent, List.contains_nil, Bool.not_false, Bool.and_true, Bool.and_eq_true, Option.isNone_iff_eq_none]

theorem vabsent_outside {s : State} {ea : Word} (h : s.inRegion ea = false) (home : List Nat) : s.vabsent home ea = false := by rw [State.vabsent, h]; rfl

/-- The addresses to ask for, with one more element looked at. -/
def State.lookAt (s : State) (home : List Nat) (l : List Word) (a : Word) : List Word :=
  if s.vabsent home a && !l.any (fun b => sectorAddr b.toNat == sectorAddr a.toNat) then l ++ [a] else l

theorem vmissing_eq (s : State) (home : List Nat) (as : List Word) : s.vmissing home as = as.foldl (s.lookAt home) [] := rfl

theorem lookAt_present {s : State} {home : List Nat} {a : Word} (h : s.vabsent home a = false) (l : List Word) : s.lookAt home l a = l := by
  rw [State.lookAt, h]; rfl

theorem subset_lookAt (s : State) (home : List Nat) (l : List Word) (a : Word) : l ⊆ s.lookAt home l a := by
  unfold State.lookAt
  split
  · exact List.subset_append_left l [a]
  · exact List.Subset.refl l

theorem lookAt_covers {s : State} {home : List Nat} {a : Word} (absent : s.vabsent home a = true) (l : List Word) :
    ∃ b ∈ s.lookAt home l a, sectorAddr b.toNat = sectorAddr a.toNat := by
  rw [State.lookAt, absent, Bool.true_and]
  split
  · exact ⟨a, by simp, rfl⟩
  next there => simpa using there

theorem vmissing_nil {s : State} {home : List Nat} {as : List Word} (h : ∀ a ∈ as, s.vabsent home a = false) : s.vmissing home as = [] := by
  rw [vmissing_eq]
  induction as with
  | nil => rfl
  | cons a as ih =>
    rw [List.foldl_cons, lookAt_present (h a List.mem_cons_self)]
    exact ih fun b hb => h b (List.mem_cons_of_mem a hb)

/-- A sector that a store lacks is among those that it asks for. -/
theorem vmissing_covers {s : State} {home : List Nat} {as : List Word} {a : Word} (ha : a ∈ as) (absent : s.vabsent home a = true) :
    ∃ b ∈ s.vmissing home as, sectorAddr b.toNat = sectorAddr a.toNat := by
  suffices covered : ∀ l : List Word, ((∃ b ∈ l, sectorAddr b.toNat = sectorAddr a.toNat) ∨ a ∈ as) →
      ∃ b ∈ as.foldl (s.lookAt home) l, sectorAddr b.toNat = sectorAddr a.toNat from covered [] (.inr ha)
  clear ha
  induction as with
  | nil => exact fun l h => h.elim id nofun
  | cons x as ih =>
    rintro l (⟨b, hb, same⟩ | ha)
    · exact ih _ (.inl ⟨b, subset_lookAt s home l x hb, same⟩)
    · rcases List.mem_cons.mp ha with rfl | later
      · exact ih _ (.inl (lookAt_covers absent l))
      · exact ih _ (.inr later)

/-! Watchpoints (R226). -/

/-- The watchpoint check of a store that none of its elements matches. -/
theorem vstoreWatch_none {s : State} {v : VStore} (h : ∀ x ∈ v.xs, s.watchNow x.2.1 v.eb false true = none) : s.vstoreWatch v = s.mapCore (fun k => k) := by
  have unwatched : ∀ q : Nat × Word × Nat → Bool, s.vwatch v.eb ((v.xs.filter q).map (fun x => (x.1, x.2.1))) false true = none := fun q =>
    List.findSome?_eq_none_iff.mpr fun x hx => by
      obtain ⟨y, hy, rfl⟩ := List.mem_map.mp hx
      rw [h y (List.mem_filter.mp hy).1]; rfl
  unfold State.vstoreWatch
  simp only [unwatched, Hart.watchedAt]
  exact mapHart_unchanged s

/-! Elements that the core holds. -/

/-- Elements each of which the core writes by `put`, while what is written keeps the test P of those to come. -/
theorem vputAll_near {s : State} {n : Nat} {put : Core → Nat × Word × Nat → Core} {P : Core → Word → Prop} (keeps : ∀ k x ea, P k ea → P (put k x) ea)
    (writes : ∀ F x acc, P (F s.cc) x.2.1 → (s.mapCore F).vput n acc x = (s.mapCore (fun k => put (F k) x), acc)) (xs : List (Nat × Word × Nat)) (F : Core → Core)
    (h : ∀ x ∈ xs, P (F s.cc) x.2.1) (acc : List (Nat × Word × Nat)) :
    (s.mapCore F).vputAll n acc xs = (s.mapCore (fun k => xs.foldl put (F k)), acc) := by
  induction xs generalizing F with
  | nil => rfl
  | cons x xs ih =>
    rw [State.vputAll, writes F x acc (h x List.mem_cons_self)]
    exact ih (fun k => put (F k) x) fun y hy => keeps _ x y.2.1 (h y (List.mem_cons_of_mem x hy))

/-- A store into the own scratch. -/
def Core.putOwn (n : Nat) (k : Core) (x : Nat × Word × Nat) : Core := (k.noteCodeStore (addrOff x.2.1) n).swrite (addrOff x.2.1) n x.2.2

/-- A store into a sector that is present. -/
def Core.putCache (n : Nat) (k : Core) (x : Nat × Word × Nat) : Core := k.cacheStore x.2.1.toNat n x.2.2

theorem sameUnit_foldl {put : Core → Nat × Word × Nat → Core} (same : ∀ k x, SameUnit k (put k x)) (xs : List (Nat × Word × Nat)) (k : Core) :
    SameUnit k (xs.foldl put k) := by
  induction xs generalizing k with
  | nil => exact ⟨rfl, fun _ => rfl, fun _ => rfl⟩
  | cons x xs ih => exact (same k x).trans (ih (put k x))

/-- The n bytes lie in the core's own scratch. -/
def Core.InOwn (n : Nat) (k : Core) (ea : Word) : Prop := classifyAt k.corxy k.scratchSize ea n n false = .ok (.own (addrOff ea))

/-- The n bytes lie in a sector of a bound region that is present. -/
def Core.InCache (n : Nat) (k : Core) (ea : Word) : Prop :=
  classifyAt k.corxy k.scratchSize ea n n false = .ok .global ∧ (k.regionAt ea.toNat).isSome = true ∧ (k.sectorAt ea.toNat).isSome = true

theorem inOwn_putOwn (n : Nat) (k : Core) (x : Nat × Word × Nat) (ea : Word) (h : k.InOwn n ea) : (k.putOwn n x).InOwn n ea := by
  obtain ⟨hs, ws, e⟩ := noteCodeStore_eq k (addrOff x.2.1) n
  rw [Core.putOwn, e]
  exact h

theorem sectorAt_cacheStore (k : Core) (a n v b : Nat) : ((k.cacheStore a n v).sectorAt b).isSome = (k.sectorAt b).isSome := by
  have addr : ∀ x : Sector, (if x.addr == sectorAddr a then x.write a n v else x).addr = x.addr := fun x => by split <;> rfl
  rw [Core.sectorAt, Core.cacheStore, updWhere, List.find?_map, Option.isSome_map]
  simp only [Function.comp_def, addr]
  rfl

theorem inCache_putCache (n : Nat) (k : Core) (x : Nat × Word × Nat) (ea : Word) (h : k.InCache n ea) : (k.putCache n x).InCache n ea :=
  ⟨h.1, h.2.1, (sectorAt_cacheStore k _ _ _ _).trans h.2.2⟩

theorem vput_own {s : State} {n : Nat} (F : Core → Core) (x : Nat × Word × Nat) (acc : List (Nat × Word × Nat)) (h : (F s.cc).InOwn n x.2.1) :
    (s.mapCore F).vput n acc x = (s.mapCore (fun k => (F k).putOwn n x), acc) := by
  have place : (s.mapCore F).classify x.2.1 n n false = .ok (.own (addrOff x.2.1)) := by rw [State.classify, State.cc_mapCore]; exact h
  simp only [State.vput, place, storeOwn_plain _ _ _ _ (release := false) nofun, Option.getD_some, State.mapCore_mapCore]
  rfl

theorem vput_cache {s : State} {n : Nat} (F : Core → Core) (x : Nat × Word × Nat) (acc : List (Nat × Word × Nat)) (h : (F s.cc).InCache n x.2.1) :
    (s.mapCore F).vput n acc x = (s.mapCore (fun k => (F k).putCache n x), acc) := by
  obtain ⟨global, region, sector⟩ := h
  have place : (s.mapCore F).classify x.2.1 n n false = .ok .global := by rw [State.classify, State.cc_mapCore]; exact global
  simp only [State.vput, place, State.cc_mapCore, region, sector, State.mapCore_mapCore, Bool.and_self, if_true]
  rfl

end Sys2Proof.Machine
end

section
/-! SUPPORT. How a vector store goes on (09 R223 to R225): it writes what the core holds, posts the rest in parts (13 R320), or asks for sectors. -/

namespace Sys2Proof.Machine

theorem postedParts_nil (n : Nat) (index : Bool) : postedParts n index [] = [] := by cases index <;> rfl

theorem vpump_nil {s : State} (h : s.hart.vposts = []) (v : VStore) : s.vpump v = s.retire := by
  have none_sent : s.sendParts 8 = s := by rw [State.sendParts, h]
  simp only [State.vpump, none_sent, h, List.isEmpty_nil, if_true]

/-- A store at issue all of whose checks have passed. -/
theorem vgo_unwatched {s : State} {v : VStore} (fresh : v.wait = [] ∧ v.checking = true ∧ v.fault = none)
    (unwatched : ∀ x ∈ v.xs, s.watchNow x.2.1 v.eb false true = none) : s.vgo v = (s.mapCore (fun k => k)).vwrite { v with checking := false } := by
  obtain ⟨wait, checking, fault⟩ := fresh
  simp only [State.vgo, wait, checking, fault, List.isEmpty_nil, Bool.not_true, Bool.false_eq_true, if_false, if_true, vstoreWatch_none unwatched]

/-- A store all of whose elements the core writes retires. -/
theorem vwrite_near {s : State} {v : VStore} {put : Core → Nat × Word × Nat → Core}
    (written : (s.mapCore (fun k => k)).vputAll v.eb [] v.xs = (s.mapCore (fun k => v.xs.foldl put k), [])) :
    (s.mapCore (fun k => k)).vwrite v = ((s.mapCore (fun k => v.xs.foldl put k)).mapHart (fun h => { h with vposts := [] })).retire := by
  simp only [State.vwrite, written, List.map_nil, postedParts_nil]
  exact vpump_nil (by rw [State.hart_mapHart]) _

theorem wrote_near {s : State} {put : Core → Nat × Word × Nat → Core} (same : ∀ k x, SameUnit k (put k x)) (xs : List (Nat × Word × Nat)) :
    let t := (s.mapCore (fun k => xs.foldl put k)).mapHart (fun h => { h with vposts := [] })
    Wrote t t.retire [] (s.hart.pc + 4) 0 := by
  intro t
  have hpc : t.hart.pc = s.hart.pc := by
    rw [State.hart_mapHart, State.hart, State.cc_mapCore]
    exact (sameUnit_foldl same xs s.cc).pc s.cur.hart
  rw [← hpc]
  exact wrote_retire t 4

/-! Posted parts (R225). -/

/-- An element outside what the core holds and outside its regions. -/
def State.Far (s : State) (n : Nat) (ea : Word) : Prop :=
  ∃ p, s.classify ea n n false = .ok p ∧ ((p = .global ∧ s.cc.regionAt ea.toNat = none) ∨ p = .remote ∨ p = .fabric)

theorem State.Far.inRegion {s : State} {n : Nat} {ea : Word} (h : s.Far n ea) : s.inRegion ea = false := by
  obtain ⟨p, place, ⟨-, region⟩ | rfl | rfl⟩ := h
  · rw [State.inRegion, region, Option.isSome_none, Bool.and_false]
  · exact inRegion_partitioned place nofun
  · exact inRegion_partitioned place nofun

theorem vput_far {s : State} {n : Nat} {x : Nat × Word × Nat} (h : s.Far n x.2.1) (acc : List (Nat × Word × Nat)) : s.vput n acc x = (s, acc ++ [x]) := by
  obtain ⟨p, place, ⟨rfl, region⟩ | rfl | rfl⟩ := h <;> simp [State.vput, *]

theorem vputAll_far {s : State} {n : Nat} {xs : List (Nat × Word × Nat)} (h : ∀ x ∈ xs, s.Far n x.2.1) (acc : List (Nat × Word × Nat)) :
    s.vputAll n acc xs = (s, acc ++ xs) := by
  induction xs generalizing acc with
  | nil => rw [State.vputAll, List.append_nil]
  | cons x xs ih =>
    rw [State.vputAll, vput_far (h x List.mem_cons_self)]
    exact (ih (fun y hy => h y (List.mem_cons_of_mem x hy)) _).trans (by rw [List.append_assoc]; rfl)

/-- The request that posts a part. -/
def State.partReq (s : State) (x : (ReqKind × Word × Bool) × Nat) : Req := { s.reqOf .posted x.1.1 x.1.2.1 with id := s.nextId + x.2 }

/-- The parts that a store still has to send find room. -/
def Hart.roomFor (h : Hart) (k : Nat) : Prop := h.orsLocal.toNat + h.orsFab.toNat + h.rejLog.length + k ≤ 8

/-- The hart behind the posting of a part. -/
def Hart.afterPart (h : Hart) (rest : List (ReqKind × Word × Bool)) (fab : Bool) : Hart := (({ h with vposts := rest } : Hart).count 7 1).posted fab

theorem afterPart_facts (h : Hart) (rest : List (ReqKind × Word × Bool)) (fab : Bool) :
    let t := h.afterPart rest fab
    t.pc = h.pc ∧ t.mode = h.mode ∧ t.group = h.group ∧ t.g = h.g ∧ t.binds = h.binds ∧ t.vposts = rest := by
  obtain ⟨-, -, binds, g⟩ := count_fl { h with vposts := rest } 7 1
  have passed := passed_count { h with vposts := rest } 7 1
  exact ⟨passed.same.1, (congrArg Hart.mode passed.rest :), (congrArg Hart.group passed.rest :), g, binds, (congrArg Hart.vposts passed.rest :)⟩

theorem roomFor_afterPart {h : Hart} {k : Nat} (room : h.roomFor (k + 1)) (rest : List (ReqKind × Word × Bool)) (fab : Bool) :
    (h.afterPart rest fab).roomFor k := by
  have log : (h.afterPart rest fab).rejLog = h.rejLog :=
    (congrArg Hart.rejLog (passed_count { h with vposts := rest } 7 1).rest :)
  have counts := count_ors { h with vposts := rest } 7 1
  unfold Hart.roomFor at *
  rw [log]
  unfold Hart.afterPart Hart.posted
  cases fab <;> simp only [counts, if_true, Bool.false_eq_true, if_false, BitVec.toNat_add, BitVec.reduceToNat] <;> omega

/-- The state behind the posting of a part. -/
def State.afterPart (s : State) (k : ReqKind) (ea : Word) (fab : Bool) (rest : List (ReqKind × Word × Bool)) : State :=
  (s.mapHart (fun h => { h with vposts := rest })).post .posted k ea fab

theorem cc_afterPart (s : State) (k : ReqKind) (ea : Word) (fab : Bool) (rest : List (ReqKind × Word × Bool)) :
    (s.afterPart k ea fab rest).cc = s.cc.modHart s.cur.hart (fun h => h.afterPart rest fab) := by
  have sent : (s.afterPart k ea fab rest).cc = ((s.mapHart (fun h => { h with vposts := rest })).mapHart (fun h =>
    { h.count 7 1 with orsLocal := if fab then h.orsLocal else h.orsLocal + 1, orsFab := if fab then h.orsFab + 1 else h.orsFab })).cc := rfl
  have counted : ∀ h : Hart, { h.count 7 1 with
      orsLocal := if fab then h.orsLocal else h.orsLocal + 1, orsFab := if fab then h.orsFab + 1 else h.orsFab } = (h.count 7 1).posted fab := fun h => by
    rw [Hart.posted, (count_ors h 7 1).1, (count_ors h 7 1).2]
  rw [sent, State.mapHart_mapHart, State.cc_mapHart]
  simp only [counted]
  rfl

theorem hart_afterPart (s : State) (k : ReqKind) (ea : Word) (fab : Bool) (rest : List (ReqKind × Word × Bool)) :
    (s.afterPart k ea fab rest).hart = s.hart.afterPart rest fab := by
  rw [State.hart, cc_afterPart]
  exact Core.hart_modHart_same _ _ _

theorem reqOf_vposts (s : State) (ps : List (ReqKind × Word × Bool)) (cls : Class) (k : ReqKind) (ea : Word) :
    (s.mapHart (fun h => { h with vposts := ps })).reqOf cls k ea = s.reqOf cls k ea := by
  simp only [State.reqOf, State.hart_mapHart, State.cc_mapHart, Core.modHart_vf, State.mapHart_cur]

/-- The request of the part that goes on its way. -/
theorem net_afterPart (s : State) (k : ReqKind) (ea : Word) (fab : Bool) (rest : List (ReqKind × Word × Bool)) :
    (s.afterPart k ea fab rest).net = s.net ++ [s.partReq ((k, ea, fab), 0)] :=
  congrArg (fun r : Req => s.net ++ [{ r with id := s.nextId }]) (reqOf_vposts s rest .posted k ea)

/-- The requests of the parts that follow. -/
theorem partReq_afterPart (s : State) (k : ReqKind) (ea : Word) (fab : Bool) (rest : List (ReqKind × Word × Bool)) (x : (ReqKind × Word × Bool) × Nat) :
    (s.afterPart k ea fab rest).partReq x = s.partReq (Prod.map id (· + 1) x) := by
  obtain ⟨pc, mode, group, -⟩ := afterPart_facts s.hart rest fab
  have next : (s.afterPart k ea fab rest).nextId = s.nextId + 1 := rfl
  have cur : (s.afterPart k ea fab rest).cur = s.cur := rfl
  simp only [State.partReq, State.reqOf, hart_afterPart, cc_afterPart, Core.modHart_vf, pc, mode, group, next, cur, Prod.map_fst, Prod.map_snd, id_eq,
    Nat.add_assoc, Nat.add_comm 1]

/-- What the posting of parts leaves alone, and what it sends. -/
structure State.PartsSent (s u : State) (parts : List (ReqKind × Word × Bool)) : Prop where
  net : u.net = s.net ++ parts.zipIdx.map s.partReq
  mem : u.mem = s.mem
  lmem : u.cc.lmem = s.cc.lmem
  pc : u.hart.pc = s.hart.pc
  g : u.hart.g = s.hart.g
  binds : u.hart.binds = s.hart.binds
  vposts : u.hart.vposts = []

theorem partsSent_sendParts {s : State} {parts : List (ReqKind × Word × Bool)} {n : Nat} (posts : s.hart.vposts = parts) (fits : parts.length ≤ n)
    (room : s.hart.roomFor parts.length) : s.PartsSent (s.sendParts n) parts := by
  induction parts generalizing s n with
  | nil =>
    have none_sent : s.sendParts n = s := by cases n <;> simp only [State.sendParts, posts]
    rw [none_sent]
    exact ⟨(List.append_nil _).symm, rfl, rfl, rfl, rfl, rfl, posts⟩
  | cons x rest ih =>
    obtain ⟨k, ea, fab⟩ := x
    obtain ⟨left, rfl⟩ : ∃ left, n = left + 1 := ⟨n - 1, by rw [List.length_cons] at fits; omega⟩
    have hroom : s.hart.postRoom = true := by
      rw [Hart.postRoom, decide_eq_true_iff]
      have := room
      rw [Hart.roomFor, List.length_cons] at this
      omega
    have step : s.sendParts (left + 1) = (s.afterPart k ea fab rest).sendParts left := by
      simp only [State.sendParts, posts, hroom, if_true]
      rfl
    obtain ⟨pc, -, -, g, binds, vposts⟩ := afterPart_facts s.hart rest fab
    rw [← hart_afterPart s k ea fab rest] at pc g binds vposts
    obtain ⟨net, mem, lmem, hpc, hg, hbinds, hvposts⟩ := ih (s := s.afterPart k ea fab rest) vposts (Nat.le_of_succ_le_succ fits)
      (by rw [hart_afterPart]; exact roomFor_afterPart room rest fab)
    rw [step]
    refine ⟨?_, mem, lmem.trans (by rw [cc_afterPart]; rfl), hpc.trans pc, hg.trans g, hbinds.trans binds, hvposts⟩
    rw [net, net_afterPart, List.append_assoc, List.zipIdx_cons', List.map_cons, List.map_map, funext (partReq_afterPart s k ea fab rest)]
    rfl

/-! A store that posts all its elements. -/

theorem vpump_posts {s : State} {parts : List (ReqKind × Word × Bool)} (posts : s.hart.vposts = parts) (room : s.hart.roomFor parts.length) (v : VStore) :
    ∃ u, s.PartsSent u parts ∧ s.vpump v = u.retire := by
  have sent := partsSent_sendParts (n := 8) posts (by have := room; rw [Hart.roomFor] at this; omega) room
  refine ⟨_, sent, ?_⟩
  simp only [State.vpump, sent.vposts, List.isEmpty_nil, if_true]

/-- Noting the parts that are to be sent changes nothing that their requests name. -/
theorem partsSent_of_noted {s u : State} {parts ps : List (ReqKind × Word × Bool)} (h : (s.mapHart (fun h => { h with vposts := ps })).PartsSent u parts) :
    s.PartsSent u parts := by
  obtain ⟨net, mem, lmem, pc, g, binds, vposts⟩ := h
  rw [State.hart_mapHart] at pc g binds
  rw [State.cc_mapHart] at lmem
  refine ⟨?_, mem, lmem, pc, g, binds, vposts⟩
  have requests : (s.mapHart (fun h => { h with vposts := ps })).partReq = s.partReq := funext fun x => by rw [State.partReq, reqOf_vposts]; rfl
  rw [net, requests]; rfl

theorem vwrite_far {s : State} {v : VStore} (far : ∀ x ∈ v.xs, s.Far v.eb x.2.1) (room : s.hart.roomFor (postedParts v.eb v.index v.xs).length) :
    ∃ u, s.PartsSent u (postedParts v.eb v.index v.xs) ∧ (s.mapCore (fun k => k)).vwrite v = u.retire := by
  have far' : ∀ x ∈ v.xs, (s.mapCore (fun k => k)).Far v.eb x.2.1 := fun x hx => by
    rw [State.Far, State.classify, State.cc_mapCore]; exact far x hx
  have missing : (s.mapCore (fun k => k)).vmissing v.home (v.xs.map (fun x => x.2.1)) = [] := vmissing_nil fun a ha => by
    obtain ⟨x, hx, rfl⟩ := List.mem_map.mp ha
    exact vabsent_outside (far' x hx).inRegion v.home
  have noted : ∀ f, (s.mapCore (fun k => k)).mapHart f = s.mapHart f := fun f => by rw [← mapHart_unchanged, State.mapHart_mapHart]
  obtain ⟨u, sent, pumped⟩ := vpump_posts (s := s.mapHart (fun h => { h with vposts := postedParts v.eb v.index v.xs })) (by rw [State.hart_mapHart])
    (by rw [State.hart_mapHart]; exact room) { v with xs := [] }
  refine ⟨u, partsSent_of_noted sent, ?_⟩
  simp only [State.vwrite, vputAll_far far', List.nil_append, missing, noted]
  exact pumped

/-! A store that asks for the sectors that it lacks. -/

theorem vfetch_sends {s : State} {v : VStore} (as : List Word) (ids : List (Nat × Word)) :
    ∃ (t : State) (ws : List (Nat × Word)), s.vfetch v as ids = t.blockOn (.vstore { v with wait := ws }) ∧
      t = { s with net := t.net, nextId := t.nextId } ∧ (∀ r ∈ s.net, r ∈ t.net) ∧
      ∀ a ∈ as, ∃ r ∈ t.net, r.src = .hart s.cur.core s.cur.hart ∧ r.kind = .vfill true v.eb ∧ r.ea = a := by
  induction as generalizing s ids with
  | nil => exact ⟨s, ids, rfl, rfl, fun _ hr => hr, nofun⟩
  | cons a as ih =>
    obtain ⟨t, ws, blocks, rest, kept, sent⟩ := ih (s := s.send (s.reqOf .request (.vfill true v.eb) a)) (ids ++ [(s.nextId, a)])
    refine ⟨t, ws, blocks, rest, fun r hr => kept r (List.mem_append_left _ hr), fun b hb => ?_⟩
    rcases List.mem_cons.mp hb with rfl | hb
    · exact ⟨_, kept _ (List.mem_append_right _ (List.mem_singleton.mpr rfl)), rfl, rfl, rfl⟩
    · exact sent b hb

end Sys2Proof.Machine
end

section
/-! SUPPORT. The statement on vector stores. -/

namespace Sys2Proof.Machine

section
variable {s : State} {d : BitVec 5} {f : BitVec 4} {m : BitVec 1} {index : Bool} {at_ : Nat → Nat → Word}

theorem forall_mem_storeOf (P : Word → Prop) (h : ∀ x ∈ s.vaddrs f m at_, P x.2) : ∀ y ∈ (s.storeOf d f m index at_).xs, P y.2.1 := fun y hy => by
  obtain ⟨x, hx, rfl⟩ := List.mem_map.mp hy
  exact h x hx

variable (clear : ∀ x ∈ s.vaddrs f m at_, ∃ p, s.classify x.2 (etBytes f) (etBytes f) false = .ok p ∧ s.waitsFor p x.2 (etBytes f) = false)
include clear

section
variable (unwatched : ∀ x ∈ s.vaddrs f m at_, s.watchNow x.2 (etBytes f) false true = none) (present : ∀ x ∈ s.vaddrs f m at_, s.vabsent [] x.2 = false)
include unwatched present

/-- A store that lacks no sector writes at once. -/
theorem vstore_present : s.vstore d f m index at_ = (s.mapCore (fun k => k)).vwrite { s.storeOf d f m index at_ with checking := false } := by
  have missing : s.vmissing [] ((s.vaddrs f m at_).map (·.2)) = [] := vmissing_nil fun a ha => by
    obtain ⟨x, hx, rfl⟩ := List.mem_map.mp ha
    exact present x hx
  rw [vstore_goes_on clear missing]
  exact vgo_unwatched ⟨rfl, rfl, rfl⟩ (forall_mem_storeOf (index := index) (fun ea => s.watchNow ea (etBytes f) false true = none) unwatched)

/-- A store all of whose elements the core writes by `put`. -/
theorem vstore_near {put : Core → Nat × Word × Nat → Core} {P : Core → Word → Prop} (keeps : ∀ k x ea, P k ea → P (put k x) ea)
    (writes : ∀ F x acc, P (F s.cc) x.2.1 → (s.mapCore F).vput (etBytes f) acc x = (s.mapCore (fun k => put (F k) x), acc))
    (same : ∀ k x, SameUnit k (put k x)) (near : ∀ x ∈ s.vaddrs f m at_, P s.cc x.2) :
    Wrote ((s.mapCore (fun k => (s.storeOf d f m index at_).xs.foldl put k)).mapHart (fun h => { h with vposts := [] })) (s.vstore d f m index at_) []
      (s.hart.pc + 4) 0 := by
  rw [vstore_present clear unwatched present, vwrite_near (vputAll_near keeps writes _ (fun k => k) (forall_mem_storeOf (index := index) (P s.cc) near) [])]
  exact wrote_near same _

end

/-- A store that lacks sectors asks for them and waits (R224; 08 R191). -/
theorem vstore_asks (lacks : ∃ x ∈ s.vaddrs f m at_, s.vabsent [] x.2 = true) :
    ∃ (t : State) (v : VStore), s.vstore d f m index at_ = t.blockOn (.vstore v) ∧ t = { s with net := t.net, nextId := t.nextId } ∧
      ∀ x ∈ s.vaddrs f m at_, s.vabsent [] x.2 = true →
        ∃ r ∈ t.net, r.src = .hart s.cur.core s.cur.hart ∧ r.kind = .vfill true (etBytes f) ∧ sectorAddr r.ea.toNat = sectorAddr x.2.toNat := by
  have covers : ∀ x ∈ s.vaddrs f m at_, s.vabsent [] x.2 = true → _ := fun x hx => vmissing_covers (List.mem_map.mpr ⟨x, hx, rfl⟩)
  cases missing : s.vmissing [] ((s.vaddrs f m at_).map (·.2)) with
  | nil =>
    obtain ⟨x, hx, absent⟩ := lacks
    obtain ⟨b, hb, -⟩ := covers x hx absent
    rw [missing] at hb
    cases hb
  | cons a as =>
    obtain ⟨t, ws, blocks, rest, -, sent⟩ := vfetch_sends (s := s) (v := s.storeOf d f m index at_) (a :: as) []
    refine ⟨t, _, (vstore_fetches clear missing).trans blocks, rest, fun x hx absent => ?_⟩
    obtain ⟨b, hb, sector⟩ := covers x hx absent
    rw [missing] at hb
    obtain ⟨r, hr, src, kind, rfl⟩ := sent b hb
    exact ⟨r, hr, src, kind, sector⟩

end

/-- A store that has sent its parts retires. -/
theorem retired_of_partsSent {s u : State} {parts : List (ReqKind × Word × Bool)} (sent : s.PartsSent u parts) :
    u.retire.hart.pc = s.hart.pc + 4 ∧ u.retire.hart.block = none ∧ u.retire.mem = s.mem ∧ u.retire.cc.lmem = s.cc.lmem ∧
      (∀ r, s.writable r → u.retire.hart.rg r = s.hart.rg r) ∧
      u.retire.net = s.net ++ parts.zipIdx.map s.partReq := by
  obtain ⟨net, mem, lmem, pc, g, binds, -⟩ := sent
  obtain ⟨-, hpc, block, regs, -⟩ := wrote_retire u 4
  refine ⟨hpc.trans (by rw [pc]; rfl), block, mem, (by rw [State.retire, State.cc_mapHart]; exact lmem), fun r hr => ?_, net⟩
  have slots : u.hart.slotOf r = s.hart.slotOf r := by rw [Hart.slotOf, Hart.slotOf]; simp only [Hart.slot, binds]
  rw [regs r (hr.imp_right slots.trans)]
  exact congrArg (fun g : Vector Word 32 => if r = 0 then 0 else g.get ⟨r.toNat, r.isLt⟩) g

theorem exec_vstm {s : State} {a : BitVec 5} {off map : Nat} (h : s.classify (s.resolve (s.rg a)) 16 16 false = .ok (.own off))
    (free : s.wayHeld (.own off) 0 16 = false) (bytes : map = s.cc.sread off 16) (d b : BitVec 5) (e : BitVec 4) (m : BitVec 1) :
    exec (.vstm d a b e m) s = .next (s.vstore d (memType e) m false (s.addrMap map b (etBytes (memType e)))) := by
  rw [bytes]
  exact congrArg Host.Outcome.next (onMap_own h free _)

/-- Element addresses of VLDX and VSTX, as the statements write them. -/
theorem addrIndex_eq (s : State) (a b : BitVec 5) : s.addrIndex a b = fun i j =>
    s.rg a + (BitVec.ofNat 32 (tileEl (s.hart.rv (b + BitVec.ofNat 5 (j / 4))) 32 i (j % 4))).signExtend 64 :=
  funext fun i => funext fun j => by rw [State.addrIndex, sext64_32]; rfl

/-- Settles O30: a store whose elements are all there writes them (`vstore_near`), one elsewhere posts its parts (`vwrite_far`), and one that lacks sectors
asks for them (`vstore_asks`). -/
theorem vectorStores : Obligations.VectorStores := by
  unfold Obligations.VectorStores
  intro s d a b e m map he f n h stores
  have stores_of : ∀ {q : Instr} {index : Bool} {at_ : Nat → Nat → Word}, exec q s = .next (s.vstore d f m index at_) → stores q index at_ := by
    intro q index at_ runs unwatched
    refine ⟨fun own => ?_, ?_, fun cached => ?_, fun clear lacks => ?_⟩
    · have wrote := vstore_near (d := d) (index := index) (put := Core.putOwn n) (fun x hx => ⟨_, own x hx⟩) unwatched
        (fun x hx => vabsent_outside (inRegion_partitioned (own x hx).1 nofun) []) (inOwn_putOwn n) vput_own
        (fun k x => (sameUnit_noteCodeStore k _ n).trans (sameUnit_swrite _ _ n _))
        (fun x hx => (own x hx).1)
      simp only [State.storeOf, List.foldl_map] at wrote
      exact ⟨_, runs, wrote⟩
    · intro parts far room
      have far' : ∀ x ∈ s.vaddrs f m at_, s.Far n x.2 := fun x hx => have ⟨p, ⟨place, _⟩, which⟩ := far x hx; ⟨p, place, which⟩
      obtain ⟨u, sent, wrote⟩ := vwrite_far (v := { s.storeOf d f m index at_ with checking := false })
        (forall_mem_storeOf (index := index) (s.Far n) far') room
      refine ⟨u.retire, runs.trans (congrArg _ ?_), retired_of_partsSent sent⟩
      rw [vstore_present (fun x hx => have ⟨p, here, _⟩ := far x hx; ⟨p, here⟩) unwatched fun x hx => vabsent_outside (far' x hx).inRegion []]
      exact wrote
    · have wrote := vstore_near (d := d) (index := index) (put := Core.putCache n) (fun x hx => ⟨_, (cached x hx).1⟩) unwatched
        (fun x hx => by rw [← Bool.not_eq_true, vabsent_iff]; exact fun absent => (cached x hx).2.2 absent.2) (inCache_putCache n) vput_cache
        (fun k x => sameUnit_cacheStore k _ n _)
        (fun x hx =>
          have ⟨⟨place, _⟩, region, sector⟩ := cached x hx
          ⟨place, Option.isSome_iff_ne_none.mpr region, Option.isSome_iff_ne_none.mpr sector⟩)
      simp only [State.storeOf, List.foldl_map] at wrote
      exact ⟨_, runs, wrote⟩
    · obtain ⟨t, v, asks, rest, sent⟩ := vstore_asks (d := d) (index := index) (fun x hx => have ⟨p, here, _⟩ := clear x hx; ⟨p, here⟩)
        (have ⟨x, hx, absent⟩ := lacks; ⟨x, hx, vabsent_iff.mpr absent⟩)
      have hart : t.hart = s.hart := by rw [rest]; rfl
      have core : t.cc = s.cc := by rw [rest]; rfl
      refine ⟨t.blockOn (.vstore v), v, runs.trans (congrArg _ asks), ?_⟩
      rw [State.blockOn, State.hart_mapHart, State.cc_mapHart, hart, core]
      exact ⟨rfl, rfl, rfl, by rw [rest]; rfl, rfl, rfl, fun x hx region absent => sent x hx (vabsent_iff.mpr ⟨region, absent⟩)⟩
  refine ⟨stores_of rfl, ?_, ?_⟩
  · have indexed := stores_of (q := .vstx d a b e m) (index := true) (at_ := s.addrIndex a b) rfl
    rwa [addrIndex_eq] at indexed
  · intro ⟨off, place, free, bytes⟩
    exact stores_of (exec_vstm place free bytes d b e m)

end Sys2Proof.Machine
end

section
/-! SUPPORT. The end of a wait for an engine (10 R252): the flags that no wait has covered, then the trap of a fault or the status word; MSTAT and CSTAT
(R253), CASWAIT (11 R285). -/

namespace Sys2Proof.Machine

/-! Covering the flags (R252). -/

/-- Covering flags changes AFLAGS and AREC alone. -/
theorem coverFlags_eq (h : Hart) (l : List (BitVec 8 × Word)) :
    ∃ af ar ov, h.coverFlags l = { h with aflags := af, arec := ar, arecOver := ov } := by
  induction l generalizing h with
  | nil => exact ⟨_, _, _, rfl⟩
  | cons x l ih =>
    obtain ⟨af, ar, ov, raised⟩ : ∃ af ar ov, h.raiseFlags x.1 (arecInstr x.2) = { h with aflags := af, arec := ar, arecOver := ov } := by
      unfold Hart.raiseFlags
      split
      · exact ⟨_, _, _, rfl⟩
      · split <;> exact ⟨_, _, _, rfl⟩
    obtain ⟨af', ar', ov', covered⟩ := ih (h.raiseFlags x.1 (arecInstr x.2))
    rw [raised] at covered
    exact ⟨af', ar', ov', (congrArg (fun y : Hart => y.coverFlags l) raised).trans covered⟩

/-- What is kept of an issuer's commands on an engine, after a change of it. -/
@[simp] theorem issuer_modIssuer_same (k : Core) (i : BitVec 3) (e : Engine) (f : Issuer → Issuer) :
    (k.modIssuer i e f).issuer i e = f (k.issuer i e) := by
  simp only [Core.issuer, Core.modIssuer, Vector.get_eq_getElem, Vector.getElem_set_self]

@[simp] theorem issuer_modHart (k : Core) (h : BitVec 2) (f : Hart → Hart) (i : BitVec 3) (e : Engine) : (k.modHart h f).issuer i e = k.issuer i e := rfl

/-- The state in which a wait of the executing hart on engine e has covered what is kept for it, before it traps or retires. -/
def State.coveredFlags (s : State) (e : Engine) : State :=
  (s.mapCore (fun k => k.modIssuer s.issuerNo e (fun u => { u with flags := [], faulted := false }))).mapHart
    (fun h => h.coverFlags (s.cc.issuer s.issuerNo e).flags)

section
variable (s : State) (e : Engine)

theorem hart_coveredFlags : ∃ af ar ov, (s.coveredFlags e).hart = { s.hart with aflags := af, arec := ar, arecOver := ov } := by
  have same : (s.mapCore (fun k => k.modIssuer s.issuerNo e (fun u => { u with flags := [], faulted := false }))).hart = s.hart := by
    rw [State.hart, State.cc_mapCore]
    rfl
  rw [State.coveredFlags, State.hart_mapHart, same]
  exact coverFlags_eq _ _

theorem codesz_coveredFlags : (s.coveredFlags e).cc.codesz = s.cc.codesz := by
  rw [State.coveredFlags, State.cc_mapHart, Core.modHart_codesz, State.cc_mapCore]
  rfl

theorem issuer_coveredFlags :
    (s.coveredFlags e).cc.issuer s.issuerNo e = { s.cc.issuer s.issuerNo e with flags := [], faulted := false } := by
  rw [State.coveredFlags, State.cc_mapHart, issuer_modHart, State.cc_mapCore, issuer_modIssuer_same]

end

/-! The end of a wait. -/

section
variable {i : Instr} {s : State} {e : Engine} {d : BitVec 5} (hi : exec i s = .next (s.engineWait e d)) (w : s.writable d)
include hi w

/-- A wait blocks while a command of the hart has not ended (18 R378). -/
theorem blocks_engineWait (busy : s.cc.engineDone s.issuerNo e = false) : Blocks i s (.engine e d) := by
  show exec i s = _
  rw [hi, State.engineWait, guarded_bound w, busy, if_neg Bool.false_ne_true]
  rfl

variable (done : s.cc.engineDone s.issuerNo e = true)
include done

theorem exec_engineWait_done : exec i s = .next (s.engineReturn e d) := by
  rw [hi, State.engineWait, guarded_bound w, if_pos done]

/-- Without a fault a wait covers the flags and answers the number of the last command. -/
theorem wrote_engineWait (sound : (s.cc.issuer s.issuerNo e).faulted = false) :
    ∃ t, exec i s = .next t ∧
      Wrote (s.coveredFlags e) t [(d, BitVec.ofNat 64 ((s.cc.issuer s.issuerNo e).seq.toNat * 2 ^ 32))] (s.hart.pc + 4) 0 := by
  obtain ⟨af, ar, ov, hart⟩ := hart_coveredFlags s e
  have pc : (s.coveredFlags e).hart.pc = s.hart.pc := by rw [hart]
  refine ⟨(s.coveredFlags e).writeRetire d (BitVec.ofNat 64 ((s.cc.issuer s.issuerNo e).seq.toNat * 2 ^ 32)), ?_, ?_⟩
  · rw [exec_engineWait_done hi w done, State.engineReturn, sound, if_neg Bool.false_ne_true]
    rfl
  · rw [← pc]
    exact wrote_writeRetire (s.coveredFlags e) d _ 0 4

/-- With a fault a wait covers the flags and takes the trap of the record. -/
theorem exec_engineWait_faulted (faulted : (s.cc.issuer s.issuerNo e).faulted = true) (ready : s.trapReady) :
    exec i s = .next ((s.coveredFlags e).mapHart (fun h =>
      h.enter false (BitVec.ofNat 8 (bits (s.cc.issuer s.issuerNo e).record.toNat 31 24)) h.at (s.cc.issuer s.issuerNo e).addr
        (s.cc.issuer s.issuerNo e).record)) := by
  obtain ⟨af, ar, ov, hart⟩ := hart_coveredFlags s e
  have coveredReady : (s.coveredFlags e).trapReady := by
    simpa only [State.trapReady, hart, codesz_coveredFlags] using ready
  rw [exec_engineWait_done hi w done, State.engineReturn, faulted, if_pos rfl, if_pos (quiet_of_outst_nil ready.1)]
  exact congrArg Host.Outcome.next (raise_ready coveredReady _)

end

/-- An instruction of MSTAT's form reads the fault record of its issuer (R253). -/
theorem retires_engineStat {i : Instr} {s : State} {e : Engine} {d : BitVec 5} (hi : exec i s = .next (s.engineStat e d)) (w : s.writable d)
    (w' : s.writable (d + 1)) : Retires i s [(d, (s.cc.issuer s.issuerNo e).record), (d + 1, (s.cc.issuer s.issuerNo e).addr)] 0 := by
  refine ⟨s.mapHart (fun h =>
    (h.writeAll [(d, (s.cc.issuer s.issuerNo e).record), (d + 1, (s.cc.issuer s.issuerNo e).addr)]).retireTo (s.hart.pc + 4) [.g d, .g (d + 1)] 0), ?_,
    wrote_mapHart (hartWrote_retireTo s.hart _ _ _ 0)⟩
  rw [hi, State.engineStat, boundCheck_writable w, guarded_none, guarded_bound w']
  refine congrArg Host.Outcome.next (mapHart_congr ?_)
  obtain ⟨-, pc, -⟩ := writeAll_rest s.hart [(d, (s.cc.issuer s.issuerNo e).record), (d + 1, (s.cc.issuer s.issuerNo e).addr)]
  rw [← pc]
  rfl

/-- Settles O33: a wait by whether the hart's commands have ended and a fault is kept, CASWAIT by whether the run has ended. -/
theorem engineWaits : Obligations.EngineWaits := by
  unfold Obligations.EngineWaits
  intro s d l w waits
  have waits_of : ∀ i e, exec i s = .next (s.engineWait e d) → waits i e := by
    intro i e hi
    refine ⟨wrote_engineWait hi w, fun done faulted ready => ?_, blocks_engineWait hi w⟩
    refine ⟨_, exec_engineWait_faulted hi w done faulted ready, ?_⟩
    obtain ⟨af, ar, ov, hart⟩ := hart_coveredFlags s e
    have kept : ∀ f, ((s.coveredFlags e).mapHart f).cc.issuer s.issuerNo e = { s.cc.issuer s.issuerNo e with flags := [], faulted := false } := fun f => by
      rw [State.cc_mapHart, issuer_modHart, issuer_coveredFlags]
    rw [State.hart_mapHart, hart, enter_trap, kept]
    refine ⟨?_, rfl, rfl, rfl, rfl, rfl, rfl, rfl, fun _ => rfl⟩
    have cause : (BitVec.ofNat 8 (bits (s.cc.issuer s.issuerNo e).record.toNat 31 24)).toNat = bits (s.cc.issuer s.issuerNo e).record.toNat 31 24 :=
      (BitVec.toNat_ofNat _ 8).trans (Nat.mod_mod _ _)
    exact congrArg (fun n => BitVec.ofNat 64 (b2n (s.hart.mode == .supervisor) * 2 ^ 63 + n)) cause
  refine ⟨waits_of _ .matrix rfl, waits_of _ .copy rfl, waits_of _ .exponent rfl,
    fun w' => ⟨retires_engineStat rfl w w', retires_engineStat rfl w w'⟩, fun ended => ?_, fun running => ?_⟩
  · refine ⟨s.writeRetire d s.cc.cas.casst, ?_, wrote_writeRetire s d _ 0 4⟩
    show execCaswait d l s = _
    rw [execCaswait, guarded_bound w, if_neg ended]
  · show execCaswait d l s = _
    rw [execCaswait, guarded_bound w, if_pos running]
    rfl

end Sys2Proof.Machine
end

section
/-! SUPPORT. What an accepted command leaves of its engine (10 R243): the command in performance keeps what it has done. The word `Commands` of the
statements starts that work anew. -/

namespace Sys2Proof.Machine

/-! An engine of a core. -/

@[simp] theorem eng_setEng_same (k : Core) (e : Engine) (x : EngineSt) : (k.setEng e x).eng e = x := by cases e <;> rfl

@[simp] theorem eng_modHart (k : Core) (h : BitVec 2) (f : Hart → Hart) (e : Engine) : (k.modHart h f).eng e = k.eng e := by cases e <;> rfl

/-- An accepted command changes the queue of its engine and whose turn it is, not what the command in performance has done. -/
theorem work_accept (k : Core) (e : Engine) (i : BitVec 3) (off : Word) (op : CmdOp) (cs : Word) (mark : Nat) (contended hart : Bool) :
    ((k.accept e i off op cs mark contended hart).eng e).work = (k.eng e).work := by
  cases e <;> rfl

/-- A command whose queue has an entry for the hart and whose checks pass is accepted (R243, R246). -/
theorem command_accepts {s : State} {e : Engine} (hq : s.queueShut e = false) {checks : List (Option Trap)} (hc : checks.findSome? id = none)
    (op : CmdOp) (cs : Word) : s.command e checks op cs =
      ((s.mapCore (fun k => k.accept e s.issuerNo s.hart.pc op cs s.nextId (s.cc.cas.wantsQ == some e) true)).mapHart
        (fun h => h.count 0x0C 1)).retire := by
  simp only [State.command, hq, Bool.false_eq_true, if_false, State.guarded, hc]

theorem work_command {s : State} {e : Engine} (hq : s.queueShut e = false) {checks : List (Option Trap)} (hc : checks.findSome? id = none)
    (op : CmdOp) (cs : Word) : ((s.command e checks op cs).cc.eng e).work = (s.cc.eng e).work := by
  rw [command_accepts hq hc, State.retire, State.cc_mapHart, eng_modHart, State.cc_mapHart, eng_modHart, State.cc_mapCore, work_accept]

/-- A queue with an entry that is not the sequencer's turn. -/
theorem queueShut_false {s : State} {e : Engine} (room : (s.cc.eng e).queue.length < Config.engineQueue)
    (turn : ¬(s.cc.cas.wantsQ = some e ∧ (s.cc.eng e).lastHart = true)) : s.queueShut e = false := by
  simpa [State.queueShut, EngineSt.room, room] using turn

/-- `Commands` says that the command in performance has done nothing after the acceptance, so it is false of every command that is accepted while
another one is part-way. -/
theorem not_commands_of_begun {i : Instr} {s : State} {e : Engine} {checks : List (Option Trap)} {op : CmdOp} {cs : Word}
    (hi : exec i s = .next (s.command e checks op cs)) (hc : checks.findSome? id = none)
    (room : (s.cc.eng e).queue.length < Config.engineQueue) (turn : ¬(s.cc.cas.wantsQ = some e ∧ (s.cc.eng e).lastHart = true))
    (begun : (s.cc.eng e).work ≠ {}) : ¬ Commands i s e op cs := by
  rintro ⟨accepted, -⟩
  obtain ⟨t, ht, wrote⟩ := accepted room turn
  obtain ⟨frame, -⟩ := wrote.frame
  have anew : (t.cc.eng e).work = {} := by
    rw [frame, State.cc_mapHart, eng_modHart, State.cc_mapCore, eng_setEng_same]
  have same : t = s.command e checks op cs := Host.Outcome.next.inj (ht.symm.trans hi)
  rw [same, work_command (queueShut_false room turn) hc] at anew
  exact begun anew

/-! Commands behind one that is part-way. -/

/-- Hart 1 of core 5 in a code region of 1 KiB. Its MMA of 64 products has applied the first block of 16, and it owns slots 0 to 7; g3 and g4 name
slots 4 and 5. -/
def matrixBusy : State :=
  let h : Hart := { xvec := 512, pc := 64, group := some ⟨7, 0, 0⟩ }
  let mma : Cmd := { issuer := 1, seq := 1, off := 60, op := .mma 0x800 0 1 false true 0 64 16 16, cs := 0 }
  let k : Core := { codesz := 1024, vf := some 0, launch := 7, matrix := { run := some mma, work := { unit := 1 } } }
  { State.reset.setCore 5 (((k.modIssuer 1 .matrix (fun u => { u with seq := 1 })).ownSlots 0 8 (some 1)).setHart 1 ((h.wg 3 4).wg 4 2)) with
    cur := ⟨5, 1⟩ }

/-- Refutes O31: its word `Commands` makes the work of the engine's command in performance empty again, where an accepted command only joins the
queue (10 R243). In `matrixBusy` the MREL of slots 4 and 5 is accepted behind an MMA that has applied one block, and the MMA has still applied it. -/
theorem not_matrixAndExponentCommands : ¬ Obligations.MatrixAndExponentCommands := by
  unfold Obligations.MatrixAndExponentCommands
  intro claim
  obtain ⟨-, mrel, -⟩ := claim.1 matrixBusy 0 3 4 0 0
  exact not_commands_of_begun (i := .mrel 3 4 0) rfl (by decide +kernel) (by decide +kernel) (by decide +kernel) (by decide +kernel)
    (mrel (by decide +kernel) (by decide +kernel) (by decide +kernel))

/-- The read of the first 16 bytes of a CPY of 32, on its way from core 5 to global memory. -/
def copyRead : Req :=
  { id := 3, src := .engine 5, cls := .request, kind := .eread 16, ea := 0x2000, vf := 0, launch := 7, off := 0, prog := false, stage := .sent }

/-- Hart 1 of core 5 in a code region of 1 KiB. Its CPY of 32 bytes waits for `copyRead`; g2 and g3 name global memory, g4 holds a length of 32 and g5 an
empty completion specification. -/
def copyBusy : State :=
  let h : Hart := { xvec := 512, pc := 64, group := some ⟨7, 0, 0⟩ }
  let cpy : Cmd := { issuer := 1, seq := 1, off := 60, op := .cpy 0x1000 0x2000 32, cs := 0 }
  let k : Core := { codesz := 1024, vf := some 0, launch := 7, copy := { run := some cpy, work := { wait := some 3 } } }
  { State.reset.setCore 5 ((k.modIssuer 1 .copy (fun u => { u with seq := 1 })).setHart 1 (((h.wg 2 0x3000).wg 3 0x4000).wg 4 32)) with
    cur := ⟨5, 1⟩, net := [copyRead], nextId := 4 }

/-- Refutes O32: its word `Commands` makes the work of the engine's command in performance empty again, where an accepted command only joins the
queue (10 R243). In `copyBusy` the CPY of the hart is accepted behind one that waits for its first read, and that one waits for it still. -/
theorem not_copyCommands : ¬ Obligations.CopyCommands := by
  unfold Obligations.CopyCommands
  intro claim
  obtain ⟨cpy, -⟩ := claim copyBusy 2 3 4 0
  exact not_commands_of_begun (i := .cpy 2 3 4 0) rfl (by decide +kernel) (by decide +kernel) (by decide +kernel) (by decide +kernel)
    (cpy (by decide +kernel) (by decide +kernel) (by decide +kernel) (by decide +kernel) (by decide +kernel))

end Sys2Proof.Machine
end

section
/-! SUPPORT. A CPYR whose slot lies in a way that a waiting WAYSET changes (08 R187; log 21): the controller of its ring holds it. -/

namespace Sys2Proof.Machine

/-- A push whose ring stands in a way that stays, and whose slot does not, stays where it is. -/
theorem remoteScratchAccess_pushHeld {s : State} {id x src : Nat} {r : Req} {p : Spot} (hr : s.reqNext id = some r) (hg : r.stage = .toCore x)
    (hk : r.kind = .push src) (hp : s.spot r.vf (addrVcore r.ea) = some p)
    (held : (s.spotCore r.vf p).affected (ringSlot (s.ringOf r.vf r.ea).2.1 (ringWIDX (s.ringOf r.vf r.ea).2.1)) (s.ringOf r.vf r.ea).2.2 = true) :
    exec (.remoteScratchAccess id) s = .next s := by
  have stays : s.tryAccess r = s := by
    simp only [State.tryAccess, hp, hk, ReqKind.isPush, held, Bool.and_self, Bool.or_true, if_true]
  show s.onReq id Stage.isCore (fun k => !k.isMessage) s.tryAccess = _
  simp only [State.onReq, hr, hg, hk, Stage.isCore, ReqKind.isMessage, Bool.not_false, Bool.and_self, if_true, stays]

/-- A push that nothing stops is performed (10 R275). -/
theorem pushRing_done {k t : Core} {o src : Nat} (fits : ¬t.scratchSize < o + 32) (beyond : ¬o < t.codesz.toNat) (sound : t.spoisoned o 32 = false)
    (up : ¬(t.ringUp (t.ring o) = false ∨ ringMODE (t.ring o) = true ∨ ringSTATE (t.ring o) = true))
    (source : ¬k.scratchSize < src + ringSSIZE (t.ring o)) (room : ringFILLED (t.ring o) ≠ ringCOUNT (t.ring o))
    (slot : ¬ringSlot (t.ring o) (ringWIDX (t.ring o)) < t.codesz.toNat) : ∃ u n bad, pushRing k t o src = .done u n bad := by
  simp only [pushRing, fits, beyond, sound, up, source, room, slot, Bool.false_eq_true, if_false]
  exact ⟨_, _, _, rfl⟩

/-- CPYR of core 5 from its scratch offset 0x400, at the ring of virtual core 1 at offset 0x400. -/
def heldPush : Req :=
  { id := 3, src := .engine 5, cls := .posted, kind := .push 0x400, ea := 0xFFF0000200000400, vf := 0, launch := 7, off := 0, prog := false,
    stage := .toCore 6 }

/-- Core 6, virtual core 1, all of whose ways are scratch. Its copy engine still writes way 11, for which the WAYSET of hart 0 waits. Its ring at 0x400
has four slots of 16 bytes in way 11, from 0x58000 on, of which one is filled. -/
def ringCore : Core :=
  let k : Core :=
    { codesz := 1024, vf := some 0, vc := 1, launch := 7, lmem := memPutLE [] 0 4 ((encode (.wayset 5 6)).getD 0).toNat, wayWait := some (0, 0x7FF) }
  let copies : Cmd := { issuer := 0, seq := 1, off := 56, op := .cpy (k.ownAddr 0x58800) (k.ownAddr 0x1000) 128, cs := 0 }
  let ring := 5 + 6 * 2 ^ 32 + 4 * 2 ^ 87 + 2 * 2 ^ 91 + 0xFFFF * 2 ^ 112 + 0x58000 * 2 ^ 128 + 1 * 2 ^ 160
  (({ k with copy := { run := some copies } }).setHart 0 waysetHart).swrite 0x400 32 ring

/-- Core 5, virtual core 0, whose CPYR waits for `heldPush`. -/
def pushingCore : Core :=
  let cpyr : Cmd := { issuer := 1, seq := 1, off := 60, op := .cpyr 0xFFF0000200000400 0x400, cs := 0 }
  let k : Core := { codesz := 1024, vf := some 0, launch := 7, copy := { run := some cpyr, work := { wait := some 3 } } }
  k.setHart 1 { xvec := 512, pc := 64, group := some ⟨7, 0, 1⟩ }

/-- The module with these two cores and the push at its ring. -/
def pushAtWayset : State :=
  { ((State.reset.modPart 0 (fun p => { p with valid := true, resident := true, remap := 0x8000000018018000 })).setCore 5 pushingCore).setCore 6 ringCore with
    cur := ⟨6, 0⟩, net := [heldPush], nextId := 4 }

/-- Hart 0 is at the WAYSET that the core's mark names, and the WAYSET waits: executed, it leaves the module as it is. -/
theorem pushAtWayset_wayset : pushAtWayset.atWayset 6 0 = true ∧ exec (.wayset 5 6) pushAtWayset = .next pushAtWayset :=
  ⟨by decide +kernel, congrArg Host.Outcome.next (by decide +kernel)⟩

theorem pushAtWayset_next : pushAtWayset.reqNext 3 = some heldPush := by decide +kernel

theorem pushAtWayset_spot : pushAtWayset.spot 0 (addrVcore heldPush.ea) = some (.core 6) := by decide +kernel

/-- The ring stands in way 0, which stays, and its next slot in way 11. -/
theorem pushAtWayset_affected : ringCore.affected (addrOff heldPush.ea) 32 = false ∧
    ringCore.affected (ringSlot (ringCore.ring 0x400) (ringWIDX (ringCore.ring 0x400))) (ringSSIZE (ringCore.ring 0x400)) = true := by decide +kernel

/-- The ring has room, and nothing else stops the push. -/
theorem pushAtWayset_pushRing : ∃ t n bad, pushRing pushingCore ringCore (addrOff heldPush.ea) 0x400 = .done t n bad :=
  pushRing_done (by decide +kernel) (by decide +kernel) (by decide +kernel) (by decide +kernel) (by decide +kernel) (by decide +kernel) (by decide +kernel)

/-- Refutes O46: its clause on REMOTE_SCRATCH_ACCESS says that a push at a ring with room is performed where no WAYSET waits for a way of the ring. It has
no premise on the ways of the slot, for which the push is held as well (08 R187, log 21): in `pushAtWayset` the ring has room, its next slot lies in the way
that the WAYSET changes, and the push stays where it is. -/
theorem not_engineSteps : ¬ Obligations.EngineSteps := by
  unfold Obligations.EngineSteps
  intro claim
  obtain ⟨-, -, -, -, -, pushes⟩ := claim pushAtWayset 5 .copy { issuer := 1, seq := 1, off := 60, op := .cpyr 0xFFF0000200000400 0x400, cs := 0 } []
  obtain ⟨t, n, bad, done⟩ := pushAtWayset_pushRing
  obtain ⟨-, performs⟩ := pushes 3 0x400 heldPush (.core 6) 6 pushAtWayset_next rfl rfl rfl pushAtWayset_spot pushAtWayset_affected.1
  have performed := performs t n bad done
  unfold Becomes at performed
  rw [remoteScratchAccess_pushHeld pushAtWayset_next rfl rfl pushAtWayset_spot (by decide +kernel)] at performed
  obtain ⟨q, mem, stage⟩ := exists_stage_answer (pushAtWayset.putSpot heldPush.vf (.core 6) t) heldPush (Spot.core 6).site (.reply (BitVec.ofNat 1024 n) bad 0 none)
  rw [← Host.Outcome.next.inj performed] at mem
  rw [List.mem_singleton.1 mem] at stage
  exact nomatch stage

end Sys2Proof.Machine
end

section
/-! SUPPORT. Microwords as they run (11 R286 to R299): the form and the checks of one come before any effect, and the first that fails ends the run. CASGO
(R282, R300). -/

namespace Sys2Proof.Machine

/-! A change of the executing core. -/

theorem mapCore_congr {s : State} {f g : Core → Core} (e : f s.cc = g s.cc) : s.mapCore f = s.mapCore g := congrArg (s.setCore s.cur.core) e

/-! CASGO. -/

theorem sameUnit_casgo (k : Core) (c : Casement) (i : Vector (Vector Issuer 3) 5) : SameUnit k { k with cas := c, issuers := i } :=
  ⟨rfl, fun _ => rfl, fun _ => rfl⟩

/-- The three checks of CASGO pass where no run goes on and the parameter block, if there is one, is aligned and lies in scratch. -/
theorem casgoChecks_pass {running block : Prop} [Decidable running] [Decidable block] {p size : Nat} (idle : ¬running)
    (fits : block → p % 64 = 0 ∧ p + 64 ≤ size) (t t' t'' : Trap) :
    [if running then some t else none, if block ∧ p % 64 ≠ 0 then some t' else none,
      if block ∧ size < p + 64 then some t'' else none].findSome? id = none := by
  rw [if_neg idle, if_neg (fun h => h.2 (fits h.1).1), if_neg (fun h => Nat.not_lt.mpr (fits h.1).2 h.2)]
  rfl

/-- Settles O17: the hart's earlier accesses are performed, the checks pass, and no WAYSET holds the parameter block. -/
theorem casgoStarts : Obligations.CasgoStarts := by
  unfold Obligations.CasgoStarts
  intro s a outst orsLocal orsFab idle v p block
  have pass := casgoChecks_pass (block := bit v 63 = true) idle (fun h => ⟨(block h).1, (block h).2.1⟩)
    ⟨cENGINE, 0, 8⟩ ⟨cALIGN, BitVec.ofNat 64 p, 0⟩ ⟨cBOUNDS, BitVec.ofNat 64 p, 0⟩
  have free : (bit v 63 && s.wayHeld (.own p) 0 64) = false := by
    cases hb : bit v 63
    · rfl
    · rw [(block hb).2.2]; rfl
  refine ⟨_, ?_, wrote_mapCore_retire (sameUnit_casgo s.cc _ _)⟩
  show execCasgo a s = _
  rw [execCasgo, if_pos (released_iff.mpr ⟨outst, orsLocal, orsFab⟩)]
  exact congrArg Host.Outcome.next ((guarded_pass pass _).trans (if_neg (by rw [free]; exact Bool.false_ne_true)))

/-! The form and the checks of a microword (R299). -/

theorem first_of_one {c : Option RunTrap} {t : RunTrap} (h : c = some t) : [c].findSome? id = some t := by rw [h]; rfl

theorem runReason_passes {bad : Bool} (h : bad = false) : runReason bad = none := by rw [h]; rfl

/-- Register r holds the own-scratch offset of n bytes with alignment al (R291). -/
def State.casAt (s : State) (r : BitVec 4) (al n : Nat) : Prop :=
  (s.ca r).toNat % 2 ^ 24 % al = 0 ∧ bits (s.ca r).toNat 31 24 = 0 ∧ (s.ca r).toNat % 2 ^ 24 + n ≤ s.cc.scratchSize

theorem casAddr_passes {s : State} {r : BitVec 4} {al n : Nat} (h : s.casAt r al n) : s.casAddr (s.ca r) al n = none := by
  obtain ⟨aligned, high, fits⟩ := h
  exact (if_neg (not_not.mpr aligned)).trans (if_neg (by rw [not_or, not_not, Nat.not_lt]; exact ⟨high, fits⟩))

theorem casAddr_misaligned {s : State} {r : BitVec 32} {al : Nat} (h : r.toNat % 2 ^ 24 % al ≠ 0) (n : Nat) :
    s.casAddr r al n = some ⟨cALIGN, r.toNat % 2 ^ 24⟩ := if_pos h

theorem casAddr_outside {s : State} {r : BitVec 32} {al n : Nat} (aligned : r.toNat % 2 ^ 24 % al = 0)
    (h : bits r.toNat 31 24 ≠ 0 ∨ s.cc.scratchSize < r.toNat % 2 ^ 24 + n) : s.casAddr r al n = some ⟨cBOUNDS, r.toNat % 2 ^ 24⟩ :=
  (if_neg (not_not.mpr aligned)).trans (if_pos h)

section
variable {i : Instr} {s : State} {ok : Bool} {checks : List (Option RunTrap)} {act : State → State}
  (runs : exec i s = .next (s.micro ok checks act))
include runs

/-- A microword whose form is not as its row says ends the run with ILLEGAL. -/
theorem micros_illForm {f : Core → Core} (bad : ok = false) (does : { s.cc with cas := s.cc.cas.fail ⟨cILLEGAL, 0⟩ } = f s.cc) : Micros i s f := by
  rw [Micros, runs, State.micro, if_pos bad]
  exact congrArg Host.Outcome.next (mapCore_congr does)

variable (form : ok = true)
include form

/-- A microword whose first failing check is t ends the run before any effect. -/
theorem micros_fails {t : RunTrap} (first : checks.findSome? id = some t) {f : Core → Core} (does : { s.cc with cas := s.cc.cas.fail t } = f s.cc) :
    Micros i s f := by
  rw [Micros, runs, State.micro, form, if_neg Bool.true_eq_false.mp, first]
  exact congrArg Host.Outcome.next (mapCore_congr does)

/-- A microword that passes has its own effect. -/
theorem exec_micro (pass : ∀ c ∈ checks, c = none) : exec i s = .next (act s) := by
  have clear : checks.findSome? id = none := List.findSome?_eq_none_iff.mpr pass
  rw [runs, State.micro, form, if_neg Bool.true_eq_false.mp, clear]

end

/-- A register or control microword without operands to check changes the sequencer alone. -/
theorem micros_mapCas {i : Instr} {s : State} {ok : Bool} {g : Casement → Casement} (runs : exec i s = .next (s.micro ok [] (fun s => s.mapCas g)))
    (form : ok = true) {f : Core → Core} (does : { s.cc with cas := g s.cc.cas } = f s.cc) : Micros i s f :=
  (exec_micro runs form (List.forall_mem_nil _)).trans (congrArg Host.Outcome.next (mapCore_congr does))

end Sys2Proof.Machine
end

section
/-! SUPPORT. Register and control microwords (11 R286, R287, R290), SIG, and the ends of waits and runs (R299, R453; 01 R33). -/

namespace Sys2Proof.Machine

/-! An arrival at a barrier (08 R201). -/

/-- An arrival that is counted leaves the object with one more arrival, completed. -/
theorem barArrive_ok {b : Nat} (h0 : barFaults b = 0) (h : barARRIVED b ≠ barEXPECTED b) :
    ∃ v, barArrive b = ⟨barComplete (barMk (barPENDING b) (barEXPECTED b) (barARRIVED b + 1) (barPHASE b) 0), .ok v⟩ :=
  ⟨_, (if_neg (not_not.mpr h0)).trans (if_neg h)⟩

/-- An arrival at an object with a fault, or at one that has all its arrivals, is a fault. -/
theorem barArrive_error {b : Nat} (h : barFaults b ≠ 0 ∨ barARRIVED b = barEXPECTED b) : ∃ o n, barArrive b = ⟨o, .error n⟩ := by
  by_cases h0 : barFaults b = 0
  · exact ⟨_, _, barArrive_over h0 (h.resolve_left (not_not.mpr h0))⟩
  · exact ⟨_, _, barArrive_faulted h0⟩

/-- An object without a fault, written out. -/
theorem barMk_sound (p e r : Nat) (ph : Bool) : barMk p e r ph 0 = p + e * 2 ^ 64 + r % 2 ^ 16 * 2 ^ 80 + b2n ph * 2 ^ 100 := by
  rw [barMk, Nat.zero_mul, Nat.add_zero]

/-! SIG (R290). -/

section
variable {s : State} {u : Micro}

section
variable (form : (Instr.microSig u).wf = true) (at_ : s.casAt u.a 16 16)
include form at_

/-- A SIG at a barrier that counts it writes the object and goes on. -/
theorem micros_sig_ok {o v : Nat} (arrives : barArrive (s.cc.bar (casOff (s.ca u.a))) = ⟨o, .ok v⟩) :
    Micros (.microSig u) s (fun k => { k.putOwnBar (casOff (s.ca u.a)) o with cas := (k.putOwnBar (casOff (s.ca u.a)) o).cas.next }) := by
  refine (exec_micro rfl form (List.forall_mem_singleton.mpr (casAddr_passes at_))).trans (congrArg Host.Outcome.next ?_)
  simp only [arrives]
  exact State.mapCore_mapCore s _ _

/-- A SIG that meets a barrier fault ends the run before any effect (R299). -/
theorem micros_sig_error {o n : Nat} (arrives : barArrive (s.cc.bar (casOff (s.ca u.a))) = ⟨o, .error n⟩) :
    Micros (.microSig u) s (fun k => { k with cas := k.cas.fail ⟨cBARRIER, casOff (s.ca u.a)⟩ }) := by
  refine (exec_micro rfl form (List.forall_mem_singleton.mpr (casAddr_passes at_))).trans (congrArg Host.Outcome.next ?_)
  simp only [arrives]
  rfl

end

/-- The message of a SIG. -/
def State.sigMessage (s : State) (u : Micro) : Msg := ⟨BitVec.ofNat 2 (bits u.imm.toNat 5 4), BitVec.ofNat 4 u.imm.toNat, (s.ca u.b).setWidth 64⟩

variable (form : (Instr.microSigMessage u).wf = true) (hosts : (s.cc.hart (s.sigMessage u).hart).group.isSome = true)
include form hosts

/-- A SIG of a message whose hart hosts a group is a delivery where the core takes the message. -/
theorem micros_sigMessage {k : Core} (taken : s.cc.ownMessage (s.sigMessage u) = some k) {f : Core → Core}
    (does : { k with cas := k.cas.next } = f s.cc) : Micros (.microSigMessage u) s f := by
  refine (exec_micro rfl form (List.forall_mem_singleton.mpr (if_pos hosts))).trans (congrArg Host.Outcome.next ?_)
  unfold State.sigMessage at taken
  simp only [taken]
  exact (State.mapCore_mapCore s _ _).trans (mapCore_congr does)

/-- It waits where the core does not. -/
theorem sigMessage_waits (refused : s.cc.ownMessage (s.sigMessage u) = none) : exec (.microSigMessage u) s = .next s := by
  refine (exec_micro rfl form (List.forall_mem_singleton.mpr (if_pos hosts))).trans (congrArg Host.Outcome.next ?_)
  unfold State.sigMessage at refused
  simp only [refused]

end

/-! What becomes of a message of the core's own sequencer (01 R33). -/

theorem ownMessage_awake {k : Core} (awake : k.sleep = .awake) (m : Msg) :
    k.ownMessage m = if k.tokens = [] then k.deliver m else none := by
  rw [Core.ownMessage, if_pos awake]
  simp only [List.isEmpty_iff]

/-- At a core that sleeps a message is kept where the wake would deliver it. -/
theorem ownMessage_asleep {k : Core} (asleep : k.sleep ≠ .awake) (m : Msg) :
    k.ownMessage m = if k.giveTokens.tokens = [] ∧ (k.giveTokens.deliver m).isSome = true then some { k with tokens := k.tokens ++ [m] } else none := by
  rw [Core.ownMessage, if_neg asleep]
  simp only [Bool.and_eq_true, List.isEmpty_iff]

/-! The ends of waits and runs (R290, R299, R453). -/

section
variable {s : State} {c : Nat} {m : BitVec 3}

section
variable (running : (s.core c).cas.state = .running) (done : (s.core c).casDone m = true) (sound : (s.core c).casFaulted m = none)
include running done sound

theorem waiteReturn_ends (waiting : (s.core c).cas.waiting = some (m, false)) :
    exec (.waiteReturn c) s = .next (s.modCas c (fun x => { x.next with waiting := none })) := by
  show execWaiteReturn c s = _
  simp only [execWaiteReturn, waiting, running, done, sound, and_self, if_true]

theorem runStop_ends (waiting : (s.core c).cas.waiting = some (m, true)) :
    exec (.runStop c) s = .next (s.modCas c (fun x => { x with waiting := none, state := .stopped, casUpc := x.upc })) := by
  show execRunStop c s = _
  simp only [execRunStop, waiting, running, done, sound, and_self, if_true]

end

section
variable (busy : (s.core c).casDone m = false)
include busy

theorem waiteReturn_waits (waiting : (s.core c).cas.waiting = some (m, false)) : exec (.waiteReturn c) s = .next s := by
  show execWaiteReturn c s = _
  simp only [execWaiteReturn, waiting, busy, Bool.false_eq_true, and_false, if_false]

theorem runStop_waits (waiting : (s.core c).cas.waiting = some (m, true)) : exec (.runStop c) s = .next s := by
  show execRunStop c s = _
  simp only [execRunStop, waiting, busy, Bool.false_eq_true, and_false, if_false]

end

/-- A run that failed stops FAULTED, with what its record keeps, once all its commands have ended. -/
theorem exec_runFault {cause upc : BitVec 8} {foff : BitVec 24} (fault : (s.core c).cas.fault = some (cause, upc, foff))
    (running : (s.core c).cas.state = .running) (done : (s.core c).casDone 7 = true) : exec (.runFault c) s =
    .next (s.modCas c (fun x => { x with fault := none, state := .faulted, cause := cause, casUpc := upc, foff := foff })) := by
  show execRunFault c s = _
  simp only [execRunFault, fault, running, done, and_self, if_true]

end

/-- Settles O39: a microword that passes has the effect of its row, one that does not fails the run (`micros_fails`); a wait ends by whether its commands
have. -/
theorem microControl : Obligations.MicroControl := by
  unfold Obligations.MicroControl
  refine ⟨?microwords, ?ends⟩
  case microwords =>
    intro s u cas R set step jump
    refine ⟨fun form => micros_mapCas rfl form rfl, fun form => micros_mapCas rfl form rfl, fun form => micros_mapCas rfl form rfl,
      fun form => ?djnz, fun form => micros_mapCas rfl form rfl, fun form => micros_mapCas rfl form rfl, fun form => micros_mapCas rfl form rfl,
      ?sig, ?message⟩
    case djnz =>
      refine micros_mapCas rfl form (congrArg (fun x => { s.cc with cas := x }) ?_)
      show (if R u.d - 1 = 0 then _ else _) = (if R u.d = 1 then _ else _)
      by_cases last : R u.d = 1
      · rw [if_pos last, if_pos (sub_eq_zero.mpr last)]
        exact congrArg (fun v => step (set v s.cc.cas)) (sub_eq_zero.mpr last)
      · rw [if_neg last, if_neg (fun h => last (sub_eq_zero.mp h))]
        rfl
    case sig =>
      intro off x form aligned high fits
      refine ⟨fun h0 more => ?_, fun h => ?_⟩
      · obtain ⟨v, arrives⟩ := barArrive_ok h0 more
        rw [barMk_sound] at arrives
        exact micros_sig_ok form ⟨aligned, high, fits⟩ arrives
      · obtain ⟨o, n, arrives⟩ := barArrive_error h
        exact micros_sig_error form ⟨aligned, high, fits⟩ arrives
    case message =>
      intro m form hosts
      refine ⟨fun awake empty => ⟨fun k taken => ?_, fun refused => ?_⟩, fun awake behind => ?_,
        fun asleep => ⟨fun empty taken => ?_, fun refused => ?_⟩⟩
      · exact micros_sigMessage form hosts ((ownMessage_awake awake m).trans ((if_pos empty).trans taken)) rfl
      · exact sigMessage_waits form hosts ((ownMessage_awake awake m).trans ((if_pos empty).trans refused))
      · exact sigMessage_waits form hosts ((ownMessage_awake awake m).trans (if_neg behind))
      · exact micros_sigMessage form hosts ((ownMessage_asleep asleep m).trans (if_pos ⟨empty, taken⟩)) rfl
      · refine sigMessage_waits form hosts ((ownMessage_asleep asleep m).trans (if_neg ?_))
        rintro ⟨empty, taken⟩
        refine refused.elim (fun queued => queued empty) (fun nowhere => ?_)
        rw [nowhere] at taken
        exact nomatch taken
  case ends =>
    intro s c u m cause upc foff k cas fails off
    refine ⟨fun bad => micros_illForm rfl bad rfl, fun form mis => ?align, fun form aligned outside => ?bounds,
      fun running done sound => ⟨waiteReturn_ends running done sound, runStop_ends running done sound⟩,
      fun running done fault => exec_runFault fault running done, fun running busy => ⟨waiteReturn_waits busy, runStop_waits busy⟩⟩
    case align => exact micros_fails rfl form (t := ⟨cALIGN, off⟩) (first_of_one (casAddr_misaligned mis 1024)) rfl
    case bounds => exact micros_fails rfl form (t := ⟨cBOUNDS, off⟩) (first_of_one (casAddr_outside aligned outside)) rfl

end Sys2Proof.Machine
end

section
/-! SUPPORT. Command microwords (11 R288, R289) and attention microwords (R291 to R298): one whose operands pass enters its engine's queue, or leaves what
its rows have left of the core. -/

namespace Sys2Proof.Machine

/-! Commands of the sequencer (R288, R289). -/

/-- The core behind a command of the sequencer that its engine has accepted. -/
def Core.casQueued (k : Core) (e : Engine) (op : CmdOp) (cs : Word) (mark : Nat) : Core :=
  let q := k.accept e 4 (k.cas.upc.setWidth 64) op cs mark false false
  { q with cas := { q.cas.next with wantsQ := none } }

/-- A queue with an entry that no hart waits for takes the command. -/
theorem casCommand_accepts {s : State} {e : Engine} (room : (s.cc.eng e).queue.length < Config.engineQueue) (free : s.cc.hartWants e = false)
    (op : CmdOp) (cs : Word) : s.casCommand e op cs = s.mapCore (fun k => k.casQueued e op cs s.nextId) := by
  have entry : (s.cc.eng e).room = true := decide_eq_true room
  rw [State.casCommand, free, entry, if_neg (by simp)]
  exact State.mapCore_mapCore s _ _

/-! Attention microwords (R291). -/

/-- The core behind an attention microword. -/
def Worked.ended (a : Worked) : Core := { a.1 with cas := { a.1.cas with upc := a.1.cas.upc + 1, flags := a.1.cas.flags ||| a.2.setWidth 6 } }

theorem casWorked_eq (s : State) (a : Worked) : s.casWorked a = s.mapCore (fun _ => a.ended) :=
  State.mapCore_mapCore s (fun _ => a.1) (fun k => { k with cas := { k.cas.next with flags := k.cas.flags ||| a.2.setWidth 6 } })

section
variable {i : Instr} {s : State} {ok : Bool} {checks : List (Option RunTrap)} {act : State → State}
  (runs : exec i s = .next (s.micro ok checks act)) (form : ok = true) (pass : ∀ c ∈ checks, c = none)
include runs form pass

/-- A command microword that passes enters the queue. -/
theorem micros_command {e : Engine} {op : CmdOp} {cs : Word} (acts : act s = s.casCommand e op cs)
    (room : (s.cc.eng e).queue.length < Config.engineQueue) (free : s.cc.hartWants e = false) :
    Micros i s (fun k => k.casQueued e op cs s.nextId) := by
  rw [Micros, exec_micro runs form pass, acts, casCommand_accepts room free]

/-- An attention microword that passes leaves what it has worked. -/
theorem micros_attention {a : Worked} (acts : act s = s.casWorked a) : Micros i s (fun _ => a.ended) := by
  rw [Micros, exec_micro runs form pass, acts, casWorked_eq]

end

/-! The checks of operands (R288). -/

/-- The slot is claimed by the hart that started the run. -/
def State.casOwns (s : State) (slot : Nat) : Prop := s.cc.claimed slot s.cc.cas.starter = true

theorem notOwned_false {s : State} {slot : Nat} (h : s.casOwns slot) : s.notOwned slot = false := by
  rw [State.notOwned, show s.cc.claimed slot s.cc.cas.starter = true from h]; rfl

/-- The slot and line of the MLOAD form, whose register has only those bits. -/
theorem slotLine_of_lt {r : BitVec 32} (h : r.toNat < 2 ^ 12) (h7 : bits r.toNat 7 5 = 0) :
    slotLineReserved (r.setWidth 64) = false ∧ slOf (r.setWidth 64) = r.toNat % 32 ∧ lineOf (r.setWidth 64) = bits r.toNat 11 8 := by
  have wide : (r.setWidth 64).toNat = r.toNat := BitVec.toNat_setWidth_of_le (by decide)
  have high : bits r.toNat 63 12 = 0 := by rw [bits, Nat.shiftRight_eq_div_pow, Nat.div_eq_of_lt h]; rfl
  refine ⟨slotLineReserved_false ?_ ?_, ?_, ?_⟩
  · rw [wide, high]
  · rw [wide, h7]
  · rw [slOf, wide]; rfl
  · rw [lineOf, wide]

/-- A register that names a slot alone. -/
theorem slot_of_lt {r : Nat} (h : r < 32) : bits r 31 5 = 0 ∧ bits r 4 0 = r :=
  ⟨by rw [bits, Nat.shiftRight_eq_div_pow, Nat.div_eq_of_lt h]; rfl, Nat.mod_eq_of_lt h⟩

/-- A check that is made of some microwords alone. -/
theorem optional_passes {p : Prop} [Decidable p] {s : State} {r : BitVec 4} {al n : Nat} (h : p → s.casAt r al n) :
    (if p then s.casAddr (s.ca r) al n else none) = none :=
  ite_eq_right_iff.mpr fun hp => casAddr_passes (h hp)

/-- The core's type of matrix engine takes the elements of MM (10 R255). -/
theorem isW_of_type {c : Nat} {cb4 : Bool} (h : cb4 = true ↔ ¬c / 17 % 256 % 4 = 0) : isW c = !cb4 := by
  rw [Bool.eq_iff_iff, Bool.not_eq_true', ← Bool.not_eq_true, h, not_not]
  exact beq_iff_eq

theorem typeAccepted_of_type {c : Nat} {cb4 : Bool} (h : cb4 = true ↔ ¬c / 17 % 256 % 4 = 0) : typeAccepted c (b2n cb4) = true := by
  rw [typeAccepted, isW_of_type h]
  cases cb4 <;> rfl

theorem mmaMaxK_of_type {c : Nat} {cb4 : Bool} (h : cb4 = true ↔ ¬c / 17 % 256 % 4 = 0) : mmaMaxK cb4 = if c / 17 % 256 % 4 = 0 then 64 else 256 := by
  cases cb4 with
  | true => exact (if_neg (h.mp rfl)).symm
  | false => exact (if_pos (not_not.mp fun w => Bool.false_ne_true (h.mpr w))).symm

theorem maskVisible_eq (qb kb w : BitVec 32) (x i j : Nat) : maskVisible qb kb w x i j = (decide (j < x % 32) && (!bit x 5 ||
    (decide (kb.toInt + j ≤ qb.toInt + i) && (decide (w.toNat = 0) || decide (qb.toInt + i - (w.toNat : Int) < kb.toInt + j))))) := by
  have zero : (w == 0) = decide (w.toNat = 0) := by
    rw [Bool.eq_iff_iff, beq_iff_eq, decide_eq_true_iff, ← BitVec.toNat_inj]; rfl
  rw [maskVisible, zero]

section
variable {s : State} {u : Micro}

/-! Command microwords (R288). -/

section
variable (room : (s.cc.eng .matrix).queue.length < Config.engineQueue) (free : s.cc.hartWants .matrix = false)
include room free

theorem micros_mm (form : (Instr.microMm u).wf = true) (p15 : bits u.imm.toNat 15 13 = 0) (p7 : bits u.imm.toNat 7 5 = 0)
    (s31 : bits (s.ca u.a).toNat 31 13 = 0) (s7 : bits (s.ca u.a).toNat 7 5 = 0) (type : bit u.x.toNat 3 = true ↔ ¬s.cur.core / 17 % 256 % 4 = 0)
    (own : s.casOwns (bits (s.ca u.a).toNat 4 0)) (own' : s.casOwns (bits (s.ca u.a).toNat 12 8)) (m : bits u.imm.toNat 4 0 ≤ 16)
    (n : bits u.imm.toNat 12 8 ≤ 16) (k : bits u.imm.toNat 24 16 ≤ if s.cur.core / 17 % 256 % 4 = 0 then 64 else 256) (out : s.casAt u.d 64 1024) :
    Micros (.microMm u) s (fun x => x.casQueued .matrix (.mma (casOff (s.ca u.d)) (bits (s.ca u.a).toNat 4 0) (bits (s.ca u.a).toNat 12 8)
      (bit u.x.toNat 3) (bit u.x.toNat 2) 0 (bits u.imm.toNat 24 16) (bits u.imm.toNat 12 8) (bits u.imm.toNat 4 0)) 0 s.nextId) := by
  refine micros_command rfl form ?_ rfl room free
  simp only [List.forall_mem_cons]
  refine ⟨runReason_passes ?_, runReason_passes ?_, runReason_passes ?_, runReason_passes ?_, casAddr_passes out, List.forall_mem_nil _⟩
  · rw [p15, p7, s31, s7]; rfl
  · rw [typeAccepted_of_type type]; rfl
  · rw [notOwned_false own, notOwned_false own']; rfl
  · rw [mmaMaxK_of_type type]
    simp only [Nat.not_lt.mpr m, Nat.not_lt.mpr n, Nat.not_lt.mpr k, decide_false, Bool.or_self]

theorem micros_mload (form : (Instr.microMmMload u).wf = true) (small : (s.ca u.d).toNat < 2 ^ 12) (d7 : bits (s.ca u.d).toNat 7 5 = 0)
    (own : s.casOwns ((s.ca u.d).toNat % 32)) (least : 1 ≤ bits u.imm.toNat 4 0) (most : bits u.imm.toNat 4 0 ≤ 16)
    (fits : bits (s.ca u.d).toNat 11 8 + bits u.imm.toNat 4 0 ≤ 16)
    (source : s.casAt u.a 16 ((bits u.imm.toNat 4 0 - 1) * (16 * bits u.imm.toNat 31 16) + 128)) :
    Micros (.microMmMload u) s (fun x => x.casQueued .matrix (.mload ((s.ca u.d).toNat % 32) (bits (s.ca u.d).toNat 11 8) (bits u.imm.toNat 4 0)
      (16 * bits u.imm.toNat 31 16) (casOff (s.ca u.a))) 0 s.nextId) := by
  obtain ⟨reserved, slot, line⟩ := slotLine_of_lt small d7
  rw [← slot] at own ⊢
  rw [← line] at fits ⊢
  refine micros_command rfl form ?_ rfl room free
  simp only [List.forall_mem_cons]
  refine ⟨runReason_passes reserved, runReason_passes (notOwned_false own), runReason_passes ?_, runReason_passes ?_, casAddr_passes source,
    List.forall_mem_nil _⟩
  · simp only [Nat.not_lt.mpr least, Nat.not_lt.mpr most, decide_false, Bool.or_self]
  · exact decide_eq_false (Nat.not_lt.mpr fits)

end

theorem micros_xp (room : (s.cc.eng .exponent).queue.length < Config.engineQueue) (free : s.cc.hartWants .exponent = false)
    (form : (Instr.microXp u).wf = true) (small : (s.ca u.d).toNat < 32) (own : s.casOwns (s.ca u.d).toNat) (tile : s.casAt u.a 64 1024)
    (rows : s.casAt u.b 64 128) :
    Micros (.microXp u) s (fun x => x.casQueued .exponent (.xp (s.ca u.d).toNat (casOff (s.ca u.a)) (casOff (s.ca u.b)) u.imm) 0 s.nextId) := by
  obtain ⟨reserved, slot⟩ := slot_of_lt small
  rw [← slot] at own ⊢
  refine micros_command rfl form ?_ rfl room free
  simp only [List.forall_mem_cons]
  exact ⟨runReason_passes (by rw [reserved]; rfl), runReason_passes (notOwned_false own), casAddr_passes tile, casAddr_passes rows, List.forall_mem_nil _⟩

theorem micros_cp (room : (s.cc.eng .copy).queue.length < Config.engineQueue) (free : s.cc.hartWants .copy = false)
    (form : (Instr.microCp u).wf = true) (len : u.imm.toNat % 16 = 0) (dst : s.casAt u.d 16 (max 1 u.imm.toNat)) (src : s.casAt u.a 16 (max 1 u.imm.toNat))
    (object : u.x = 1 → s.casAt u.b 16 16) :
    Micros (.microCp u) s (fun x => x.casQueued .copy
      (.cpy (s.cc.ownAddr (casOff (s.ca u.d))) (s.cc.ownAddr (casOff (s.ca u.a))) u.imm.toNat)
      (if u.x = 1 then BitVec.ofNat 64 (2 ^ 63 + casOff (s.ca u.b)) else 0) s.nextId) := by
  refine micros_command rfl form ?_ (by simp only [beq_iff_eq]) room free
  simp only [List.forall_mem_cons, beq_iff_eq]
  exact ⟨runReason_passes (by rw [len]; rfl), casAddr_passes dst, casAddr_passes src, optional_passes object, List.forall_mem_nil _⟩

/-! Attention microwords (R292 to R298). A statement spells out what one of them does with an entry or a row, and the microword folds that over its
entries or rows; `entries` and `rows` say that it is what the model does. -/

theorem micros_mask (form : (Instr.microMask u).wf = true) (out : s.casAt u.d 64 1024) {entry : Worked → Nat → Worked}
    (entries : ∀ a n, entry a n =
      if maskVisible (s.ca u.a) (s.ca u.b) u.imm u.x.toNat (n / 16) (n % 16) then a else a.put (casOff (s.ca u.d) + 4 * n) ⟨0xFF800000, 0⟩) :
    Micros (.microMask u) s (fun _ => ((List.range 256).foldl entry (s.cc, 0)).ended) := by
  rw [funext₂ entries]
  exact micros_attention rfl form (List.forall_mem_singleton.mpr (casAddr_passes out)) rfl

theorem micros_rmax (form : (Instr.microRmax u).wf = true) (out : s.casAt u.d 64 128) (tile : s.casAt u.a 64 1024) {row : Worked → Nat → Worked}
    (rows : ∀ a i, row a i = a.put (casOff (s.ca u.d) + 4 * i)
      (rowMax ((List.range 16).map (fun j => a.1.wordAt (casOff (s.ca u.a)) (16 * i + j))) u.imm.toNat)) :
    Micros (.microRmax u) s (fun _ => ((List.range 16).foldl row (s.cc, 0)).ended) := by
  rw [funext₂ rows]
  refine micros_attention rfl form ?_ rfl
  simp only [List.forall_mem_cons]
  exact ⟨casAddr_passes out, casAddr_passes tile, List.forall_mem_nil _⟩

theorem micros_rsum (form : (Instr.microRsum u).wf = true) (small : (s.ca u.a).toNat < 32) (own : s.casOwns (s.ca u.a).toNat) (out : s.casAt u.d 64 128)
    {row : Worked → Nat → Worked}
    (rows : ∀ a i, row a i = a.put (casOff (s.ca u.d) + 64 + 4 * i) (rowSum (a.1.getLine (s.ca u.a).toNat i))) :
    Micros (.microRsum u) s (fun _ => ((List.range 16).foldl row (s.cc, 0)).ended) := by
  obtain ⟨reserved, slot⟩ := slot_of_lt small
  rw [funext₂ rows]
  rw [← slot] at own ⊢
  refine micros_attention rfl form ?_ rfl
  simp only [List.forall_mem_cons]
  exact ⟨runReason_passes (by rw [reserved]; rfl), runReason_passes (notOwned_false own), casAddr_passes out, List.forall_mem_nil _⟩

theorem micros_lcomb (form : (Instr.microLcomb u).wf = true) (acc : s.casAt u.d 64 1088) (st : s.casAt u.a 64 128) (ot : s.casAt u.b 64 1024)
    {row : Worked → Nat → Worked} (rows : ∀ a i, row a i = lcombRow (casOff (s.ca u.d)) (casOff (s.ca u.a)) (casOff (s.ca u.b)) a i) :
    Micros (.microLcomb u) s (fun _ => ((List.range 16).foldl row (s.cc, 0)).ended) := by
  rw [funext₂ rows]
  refine micros_attention rfl form ?_ rfl
  simp only [List.forall_mem_cons]
  exact ⟨casAddr_passes acc, casAddr_passes st, casAddr_passes ot, List.forall_mem_nil _⟩

theorem b2n_beq_zero (v : SVal) : b2n (v == .zero) = if v = .zero then 1 else 0 := if_congr beq_iff_eq rfl rfl

theorem micros_norm (form : (Instr.microNorm u).wf = true) (out : s.casAt u.d 16 512) (acc : s.casAt u.a 64 1088) (lse : u.x = 1 → s.casAt u.b 16 64)
    {row : Worked × Nat → Nat → Worked × Nat} (rows : ∀ r i, row r i =
      (normRow (casOff (s.ca u.d)) (casOff (s.ca u.a)) (if u.x = 1 then some (casOff (s.ca u.b)) else none) r.1 i,
        r.2 + if SVal.decode 27 (r.1.1.wordAt (casOff (s.ca u.a)) i) = .zero then 1 else 0)) :
    Micros (.microNorm u) s (fun _ =>
      let r := (List.range 16).foldl row ((s.cc, 0), 0)
      { r.1.ended with cas := r.1.ended.cas.addRows r.2 }) := by
  rw [funext₂ rows, Micros]
  refine (exec_micro rfl form ?_).trans (congrArg Host.Outcome.next ?_)
  · simp only [List.forall_mem_cons, beq_iff_eq]
    exact ⟨casAddr_passes out, casAddr_passes acc, optional_passes lse, List.forall_mem_nil _⟩
  · simp only [casWorked_eq, beq_iff_eq, b2n_beq_zero]
    exact State.mapCore_mapCore s _ _

end

/-- Settles O40: a microword whose operands pass is a command that its queue takes, or the rows that it works. -/
theorem microOperations : Obligations.MicroOperations := by
  unfold Obligations.MicroOperations
  intro s u R off at_ mine I A D queued put word each ends w
  refine ⟨?mm, ?mload, ?xp, ?cp, ?mask, ?rmax, ?rsum, ?lcomb, ?norm⟩
  case mm => exact fun form p15 p7 s31 s7 type own own' m n k out room free => micros_mm room free form p15 p7 s31 s7 type own own' m n k out
  case mload => exact fun form small d7 own least most fits source room free => micros_mload room free form small d7 own least most fits source
  case xp => exact fun form small own tile rows room free => micros_xp room free form small own tile rows
  case cp => exact fun form len dst src object room free => micros_cp room free form len dst src object
  case mask => exact fun form out => micros_mask form out (fun a n => by rw [maskVisible_eq]; rfl)
  case rmax => exact fun form out tile => micros_rmax form out tile (fun a i => rfl)
  case rsum => exact fun form small own out => micros_rsum form small own out (fun a i => rfl)
  case lcomb => exact fun form acc st ot => micros_lcomb form acc st ot (fun a i => rfl)
  case norm =>
    intro form out acc lse outs r
    refine micros_norm form out acc lse (fun r i => ?_)
    by_cases logs : u.x = 1
    · simp only [if_pos logs]
      rfl
    · simp only [if_neg logs]
      rfl

end Sys2Proof.Machine
end

section
/-! SUPPORT. Atomics at issue (13 R314 to R316): one on the core's own scratch is performed and retires, one elsewhere is a request
that stays outstanding. -/

namespace Sys2Proof.Machine

/-! Stores outside the code region (04 R125). -/

theorem mem_upFrom {a n x : Nat} (h : x ∈ upFrom a n) : a ≤ x := by
  induction n generalizing a with
  | zero => exact absurd h List.not_mem_nil
  | succ n ih =>
    rcases List.mem_cons.mp h with rfl | later
    · exact Nat.le_refl _
    · exact Nat.le_of_succ_le (ih later)

/-- The code region is made of whole lines (02 R34), so a store that begins behind it touches none of its words. -/
theorem codeWordsOf_beyondCode {k : Core} {off : Nat} (beyond : k.beyondCode off) (n : Nat) : codeWordsOf k off n = [] := by
  obtain ⟨whole, behind⟩ := beyond
  unfold codeWordsOf
  split
  · rfl
  · refine List.filter_eq_nil_iff.mpr fun a ha => ?_
    obtain ⟨i, hi, rfl⟩ := List.mem_map.mp ha
    have first : off / 4 ≤ i := mem_upFrom hi
    rw [decide_eq_true_iff]
    omega

theorem noteCodeStore_beyondCode {k : Core} {off : Nat} (beyond : k.beyondCode off) (n : Nat) : k.noteCodeStore off n = k := by
  rw [Core.noteCodeStore, codeWordsOf_beyondCode beyond]
  rfl

/-! The atomic on own scratch. -/

theorem SameUnit.refl (k : Core) : SameUnit k k := ⟨rfl, fun _ => rfl, fun _ => rfl⟩

/-- The core after an atomic of n bytes at off has stored its new value, if it has one (13 R315). -/
def Core.putNew (k : Core) (off n : Nat) : Option Nat → Core
  | some v => k.swrite off n v
  | none => k

theorem sameUnit_putNew (k : Core) (off n : Nat) : ∀ new, SameUnit k (k.putNew off n new)
  | some v => sameUnit_swrite k off n v
  | none => .refl k

theorem pc_mapCore {s : State} {f : Core → Core} (u : SameUnit s.cc (f s.cc)) : (s.mapCore f).hart.pc = s.hart.pc := by
  rw [State.hart, State.cc_mapCore]
  exact u.pc s.cur.hart

section
variable {s : State} {kind : ReqKind} {ea : Word} {off : Nat}

/-- An atomic that is performed at issue stores its new value and retires with the old one. -/
theorem atomicOwn_eq (hwatch : s.watchNow ea kind.size true true = none) (beyond : s.cc.beyondCode off)
    (hp : s.cc.spoisoned off kind.size = false) (d : BitVec 5) :
    let old := s.cc.sread off kind.size
    s.atomicOwn kind ea off d = (s.mapCore (fun k => k.putNew off kind.size (kind.atomic old).1)).writeRetire d (BitVec.ofNat 64 old) (kind.atomic old).2 := by
  intro old
  simp only [State.atomicOwn, Nat.not_lt.mpr beyond.2, hp, hwatch, Bool.false_eq_true, if_false]
  cases (kind.atomic old).1 with
  | some v =>
    have plain : s.mapCore (fun k => (k.noteCodeStore off kind.size).swrite off kind.size v) = s.mapCore (fun k => k.swrite off kind.size v) :=
      congrArg (fun k : Core => s.setCore s.cur.core (k.swrite off kind.size v)) (noteCodeStore_beyondCode beyond kind.size)
    simp only [plain]
    rfl
  | none => exact (mapCore_self_mapHart s _).symm

theorem wrote_atomicOwn (hwatch : s.watchNow ea kind.size true true = none) (beyond : s.cc.beyondCode off)
    (hp : s.cc.spoisoned off kind.size = false) (d : BitVec 5) :
    let old := s.cc.sread off kind.size
    Wrote (s.mapCore (fun k => k.putNew off kind.size (kind.atomic old).1)) (s.atomicOwn kind ea off d) [(d, BitVec.ofNat 64 old)] (s.hart.pc + 4)
      (kind.atomic old).2 := by
  intro old
  rw [atomicOwn_eq hwatch beyond hp, ← pc_mapCore (f := fun k => k.putNew off kind.size (kind.atomic old).1) (sameUnit_putNew s.cc off kind.size _)]
  exact wrote_writeRetire _ d _ _ 4

end

/-! Issue (R315). -/

section
variable {i : Instr} {s : State} {kind : ReqKind} {a d : BitVec 5} {l : BitVec 4} {acq : Bool} {r : BitVec 1}

/-- An atomic with a destination that it may write, and with its release condition met, is past its first two checks. -/
theorem atomic_passes (w : s.writable d) (free : r = 1 → s.hart.outst = [] ∧ s.hart.orsLocal = 0 ∧ s.hart.orsFab = 0) :
    s.atomic kind a d l acq (r == 1) = s.atomicAt kind (s.resolve (s.rg a)) d l.toNat acq := by
  have released : ¬((r == 1) && !s.hart.released) = true := by
    simpa only [Bool.and_eq_true, beq_iff_eq, Bool.not_eq_true', not_and, Bool.not_eq_false] using fun hr => released_iff.mpr (free hr)
  rw [State.atomic, if_neg released, guarded_bound w]

variable (e : exec i s = .next (s.atomic kind a d l acq (r == 1))) (w : s.writable d)
  (free : r = 1 → s.hart.outst = [] ∧ s.hart.orsLocal = 0 ∧ s.hart.orsFab = 0)
include e w free

theorem atomic_own_retires {off : Nat} (h : s.classify (s.resolve (s.rg a)) kind.size kind.size false = .ok (.own off))
    (hw : s.waitsFor (.own off) (s.resolve (s.rg a)) kind.size = false) (hwatch : s.watchNow (s.resolve (s.rg a)) kind.size true true = none)
    (beyond : s.cc.beyondCode off) (hp : s.cc.spoisoned off kind.size = false) :
    let old := s.cc.sread off kind.size
    RetiresOn i s (fun k => k.putNew off kind.size (kind.atomic old).1) [(d, BitVec.ofNat 64 old)] (kind.atomic old).2 := by
  refine ⟨_, e, ?_⟩
  simp only [atomic_passes w free, State.atomicAt, h, hw, Bool.false_eq_true, if_false]
  exact wrote_atomicOwn hwatch beyond hp d

/-- An atomic elsewhere in the module, whose sector is not in the cache ways. -/
theorem atomic_far_asks {p : Place} (h : s.classify (s.resolve (s.rg a)) kind.size kind.size false = .ok p)
    (hw : s.waitsFor p (s.resolve (s.rg a)) kind.size = false)
    (far : (p = .global ∧ s.sectorMoving (s.resolve (s.rg a)) = false ∧
      (s.cc.regionAt (s.resolve (s.rg a)).toNat = none ∨ s.cc.sectorAt (s.resolve (s.rg a)).toNat = none)) ∨ p = .remote) :
    Asks i s (s.reqOf .request kind (s.resolve (s.rg a))) [d] l.toNat acq := by
  have issues : s.atomicAt kind (s.resolve (s.rg a)) d l.toNat acq = s.issueLong (s.reqOf .request kind (s.resolve (s.rg a))) [d] l.toNat acq 4 := by
    rcases far with ⟨rfl, still, absent⟩ | rfl
    · have uncached : ¬((s.cc.regionAt (s.resolve (s.rg a)).toNat).isSome = true ∧ (s.cc.sectorAt (s.resolve (s.rg a)).toNat).isSome = true) := by
        rintro ⟨region, sector⟩
        rcases absent with none | none <;> simp only [none, Option.isSome_none, Bool.false_eq_true] at region sector
      simp only [State.atomicAt, h, hw, still, uncached, Bool.false_eq_true, if_false]
    · simp only [State.atomicAt, h, hw, Bool.false_eq_true, if_false]
  exact ⟨_, e.trans (congrArg _ ((atomic_passes w free).trans issues)), asked_issueLong s _ [d] l.toNat acq 4⟩

end

theorem amoSize_pos (z : BitVec 1) : 0 < 8 * (if z = 1 then 8 else 4) := by split <;> decide

/-- A CAS stores where the old bytes are the expected ones (13 R315). -/
theorem putNew_cas (off n old : Nat) (x v : Word) (d : BitVec 5) : (fun k : Core => k.putNew off n ((ReqKind.cas n x v d).atomic old).1) =
    fun k => if old = x.toNat % 2 ^ (8 * n) then k.swrite off n (v.toNat % 2 ^ (8 * n)) else k := by
  funext k
  rw [ReqKind.atomic]
  split <;> rfl

/-- Settles O11: an atomic on own scratch is `wrote_atomicOwn`, one elsewhere `atomic_far_asks`; what is left is the table of R314. -/
theorem atomics : Obligations.Atomics := by
  unfold Obligations.Atomics
  refine ⟨fun s d a b l op q r z off w => ?own, fun s d a b l op q r z p w => ?far⟩
  case own =>
    intro n ea old B S new h hw hwatch beyond hp free
    refine ⟨?amo, ?cas⟩
    case amo =>
      have signed : ∀ x, S x = toS x (8 * n) := fun x => (toS_eq_toInt x (amoSize_pos z)).symm
      have table : amoNew op n old B = new := by
        simp only [new, signed, amoNew, decide_eq_true_eq] <;> rfl
      rw [← table]
      exact atomic_own_retires (kind := .amo op n (s.rg b) d) rfl w free h hw hwatch beyond hp
    case cas =>
      rw [← putNew_cas off n old (s.rg d) (s.rg b) d]
      exact atomic_own_retires (kind := .cas n (s.rg d) (s.rg b) d) rfl w free h hw hwatch beyond hp
  case far =>
    intro n ea h hw far free
    exact ⟨atomic_far_asks (kind := .amo op n (s.rg b) d) rfl w free h hw far,
      atomic_far_asks (kind := .cas n (s.rg d) (s.rg b) d) rfl w free h hw far⟩

end Sys2Proof.Machine
end

section
/-! SUPPORT. What leaves the memory of the module as it is: every operation of the model but `State.putSector` and `State.physPut`. -/

namespace Sys2Proof.Machine

theorem State.foldl_mem {α : Type} {f : State → α → State} (keeps : ∀ t a, (f t a).mem = t.mem) (xs : List α) (s : State) : (xs.foldl f s).mem = s.mem := by
  induction xs generalizing s with
  | nil => rfl
  | cons x xs ih => exact (ih _).trans (keeps s x)

@[simp] theorem State.mem_ite (p : Prop) [Decidable p] (a b : State) : (if p then a else b).mem = if p then a.mem else b.mem :=
  apply_ite ..

variable (s : State)

@[simp] theorem State.modLine_mem (x y line : Nat) (f : SliceLine → SliceLine) : (s.modLine x y line f).mem = s.mem := rfl

@[simp] theorem State.fetchSector_mem (x y q : Nat) : (s.fetchSector x y q).mem = s.mem := rfl

@[simp] theorem State.hbmChecked_mem (q : Nat) : (s.hbmChecked q).mem = s.mem := by
  unfold State.hbmChecked
  split <;> simp

@[simp] theorem State.checkedAt_mem (x y pa : Nat) : (s.checkedAt x y pa).mem = s.mem := by
  simp only [State.checkedAt]
  (repeat' split) <;> simp [*]

@[simp] theorem State.physMark_mem (pa : Nat) (on : Bool) : (s.physMark pa on).mem = s.mem := by
  unfold State.physMark
  split <;> simp

@[simp] theorem State.failLaunch_mem (id g : Nat) (cause : BitVec 8) (finfo : BitVec 32) : (s.failLaunch id g cause finfo).mem = s.mem := rfl

@[simp] theorem State.fatal_mem (c : Nat) (h : BitVec 2) (cause : BitVec 8) (finfo : BitVec 32) : (s.fatal c h cause finfo).mem = s.mem := by
  unfold State.fatal
  split <;> simp

@[simp] theorem State.contextError_mem (c : Nat) : (s.contextError c).mem = s.mem :=
  State.foldl_mem (fun _ _ => State.fatal_mem ..) hartNos _

@[simp] theorem State.enterTrap_mem (c : Nat) (h : BitVec 2) (int : Bool) (t : Trap) (xpc : Word) :
    (s.enterTrap c h int t xpc).mem = s.mem := by simp [State.enterTrap]

@[simp] theorem State.raise_mem (t : Trap) : (s.raise t).mem = s.mem := by simp [State.raise]

@[simp] theorem State.guarded_mem (checks : List (Option Trap)) {k : State → State} (hk : (k s).mem = s.mem) : (s.guarded checks k).mem = s.mem := by
  unfold State.guarded
  (repeat' split) <;> simp [*]

@[simp] theorem State.writeRetire_mem (d : BitVec 5) (v : Word) (fl : Flags) (len : Nat) : (s.writeRetire d v fl len).mem = s.mem := rfl

@[simp] theorem State.retire_mem (len : Nat) : (s.retire len).mem = s.mem := rfl

@[simp] theorem State.compute_mem (d : BitVec 5) (r : Fl Word) (len : Nat) : (s.compute d r len).mem = s.mem :=
  State.guarded_mem s _ (State.writeRetire_mem ..)

@[simp] theorem State.blockOn_mem (b : Block) : (s.blockOn b).mem = s.mem := rfl

@[simp] theorem State.post_mem (cls : Class) (kind : ReqKind) (ea : Word) (fab : Bool) : (s.post cls kind ea fab).mem = s.mem := rfl

@[simp] theorem State.putSpot_mem (vf : BitVec 4) (p : Spot) (k : Core) : (s.putSpot vf p k).mem = s.mem := by
  unfold State.putSpot
  split <;> simp

@[simp] theorem State.walked_mem (vf : BitVec 4) (va : Nat) : (s.walked vf va).mem = s.mem := by
  unfold State.walked
  split <;> simp

@[simp] theorem State.issueLong_mem (r : Req) (dests : List (BitVec 5)) (la : Nat) (acq : Bool) (len : Nat) : (s.issueLong r dests la acq len).mem = s.mem := rfl

@[simp] theorem State.settle_mem (c : Nat) (h : BitVec 2) : (s.settle c h).mem = s.mem := by
  unfold State.settle
  (repeat' split) <;> simp [*]

@[simp] theorem State.lateFault_mem (c : Nat) (h : BitVec 2) (id : Nat) (f : LateFault) : (s.lateFault c h id f).mem = s.mem := by simp [State.lateFault]

@[simp] theorem State.sendBacks_mem (c : Nat) (xs : List Sector) : (s.sendBacks c xs).mem = s.mem :=
  State.foldl_mem (fun _ _ => by split <;> simp) xs s

@[simp] theorem State.flush_mem (c : Nat) (p : Sector → Bool) (drop : Bool) : (s.flush c p drop).mem = s.mem := by
  simp [State.flush]

@[simp] theorem State.install_mem (c a : Nat) (data : BitVec 1024) (poison : Bool) : (s.install c a data poison).mem = s.mem := by
  simp [State.install]

@[simp] theorem State.answer_mem (r : Req) (site : Nat) (g : Stage) : (s.answer r site g).mem = s.mem := rfl

@[simp] theorem State.refetch_mem (c : Nat) (p : Sector → Bool) : (s.refetch c p).mem = s.mem := rfl

@[simp] theorem State.refuse_mem (r : Req) (cause : BitVec 8) (info : Word) (now : Bool) (site : Nat) : (s.refuse r cause info now site).mem = s.mem := by
  unfold State.refuse
  (repeat' split) <;> simp [*]

@[simp] theorem State.passed_mem (r : Req) : (s.passed r).mem = s.mem := by
  unfold State.passed
  split <;> simp

@[simp] theorem State.doorbell_mem (vf : BitVec 4) (a n v : Nat) : (s.doorbell vf a n v).mem = s.mem := by simp [State.doorbell]

@[simp] theorem State.served_mem (r : Req) (x y pa n : Nat) (w : Option (BitVec 2 × Word)) : (s.served r x y pa n w).mem = s.mem := by simp [State.served]

@[simp] theorem State.received_mem (launch : Nat) : (s.received launch).mem = s.mem := rfl

@[simp] theorem State.doAddi_mem (x : Option (BitVec 26)) (d a : BitVec 5) (i : BitVec 16) : (s.doAddi x d a i).mem = s.mem :=
  State.compute_mem s ..

@[simp] theorem State.doAndi_mem (x : Option (BitVec 26)) (d a : BitVec 5) (i : BitVec 16) : (s.doAndi x d a i).mem = s.mem :=
  State.compute_mem s ..

@[simp] theorem State.doOri_mem (x : Option (BitVec 26)) (d a : BitVec 5) (i : BitVec 16) : (s.doOri x d a i).mem = s.mem :=
  State.compute_mem s ..

@[simp] theorem State.doXori_mem (x : Option (BitVec 26)) (d a : BitVec 5) (i : BitVec 16) : (s.doXori x d a i).mem = s.mem :=
  State.compute_mem s ..

@[simp] theorem State.doSlti_mem (x : Option (BitVec 26)) (d a : BitVec 5) (i : BitVec 16) : (s.doSlti x d a i).mem = s.mem :=
  State.compute_mem s ..

@[simp] theorem State.doSltiu_mem (x : Option (BitVec 26)) (d a : BitVec 5) (i : BitVec 16) : (s.doSltiu x d a i).mem = s.mem :=
  State.compute_mem s ..

@[simp] theorem State.doMovi_mem (x : Option (BitVec 26)) (d : BitVec 5) (i : BitVec 16) : (s.doMovi x d i).mem = s.mem :=
  State.compute_mem s ..

@[simp] theorem State.loadNow_mem (ea : Word) (n : Nat) (dst : LoadDst) (v : Nat) (poison : Bool) (event len : Nat) :
    (s.loadNow ea n dst v poison event len).mem = s.mem := rfl

@[simp] theorem State.loadAt_mem (ea : Word) (al n : Nat) (dst : LoadDst) (la : Nat) (acq : Bool) (len : Nat) : (s.loadAt ea al n dst la acq len).mem = s.mem := by
  refine State.guarded_mem s _ ?_
  (repeat' split) <;> simp

@[simp] theorem State.storedNow_mem (ea : Word) (n len : Nat) : (s.storedNow ea n len).mem = s.mem := rfl

@[simp] theorem State.postNow_mem (cls : Class) (kind : ReqKind) (ea : Word) (fab : Bool) (len : Nat) :
    (s.postNow cls kind ea fab len).mem = s.mem := by simp [State.postNow]

@[simp] theorem State.storeAt_mem (ea : Word) (al n v : Nat) (win release : Bool) (len : Nat) : (s.storeAt ea al n v win release len).mem = s.mem := by
  unfold State.storeAt
  (repeat' split) <;> simp [*]

@[simp] theorem State.doLd_mem (x : Option (BitVec 26)) (d a : BitVec 5) (l : BitVec 4) (z : BitVec 3) (o : BitVec 9) : (s.doLd x d a l z o).mem = s.mem :=
  State.loadAt_mem s ..

@[simp] theorem State.doSt_mem (x : Option (BitVec 26)) (t a : BitVec 5) (z : BitVec 2) (o : BitVec 9) : (s.doSt x t a z o).mem = s.mem := by simp [State.doSt]

@[simp] theorem State.doLda_mem (x : Option (BitVec 26)) (d a : BitVec 5) (l : BitVec 4) (z : BitVec 2) (o : BitVec 9) : (s.doLda x d a l z o).mem = s.mem :=
  State.loadAt_mem s ..

@[simp] theorem State.doStr_mem (x : Option (BitVec 26)) (t a : BitVec 5) (z : BitVec 2) (o : BitVec 9) : (s.doStr x t a z o).mem = s.mem := by simp [State.doStr]

@[simp] theorem State.doLdp_mem (x : Option (BitVec 26)) (d a : BitVec 5) (l : BitVec 4) (z : BitVec 1) (o : BitVec 9) : (s.doLdp x d a l z o).mem = s.mem :=
  State.loadAt_mem s ..

@[simp] theorem State.doStp_mem (x : Option (BitVec 26)) (t a : BitVec 5) (z : BitVec 1) (o : BitVec 9) : (s.doStp x t a z o).mem = s.mem := by simp [State.doStp]

@[simp] theorem State.atomicOwn_mem (kind : ReqKind) (ea : Word) (off : Nat) (d : BitVec 5) : (s.atomicOwn kind ea off d).mem = s.mem := by
  simp only [State.atomicOwn]
  (repeat' split) <;> simp [*]

theorem State.flushed_mem (p : Sector → Bool) (drop : Bool) {k : State → State} (hk : ∀ t, (k t).mem = t.mem) : (s.flushed p drop k).mem = s.mem := by
  simp only [State.flushed]
  (repeat' split) <;> simp [hk]

@[simp] theorem State.atomicAt_mem (kind : ReqKind) (ea : Word) (d : BitVec 5) (la : Nat) (acq : Bool) : (s.atomicAt kind ea d la acq).mem = s.mem := by
  have asks : ∀ t : State, (t.issueLong (t.reqOf .request kind ea) [d] la acq 4).mem = t.mem := fun _ => rfl
  simp only [State.atomicAt]
  (repeat' split) <;> simp [State.flushed_mem s _ _ asks]

@[simp] theorem State.atomic_mem (kind : ReqKind) (a d : BitVec 5) (l : BitVec 4) (acq rel : Bool) : (s.atomic kind a d l acq rel).mem = s.mem := by
  unfold State.atomic
  split
  · rfl
  · exact State.guarded_mem s _ (State.atomicAt_mem ..)

@[simp] theorem State.quietly_mem {k : State → State} (hk : (k s).mem = s.mem) : (s.quietly k).mem = s.mem := by
  unfold State.quietly
  (repeat' split) <;> simp [*]

@[simp] theorem State.ctlWrite_mem (n : Nat) (v : Word) : (s.ctlWrite n v).mem = s.mem := by simp [State.ctlWrite]

@[simp] theorem State.accrueAt_mem (c : Nat) (h : BitVec 2) : (s.accrueAt c h).mem = s.mem := rfl

@[simp] theorem State.accrue_mem : s.accrue.mem = s.mem := rfl

@[simp] theorem State.accrueCore_mem (c : Nat) : (s.accrueCore c).mem = s.mem := rfl

@[simp] theorem State.doEret_mem (step : Bool) : (s.doEret step).mem = s.mem :=
  State.quietly_mem s (State.guarded_mem s _ rfl)

@[simp] theorem State.prefetch_mem (core : Bool) (a : Word) : (s.prefetch core a).mem = s.mem := by simp [State.prefetch]

@[simp] theorem State.acquire_mem (a : BitVec 5) (x : Bool) : (s.acquire a x).mem = s.mem := by simp [State.acquire]

@[simp] theorem State.releaseObj_mem (a : BitVec 5) (x : Bool) : (s.releaseObj a x).mem = s.mem := by
  simp only [State.releaseObj]
  split
  · rfl
  · refine State.guarded_mem s _ ?_
    split
    · exact State.flushed_mem s _ _ (fun _ => by simp)
    · rfl

@[simp] theorem State.onObject_mem (d a : BitVec 5) (n : Nat) {k : State → Word → Nat → State} (hk : ∀ ea off, (k s ea off).mem = s.mem) :
    (s.onObject d a n k).mem = s.mem := by
  refine State.guarded_mem s _ ?_
  (repeat' split) <;> simp [hk]

@[simp] theorem State.raiseKeeping_mem (f : Core → Core) (t : Trap) : (s.raiseKeeping f t).mem = s.mem := by simp [State.raiseKeeping]

@[simp] theorem State.barDone_mem (ea : Word) (off : Nat) (d : BitVec 5) (r : BarRes) : (s.barDone ea off d r).mem = s.mem := by
  unfold State.barDone
  split <;> simp

@[simp] theorem State.ringPop_mem (d : BitVec 5) (ea gb : Word) (off dst : Nat) : (s.ringPop d ea gb off dst).mem = s.mem := by simp [State.ringPop]

@[simp] theorem State.vretire_mem (ws : List (BitVec 5 × Tile)) (fl : Flags) : (s.vretire ws fl).mem = s.mem := rfl

@[simp] theorem State.vloaded_mem (d : BitVec 5) (base : Tile) (eb event : Nat) (xs : List (Nat × Word)) (vs : List (Nat × Bool)) :
    (s.vloaded d base eb event xs vs).mem = s.mem := rfl

@[simp] theorem State.vsend_mem (eb : Nat) (acc : List VElem) (x : Nat × Word) : (s.vsend eb acc x).1.mem = s.mem := by
  simp only [State.vsend]
  (repeat' split) <;> simp [*]

@[simp] theorem State.vsendAll_mem (eb : Nat) (acc : List VElem) (xs : List (Nat × Word)) : (s.vsendAll eb acc xs).1.mem = s.mem := by
  induction xs generalizing s acc with
  | nil => rfl
  | cons x xs ih => exact (ih ..).trans (State.vsend_mem ..)

@[simp] theorem State.vresume_mem (eb : Nat) (d : BitVec 5) (base : Tile) (es : List VElem) : (s.vresume eb d base es).mem = s.mem := by
  unfold State.vresume
  (repeat' split) <;> simp [*]

@[simp] theorem State.vload_mem (d : BitVec 5) (e : BitVec 4) (m p t : BitVec 1) (at_ : Nat → Nat → Word) : (s.vload d e m p t at_).mem = s.mem := by
  refine State.guarded_mem s _ ?_
  (repeat' split) <;> simp

@[simp] theorem State.vput_mem (eb : Nat) (acc : List (Nat × Word × Nat)) (x : Nat × Word × Nat) : (s.vput eb acc x).1.mem = s.mem := by
  unfold State.vput
  (repeat' split) <;> simp [*]

@[simp] theorem State.vputAll_mem (eb : Nat) (acc xs : List (Nat × Word × Nat)) : (s.vputAll eb acc xs).1.mem = s.mem := by
  induction xs generalizing s acc with
  | nil => rfl
  | cons x xs ih => exact (ih ..).trans (State.vput_mem ..)

@[simp] theorem State.sendParts_mem (n : Nat) : (s.sendParts n).mem = s.mem := by
  induction n generalizing s with
  | zero => rfl
  | succ n ih =>
    simp only [State.sendParts]
    (repeat' split) <;> simp [ih]

@[simp] theorem State.vpump_mem (v : VStore) : (s.vpump v).mem = s.mem := by
  simp [State.vpump]

@[simp] theorem State.vfetch_mem (v : VStore) (as : List Word) (ids : List (Nat × Word)) : (s.vfetch v as ids).mem = s.mem := by
  induction as generalizing s ids with
  | nil => rfl
  | cons a as ih => exact ih ..

@[simp] theorem State.vwrite_mem (v : VStore) : (s.vwrite v).mem = s.mem := by
  simp only [State.vwrite]
  split <;> simp

@[simp] theorem State.vstoreWatch_mem (v : VStore) : (s.vstoreWatch v).mem = s.mem := rfl

@[simp] theorem State.vgo_mem (v : VStore) : (s.vgo v).mem = s.mem := by
  simp only [State.vgo]
  (repeat' split) <;> simp

@[simp] theorem State.vstore_mem (d : BitVec 5) (e : BitVec 4) (m : BitVec 1) (index : Bool) (at_ : Nat → Nat → Word) : (s.vstore d e m index at_).mem = s.mem := by
  refine State.guarded_mem s _ ?_
  (repeat' split) <;> simp

@[simp] theorem State.onMap_mem (a : BitVec 5) {k : State → Nat → State} (hk : ∀ m, (k s m).mem = s.mem) : (s.onMap a k).mem = s.mem := by
  unfold State.onMap
  (repeat' split) <;> simp [*]

@[simp] theorem State.command_mem (e : Engine) (checks : List (Option Trap)) (op : CmdOp) (cs : Word) : (s.command e checks op cs).mem = s.mem := by
  unfold State.command
  split
  · rfl
  · exact State.guarded_mem s _ rfl

theorem endCommand_mem {c : Nat} {e : Engine} {cmd : Cmd} {p : Perf} {t : State} (h : endCommand c e cmd p = some t) : t.mem = p.s.mem := by
  simp only [endCommand, Option.map_eq_some_iff] at h
  obtain ⟨k, _, rfl⟩ := h
  rfl

@[simp] theorem State.engineReturn_mem (e : Engine) (d : BitVec 5) : (s.engineReturn e d).mem = s.mem := by simp [State.engineReturn]

@[simp] theorem State.engineWait_mem (e : Engine) (d : BitVec 5) : (s.engineWait e d).mem = s.mem := by simp [State.engineWait]

@[simp] theorem State.engineStat_mem (e : Engine) (d : BitVec 5) : (s.engineStat e d).mem = s.mem :=
  State.guarded_mem s _ rfl

@[simp] theorem State.readUnit_mem (c : Nat) (op : CmdOp) (w : CopyWork) : (s.readUnit c op w).1.mem = s.mem := by
  simp only [State.readUnit]
  (repeat' split) <;> simp [*]

@[simp] theorem State.writeUnit_mem (c : Nat) (op : CmdOp) (w : CopyWork) (v : Nat) (bad : Bool) : (s.writeUnit c op w v bad).1.mem = s.mem := by
  simp only [State.writeUnit]
  (repeat' split) <;> simp [*]

@[simp] theorem State.pushUnit_mem (c : Nat) (ring : Word) (src : Nat) (w : CopyWork) : (s.pushUnit c ring src w).1.mem = s.mem := by
  simp only [State.pushUnit]
  (repeat' split) <;> simp [*]

@[simp] theorem State.copyStep_mem (c : Nat) (op : CmdOp) (w : CopyWork) : (s.copyStep c op w).1.mem = s.mem := by
  unfold State.copyStep
  (repeat' split) <;> simp [*]

@[simp] theorem copyRun_mem (c : Nat) (op : CmdOp) (n : Nat) (w : CopyWork) : (copyRun c op n s w).1.mem = s.mem := by
  induction n generalizing s w with
  | zero => rfl
  | succ n ih =>
    unfold copyRun
    split
    · rfl
    · exact (ih ..).trans (State.copyStep_mem ..)

@[simp] theorem State.goCopy_mem (c : Nat) (op : CmdOp) : (s.goCopy c op).1.mem = s.mem :=
  copyRun_mem ..

@[simp] theorem State.mapCas_mem (f : Casement → Casement) : (s.mapCas f).mem = s.mem := rfl

@[simp] theorem State.micro_mem (ok : Bool) (checks : List (Option RunTrap)) {k : State → State} (hk : (k s).mem = s.mem) : (s.micro ok checks k).mem = s.mem := by
  unfold State.micro
  (repeat' split) <;> simp [*]

@[simp] theorem State.casCommand_mem (e : Engine) (op : CmdOp) (cs : Word) : (s.casCommand e op cs).mem = s.mem := by simp [State.casCommand]

@[simp] theorem State.modCas_mem (c : Nat) (f : Casement → Casement) : (s.modCas c f).mem = s.mem := rfl

@[simp] theorem State.as_mem (c : Nat) (h : BitVec 2) : (s.as c h).mem = s.mem := rfl

@[simp] theorem State.goOn_mem (c : Nat) (e : Engine) (cmd : Cmd) (w : CopyWork) : (s.goOn c e cmd w).1.mem = s.mem := by
  simp only [State.goOn]
  (repeat' split) <;> simp

@[simp] theorem State.finishCommand_mem (c : Nat) (e : Engine) : (s.finishCommand c e).mem = s.mem := by
  simp only [State.finishCommand]
  split
  · rfl
  · next cmd _ =>
    split
    · cases ended : endCommand c e cmd _ with
      | none => simp
      | some t => simpa using endCommand_mem ended
    · simp

@[simp] theorem State.putReq_mem (r : Req) : (s.putReq r).mem = s.mem := rfl

@[simp] theorem State.answered_mem (r : Req) (a : Answer) (site : Nat) : (s.answered r a site).mem = s.mem := by
  unfold State.answered
  split <;> simp

@[simp] theorem State.tryPush_mem (r : Req) (p : Spot) (src : Nat) : (s.tryPush r p src).mem = s.mem := by
  unfold State.tryPush
  (repeat' split) <;> simp [*]

@[simp] theorem State.tryAccess_mem (r : Req) : (s.tryAccess r).mem = s.mem := by
  unfold State.tryAccess
  (repeat' split) <;> simp [*]

@[simp] theorem State.tryMessageCore_mem (r : Req) (c : Nat) : (s.tryMessageCore r c).mem = s.mem := by
  simp only [State.tryMessageCore]
  (repeat' split) <;> simp [*]

@[simp] theorem State.tryMessageSaved_mem (r : Req) (i : Nat) : (s.tryMessageSaved r i).mem = s.mem := by
  unfold State.tryMessageSaved
  split <;> simp

@[simp] theorem State.tryMessage_mem (r : Req) : (s.tryMessage r).mem = s.mem := by
  unfold State.tryMessage
  (repeat' split) <;> simp [*]

@[simp] theorem State.cacheLeaf_mem (e : TransEntry) : (s.cacheLeaf e).mem = s.mem := by
  simp only [State.cacheLeaf]
  (repeat' split) <;> simp [*]

@[simp] theorem State.response_mem (r : Req) (c : Nat) (h : BitVec 2) (w : Option (BitVec 2 × Word)) : (s.response r c h w).mem = s.mem := rfl

@[simp] theorem State.finishLoad_mem (r : Req) (c : Nat) (h : BitVec 2) (v : Nat) (poison : Bool) (fl : Flags) (w : Option (BitVec 2 × Word)) :
    (s.finishLoad r c h v poison fl w).mem = s.mem := by simp [State.finishLoad]

@[simp] theorem State.blockedTrap_mem (r : Req) (c : Nat) (h : BitVec 2) (t : Trap) : (s.blockedTrap r c h t).mem = s.mem := by simp [State.blockedTrap]

@[simp] theorem State.vrefused_mem (r : Req) (c : Nat) (h : BitVec 2) (cause : BitVec 8) : (s.vrefused r c h cause).mem = s.mem := rfl

@[simp] theorem State.vuncached_mem (r : Req) (c : Nat) (h : BitVec 2) : (s.vuncached r c h).mem = s.mem := by
  simp only [State.vuncached]
  split
  · exact State.foldl_mem (fun _ _ => by rfl) _ _
  · rfl

@[simp] theorem State.vfilled_mem (r : Req) (c : Nat) (h : BitVec 2) (w : Option (BitVec 2 × Word)) : (s.vfilled r c h w).mem = s.mem := rfl

@[simp] theorem State.engineGot_mem (c id : Nat) (f : CopyWork → CopyWork) : (s.engineGot c id f).mem = s.mem := rfl

@[simp] theorem State.pushed_mem (r : Req) (c v : Nat) (poison : Bool) : (s.pushed r c v poison).mem = s.mem := rfl

@[simp] theorem State.engineAnswer_mem (r : Req) (c : Nat) : (s.engineAnswer r c).mem = s.mem := by
  unfold State.engineAnswer
  split <;> simp

@[simp] theorem State.dataHere_mem (r : Req) (c : Nat) (h : BitVec 2) : (s.dataHere r c h).mem = s.mem := by
  unfold State.dataHere
  (repeat' split) <;> simp [*]

@[simp] theorem State.dataThere_mem (r : Req) (c : Nat) (h : BitVec 2) (reply : FabricReply) : (s.dataThere r c h reply).mem = s.mem := by
  cases reply <;> simp [State.dataThere]

@[simp] theorem State.acknowledge_mem (r : Req) (w : Option (BitVec 2 × Word)) : (s.acknowledge r w).mem = s.mem := by
  unfold State.acknowledge
  split <;> simp

@[simp] theorem State.lose_mem (launch : Nat) : (s.lose launch).mem = s.mem := rfl

@[simp] theorem State.rejectPosted_mem (r : Req) (cause : BitVec 8) : (s.rejectPosted r cause).mem = s.mem := by
  unfold State.rejectPosted
  split <;> simp

@[simp] theorem State.afterFill_mem (r : Req) (c : Nat) (h : BitVec 2) (w : Option (BitVec 2 × Word)) : (s.afterFill r c h w).mem = s.mem := by
  simp only [State.afterFill]
  (repeat' split) <;> simp [*]

@[simp] theorem State.filled_mem (r : Req) (c : Nat) (h : BitVec 2) (data : BitVec 1024) (poison : Bool) (w : Option (BitVec 2 × Word)) :
    (s.filled r c h data poison w).mem = s.mem := by
  simp only [State.filled]
  (repeat' split) <;> simp

@[simp] theorem State.granted_mem (r : Req) (c : Nat) (h : BitVec 2) : (s.granted r c h).mem = s.mem := by
  simp [State.granted]

@[simp] theorem State.acqAnswer_mem (id : Nat) : (s.acqAnswer id).mem = s.mem := by
  unfold State.acqAnswer
  (repeat' split) <;> simp

@[simp] theorem State.sash_mem (d : BitVec 5) (l : BitVec 4) (checks : List (Option Trap)) (op : SashOp) (handle : Word) :
    (s.sash d l checks op handle).mem = s.mem :=
  State.guarded_mem s _ rfl

@[simp] theorem State.notePoison_mem (bad : Bool) (va : Nat) : (s.notePoison bad va).mem = s.mem := by simp [State.notePoison]

@[simp] theorem State.setEst_mem (e : Estimate) : (s.setEst e).mem = s.mem := by
  unfold State.setEst
  split <;> simp

@[simp] theorem State.onEst_mem (ds : List (BitVec 5)) {k : State → Estimate → State} (hk : ∀ e, (k s e).mem = s.mem) : (s.onEst ds k).mem = s.mem := by
  refine State.guarded_mem s _ ?_
  split <;> simp [hk]

@[simp] theorem State.writeRun_mem (ws : List (BitVec 5 × Word)) : (s.writeRun ws).mem = s.mem := rfl

@[simp] theorem State.unblock_mem (id : Nat) (b : Block) : (s.unblock id b).mem = s.mem := rfl

@[simp] theorem State.submit_mem (vf : BitVec 4) (record : BitVec 512) (spec : Word) (from_ : Submitter) (image : Word) (after : List Nat) :
    (s.submit vf record spec from_ image after).1.mem = s.mem := by
  simp only [State.submit]
  (repeat' split) <;> simp [*]

@[simp] theorem State.launchNow_mem (d : BitVec 5) (r : Nat) (spec : Word) : (s.launchNow d r spec).mem = s.mem := by simp [State.launchNow]

@[simp] theorem State.modGroup_mem (g : GroupRef) (f : GroupSt → GroupSt) : (s.modGroup g f).mem = s.mem := rfl

@[simp] theorem State.onGroup_mem (f : GroupRef → GroupSt → GroupSt) : (s.onGroup f).mem = s.mem := by
  unfold State.onGroup
  split <;> simp

@[simp] theorem State.closeOpen_mem : s.closeOpen.mem = s.mem := by
  unfold State.closeOpen
  split <;> simp

@[simp] theorem State.exitHart_mem : s.exitHart.mem = s.mem := by simp [State.exitHart]

@[simp] theorem State.dieError_mem (die : Nat) : (s.dieError die).mem = s.mem :=
  State.foldl_mem (fun _ _ => State.contextError_mem ..) _ s

@[simp] theorem State.loseDie_mem (die : Nat) : (s.loseDie die).mem = s.mem := by
  simp [State.loseDie]

@[simp] theorem State.vaWalked_mem (vf : BitVec 4) (va n : Nat) : (s.vaWalked vf va n).mem = s.mem := by
  induction n generalizing va with
  | zero => rfl
  | succ n ih =>
    unfold State.vaWalked
    split <;> simp [ih]

@[simp] theorem State.imageWalked_mem (l : Launch) : (s.imageWalked l).mem = s.mem := by
  simp only [State.imageWalked]
  split <;> simp

@[simp] theorem State.placeOn_mem (l : Launch) (e : Nat × Nat) (img : List Byte × List Byte) : (s.placeOn l e img).1.mem = s.mem := rfl

@[simp] theorem State.dequeue_mem (l : Launch) : (s.dequeue l).mem = s.mem := by
  unfold State.dequeue
  split <;> simp

theorem State.placeAll_mem {id n : Nat} {img : List Byte × List Byte} {t : State} (h : s.placeAll id img n = some t) : t.mem = s.mem := by
  induction n generalizing s with
  | zero => cases h; rfl
  | succ n ih =>
    simp only [State.placeAll] at h
    split at h
    · cases h
    · split at h
      · cases h; rfl
      · obtain ⟨e, _, placed⟩ := Option.bind_eq_some_iff.1 h
        exact (ih _ placed).trans (State.placeOn_mem ..)

@[simp] theorem State.tellDependants_mem (id : Nat) : (s.tellDependants id).mem = s.mem := rfl

@[simp] theorem State.markFor_mem (l : Launch) : (s.markFor l).mem = s.mem := by
  unfold State.markFor
  split <;> simp

@[simp] theorem State.placeLaunch_mem (l : Launch) (img : List Byte × List Byte) : (s.placeLaunch l img).mem = s.mem := by
  simp only [State.placeLaunch]
  split
  · cases State.nextCore _ l <;> simp
  · cases placed : State.placeAll _ l.id img l.groupsTotal with
    | none => rfl
    | some t => simpa using State.placeAll_mem _ placed

@[simp] theorem State.startLaunch_mem (l : Launch) (img : List Byte × List Byte) : (s.startLaunch l img).mem = s.mem := by
  simp only [State.startLaunch]
  (repeat' split) <;> simp

@[simp] theorem State.orphan_mem (c : Nat) (hs : List (BitVec 2)) : (s.orphan c hs).mem = s.mem := rfl

@[simp] theorem State.closeGroup_mem (launch group : Nat) (k : Core) : (s.closeGroup launch group k).mem = s.mem := rfl

@[simp] theorem State.discardMessages_mem (launch group : Nat) : (s.discardMessages launch group).mem = s.mem :=
  State.foldl_mem (fun _ _ => by rfl) _ s

@[simp] theorem State.tellHost_mem (m : HostMsg) : (s.tellHost m).mem = s.mem := rfl

@[simp] theorem State.abandon_mem (c : Nat) (h : BitVec 2) : (s.abandon c h).mem = s.mem := rfl

@[simp] theorem State.giveMessages_mem (c : Nat) : (s.giveMessages c).mem = s.mem :=
  State.foldl_mem (fun _ _ => by split <;> simp) _ s

@[simp] theorem State.withdrawReqs_mem (c : Nat) : (s.withdrawReqs c).mem = s.mem := by
  unfold State.withdrawReqs
  extract_lets t
  have kept : t.mem = s.mem := State.foldl_mem (fun _ _ => by split <;> rfl) hartNos s
  exact kept

@[simp] theorem State.markAll_mem (vf : BitVec 4) : (s.markAll vf).mem = s.mem := rfl

@[simp] theorem State.uncount_mem (vf : BitVec 4) : (s.uncount vf).mem = s.mem := rfl

@[simp] theorem State.codeError_mem (c line : Nat) : (s.codeError c line).mem = s.mem := rfl

@[simp] theorem State.codeWalked_mem (c : Nat) : (s.codeWalked c).mem = s.mem := by
  simp only [State.codeWalked]
  split <;> simp

@[simp] theorem State.sectorError_mem (c line : Nat) (sector : BitVec 2) : (s.sectorError c line sector).mem = s.mem := by simp [State.sectorError]

@[simp] theorem State.operandError_mem (c line : Nat) : (s.operandError c line).mem = s.mem := rfl

@[simp] theorem State.poisonLine_mem (line : Nat) : (s.poisonLine line).mem = s.mem :=
  State.foldl_mem (fun _ _ => State.physMark_mem ..) _ s

@[simp] theorem State.breakCheck_mem (q : Nat) (stored : BitVec 32) : (s.breakCheck q stored).mem = s.mem := by
  unfold State.breakCheck
  split <;> simp

@[simp] theorem State.ofPart_mem (vf : BitVec 4) (f : Partition → Partition) : (s.ofPart vf f).mem = s.mem := by simp [State.ofPart]

@[simp] theorem State.setCoreMap_mem (x y : Nat) (v : BitVec 4) (p : BitVec 5) : (s.setCoreMap x y v p).mem = s.mem := by simp [State.setCoreMap]

@[simp] theorem State.takeFirmware_mem (i : FirmwareImage) : (s.takeFirmware i).mem = s.mem := rfl

@[simp] theorem State.jumpTo_mem (n : Int) : (s.jumpTo n).mem = s.mem :=
  State.guarded_mem s _ rfl

@[simp] theorem State.branch_mem (taken : Bool) (o : BitVec 13) : (s.branch taken o).mem = s.mem := by simp [State.branch]

@[simp] theorem State.piecesWalked_mem (vf : BitVec 4) (need : Need) (ps : List (Nat × Nat)) : (s.piecesWalked vf need ps).mem = s.mem := by
  unfold State.piecesWalked
  split <;> simp

@[simp] theorem State.hostPut_mem (r : HostOp) (data : List Byte) : (s.hostPut r data).mem = s.mem := by
  simp only [State.hostPut]
  (repeat' split) <;> simp [*]

@[simp] theorem State.hitBreak_mem (k : BitVec 2) : (s.hitBreak k).mem = s.mem := by simp [State.hitBreak]

@[simp] theorem State.noteIssue_mem (i : Instr) (t : State) : (s.noteIssue i t).mem = t.mem := by
  simp [State.noteIssue]

end Sys2Proof.Machine
end

section
/-! SUPPORT. The operations that write the memory keep it in canonical form (log 3): what they write, they write with `memPut` and
`memPutLE`, and everything else about them is a frame. -/

namespace Sys2Proof.Machine

variable {s : State}

theorem State.memOk.frame {t : State} (h : s.memOk) (e : t.mem = s.mem) : t.memOk := (congrArg Memory.wf e).trans h

theorem State.memOk.foldl {α : Type} {f : State → α → State} (keeps : ∀ t a, t.memOk → (f t a).memOk) (xs : List α) (h : s.memOk) : (xs.foldl f s).memOk := by
  induction xs generalizing s with
  | nil => exact h
  | cons x xs ih => exact ih (keeps s x h)

/-! The slices and what lies behind them. -/

theorem State.memOk.putSector (h : s.memOk) (q v : Nat) (poison : Bool) (check : Option (BitVec 32)) : (s.putSector q v poison check).memOk :=
  wf_memPutLE _ _ _ h

theorem State.memOk.writeOut (h : s.memOk) (l : SliceLine) : (s.writeOut l).memOk :=
  .foldl (fun t i ht => by split; exacts [ht.putSector .., ht]) _ h

theorem State.memOk.evictLine (h : s.memOk) (l : SliceLine) : (s.evictLine l).memOk := (h.writeOut l).frame rfl

theorem State.memOk.sliceFill (h : s.memOk) (x y pa : Nat) (vf : BitVec 4) : (s.sliceFill x y pa vf).1.memOk := by
  simp only [State.sliceFill]
  split
  · split
    · exact h.frame (by simp)
    · exact (h.evictLine _).frame rfl
  · split
    · exact h.frame rfl
    · split
      · exact h
      · next v _ => exact ((h.frame (t := s.fresh) rfl).evictLine v).frame rfl

theorem State.memOk.homeMerge (h : s.memOk) (x y pa mask v : Nat) (poison : Bool) : (s.homeMerge x y pa mask v poison).memOk := by
  simp only [State.homeMerge]
  split
  · exact h.frame (by simp)
  · exact (h.frame (by simp)).putSector ..

theorem State.memOk.homeWrite (h : s.memOk) (x y pa n v : Nat) (poison : Bool) : (s.homeWrite x y pa n v poison).memOk := h.homeMerge ..

theorem State.memOk.atomicHome (h : s.memOk) (r : Req) (x y pa : Nat) (w : Option (BitVec 2 × Word)) : (s.atomicHome r x y pa w).memOk := by
  simp only [State.atomicHome]
  have checked : (s.checkedAt x y pa).memOk := h.frame (by simp)
  split
  · exact checked.frame rfl
  · split
    · exact (checked.homeWrite ..).frame rfl
    · exact checked.frame rfl

theorem State.memOk.performHome (h : s.memOk) (r : Req) (x y pa : Nat) : (s.performHome r x y pa).memOk := by
  simp only [State.performHome]
  split
  case h_4 _ v _ _ => exact (h.homeWrite x y pa r.kind.size v.toNat false).frame (by simp)
  case h_5 => exact (h.homeMerge ..).frame rfl
  case h_6 => exact (h.homeWrite ..).frame rfl
  case h_7 | h_8 => exact h.atomicHome ..
  case h_13 => exact (h.homeMerge ..).frame rfl
  case h_15 =>
    split
    · exact h.frame rfl
    · exact (h.homeWrite ..).frame rfl
  all_goals exact h.frame (by simp)

theorem State.memOk.performAt (h : s.memOk) (r : Req) (x y pa : Nat) (hit : Bool) : (s.performAt r x y pa hit).memOk := h.performHome ..

theorem State.memOk.performFilled (h : s.memOk) (x y : Nat) (r : Req) : (s.performFilled x y r).memOk := by
  simp only [State.performFilled]
  split
  · split
    · exact h.frame rfl
    · exact h.performAt ..
  · exact h

theorem State.memOk.fillReturn (h : s.memOk) (x y pa : Nat) (vf : BitVec 4) {also : State → State} (keeps : ∀ t, t.memOk → (also t).memOk) :
    (s.fillReturn x y pa vf also).memOk :=
  .foldl (fun _ _ ht => ht.performFilled ..) _ (keeps _ (.foldl (fun _ _ ht => ht.performFilled ..) _ (h.sliceFill ..)))

theorem State.memOk.atSector (h : s.memOk) (x y pa : Nat) (vf : BitVec 4) {f : State → State} (keeps : ∀ t, t.memOk → (f t).memOk) :
    (s.atSector x y pa vf f).memOk := by
  unfold State.atSector
  split
  · exact keeps s h
  · exact h.fillReturn x y pa vf keeps

/-- What holds of an access's answer, whichever state with canonical memory it finds at its home, holds of the access. -/
theorem State.memOk.onHome {α : Type} {good : α → Prop} {other : α} {f : State → Nat → Nat → Nat → α} (h : s.memOk) (vf : BitVec 4) (va : Nat) (n : Need)
    (refused : good other) (done : ∀ t x y pa, t.memOk → good (f t x y pa)) : good (s.onHome vf va n other f) := by
  unfold State.onHome
  split
  · exact refused
  · exact done _ _ _ _ (h.atSector _ _ _ _ (fun _ ht => ht))

theorem State.memOk.onHomeWrite {other : State} {f : State → Nat → Nat → Nat → State} (h : s.memOk) (vf : BitVec 4) (va : Nat) (n : Need)
    (refused : other.memOk) (done : ∀ t x y pa, t.memOk → (f t x y pa).memOk) : (s.onHomeWrite vf va n other f).memOk := by
  unfold State.onHomeWrite
  split
  · exact refused.frame (by simp)
  · exact h.atSector _ _ _ _ (fun t ht => done t _ _ _ ht)

/-! A request at a translating slice and at its home. -/

theorem State.memOk.acceptHome (h : s.memOk) (r : Req) (x y pa : Nat) : (s.acceptHome r x y pa).memOk := by
  unfold State.acceptHome
  split
  · exact h.performAt ..
  · exact h.frame rfl

theorem State.memOk.forward (h : s.memOk) (r : Req) (x y : Nat) (l : Leaf) : (s.forward r x y l).memOk := by
  simp only [State.forward]
  split
  · exact h.frame (by simp)
  · split
    · exact h.acceptHome ..
    · exact h.frame rfl

theorem State.memOk.uncached (h : s.memOk) (r : Req) (x y : Nat) (l : Leaf) : (s.uncached r x y l).memOk := by
  unfold State.uncached
  split
  · exact h.forward ..
  · split
    · exact (h.frame (by simp)).forward ..
    · exact h.frame rfl
  · exact h.frame rfl
  · exact h.frame rfl

theorem State.memOk.admitReq (h : s.memOk) (r : Req) (x y : Nat) (l : Leaf) : (s.admitReq r x y l).memOk := by
  simp only [State.admitReq]
  split
  · exact h.frame (by simp)
  · split
    · exact h.frame rfl
    · split
      · exact h.uncached ..
      · exact h.forward ..

theorem State.memOk.examine (h : s.memOk) (r : Req) (x y pa : Nat) : (s.examine r x y pa).memOk := by
  unfold State.examine
  split
  · exact h
  · refine h.atSector _ _ _ _ (fun t ht => ?_)
    split
    · exact ht
    · exact ht.frame rfl
    · exact (ht.homeWrite ..).frame rfl

/-! Ways, columns and cores that leave service. -/

theorem State.memOk.loseLine (h : s.memOk) (l : SliceLine) : (s.loseLine l).memOk :=
  (h.evictLine _).frame (State.foldl_mem (fun _ _ => by rfl) _ _)

theorem State.memOk.withdrawWay (h : s.memOk) (x y line way : Nat) {lose : State → SliceLine → State} (keeps : ∀ t l, t.memOk → (lose t l).memOk) :
    (s.withdrawWay x y line way lose).memOk := by
  have kept : ∀ xs : List SliceLine, (xs.foldl (fun s l => if sliceSet l.line = sliceSet line then lose s l else s.evictLine l) s).memOk := fun xs =>
    .foldl (fun t l ht => by split; exacts [keeps t l ht, ht.evictLine l]) xs h
  exact (kept _).frame rfl

theorem State.memOk.moveColumns (h : s.memOk) (die : Nat) : (s.moveColumns die).memOk := by
  simp only [State.moveColumns]
  split
  · exact (State.memOk.foldl (fun _ l ht => ht.evictLine l) _ h).frame rfl
  · exact h

theorem State.memOk.setColMap (h : s.memOk) (die : Nat) (m : BitVec 192) : (s.setColMap die m).memOk := by
  unfold State.setColMap
  split
  · exact State.memOk.moveColumns (h.frame (by rfl)) die
  · exact h

theorem State.memOk.spareColumn (h : s.memOk) (die c : Nat) : (s.spareColumn die c).memOk := by
  unfold State.spareColumn
  extract_lets d spare
  split
  · exact h
  · split
    · exact h.frame (by simp)
    · exact h.setColMap ..

theorem State.memOk.retireCluster (h : s.memOk) (x y : Nat) : (s.retireCluster x y).memOk :=
  State.memOk.spareColumn (h.frame (by rfl)) ..

theorem State.memOk.retireCore (h : s.memOk) (c : Nat) : (s.retireCore c).memOk := by
  simp only [State.retireCore]
  split
  · split
    · exact h.retireCluster ..
    · exact h.frame rfl
  · exact h

theorem State.memOk.replace (h : s.memOk) (c : Nat) : (s.replace c).memOk := .foldl (fun _ die ht => ht.moveColumns die) _ (h.retireCore c)

theorem State.memOk.freeCore (h : s.memOk) (c : Nat) : (s.freeCore c).memOk := by
  unfold State.freeCore
  split
  · exact h
  · exact (h.frame (by simp)).replace c

theorem State.memOk.askRetire (h : s.memOk) (c : Nat) : (s.askRetire c).memOk := State.memOk.retireCore (h.frame (by rfl)) c

theorem State.memOk.loseCore (h : s.memOk) (c : Nat) : (s.loseCore c).memOk := by
  simp only [State.loseCore]
  split
  · exact State.memOk.retireCluster (h.frame (by rfl)) ..
  · split
    · exact h.frame rfl
    · exact State.memOk.askRetire (h.frame (by rfl)) c

/-! The end of a launch, whose record is written at its home. -/

theorem State.memOk.tellHart (h : s.memOk) (l : Launch) (v : Nat) (hart : BitVec 2) (g : GroupRef) : (s.tellHart l v hart g).memOk := by
  simp only [State.tellHart]
  have told : (if bits l.spec.toNat 47 6 * 64 = 0 then s
      else s.onHomeWrite l.vf (bits l.spec.toNat 47 6 * 64) ⟨false, true⟩ (s.logBeline (.recordFailed l.id)) (fun s x y pa => s.homeWrite x y pa 64 l.completion)).memOk := by
    split
    · exact h
    · exact h.onHomeWrite _ _ _ (h.frame rfl) (fun _ _ _ _ ht => ht.homeWrite ..)
  exact told.frame (by simp)

theorem State.memOk.endLaunch (h : s.memOk) (id : Nat) : (s.endLaunch id).memOk := by
  simp only [State.endLaunch]
  split
  · exact h
  · split
    · exact (h.frame (by simp)).tellHart ..
    · exact h.frame (by simp)

theorem State.memOk.dismiss (h : s.memOk) (l : Launch) (st : Status) : (s.dismiss l st).memOk := State.memOk.endLaunch (h.frame (by rfl)) _

theorem State.memOk.cancelOne (h : s.memOk) (id : Nat) : (s.cancelOne id).memOk := by
  unfold State.cancelOne
  split
  · exact h
  · split
    · exact h.dismiss ..
    · exact h

theorem State.memOk.sweepOne (h : s.memOk) (id : Nat) : (s.sweepOne id).memOk := by
  unfold State.sweepOne
  split
  · exact h
  · (repeat' split)
    · exact h
    · exact h.frame rfl
    · exact h.frame rfl
    · exact h.endLaunch id

/-! Writes of the memory from outside, and of a checkpoint's regions. -/

theorem State.memOk.physPut (h : s.memOk) (pa : Nat) (b : Byte) : (s.physPut pa b).memOk := by
  unfold State.physPut
  split
  · exact h.homeWrite ..
  · exact wf_memPut _ _ h

theorem State.memOk.physPutBytes (h : s.memOk) (pa : Nat) (bs : List Byte) : (s.physPutBytes pa bs).memOk := by
  induction bs generalizing s pa with
  | nil => exact h
  | cons b bs ih => exact ih (h.physPut pa b) _

theorem State.memOk.restoreRegion (h : s.memOk) (r : Nat × List Byte × List Nat) : (s.restoreRegion r).memOk :=
  .foldl (fun t q ht => ht.frame (by simp)) _ (h.physPutBytes ..)

theorem State.memOk.restore (h : s.memOk) (vf : BitVec 4) : (s.restore vf).memOk := by
  unfold State.restore
  extract_lets p
  split
  · next ck _ _ => exact (State.memOk.foldl (fun _ r ht => ht.restoreRegion r) ck.regions h).frame rfl
  · exact h

theorem State.memOk.finishSwitch (h : s.memOk) (a b : BitVec 4) : (s.finishSwitch a b).memOk := State.memOk.restore (h.frame (by rfl)) b

theorem State.memOk.discardCore (h : s.memOk) (c : Nat) : (s.discardCore c).memOk := by
  unfold State.discardCore
  exact (h.frame (by simp)).replace c

theorem State.memOk.failAll (h : s.memOk) (vf : BitVec 4) : (s.failAll vf).memOk :=
  .foldl (fun t l ht => by split; exacts [ht.frame rfl, ht.dismiss ..]) _ h

theorem State.memOk.rollback (h : s.memOk) (vf : BitVec 4) : (s.rollback vf).memOk := by
  have left : ((s.liveCores vf).foldl (fun s c => s.discardCore c) ((s.liveCores vf).foldl State.accrueCore s)).memOk :=
    .foldl (fun _ c ht => ht.discardCore c) _ (h.frame (State.foldl_mem (fun t c => t.accrueCore_mem c) _ _))
  simp only [State.rollback]
  split
  · exact ((left.frame (by simp)).failAll vf).frame rfl
  · exact left.frame (by simp)

theorem State.memOk.answerDoorbell (h : s.memOk) (vf : BitVec 4) (n : BitVec 32) : (s.answerDoorbell vf n).memOk := by
  unfold State.answerDoorbell
  split
  · exact h
  · exact h.onHomeWrite _ _ _ h (fun _ _ _ _ ht => ht.homeWrite ..)

theorem State.memOk.tableAt (h : s.memOk) (pa t : Nat) : (s.tableAt pa t).1.memOk := by
  unfold State.tableAt
  split
  · exact h
  · exact h.physPutBytes ..

theorem State.memOk.mapDoorbell (h : s.memOk) (p : PartitionSpec) : (s.mapDoorbell p).memOk := ((h.tableAt ..).tableAt ..).physPutBytes ..

theorem State.memOk.writePieces (h : s.memOk) (vf : BitVec 4) (ps : List (Nat × Nat)) (bs : List Byte) : (s.writePieces vf ps bs).memOk := by
  induction ps generalizing s bs with
  | nil => exact h
  | cons p ps ih => exact ih (h.onHomeWrite _ _ _ h (fun _ _ _ _ ht => ht.homeWrite ..)) _

theorem State.memOk.readPieces (h : s.memOk) (vf : BitVec 4) (ps : List (Nat × Nat)) : (s.readPieces vf ps).1.memOk := by
  induction ps generalizing s with
  | nil => exact h
  | cons p ps ih => exact ih (State.memOk.onHome (good := fun a : State × Nat × Bool => a.1.memOk) h _ _ _ h (fun _ _ _ _ ht => ht.frame (by simp)))

end Sys2Proof.Machine
end

section
/-! SUPPORT. What the Sash units do to a record (19) keeps the memory in canonical form (log 3). -/

namespace Sys2Proof.Machine

variable {s : State}

theorem State.memOk.recTouch (h : s.memOk) (vf : BitVec 4) (va : Nat) : (s.recTouch vf va).memOk :=
  h.onHome _ _ _ h (fun _ _ _ _ ht => ht.frame (by simp))

theorem State.memOk.touchRecord (h : s.memOk) (vf : BitVec 4) (at_ depth : Nat) : (s.touchRecord vf at_ depth).memOk :=
  .foldl (fun _ _ ht => ht.recTouch ..) _ h

theorem State.memOk.recWrite (h : s.memOk) (vf : BitVec 4) (va n v : Nat) (poison : Bool) : (s.recWrite vf va n v poison).memOk :=
  h.onHomeWrite _ _ _ h (fun _ _ _ _ ht => ht.homeWrite ..)

theorem State.memOk.put (h : s.memOk) (r : Rec) (hdr : Nat) : (r.put s hdr).memOk := h.recWrite ..

theorem State.memOk.putShutter (h : s.memOk) (r : Rec) (k v : Nat) : (r.putShutter s k v).memOk := h.recWrite ..

theorem State.memOk.recZero (h : s.memOk) (vf : BitVec 4) (dst n : Nat) : (s.recZero vf dst n).memOk := by
  induction n generalizing s dst with
  | zero => exact h
  | succ n ih => exact ih (h.recWrite ..) _

theorem State.memOk.recOut (h : s.memOk) (c : Nat) (vf : BitVec 4) (off src n : Nat) : (s.recOut c vf off src n).memOk := by
  induction n generalizing s off src with
  | zero => exact h
  | succ n ih => exact ih ((h.recTouch vf src).frame (by simp)) _ _

theorem State.memOk.recIn (h : s.memOk) (c : Nat) (vf : BitVec 4) (dst off n : Nat) : (s.recIn c vf dst off n).memOk := by
  induction n generalizing s dst off with
  | zero => exact h
  | succ n ih =>
    unfold State.recIn
    exact ih ((h.recWrite ..).frame (State.notePoison_mem ..)) _ _

theorem State.memOk.recCopy (h : s.memOk) (vf : BitVec 4) (dst src n : Nat) : (s.recCopy vf dst src n).memOk := by
  induction n generalizing s dst src with
  | zero => exact h
  | succ n ih =>
    unfold State.recCopy
    exact ih (((h.recTouch vf src).recWrite ..).frame (State.notePoison_mem ..)) _ _

/-- A Sash operation that completes leaves canonical memory. -/
def SashCanonical {α : Type} (o : Except LateFault (State × α)) : Prop := ∀ t a, o = .ok (t, a) → t.memOk

theorem sashCanonical_error {α : Type} (f : LateFault) : SashCanonical (α := α) (.error f) := nofun

theorem sashCanonical_ok {α : Type} (h : s.memOk) (a : α) : SashCanonical (.ok (s, a)) := by
  rintro _ _ ⟨⟩
  exact h

/-- What `State.openRecord` does where `refused` is what refuses its area. -/
def State.openedWhere (s : State) (vf : BitVec 4) (at_ : Nat) (fresh : Nat → Nat) (refused : Option LateFault) : Except LateFault (State × Rec) :=
  match refused with
  | some f => .error f
  | none =>
    let s := s.recTouch vf at_
    let old := s.recRead vf at_ 128
    if recVALID old then .error (storeFault at_ 6)
    else
      let hdr := fresh ((recGEN old + 1) % 4096)
      let r : Rec := ⟨vf, at_, hdr⟩
      let s := s.touchRecord vf at_ (recD r.hdr)
      let s := (List.range (recD r.hdr)).foldl (fun s k => r.putShutter s k 0) (r.put s r.hdr)
      .ok ({ s with areas := mapSet s.areas (areaKey vf at_) (hdr % 2 ^ 64) }, r)

theorem State.openRecord_eq (vf : BitVec 4) (at_ sbu nlm1 ld unit : Nat) : s.openRecord vf at_ sbu nlm1 ld unit =
    s.openedWhere vf at_ (recNew sbu nlm1 ld unit vf.toNat) (s.areaFault vf at_ (recBytes (recNew sbu nlm1 ld unit vf.toNat 0))) := rfl

theorem State.memOk.openedWhere (h : s.memOk) (vf : BitVec 4) (at_ : Nat) (fresh : Nat → Nat) (refused : Option LateFault) :
    SashCanonical (s.openedWhere vf at_ fresh refused) := by
  cases refused with
  | some f => exact sashCanonical_error f
  | none =>
    simp only [State.openedWhere]
    split
    · exact sashCanonical_error _
    · exact sashCanonical_ok (State.memOk.frame (.foldl (fun _ k ht => ht.putShutter ..) _ (((h.recTouch ..).touchRecord ..).put ..)) (by rfl)) _

theorem State.memOk.openRecord (h : s.memOk) (vf : BitVec 4) (at_ sbu nlm1 ld unit : Nat) : SashCanonical (s.openRecord vf at_ sbu nlm1 ld unit) :=
  s.openRecord_eq .. ▸ h.openedWhere _ _ _ _

theorem State.memOk.sashOpen (h : s.memOk) (vf : BitVec 4) (at_ : Nat) (config : Word) (unit : Nat) : SashCanonical (s.sashOpen vf at_ config unit) := by
  simp only [State.sashOpen]
  split
  · exact sashCanonical_error _
  · split
    · exact sashCanonical_error _
    · next opened => exact sashCanonical_ok ((h.openRecord _ _ _ _ _ _ _ _ opened).recZero ..) _

theorem State.memOk.record (h : s.memOk) (vf : BitVec 4) (handle : Word) : SashCanonical (s.record vf handle) := by
  simp only [State.record]
  (repeat' split)
  case h_2 => exact sashCanonical_ok ((h.recTouch ..).touchRecord ..) _
  all_goals exact sashCanonical_error _

theorem State.memOk.load (h : s.memOk) (r : Rec) (c : Nat) (layer : Word) (dst : Nat) : SashCanonical (r.load s c layer dst) := by
  unfold Rec.load
  (repeat' split)
  · exact sashCanonical_error _
  · exact sashCanonical_error _
  · exact sashCanonical_ok (h.recOut ..) _

theorem State.memOk.commit (h : s.memOk) (r : Rec) (c : Nat) (layer p : Word) (src : Nat) : SashCanonical (r.commit s c layer p src) := by
  unfold Rec.commit
  extract_lets hdr anew st0 h1 t mask
  have read : t.memOk := h.recIn ..
  (repeat' split)
  · exact sashCanonical_error _
  · exact sashCanonical_error _
  · exact sashCanonical_error _
  · exact sashCanonical_ok (read.put ..) _
  · exact sashCanonical_ok (read.put ..) _

theorem State.memOk.snap (h : s.memOk) (r : Rec) : SashCanonical (r.snap s) := by
  simp only [Rec.snap]
  (repeat' split)
  · exact sashCanonical_ok h _
  · exact sashCanonical_ok h _
  · exact sashCanonical_ok h _
  · exact sashCanonical_ok (((h.recCopy ..).putShutter ..).put ..) _

theorem State.memOk.roll (h : s.memOk) (r : Rec) (p : Word) : SashCanonical (r.roll s p) := by
  simp only [Rec.roll]
  split
  · exact sashCanonical_error _
  · exact sashCanonical_ok (.foldl (fun _ _ ht => ht.putShutter ..) _ ((h.recCopy ..).put ..)) _

theorem State.memOk.setPin (h : s.memOk) (r : Rec) (p : Word) (on : Bool) : SashCanonical (r.setPin s p on) := by
  unfold Rec.setPin
  split
  · exact sashCanonical_ok (h.putShutter ..) _
  · exact sashCanonical_ok h _

theorem State.memOk.fork (h : s.memOk) (r : Rec) (p : Word) (at_ unit : Nat) : SashCanonical (r.fork s p at_ unit) := by
  delta Rec.fork
  generalize r.tagged s p.toNat = found
  have canonical := h.openRecord r.vf at_ (recSBU r.hdr) (recNL r.hdr - 1) (bits r.hdr 60 58) unit
  generalize s.openRecord r.vf at_ _ _ _ unit = opened at canonical ⊢
  match found, opened with
  | none, _ => exact sashCanonical_error _
  | some e, .error f => exact sashCanonical_error f
  | some e, .ok (t, q) => exact sashCanonical_ok (((canonical t q rfl).recCopy ..).put ..) _

theorem State.memOk.sashOp (h : s.memOk) (c : Nat) (vf : BitVec 4) (handle : Word) (op : SashOp) : SashCanonical (s.sashOp c vf handle op) := by
  unfold State.sashOp
  split
  · exact h.sashOpen _ _ _ _
  · split
    · exact sashCanonical_error _
    · next t r found =>
      have ht : t.memOk := h.record _ _ _ _ found
      split
      · exact sashCanonical_ok ht _
      · exact ht.load _ _ _ _
      · exact ht.commit _ _ _ _ _
      · exact ht.snap r
      · exact sashCanonical_ok ht _
      · exact ht.roll _ _
      · exact ht.setPin _ _ _
      · exact ht.setPin _ _ _
      · exact ht.fork _ _ _ _
      · exact sashCanonical_ok (ht.put ..) _

/-- The record that a LAUNCH reads (18 R364), and the state after its read. -/
theorem State.memOk.recordAt (h : s.memOk) {ea : Word} {t : State} {v : Nat × Bool} (found : s.recordAt ea = .ok (t, v)) : t.memOk := by
  unfold State.recordAt at found
  split at found
  · cases found
  · split at found
    · cases found
    · cases found; exact h
    · split at found
      · cases found; exact h
      · split at found
        · cases found
        · rw [Except.ok.injEq] at found
          have read := State.memOk.onHome (good := fun a : State × Nat × Bool => a.1.memOk) h s.cvf ea.toNat ⟨true, false⟩
            (other := (s, 0, false)) (f := fun s x y pa => (s.checkedAt x y pa, (s.checkedAt x y pa).homeRead x y pa 64)) h
            (fun _ _ _ _ ht => ht.frame (by simp))
          rwa [found] at read
    · cases found

end Sys2Proof.Machine
end

section
/-! SUPPORT. Every instruction and every event keeps the memory in canonical form (log 3). -/

namespace Sys2Proof.Machine

variable {s : State}

/-- An outcome that completes leaves canonical memory. -/
def Canonical (o : Out) : Prop := ∀ t, o = .next t → t.memOk

theorem State.memOk.next (h : s.memOk) : Canonical (.next s) := by
  rintro _ ⟨⟩
  exact h

theorem State.memOk.nextOf {t : State} (h : s.memOk) (e : t.mem = s.mem) : Canonical (.next t) := (h.frame e).next

theorem State.memOk.onReq (h : s.memOk) (id : Nat) (at_ : Stage → Bool) (k : ReqKind → Bool) {f : Req → State} (frame : ∀ r, (f r).mem = s.mem) :
    Canonical (s.onReq id at_ k f) := by
  refine h.nextOf ?_
  split
  · split
    · exact frame _
    · rfl
  · rfl

theorem State.memOk.guarded (h : s.memOk) (checks : List (Option Trap)) {k : State → State} (hk : (k s).memOk) : (s.guarded checks k).memOk := by
  unfold State.guarded
  split
  · exact h.frame (by simp)
  · exact hk

theorem State.memOk.quietly (h : s.memOk) {k : State → State} (hk : (k s).memOk) : (s.quietly k).memOk := by
  unfold State.quietly
  split
  · exact hk
  · exact h

/-! The instructions and the events that may write it. -/

theorem execLaunch_canonical (h : s.memOk) (d a b : BitVec 5) : Canonical (execLaunch d a b s) := by
  refine (h.quietly (h.guarded _ ?_)).next
  split
  · exact h.frame (by simp)
  · next t r poison found =>
    have ht : t.memOk := h.recordAt found
    split
    · exact h
    · split
      · exact ht.frame rfl
      · exact ht.guarded _ (ht.frame (by simp))

theorem execGlobalAdmission_canonical (h : s.memOk) (id : Nat) : Canonical (execGlobalAdmission id s) := by
  refine State.memOk.next ?_
  split
  · split
    · split
      · exact h.frame (by simp)
      · split
        · exact h.admitReq ..
        · exact h.frame rfl
    · split
      · split
        · exact h.admitReq ..
        · exact h
      · exact h
  · exact h

theorem execPageWalk_canonical (h : s.memOk) (id : Nat) (bad : BitVec 2) : Canonical (execPageWalk id bad s) := by
  refine State.memOk.next ?_
  split
  · split
    · dsimp only
      split
      · exact h
      · split
        · exact .foldl (fun _ q ht => ht.admitReq ..) _ (h.frame (by simp))
        · refine h.frame ((State.foldl_mem (fun _ q => State.refuse_mem ..) _ _).trans ?_)
          split <;> rfl
    · exact h
  · exact h

theorem State.memOk.arriveHome (h : s.memOk) (id : Nat) (back : Bool) : Canonical (s.arriveHome id back) := by
  refine State.memOk.next ?_
  split
  · split
    · split
      · exact h.acceptHome ..
      · exact h
    · exact h
  · exact h

theorem execSectorFillReturn_canonical (h : s.memOk) (id : Nat) : Canonical (execSectorFillReturn id s) := by
  refine State.memOk.next ?_
  split
  · split
    · exact h.fillReturn _ _ _ _ (fun _ ht => ht)
    · exact h
  · exact h

theorem execAcqGrant_canonical (h : s.memOk) (id : Nat) : Canonical (execAcqGrant id s) := by
  refine State.memOk.next ?_
  split
  · split
    · exact h.examine ..
    · exact h.frame (by simp)
  · exact h

theorem execSliceError_canonical (h : s.memOk) (x y : Nat) (place : SlicePlace) : Canonical (execSliceError x y place s) := by
  refine State.memOk.next ?_
  cases place with
  | tag line way => exact h.withdrawWay _ _ _ _ (fun _ l ht => ht.loseLine l)
  | _ => exact h.frame (by simp)

theorem execSweep_canonical (h : s.memOk) : Canonical (execSweep s) :=
  (State.memOk.foldl (fun _ id ht => ht.cancelOne id) _ (.foldl (fun _ id ht => ht.sweepOne id) _ h)).next

theorem execGroupEnd_canonical (h : s.memOk) (launch group : Nat) : Canonical (execGroupEnd launch group s) := by
  refine State.memOk.next ?_
  split
  · dsimp only
    split
    · exact State.memOk.freeCore (h.frame (by simp)) _
    · exact h
  · refine h.frame ?_
    split
    · rfl
    · dsimp only
      split <;> simp

theorem execGroupPlacement_canonical (h : s.memOk) (vf : BitVec 4) (queue : BitVec 3) : Canonical (execGroupPlacement vf queue s) := by
  refine State.memOk.next ?_
  split
  · exact h
  · dsimp only
    (repeat' split)
    case h_2.isFalse.isTrue => exact h.dismiss ..
    all_goals exact h.frame (by simp)

theorem execContextSave_canonical (h : s.memOk) (c : Nat) : Canonical (execContextSave c s) := by
  refine State.memOk.next ?_
  split
  · exact h
  · (repeat' split)
    · exact h
    · exact h.frame (by simp)
    · exact h
    · exact State.memOk.replace (h.frame (by simp)) c

theorem execWorldSwitch_canonical (h : s.memOk) (a b : BitVec 4) : Canonical (execWorldSwitch a b s) := by
  refine State.memOk.next ?_
  split
  · exact h
  · split
    · exact h.frame rfl
    · split
      · exact h.finishSwitch a b
      · exact h

theorem execSwitchDeadline_canonical (h : s.memOk) (vf : BitVec 4) : Canonical (execSwitchDeadline vf s) := by
  refine State.memOk.next ?_
  (repeat' split)
  · exact h
  · exact h.rollback vf
  · exact h
  · exact h
  · rw [State.memOk, State.modPart_mem]
    exact h.frame (State.foldl_mem (fun _ _ => by rfl) _ s)

theorem execCheckpointComplete_canonical (h : s.memOk) (vf : BitVec 4) : Canonical (execCheckpointComplete vf s) := by
  refine State.memOk.next ?_
  split
  · exact h
  · split
    · exact h
    · exact State.memOk.answerDoorbell (h.frame (by rfl)) ..

theorem execPartitionCreate_canonical (h : s.memOk) (p : PartitionSpec) : Canonical (execPartitionCreate p s) := by
  refine State.memOk.next ?_
  split
  · exact h
  · exact (h.mapDoorbell p).frame (by simp)

theorem State.memOk.whileEvicted (h : s.memOk) (vf : BitVec 4) {f : State → State} (hf : ∀ t, t.memOk → (f t).memOk) : (s.whileEvicted vf f).memOk := by
  unfold State.whileEvicted
  split
  · exact hf _ h
  · exact h

theorem execBelineConfigWrite_canonical (h : s.memOk) (w : ConfigWrite) : Canonical (execBelineConfigWrite w s) := by
  refine State.memOk.next ?_
  cases w with
  | columnMap die m => exact h.setColMap die m
  | pageEntry vf pa entry =>
    dsimp only
    split
    · exact h.whileEvicted vf (fun _ ht => ht.physPutBytes ..)
    · exact h
  | remap vf entry => exact h.whileEvicted vf (fun _ ht => ht.frame rfl)
  | ptroot vf root => exact h.whileEvicted vf (fun _ ht => ht.frame rfl)
  | groupMask vf k mask =>
    dsimp only
    split
    · exact h.whileEvicted vf (fun _ ht => ht.frame rfl)
    · exact h
  | _ => exact h.frame (by simp)

theorem execCoreFailure_canonical (h : s.memOk) (c : Nat) : Canonical (execCoreFailure c s) :=
  (State.memOk.loseCore (h.frame (by simp)) c).next

theorem execSpareRemap_canonical (h : s.memOk) (k : SpareKind) : Canonical (execSpareRemap k s) := by
  refine State.memOk.next ?_
  cases k with
  | core x y p => exact h.askRetire _
  | column die c => exact h.spareColumn ..
  | _ => exact h.frame rfl

theorem execHostRmaWrite_canonical (h : s.memOk) (r : HostOp) (data : List Byte) : Canonical (execHostRmaWrite r data s) := by
  refine State.memOk.next ?_
  (repeat' split)
  · exact h.frame rfl
  · exact h
  · exact h.frame (by simp)
  · exact h.frame (by simp)
  · exact (h.writePieces (keyVf r.key) (piecesOf r.addr.toNat data.length) data).frame (by simp)

theorem execHostRmaRead_canonical (h : s.memOk) (r : HostOp) (len : Nat) : Canonical (execHostRmaRead r len s) := by
  refine State.memOk.next ?_
  split
  · exact h.frame rfl
  · split
    · exact h
    · split
      · refine h.frame ?_
        dsimp only
        (repeat' split) <;> simp
      · split
        · exact h.frame (by simp)
        · exact (h.readPieces (keyVf r.key) (piecesOf r.addr.toNat len)).frame (by simp)

theorem execSashAccept_canonical (h : s.memOk) (id : Nat) : Canonical (execSashAccept id s) := by
  refine State.memOk.next ?_
  split
  · split
    · split
      · exact h
      · split
        · exact h.frame (by simp)
        · next t v done => exact (h.sashOp _ _ _ _ _ _ done).frame (by simp)
    · exact h
  · exact h

end Sys2Proof.Machine
end

section
/-! SUPPORT. Every instruction and every event keeps the memory in canonical form: those that frame lemmas decide, and `exec` as a whole. -/

namespace Sys2Proof.Machine

variable {s : State}

theorem execArrivalPass_canonical (h : s.memOk) (c : Nat) (i : BitVec 2) : Canonical (execArrivalPass c i s) := h.nextOf (by simp)

theorem execWaitWake_canonical (h : s.memOk) (c : Nat) (i : BitVec 2) : Canonical (execWaitWake c i s) := by
  refine h.nextOf ?_
  (repeat' split) <;> simp

theorem execBwaitWake_canonical (h : s.memOk) (c : Nat) (i : BitVec 2) : Canonical (execBwaitWake c i s) := by
  refine h.nextOf ?_
  (repeat' split) <;> simp

theorem execRpopWake_canonical (h : s.memOk) (c : Nat) (i : BitVec 2) : Canonical (execRpopWake c i s) := by
  refine h.nextOf ?_
  (repeat' split) <;> simp

theorem execEngineWaitReturn_canonical (h : s.memOk) (c : Nat) (i : BitVec 2) : Canonical (execEngineWaitReturn c i s) := by
  refine h.nextOf ?_
  (repeat' split) <;> simp

theorem State.memOk.outState {o : Out} (h : s.memOk) (ho : Canonical o) : (outState s o).memOk := by
  cases o with
  | next t => exact ho t rfl
  | fault _ => exact h
  | refused _ => exact h

/-- What a resumed hart does again of what it waited for (18 R379). -/
theorem State.memOk.rearm (h : s.memOk) (c : Nat) (i : BitVec 2) : (s.rearm c i).memOk := by
  have passed := h.outState (execArrivalPass_canonical h c i)
  simp only [State.rearm]
  split
  · exact passed.outState (execWaitWake_canonical passed c i)
  · exact passed.outState (execBwaitWake_canonical passed c i)
  · exact passed.outState (execRpopWake_canonical passed c i)
  · exact passed.outState (execEngineWaitReturn_canonical passed c i)
  · exact passed.outState (execEngineWaitReturn_canonical passed c i)
  · exact passed

theorem execResume_canonical (h : s.memOk) (vf : BitVec 4) (slot : Nat) : Canonical (execResume vf slot s) := by
  refine State.memOk.next ?_
  (repeat' split)
  case h_2.isFalse => exact .foldl (fun _ i ht => ht.rearm _ i) _ (h.frame (by rfl))
  all_goals exact h

theorem execImx_canonical (h : s.memOk) (x : BitVec 26) : Canonical (execImx x s) := by
  refine h.nextOf ?_
  split <;> simp

theorem execExit_canonical (h : s.memOk) (a : BitVec 5) : Canonical (execExit a s) := by
  refine h.nextOf ?_
  split
  · dsimp only
    split <;> simp
  · rfl

theorem execStoreAck_canonical (h : s.memOk) (id : Nat) : Canonical (execStoreAck id s) := by
  refine h.nextOf ?_
  split
  · next r _ =>
    split
    · rfl
    · split
      · cases r.stage with
        | acknowledged w => exact State.acknowledge_mem ..
        | onFabric => exact State.acknowledge_mem ..
        | _ => rfl
      · split <;> simp
  · rfl

/-- A sector that has come for a hart or for a prefetch (08 R192). -/
theorem execCacheFill_canonical (h : s.memOk) (id : Nat) : Canonical (execCacheFill id s) := by
  refine h.nextOf ?_
  split
  · split
    · split
      · rfl
      · extract_lets +onlyGivenNames a tidy
        have tidied : ∀ c t, (tidy c t).mem = t.mem := fun c t => by
          simp only [tidy]
          split <;> simp
        (repeat' split) <;> simp [tidied]
    · rfl
  · rfl

theorem execEngineCommandStart_canonical (h : s.memOk) (c : Nat) (e : Engine) : Canonical (execEngineCommandStart c e s) := by
  refine h.nextOf ?_
  split
  · split
    · dsimp only
      split <;> rfl
    · (repeat' split) <;> rfl
  · rfl

theorem execHostSubmission_canonical (h : s.memOk) (vf : BitVec 4) (endpoint : Nat) (send : HostSend) :
    Canonical (execHostSubmission vf endpoint send s) := by
  refine h.nextOf ?_
  split
  · rfl
  · split
    · rfl
    · split
      · rfl
      · exact (State.tellHost_mem ..).trans (State.submit_mem ..)

theorem exec_canonical (h : s.memOk) (i : Instr) : Canonical (exec i s) := by
  cases i with
  | add | sub | and | or | xor | andn | shl | shr | sra | mul | mulh | mulhu | div | divu | rem | remu | min | max | minu | maxu | slt | sltu | seq | sne
  | sel | clz | ctz | popc | abs | addv | addi | andi | ori | xori | slti | sltiu | shli | shri | srai | movi
  | fadd | fsub | fmul | fdiv | fsqrt | fma | fms | fmin | fmax | feq | flt | fle | fclass | fcvt
  | ladd | lsub | lmul | ldiv | leq | llt | lcvt | llevel | mpeek | vext | vpopc => exact h.nextOf (State.compute_mem ..)
  | beq | bne | blt | bge | bltu | bgeu => exact h.nextOf (State.branch_mem ..)
  | jmp => exact h.nextOf (State.jumpTo_mem ..)
  | jal | jalr | shape | mtake => exact h.nextOf (State.guarded_mem _ _ rfl)
  | ld | lda | ldp => exact h.nextOf (State.loadAt_mem ..)
  | st => exact h.nextOf (State.doSt_mem ..)
  | str => exact h.nextOf (State.doStr_mem ..)
  | stp => exact h.nextOf (State.doStp_mem ..)
  | amo | cas => exact h.nextOf (State.atomic_mem ..)
  | imx => exact execImx_canonical h _
  | vadd | vsub | vmul | vmulh | vdiv | vmin | vmax | vand | vor | vxor | vshl | vshr | vsra | vfma | vsqrt | vladd | vlmul | vldiv
  | vcmp | vsel | vred | vperm | vbcast | viota => exact h.nextOf rfl
  | vld | vldx => exact h.nextOf (State.vload_mem ..)
  | vst | vstx => exact h.nextOf (State.vstore_mem ..)
  | vldm => exact h.nextOf (State.onMap_mem _ _ (fun _ => State.vload_mem ..))
  | vstm => exact h.nextOf (State.onMap_mem _ _ (fun _ => State.vstore_mem ..))
  | mrel | mput | mload | mma | mcbk | cpy | cpy2 | cxp | cpk | cgthb | cpyr | xexp | xrot => exact h.nextOf (State.command_mem ..)
  | mwait | cwait | xwait => exact h.nextOf (State.engineWait_mem ..)
  | mstat | cstat => exact h.nextOf (State.engineStat_mem ..)
  | ssopen | ssload | sscommit | sssnap | ssfind | ssroll | sspin | ssunpin | ssfork | ssclose => exact h.nextOf (State.sash_mem ..)
  | acqX | acqS => exact h.nextOf (State.acquire_mem ..)
  | relX | relS => exact h.nextOf (State.releaseObj_mem ..)
  | eret | eretS => exact h.nextOf (State.doEret_mem ..)
  | launch => exact execLaunch_canonical h _ _ _
  | globalAdmission => exact execGlobalAdmission_canonical h _
  | pageWalk => exact execPageWalk_canonical h _ _
  | forwardedRequest => exact h.arriveHome _ false
  | writeBackArrival => exact h.arriveHome _ true
  | sectorFillReturn => exact execSectorFillReturn_canonical h _
  | acqGrant => exact execAcqGrant_canonical h _
  | sliceError => exact execSliceError_canonical h _ _ _
  | sweep => exact execSweep_canonical h
  | groupEnd => exact execGroupEnd_canonical h _ _
  | groupPlacement => exact execGroupPlacement_canonical h _ _
  | contextSave => exact execContextSave_canonical h _
  | resume => exact execResume_canonical h _ _
  | worldSwitch => exact execWorldSwitch_canonical h _ _
  | switchDeadline => exact execSwitchDeadline_canonical h _
  | checkpointComplete => exact execCheckpointComplete_canonical h _
  | partitionCreate => exact execPartitionCreate_canonical h _
  | belineConfigWrite => exact execBelineConfigWrite_canonical h _
  | coreFailure => exact execCoreFailure_canonical h _
  | spareRemap => exact execSpareRemap_canonical h _
  | hostRmaWrite => exact execHostRmaWrite_canonical h _ _
  | hostRmaRead => exact execHostRmaRead_canonical h _ _
  | sashAccept => exact execSashAccept_canonical h _
  | messageArrival | messageRetry | evictedMessageHold => exact h.onReq _ _ _ (fun r => s.tryMessage_mem r)
  | remoteScratchAccess => exact h.onReq _ Stage.isCore (fun k => !k.isMessage) (fun r => s.tryAccess_mem r)
  | evictedAccess => exact h.onReq _ Stage.isEvicted (fun k => !k.isMessage) (fun r => s.tryAccess_mem r)
  | arrivalPass => exact execArrivalPass_canonical h _ _
  | waitWake => exact execWaitWake_canonical h _ _
  | bwaitWake => exact execBwaitWake_canonical h _ _
  | rpopWake => exact execRpopWake_canonical h _ _
  | engineWaitReturn => exact execEngineWaitReturn_canonical h _ _
  | engineCommandComplete => exact h.nextOf (State.finishCommand_mem ..)
  | columnFailure => exact h.nextOf (State.loseDie_mem ..)
  | thermalThrottle | hbmChannelCopy | sleepPauseEnd => exact h.nextOf rfl
  | binit | btest | rstat => exact h.nextOf (State.onObject_mem _ _ _ _ (fun _ _ => rfl))
  | bexp => exact h.nextOf (State.onObject_mem _ _ _ _ (fun _ _ => State.barDone_mem ..))
  | bwait | rpop =>
    refine h.nextOf (State.onObject_mem _ _ _ _ (fun _ _ => ?_))
    (repeat' split) <;> simp
  | rpush =>
    refine h.nextOf (State.onObject_mem _ _ _ _ (fun _ _ => ?_))
    extract_lets +onlyGivenNames r
    (repeat' split) <;> simp
  | rinit | rfix => exact h.nextOf (State.onObject_mem _ _ _ _ (fun _ _ => by simp))
  | microMovi | microAdd | microAddm | microDjnz | microBnz | microMask | microRmax | microRsum
  | microLcomb | microNorm | microWaite | microStop => exact h.nextOf (State.micro_mem _ _ _ rfl)
  | microMm | microMmMload | microXp | microCp => exact h.nextOf (State.micro_mem _ _ _ (State.casCommand_mem ..))
  | microSig =>
    refine h.nextOf (State.micro_mem _ _ _ ?_)
    dsimp only
    split <;> rfl
  | microSigMessage =>
    refine h.nextOf (State.micro_mem _ _ _ ?_)
    split <;> rfl
  | isync | bclr | sleep | unbind => exact h.nextOf (State.quietly_mem _ rfl)
  | trap | brk | tfence | yield => exact h.nextOf (State.quietly_mem _ (by simp))
  | bstat => exact h.nextOf (State.quietly_mem _ (State.compute_mem ..))
  | rdc | wrc => exact h.nextOf (State.quietly_mem _ (State.guarded_mem _ _ (by simp)))
  | wait | wayset | dsync =>
    refine h.nextOf (State.quietly_mem _ (State.guarded_mem _ _ ?_))
    (repeat' split) <;> simp
  | bind =>
    refine h.nextOf (State.quietly_mem _ ?_)
    dsimp only
    split
    · rfl
    · exact State.guarded_mem _ _ (by simp)
  | estat => exact h.nextOf (State.onEst_mem _ _ (fun _ => rfl))
  | enext | eacc =>
    refine h.nextOf (State.onEst_mem _ _ (fun _ => ?_))
    dsimp only
    (repeat' split) <;> simp
  | msend | barr | mclaim | casld | caswait =>
    refine h.nextOf (State.guarded_mem _ _ ?_)
    (repeat' split) <;> simp
  | rbind | cwb | cinv => exact h.nextOf (State.guarded_mem _ _ (State.flushed_mem _ _ _ (fun _ => by rfl)))
  | runbind =>
    refine h.nextOf ?_
    split
    · exact State.flushed_mem _ _ _ (fun _ => by rfl)
    · rfl
  | casgo =>
    refine h.nextOf ?_
    split
    · refine State.guarded_mem _ _ ?_
      split <;> rfl
    · rfl
  | undefinedEncoding => exact h.nextOf (by simp)
  | hint | trig | fence | fenceS | vcvt | vreq =>
    refine h.nextOf ?_
    (repeat' split) <;> simp
  | exit => exact execExit_canonical h _
  | loadDataReturn | storeRejection | admissionNotice | sashResult | writeBackAcknowledgement | sourceRouterRemap | fabricPortCheck
  | overflowDelivery | interruptEntry | counterWrap | coreSleepEntry | coreWake | wakeComplete | codeLineError | codeRepair | scrub | linkRetry
  | waiteReturn | runStop | runFault | cpyrPush | domainPhaseFlip | eviction | checkpointRequest | partitionDestroy
  | debugHalt | debugStep | debugAccess | debugResume | dieOvertemp | boot | firmwareUpdate | quoteRequest | fabricRequest | roundMerge =>
    refine h.nextOf ?_
    (repeat' split) <;> simp
  | storeAck => exact execStoreAck_canonical h _
  | cacheFill => exact execCacheFill_canonical h _
  | engineCommandStart => exact execEngineCommandStart_canonical h _ _
  | hostSubmission => exact execHostSubmission_canonical h _ _ _

end Sys2Proof.Machine
end

section
/-! SUPPORT. What the agenda names and what the module does in its turns keeps the memory in canonical form (log 3). -/

namespace Sys2Proof.Machine

variable {s : State}

theorem Canonical.mapNext {o : Out} {f : State → State} (ho : Canonical o) (hf : ∀ t, t.memOk → (f t).memOk) : Canonical (mapNext f o) := by
  cases o with
  | next t => exact (hf t (ho t rfl)).next
  | fault _ => exact nofun
  | refused _ => exact nofun

theorem State.memOk.bounded (h : s.memOk) : s.bounded.memOk := h

theorem State.notIssued_mem {t : State} (e : s.notIssued = some t) : t.mem = s.mem := by
  unfold State.notIssued at e
  split at e
  · cases e; rfl
  · split at e
    · cases e; exact State.hitBreak_mem ..
    · obtain ⟨o, _, rfl⟩ := Option.map_eq_some_iff.1 e
      exact State.raise_mem ..

theorem State.memOk.issue (h : s.memOk) : Canonical s.issue := by
  unfold State.issue
  split
  · next held => exact h.nextOf (State.notIssued_mem held)
  · exact (exec_canonical h _).mapNext (fun t ht => ht.frame (State.noteIssue_mem ..))

theorem State.memOk.resumeBlock (h : s.memOk) (b : Block) : Canonical (s.resumeBlock b) := by
  unfold State.resumeBlock
  split
  · exact h.nextOf (State.vresume_mem ..)
  · exact h.nextOf (State.vgo_mem ..)
  · exact exec_canonical h .yield
  · exact h.next

/-- A move that keeps the memory in canonical form. -/
def KeepsMem (m : State → Out) : Prop := ∀ s : State, s.memOk → Canonical (m s)

theorem keepsMem_exec (i : Instr) : KeepsMem (exec i) := fun _ h => exec_canonical h i

theorem keepsMem_hartMove (c : Nat) (i : BitVec 2) : KeepsMem (hartMove c i) := by
  intro s h
  have acting : (s.as c i).memOk := h
  unfold hartMove
  extract_lets x
  split
  · exact acting.resumeBlock _
  split
  · exact exec_canonical h (.overflowDelivery c i _)
  split
  · exact exec_canonical h (.arrivalPass c i)
  split
  · exact h.next
  split
  · exact exec_canonical h (.interruptEntry c i)
  split
  · exact acting.resumeBlock _
  · split
    · exact acting.issue
    · exact h.next

theorem keepsMem_seqMove (c : Nat) : KeepsMem (seqMove c) := by
  intro s h
  have acting : (s.as c (s.core c).cas.starter).memOk := h
  unfold seqMove
  extract_lets k
  split
  · split
    · exact exec_canonical acting _
    · exact acting.nextOf rfl
  · exact h.next

/-! The moves that the agenda names. -/

theorem State.memOk.makeOne (h : s.memOk) (m : Move) : Canonical (s.makeOne m) := by
  cases m with
  | event i =>
    simp only [State.makeOne]
    split
    · exact exec_canonical h i
    · exact nofun
  | hart c i => exact keepsMem_hartMove c i s h
  | sequencer c => exact keepsMem_seqMove c s h
  | cycle n => exact h.next

theorem State.memOk.makeAll (h : s.memOk) (ms : List Move) : Canonical (s.makeAll ms) := by
  induction ms generalizing s with
  | nil => exact h.next
  | cons m ms ih =>
    have made := h.makeOne m
    unfold State.makeAll
    split
    · next t e => exact ih (State.memOk.bounded (made t e))
    · exact made

theorem State.memOk.make (h : s.memOk) (m : Move) : Canonical (s.make m) := by
  unfold State.make
  split
  · exact State.memOk.makeAll (h.frame (by rfl)) _
  · exact h.makeOne m

/-! The moves of a turn of the module's own. -/

theorem keepsMem_of_mem_map {is : List Instr} {m : State → Out} (hm : m ∈ is.map exec) : KeepsMem m := by
  obtain ⟨i, _, rfl⟩ := List.mem_map.1 hm
  exact keepsMem_exec i

theorem reqEvents_eq (id : Nat) : reqEvents id =
    ([.sourceRouterRemap id, .fabricPortCheck id, .globalAdmission id, .pageWalk id 0, .forwardedRequest id, .writeBackArrival id, .sectorFillReturn id,
      .remoteScratchAccess id, .evictedAccess id, .messageArrival id, .evictedMessageHold id, .messageRetry id, .admissionNotice id,
      .loadDataReturn id .here, .storeRejection id 0, .cacheFill id, .writeBackAcknowledgement id, .acqGrant id, .sashAccept id, .sashResult id] :
      List Instr).map exec := rfl

theorem keepsMem_reqEvents {r : Req} {m : State → Out} (hm : m ∈ r.events) : KeepsMem m := by
  unfold Req.events at hm
  split at hm
  · cases hm
  · rcases List.mem_cons.1 hm with rfl | hm
    · exact keepsMem_exec (.storeAck r.id)
    · exact keepsMem_of_mem_map (reqEvents_eq r.id ▸ hm)

theorem hartEvents_eq (c : Nat) (i : BitVec 2) : hartEvents c i =
    ([.interruptEntry c i, .arrivalPass c i, .waitWake c i, .bwaitWake c i, .rpopWake c i, .engineWaitReturn c i] : List Instr).map exec := rfl

theorem keepsMem_coreEvents {c : Nat} {k : Core} {m : State → Out} (hm : m ∈ coreEvents c k) : KeepsMem m := by
  simp only [coreEvents, List.mem_append, List.mem_flatMap, List.mem_map] at hm
  obtain ((⟨i, _, hm⟩ | ⟨x, _, rfl⟩) | ⟨e, _, hm⟩) | hm := hm
  · exact keepsMem_of_mem_map (hartEvents_eq c i ▸ hm)
  · exact keepsMem_exec (.overflowDelivery c x.hart x.reg)
  · exact keepsMem_of_mem_map (is := [.engineCommandStart c e, .engineCommandComplete c e]) hm
  · exact keepsMem_of_mem_map (is := [.waiteReturn c, .runStop c, .runFault c, .eviction c, .contextSave c, .coreWake c, .wakeComplete c true]) hm

theorem keepsMem_launchEvents {l : Launch} {m : State → Out} (hm : m ∈ s.launchEvents l) : KeepsMem m := by
  simp only [State.launchEvents, State.launchDomains, List.mem_cons, List.mem_append, List.mem_flatMap, List.mem_map] at hm
  obtain rfl | ⟨g, _, rfl⟩ | ⟨g, _, n, _, rfl⟩ := hm
  · exact keepsMem_exec (.roundMerge l.id)
  · exact keepsMem_exec (.groupEnd l.id g.num)
  · exact keepsMem_exec (.domainPhaseFlip l.id (BitVec.ofNat 3 n) (s.domainOf l.vf g.vcore n))

theorem keepsMem_partEvents {vf : BitVec 4} {m : State → Out} (hm : m ∈ s.partEvents vf) : KeepsMem m := by
  unfold State.partEvents at hm
  extract_lets p at hm
  split at hm
  · simp only [List.mem_append, List.mem_map] at hm
    obtain ((hm | ⟨q, _, rfl⟩) | ⟨n, _, rfl⟩) | hm := hm
    · exact keepsMem_of_mem_map (is := [.checkpointRequest vf, .checkpointComplete vf]) hm
    · exact keepsMem_exec (.groupPlacement vf q)
    · exact keepsMem_exec (.resume vf n)
    · split at hm
      · next b _ => exact keepsMem_of_mem_map (is := [.worldSwitch vf b]) hm
      · cases hm
  · cases hm

theorem keepsMem_ownEvents {m : State → Out} (hm : m ∈ s.ownEvents) : KeepsMem m := by
  simp only [State.ownEvents, List.mem_append, List.mem_flatMap, List.mem_singleton] at hm
  obtain (((⟨e, _, hm⟩ | ⟨r, _, hm⟩) | ⟨l, _, hm⟩) | ⟨vf, _, hm⟩) | rfl := hm
  · exact keepsMem_coreEvents hm
  · exact keepsMem_reqEvents hm
  · exact keepsMem_launchEvents hm
  · exact keepsMem_partEvents hm
  · exact keepsMem_exec .sweep

theorem keepsMem_hartMoves {m : State → Out} (hm : m ∈ s.hartMoves) : KeepsMem m := by
  simp only [State.hartMoves, List.mem_flatMap, List.mem_append, List.mem_map, List.mem_singleton] at hm
  obtain ⟨e, _, ⟨i, _, rfl⟩ | rfl⟩ := hm
  · exact keepsMem_hartMove e.1 i
  · exact keepsMem_seqMove e.1

theorem mem_of_mem_rotateBy {α : Type} {n : Nat} {l : List α} {x : α} (hx : x ∈ rotateBy n l) : x ∈ l :=
  (List.mem_append.1 hx).elim List.mem_of_mem_drop List.mem_of_mem_take

theorem State.memOk.firstMove (h : s.memOk) {ms : List (State → Out)} (keep : ∀ m ∈ ms, KeepsMem m) {o : Out} (e : s.firstMove ms = some o) : Canonical o := by
  induction ms with
  | nil => cases e
  | cons m ms ih =>
    obtain ⟨hm, rest⟩ := List.forall_mem_cons.1 keep
    simp only [State.firstMove] at e
    split at e
    · cases e
      exact hm s h
    · exact ih rest e

theorem State.memOk.turn (h : s.memOk) : Canonical s.turn := by
  unfold State.turn
  extract_lets t hs es
  have ht : t.memOk := h
  have own : ∀ m ∈ es, KeepsMem m := fun m hm => keepsMem_ownEvents (mem_of_mem_rotateBy hm)
  have harts : ∀ m ∈ hs, KeepsMem m := fun m hm => keepsMem_hartMoves hm
  have all : ∀ m ∈ (if t.hartTurn then es ++ hs else hs ++ es), KeepsMem m := by
    split
    · exact List.forall_mem_append.2 ⟨own, harts⟩
    · exact List.forall_mem_append.2 ⟨harts, own⟩
  cases moved : t.firstMove (if t.hartTurn then es ++ hs else hs ++ es) with
  | none => exact ht.next
  | some o => exact ht.firstMove all moved

theorem State.memOk.step (h : s.memOk) : Canonical (step s) := by
  refine Canonical.mapNext ?_ (fun t ht => ht.bounded)
  split
  · exact State.memOk.make (h.frame (by rfl)) _
  · exact h.turn

/-- Settles O58: only `State.putSector` and `State.physPut` write the memory, both by a write that keeps the form; no other operation
of the model changes it. -/
theorem memoryStaysCanonical : Obligations.MemoryStaysCanonical := by
  unfold Obligations.MemoryStaysCanonical
  exact fun s t h e => h.step t e

/-- Settles O59: the memory of the reset state holds no cell. -/
theorem memoryCanonicalAtReset : Obligations.MemoryCanonicalAtReset := wf_nil

end Sys2Proof.Machine
end

section
/-! SUPPORT. Where a request goes and what the controller there does with it (15 R330; 13 R313, R316, R448; 23 R437). -/

namespace Sys2Proof.Machine

section
variable {s : State} {id : Nat} {r : Req}

/-! Refusals. -/

/-- A load or an atomic of a hart: it waits for its data, or for its refusal. -/
def Req.awaited (r : Req) : Prop := (∃ n dst, r.kind = .load n dst) ∨ ∃ op n b d, r.kind = .amo op n b d

/-- A posted access that is refused carries its rejection back. -/
theorem refuse_posted (hk : r.kind.posted = true) (cause : BitVec 8) (info : Word) (now : Bool) (site : Nat) :
    s.refuse r cause info now site = s.answer r site (.rejected cause) := by
  unfold State.refuse
  cases kind : r.kind <;> simp_all [ReqKind.posted]

theorem refuse_awaited (hw : r.awaited) {c : Nat} {h : BitVec 2} (src : r.src = .hart c h) (cause : BitVec 8) (now : Bool) (site : Nat) :
    s.refuse r cause 0 now site = if now && (s.core c).sleep == .awake then (s.dropReq r.id).lateFault c h r.id ⟨cause, r.ea, 0⟩
      else s.moveReq { r with stage := .rejected cause, notice := true, info := 0, site := site, cls := .response } := by
  obtain ⟨n, dst, kind⟩ | ⟨op, n, b, d, kind⟩ := hw <;> simp only [State.refuse, kind, src, ReqKind.posted, Bool.false_eq_true, if_false]

/-- A refusal that reaches a hart which is awake faults it in the same step (log 87). -/
theorem refuse_awaited_awake (hw : r.awaited) {c : Nat} {h : BitVec 2} (src : r.src = .hart c h) (awake : (s.core c).sleep = .awake) (cause : BitVec 8)
    (site : Nat) : s.refuse r cause 0 true site = (s.dropReq r.id).lateFault c h r.id ⟨cause, r.ea, 0⟩ := by
  rw [refuse_awaited hw src, awake]
  rfl

theorem refuse_awaited_asleep (hw : r.awaited) {c : Nat} {h : BitVec 2} (src : r.src = .hart c h) (asleep : (s.core c).sleep ≠ .awake) (cause : BitVec 8)
    (site : Nat) : s.refuse r cause 0 true site =
      s.moveReq { r with stage := .rejected cause, notice := true, info := 0, site := site, cls := .response } := by
  rw [refuse_awaited hw src, beq_eq_false_iff_ne.2 asleep]
  rfl

theorem refuse_awaited_far (hw : r.awaited) {c : Nat} {h : BitVec 2} (src : r.src = .hart c h) (cause : BitVec 8) (site : Nat) :
    s.refuse r cause 0 false site = s.moveReq { r with stage := .rejected cause, notice := true, info := 0, site := site, cls := .response } := by
  rw [refuse_awaited hw src]
  rfl

theorem Req.awaited.isMessage (hw : r.awaited) : r.kind.isMessage = false := by
  obtain ⟨n, dst, kind⟩ | ⟨op, n, b, d, kind⟩ := hw <;> rw [kind] <;> rfl

theorem Req.awaited.isPush (hw : r.awaited) : r.kind.isPush = false := by
  obtain ⟨n, dst, kind⟩ | ⟨op, n, b, d, kind⟩ := hw <;> rw [kind] <;> rfl

theorem Req.awaited.posted (hw : r.awaited) : r.kind.posted = false := by
  obtain ⟨n, dst, kind⟩ | ⟨op, n, b, d, kind⟩ := hw <;> rw [kind] <;> rfl

theorem reqAt_of_next (hn : s.reqNext id = some r) : s.reqAt id = some r := by
  obtain ⟨q, found, order⟩ := Option.bind_eq_some_iff.1 hn
  split at order
  · exact order ▸ found
  · cases order

theorem exec_linkRetry (found : s.reqAt id = some r) : exec (.linkRetry id) s = .next (s.logBeline (.corrected id)) := by
  show execLinkRetry id s = _
  simp only [execLinkRetry, found, Option.isSome_some, if_true]

/-! The source router and the port. -/

theorem routeTo_located {vf : BitVec 4} {v c : Nat} (at_ : s.locate vf v = some c) : s.routeTo vf v = some (.toCore c) := by
  simp only [State.routeTo, at_]

theorem routeTo_saved {vf : BitVec 4} {v : Nat} (away : s.locate vf v = none) (saved : (s.part vf).savedAt v ≠ none) :
    s.routeTo vf v = some (.toEvicted vf v) := by
  simp only [State.routeTo, away, Option.isSome_iff_ne_none.2 saved, if_true]

theorem routeTo_mapped {vf : BitVec 4} {v c : Nat} (away : s.locate vf v = none) (gone : (s.part vf).savedAt v = none)
    (mapped : s.physCore vf (vcX v) (vcY v) (vcC v) = some c) : s.routeTo vf v = some (.toCore c) := by
  simp only [State.routeTo, away, gone, mapped, Option.isSome_none, Bool.false_eq_true, if_false, Option.map_some]

theorem exec_sourceRouterRemap (hn : s.reqNext id = some r) (sent : r.stage = .sent) (here : r.ea.msb = true ∧ addrMod r.ea = 2047) :
    exec (.sourceRouterRemap id) s = .next (match (if s.placed r.vf r.ea then s.routeTo r.vf (addrVcore r.ea) else none) with
      | some g => s.stageTo r g
      | none => s.refuse r cBOUNDS 0 true r.ownSite) := by
  show execSourceRouterRemap id s = _
  simp only [execSourceRouterRemap, hn, sent, Req.local, here.1, here.2, beq_self_eq_true, Bool.and_self, and_self, if_true] <;> rfl

theorem remap_unplaced (hn : s.reqNext id = some r) (sent : r.stage = .sent) (here : r.ea.msb = true ∧ addrMod r.ea = 2047)
    (out : s.placed r.vf r.ea = false) : exec (.sourceRouterRemap id) s = .next (s.refuse r cBOUNDS 0 true r.ownSite) := by
  simp only [exec_sourceRouterRemap hn sent here, out, Bool.false_eq_true, if_false]

theorem remap_routes (hn : s.reqNext id = some r) (sent : r.stage = .sent) (here : r.ea.msb = true ∧ addrMod r.ea = 2047)
    (placed : s.placed r.vf r.ea = true) {g : Stage} (route : s.routeTo r.vf (addrVcore r.ea) = some g) :
    exec (.sourceRouterRemap id) s = .next (s.stageTo r g) := by
  simp only [exec_sourceRouterRemap hn sent here, placed, route, if_true]

theorem exec_fabricPortCheck (hn : s.reqNext id = some r) (sent : r.stage = .sent) (other : r.ea.msb = true) (away : addrMod r.ea ≠ 2047) :
    exec (.fabricPortCheck id) s = .next (match portCheck (mapGet (s.part r.vf).peers (addrMod r.ea) 0) r.kind.posted with
      | some cause => s.refuse r cause 0 true r.ownSite
      | none => (s.passed r).stageTo r .onFabric) := by
  show execFabricPortCheck id s = _
  simp only [execFabricPortCheck, hn, sent, other, away, ne_eq, not_false_eq_true, and_self, if_true] <;> rfl

theorem portCheck_closed {e : Word} (shut : e.msb = false) (posted : Bool) : portCheck e posted = some 0x04 := by
  simp only [portCheck, shut, if_true] <;> rfl

theorem portCheck_open {e : Word} (opened : e.msb = true) (posted : Bool) :
    portCheck e posted = if (if posted then bit e.toNat 62 else bit e.toNat 61) then none else some 0x06 := by
  simp only [portCheck, opened, Bool.true_eq_false, if_false] <;> rfl

theorem port_refuses (hn : s.reqNext id = some r) (sent : r.stage = .sent) (other : r.ea.msb = true) (away : addrMod r.ea ≠ 2047) {cause : BitVec 8}
    (check : portCheck (mapGet (s.part r.vf).peers (addrMod r.ea) 0) r.kind.posted = some cause) :
    exec (.fabricPortCheck id) s = .next (s.refuse r cause 0 true r.ownSite) := by
  simp only [exec_fabricPortCheck hn sent other away, check]

/-! The local-memory controller. -/

/-- An event in which a request that is no message reaches its controller. -/
def reachesController (i : Instr) (id : Nat) (r : Req) : Prop :=
  (i = .remoteScratchAccess id ∧ ∃ c, r.stage = .toCore c) ∨ (i = .evictedAccess id ∧ ∃ vf x, r.stage = .toEvicted vf x)

theorem exec_access {i : Instr} (hn : s.reqNext id = some r) (hi : reachesController i id r) (hk : r.kind.isMessage = false) :
    exec i s = .next (s.tryAccess r) := by
  have kind : (!r.kind.isMessage) = true := by rw [hk]; rfl
  obtain ⟨rfl, c, stage⟩ | ⟨rfl, vf, x, stage⟩ := hi
  · exact onReq_of_next (at_ := Stage.isCore) (kinds := fun k => !k.isMessage) hn (by rw [stage]; rfl) kind _
  · exact onReq_of_next (at_ := Stage.isEvicted) (kinds := fun k => !k.isMessage) hn (by rw [stage]; rfl) kind _

theorem tryAccess_unhosted (none : s.spot r.vf (addrVcore r.ea) = none) : s.tryAccess r = s.refuse r 0x06 0 false (2 ^ 20) := by
  simp only [State.tryAccess, none] <;> rfl

theorem tryAccess_held {p : Spot} (at_ : s.spot r.vf (addrVcore r.ea) = some p)
    (held : (s.spotCore r.vf p).affected (addrOff r.ea) r.kind.size = true) : s.tryAccess r = s := by
  simp only [State.tryAccess, at_, held, Bool.true_or, if_true]

/-- Where nothing holds it, the controller performs it and answers. -/
theorem tryAccess_performs {p : Spot} (at_ : s.spot r.vf (addrVcore r.ea) = some p)
    (free : (s.spotCore r.vf p).affected (addrOff r.ea) r.kind.size = false) (noPush : r.kind.isPush = false) :
    s.tryAccess r = (s.putSpot r.vf p ((s.spotCore r.vf p).perform r).1).answered r ((s.spotCore r.vf p).perform r).2 p.site := by
  simp only [State.tryAccess, at_, free, noPush, Bool.false_and, Bool.or_self, Bool.false_eq_true, if_false]
  split
  · next push => simp [push, ReqKind.isPush] at noPush
  · rfl

end

section
variable {k : Core} {r : Req}

theorem perform_outside (h : k.scratchSize < addrOff r.ea + r.kind.size) : k.perform r = (k, .refuse 0x04 0) := if_pos h

theorem perform_load {n : Nat} {dst : LoadDst} (kind : r.kind = .load n dst) (fits : addrOff r.ea + n ≤ k.scratchSize) :
    k.perform r = (k, .data (k.sread (addrOff r.ea) n) (k.spoisoned (addrOff r.ea) n) 0) := by
  simp only [Core.perform, kind, ReqKind.size, Nat.not_lt.2 fits, if_false]

theorem perform_store_code {n : Nat} {v : BitVec 128} {rel : Bool} (kind : r.kind = .store n v rel) (fits : addrOff r.ea + n ≤ k.scratchSize)
    (code : addrOff r.ea < k.codesz.toNat) : k.perform r = (k, .refuse 0x06 0) := by
  simp only [Core.perform, kind, ReqKind.size, Nat.not_lt.2 fits, code, decide_true, if_true, if_false] <;> rfl

/-- A store that publishes no header only writes its bytes. -/
theorem storeScratch_plain {o n v : Nat} {rel : Bool} (plain : rel = true → n = 8 → k.header o = none) : k.storeScratch o n v rel = some (k.swrite o n v) := by
  unfold Core.storeScratch
  split
  · next release => 
    rw [Bool.and_eq_true, beq_iff_eq] at release
    rw [plain release.1 release.2]
  · rfl

theorem perform_store {n : Nat} {v : BitVec 128} {rel : Bool} (kind : r.kind = .store n v rel) (fits : addrOff r.ea + n ≤ k.scratchSize)
    (beyond : k.codesz.toNat ≤ addrOff r.ea) (plain : rel = true → n = 8 → k.header (addrOff r.ea) = none) :
    k.perform r = (k.swrite (addrOff r.ea) n v.toNat, .data 0 false 0) := by
  simp only [Core.perform, kind, ReqKind.size, Nat.not_lt.2 fits, Nat.not_lt.2 beyond, decide_false, Bool.false_eq_true, if_false, storeScratch_plain plain]

theorem perform_amo_code {op : BitVec 4} {n : Nat} {b : Word} {d : BitVec 5} (kind : r.kind = .amo op n b d) (fits : addrOff r.ea + n ≤ k.scratchSize)
    (code : addrOff r.ea < k.codesz.toNat) : k.perform r = (k, .refuse 0x06 0) := by
  simp only [Core.perform, kind, ReqKind.size, Nat.not_lt.2 fits, code, decide_true, if_true, if_false] <;> rfl

theorem perform_amo {op : BitVec 4} {n : Nat} {b : Word} {d : BitVec 5} (kind : r.kind = .amo op n b d) (fits : addrOff r.ea + n ≤ k.scratchSize)
    (beyond : k.codesz.toNat ≤ addrOff r.ea) (clean : k.spoisoned (addrOff r.ea) n = false) :
    let new := amoNew op n (k.sread (addrOff r.ea) n) (b.toNat % 2 ^ (8 * n))
    k.perform r = (k.swrite (addrOff r.ea) n new.val, .data (k.sread (addrOff r.ea) n) false new.fl) := by
  simp only [Core.perform, kind, ReqKind.size, ReqKind.atomic, Nat.not_lt.2 fits, Nat.not_lt.2 beyond, clean, decide_false, Bool.false_eq_true, if_false]

end

section
variable {s : State} {r : Req}

theorem part_modPart (vf w : BitVec 4) (f : Partition → Partition) : (s.modPart vf f).part w = if vf = w then f (s.part vf) else s.part w := by
  simp only [State.part, State.modPart, State.setPart, Vector.get_eq_getElem, Vector.getElem_set, BitVec.toNat_inj]

theorem dwt_putSpot (vf : BitVec 4) (p : Spot) (k : Core) (w : BitVec 4) : ((s.putSpot vf p k).part w).dwt = (s.part w).dwt := by
  cases p with
  | core c => rfl
  | saved i =>
    rw [State.putSpot, part_modPart]
    split
    · next same => rw [same]
    · rfl

/-- The watchpoints that an access meets are those of its partition, whatever the access changes. -/
theorem reqWatch_putSpot (vf : BitVec 4) (p : Spot) (k : Core) : (s.putSpot vf p k).reqWatch r = s.reqWatch r := by
  simp only [State.reqWatch, watchOf, dwt_putSpot]

theorem answered_refuse {p : Spot} {t : State} {cause : BitVec 8} (hw : r.awaited) {c : Nat} {h : BitVec 2} (src : r.src = .hart c h) (far : p.site ≠ r.ownSite) :
    t.answered r (.refuse cause 0) p.site = t.moveReq { r with stage := .rejected cause, notice := true, info := 0, site := p.site, cls := .response } := by
  simp only [State.answered, beq_eq_false_iff_ne.2 far, refuse_awaited_far hw src]

theorem answered_posted (hk : r.kind.acked = true) (t : State) (v : Nat) (poison : Bool) (fl : Flags) (site : Nat) :
    t.answered r (.data v poison fl) site = t.answer r site (.acknowledged (t.reqWatch r)) := by
  simp only [State.answered, hk, if_true]

theorem answered_data (hk : r.kind.acked = false) (t : State) (v : Nat) (poison : Bool) (fl : Flags) (site : Nat) :
    t.answered r (.data v poison fl) site = (t.passed r).answer r site (.reply (BitVec.ofNat 1024 v) poison fl (t.reqWatch r)) := by
  simp only [State.answered, hk, Bool.false_eq_true, if_false]

end

end Sys2Proof.Machine
end

section
/-! SUPPORT. What becomes of a request that a router, a controller or a port refuses, and the routes of O41 together. -/

namespace Sys2Proof.Machine

section
variable {s : State} {id : Nat} {r : Req}

/-- A load or an atomic of a hart that its own router or port refuses faults its hart, at once where its core is awake (log 87). -/
theorem becomes_refused_awaited (hw : r.awaited) {i : Instr} {cause : BitVec 8} {site : Nat} (e : exec i s = .next (s.refuse r cause 0 true site)) (c : Nat)
    (h : BitVec 2) (src : r.src = .hart c h) :
    ((s.core c).sleep = .awake → Becomes i s ((s.dropReq r.id).lateFault c h r.id ⟨cause, r.ea, 0⟩)) ∧
    ((s.core c).sleep ≠ .awake → Becomes i s (s.moveReq { r with stage := .rejected cause, notice := true, info := 0, site := site, cls := .response })) :=
  ⟨fun awake => e.trans (congrArg _ (refuse_awaited_awake hw src awake cause site)),
    fun asleep => e.trans (congrArg _ (refuse_awaited_asleep hw src asleep cause site))⟩

/-- What the controller answers for an access that is no message and no push. -/
theorem exec_controller {i : Instr} (hn : s.reqNext id = some r) (hi : reachesController i id r) (noMessage : r.kind.isMessage = false)
    (noPush : r.kind.isPush = false) {p : Spot} (at_ : s.spot r.vf (addrVcore r.ea) = some p)
    (free : (s.spotCore r.vf p).affected (addrOff r.ea) r.kind.size = false) {k : Core} {a : Answer} (performs : (s.spotCore r.vf p).perform r = (k, a)) :
    exec i s = .next ((s.putSpot r.vf p k).answered r a p.site) := by
  rw [exec_access hn hi noMessage, tryAccess_performs at_ free noPush, performs]

/-- The controller of another core refuses a load or an atomic: the refusal travels to its hart (13 R308). -/
theorem becomes_controller_refuses {i : Instr} (hn : s.reqNext id = some r) (hi : reachesController i id r) (hw : r.awaited) {p : Spot}
    (at_ : s.spot r.vf (addrVcore r.ea) = some p) (free : (s.spotCore r.vf p).affected (addrOff r.ea) r.kind.size = false) {cause : BitVec 8}
    (performs : (s.spotCore r.vf p).perform r = (s.spotCore r.vf p, .refuse cause 0)) (fromHart : ∃ c h, r.src = .hart c h) (far : p.site ≠ r.ownSite) :
    Becomes i s ((s.putSpot r.vf p (s.spotCore r.vf p)).moveReq
      { r with stage := .rejected cause, notice := true, info := 0, site := p.site, cls := .response }) := by
  obtain ⟨c, h, src⟩ := fromHart
  exact (exec_controller hn hi hw.isMessage hw.isPush at_ free performs).trans (congrArg _ (answered_refuse hw src far))

end

/-- Settles O41: the router's way, what the controller answers for each kind of access, the port's check, and who takes a refusal. -/
theorem requestRouting : Obligations.RequestRouting := by
  unfold Obligations.RequestRouting
  intro s id r hn v here o w arrives peer waits late noted
  refine ⟨fun (hw : r.awaited) => ⟨?routerRefuses, fun i hi => ⟨?nowhere, fun p at_ free => ⟨?outside, ?code⟩⟩, ?portRefuses⟩, ?routes, ?routerRejects,
    fun i hi => ⟨?nowherePosted, ?held, fun p at_ free => ⟨?load, ?store, ?amo⟩⟩, ?port, ?linkRetry⟩
  case routerRefuses => exact fun sent here out => becomes_refused_awaited hw (remap_unplaced hn sent here out)
  case nowhere =>
    rintro none ⟨c, h, src⟩ -
    exact (exec_access hn hi hw.isMessage).trans (congrArg _ ((tryAccess_unhosted none).trans (refuse_awaited_far hw src ..)))
  case outside => exact fun out => becomes_controller_refuses hn hi hw at_ free (perform_outside out)
  case code =>
    rintro ⟨op, n, b, d, kind⟩ fits code
    rw [kind] at fits
    exact becomes_controller_refuses hn hi hw at_ free (perform_amo_code kind fits code)
  case portRefuses =>
    intro sent other away
    have unposted : r.kind.posted = false := hw.posted
    refine ⟨fun shut => becomes_refused_awaited hw (port_refuses hn sent other away (portCheck_closed shut _)), fun opened bit => ?_⟩
    refine becomes_refused_awaited hw (port_refuses hn sent other away ?_)
    rw [portCheck_open opened, unposted, bit]
    rfl
  case routes =>
    intro sent here placed
    have goes : ∀ g, s.routeTo r.vf v = some g → Becomes (.sourceRouterRemap id) s (s.stageTo r g) := fun g => remap_routes hn sent here placed
    refine ⟨fun c at_ => goes _ (routeTo_located at_), fun away => ⟨fun saved => goes _ (routeTo_saved away saved), fun gone c mapped => ?_⟩⟩
    exact goes _ (routeTo_mapped away gone mapped)
  case routerRejects => exact fun sent here out posted => (remap_unplaced hn sent here out).trans (congrArg _ (refuse_posted posted ..))
  case nowherePosted => exact fun none posted noMessage =>
    (exec_access hn hi noMessage).trans (congrArg _ ((tryAccess_unhosted none).trans (refuse_posted posted ..)))
  case held => exact fun p at_ noMessage held => (exec_access hn hi noMessage).trans (congrArg _ (tryAccess_held at_ held))
  case load =>
    intro n dst kind fits
    have performs := perform_load kind fits
    refine (exec_controller hn hi (by rw [kind]; rfl) (by rw [kind]; rfl) at_ free performs).trans ?_
    rw [answered_data (by rw [kind]; rfl), reqWatch_putSpot]
  case store =>
    intro n x rel kind
    have posted : r.kind.posted = true := by rw [kind]; rfl
    have performs {k a} := exec_controller (k := k) (a := a) hn hi (by rw [kind]; rfl) (by rw [kind]; rfl) at_ free
    refine ⟨fun out => ?_, fun fits code => ?_, fun fits beyond plain => ?_⟩
    · exact (performs (perform_outside (by rw [kind]; exact out))).trans (congrArg _ (refuse_posted posted ..))
    · exact (performs (perform_store_code kind fits code)).trans (congrArg _ (refuse_posted posted ..))
    · rw [Becomes, performs (perform_store kind fits beyond plain), answered_posted (by rw [kind]; rfl), reqWatch_putSpot]
  case amo =>
    intro op n b d kind fits beyond clean
    refine (exec_controller hn hi (by rw [kind]; rfl) (by rw [kind]; rfl) at_ free (perform_amo kind fits beyond clean)).trans ?_
    rw [answered_data (by rw [kind]; rfl), reqWatch_putSpot]
  case port =>
    intro sent other away
    refine ⟨fun opened lets => ?_, fun shut posted => ?_, fun opened posted bit => ?_⟩
    · rw [Becomes, exec_fabricPortCheck hn sent other away, portCheck_open opened, if_pos lets]
    · exact (port_refuses hn sent other away (portCheck_closed shut _)).trans (congrArg _ (refuse_posted posted ..))
    · refine (port_refuses hn sent other away ?_).trans (congrArg _ (refuse_posted posted ..))
      rw [portCheck_open opened, posted, if_pos rfl, bit]
      rfl
  case linkRetry => exact exec_linkRetry (reqAt_of_next hn)

end Sys2Proof.Machine
end

section
/-! SUPPORT. The bytes that the home of an address holds for it (13 R309, R323): what a read finds after a write. -/

namespace Sys2Proof.Machine

/-! Bytes that a mask merges. -/

theorem testBit_maskBits (mask n i : Nat) : (maskBits mask n).testBit i = (decide (i < 8 * n) && mask.testBit (i / 8)) := by
  induction n generalizing mask i with
  | zero => simp [maskBits]
  | succ n ih =>
    have low : (if mask % 2 = 1 then 255 else 0) < 2 ^ 8 := by split <;> decide
    rw [maskBits, Nat.add_comm, Nat.testBit_two_pow_mul_add _ low]
    by_cases first : i < 8
    · have byte : i / 8 = 0 := Nat.div_eq_of_lt first
      rw [if_pos first, byte, Nat.testBit_zero, decide_eq_true (show i < 8 * (n + 1) by omega), Bool.true_and]
      split
      · next odd => rw [show 255 = 2 ^ 8 - 1 by rfl, Nat.testBit_two_pow_sub_one, decide_eq_true first, decide_eq_true odd]
      · next even => rw [Nat.zero_testBit, decide_eq_false even]
    · obtain ⟨j, rfl⟩ : ∃ j, i = j + 8 := ⟨i - 8, by omega⟩
      rw [if_neg first, Nat.add_sub_cancel, ih, Nat.testBit_div_two, Nat.add_div_right _ (by decide)]
      congr 1
      simp only [decide_eq_decide]
      omega

theorem testBit_mergeBytes (old new mask n i : Nat) :
    (mergeBytes old new mask n).testBit i = if (maskBits mask n).testBit i then new.testBit i else old.testBit i := by
  simp only [mergeBytes, Nat.testBit_xor, Nat.testBit_and]
  cases (maskBits mask n).testBit i <;> simp

theorem testBit_bits (x h l i : Nat) : (bits x h l).testBit i = (decide (i < h + 1 - l) && x.testBit (l + i)) := by
  rw [bits, Nat.testBit_mod_two_pow, Nat.testBit_shiftRight]

/-- n bytes from o on, as a mask of the bytes of a sector. -/
theorem testBit_byteMask (n o i : Nat) : ((2 ^ n - 1) * 2 ^ o).testBit i = decide (o ≤ i ∧ i < o + n) := by
  rw [Nat.testBit_mul_two_pow, Nat.testBit_two_pow_sub_one]
  grind

/-- The bytes of a sector that n bytes v at o are merged into are v there. -/
theorem bits_merged_inside {n o : Nat} (pos : 0 < n) (fits : o + n ≤ 128) (old v : Nat) :
    bits (mergeBytes old (v % 2 ^ (8 * n) * 2 ^ (8 * o)) ((2 ^ n - 1) * 2 ^ o) 128 % 2 ^ 1024) (8 * o + 8 * n - 1) (8 * o) = v % 2 ^ (8 * n) := by
  refine Nat.eq_of_testBit_eq fun i => ?_
  rw [testBit_bits, Nat.testBit_mod_two_pow, testBit_mergeBytes, testBit_maskBits, testBit_byteMask, Nat.testBit_mul_two_pow]
  by_cases inside : i < 8 * n
  · have named : o ≤ (8 * o + i) / 8 ∧ (8 * o + i) / 8 < o + n := by omega
    simp only [named, show i < 8 * o + 8 * n - 1 + 1 - 8 * o by omega, show 8 * o + i < 1024 by omega, decide_true,
      Bool.true_and, if_true, and_self, show 8 * o ≤ 8 * o + i by omega, Nat.add_sub_cancel_left]
  · simp only [Nat.testBit_mod_two_pow, inside, show ¬i < 8 * o + 8 * n - 1 + 1 - 8 * o by omega, decide_false, Bool.false_and]

/-- Its other bytes are the old ones. -/
theorem bits_merged_outside {n o m p : Nat} (pos : 0 < m) (fits : p + m ≤ 128) (apart : p + m ≤ o ∨ o + n ≤ p) (old new : Nat) :
    bits (mergeBytes old new ((2 ^ n - 1) * 2 ^ o) 128 % 2 ^ 1024) (8 * p + 8 * m - 1) (8 * p) = bits old (8 * p + 8 * m - 1) (8 * p) := by
  refine Nat.eq_of_testBit_eq fun i => ?_
  rw [testBit_bits, testBit_bits, Nat.testBit_mod_two_pow, testBit_mergeBytes, testBit_maskBits, testBit_byteMask]
  by_cases inside : i < 8 * m
  · have unnamed : ¬(o ≤ (8 * p + i) / 8 ∧ (8 * p + i) / 8 < o + n) := by omega
    simp only [unnamed, show 8 * p + i < 1024 by omega, decide_true, decide_false, Bool.and_false, Bool.false_eq_true, if_false, Bool.true_and]
  · rw [decide_eq_false (by omega)]
    rfl

/-! The line of an address, by its data alone. -/

section
variable {s : State} {x y : Nat}

theorem find?_updWhere {α : Type} {p q : α → Bool} {f : α → α} (same : ∀ e, q (f e) = q e) (l : List α) :
    (updWhere p f l).find? q = (l.find? q).map (fun e => if p e then f e else e) := by
  induction l with
  | nil => rfl
  | cons e l ih =>
    have kept : q (if p e then f e else e) = q e := by
      split
      · exact same e
      · rfl
    rw [updWhere, List.map_cons, List.find?_cons, List.find?_cons, kept]
    cases q e
    · exact ih
    · rfl

/-- The data of the line that the slice (x, y) holds. -/
def State.lineData (s : State) (x y line : Nat) : Option (BitVec 4096) := (s.lineAt x y line).map SliceLine.data

theorem lineData_modLine {f : SliceLine → SliceLine} {g : BitVec 4096 → BitVec 4096} (data : ∀ l, (f l).data = g l.data)
    (key : ∀ l a b c, (f l).isAt a b c = l.isAt a b c) (line line' : Nat) :
    (s.modLine x y line f).lineData x y line' = if line' = line then (s.lineData x y line').map g else s.lineData x y line' := by
  simp only [State.lineData, State.lineAt, State.modLine, find?_updWhere (q := fun l => l.isAt x y line') (fun l => key l x y line'), Option.map_map]
  split
  · next same =>
    subst same
    refine Option.map_congr fun l found => ?_
    have here := List.find?_some found
    simp only [Function.comp, here, if_true, data]
  · next other =>
    refine Option.map_congr fun l found => ?_
    have there : l.isAt x y line = false := by
      have here := List.find?_some found
      simp only [SliceLine.isAt, Bool.and_eq_true, beq_iff_eq] at here ⊢
      simp [here.2, other]
    simp only [Function.comp, there, Bool.false_eq_true, if_false]

theorem sector_eq (l : SliceLine) (i : Nat) : l.sector i = fieldAt 1024 l.data.toNat i := bits_field (by decide) _ _

theorem lineData_of_slices {t : State} (e : t.slices = s.slices) (line : Nat) : t.lineData x y line = s.lineData x y line := by
  rw [State.lineData, State.lineAt, e]
  rfl

theorem lineAt_eq_none (line : Nat) : s.lineAt x y line = none ↔ s.lineData x y line = none := Option.map_eq_none_iff.symm

theorem checkedAt_hbm (pa q : Nat) : (s.checkedAt x y pa).hbmSector q = s.hbmSector q := by
  rw [State.hbmSector, State.checkedAt_mem]
  rfl

/-- The bytes of the sector of pa, where its home finds them. -/
def State.homeSector (s : State) (x y pa : Nat) : Nat :=
  match s.lineData x y (pa / 512) with
  | some d => fieldAt 1024 d.toNat (pa / 128 % 4)
  | none => s.hbmSector (pa / 128)

theorem homeRead_bytes (pa n : Nat) : (s.homeRead x y pa n).1 = bits (s.homeSector x y pa) (8 * (pa % 128) + 8 * n - 1) (8 * (pa % 128)) := by
  unfold State.homeRead State.homeSector State.lineData
  cases s.lineAt x y (pa / 512) with
  | none => rfl
  | some l =>
    simp only [Option.map_some, ← sector_eq]

theorem lineData_checkedAt (pa line : Nat) : (s.checkedAt x y pa).lineData x y line = s.lineData x y line := by
  have same {t : State} {f : SliceLine → SliceLine} (data : ∀ l, (f l).data = l.data) (key : ∀ l a b c, (f l).isAt a b c = l.isAt a b c) :
      (t.modLine x y (pa / 512) f).lineData x y line = t.lineData x y line := by
    rw [lineData_modLine (g := id) data key, Option.map_id, id, ite_self]
  unfold State.checkedAt
  extract_lets i
  split
  · unfold State.hbmChecked
    split
    · rfl
    · dsimp only
      split <;> rfl
  · split
    · rfl
    · split
      · exact same (fun _ => rfl) (fun _ _ _ _ => rfl)
      · change (State.modLine _ x y (pa / 512) _).lineData x y line = _
        exact (same (fun _ => by rfl) (fun _ _ _ _ => by rfl)).trans (same (fun _ => rfl) (fun _ _ _ _ => rfl))

/-! A write of a whole sector is made without the check of what it replaces. -/

theorem lineData_checkedUnless (whole : Prop) [Decidable whole] (pa line : Nat) :
    (if whole then s else s.checkedAt x y pa).lineData x y line = s.lineData x y line := by
  split
  · rfl
  · exact lineData_checkedAt pa line

theorem checkedUnless_mem (whole : Prop) [Decidable whole] (pa : Nat) : (if whole then s else s.checkedAt x y pa).mem = s.mem := by
  rw [State.mem_ite, State.checkedAt_mem, ite_self]

/-- What a merge makes of the data of a line. -/
def mergedData (i v mask : Nat) (d : BitVec 4096) : BitVec 4096 :=
  BitVec.ofNat 4096 (setBits d.toNat (1024 * i + 1023) (1024 * i) (mergeBytes (fieldAt 1024 d.toNat i) v mask 128))

theorem fieldAt_mergedData {i j : Nat} (hj : j < 4) (v mask : Nat) (d : BitVec 4096) :
    fieldAt 1024 (mergedData i v mask d).toNat j = if j = i then mergeBytes (fieldAt 1024 d.toNat i) v mask 128 % 2 ^ 1024 else fieldAt 1024 d.toNat j := by
  rw [mergedData, fieldAt_ofNat (by omega)]
  exact fieldAt_setBits (by decide) ..

/-- A merge into a line of the slice changes the data of that line alone, and no byte of HBM. -/
theorem homeMerge_line {pa : Nat} {d : BitVec 4096} (held : s.lineData x y (pa / 512) = some d) (mask v : Nat) (poison : Bool) :
    (∀ line, (s.homeMerge x y pa mask v poison).lineData x y line =
      if line = pa / 512 then some (mergedData (pa / 128 % 4) v mask d) else s.lineData x y line) ∧
    (s.homeMerge x y pa mask v poison).mem = s.mem := by
  obtain ⟨l, found, -⟩ := Option.map_eq_some_iff.1 held
  unfold State.homeMerge
  extract_lets i full t
  have data (line : Nat) : t.lineData x y line = s.lineData x y line := lineData_checkedUnless ..
  have mem : t.mem = s.mem := checkedUnless_mem ..
  simp only [found]
  refine ⟨fun line => (lineData_modLine (g := mergedData i v mask) (fun l => ?_) (fun _ _ _ _ => by rfl) _ _).trans ?_, mem⟩
  · simp only [SliceLine.put, mergedData, sector_eq]
  · split
    · next same => rw [data, same, held, Option.map_some]
    · exact data line

/-- Where the slice holds no line for it, a merge changes the sector in HBM. -/
theorem homeMerge_hbm {pa : Nat} (absent : s.lineData x y (pa / 512) = none) (mask v : Nat) (poison : Bool) :
    (∀ line, (s.homeMerge x y pa mask v poison).lineData x y line = s.lineData x y line) ∧
    (s.homeMerge x y pa mask v poison).mem = memPutLE s.mem (128 * (pa / 128)) 128 (mergeBytes (s.hbmSector (pa / 128)) v mask 128) := by
  unfold State.homeMerge
  extract_lets i full t q
  have data (line : Nat) : t.lineData x y line = s.lineData x y line := lineData_checkedUnless ..
  have mem : t.mem = s.mem := checkedUnless_mem ..
  simp only [(lineAt_eq_none _).2 absent]
  refine ⟨data, ?_⟩
  simp only [State.putSector, State.hbmSector, mem, q]

theorem memLE_congr {m m' : List Host.Cell} {a n : Nat} (same : ∀ b, a ≤ b → b < a + n → memByte m b = memByte m' b) : memLE m a n = memLE m' a n := by
  induction n generalizing a with
  | zero => rfl
  | succ n ih => rw [memLE, memLE, same a (by omega) (by omega), ih fun b low high => same b (by omega) (by omega)]

/-- A merge changes the sector it names, and no other. -/
theorem homeSector_homeMerge {pa : Nat} (present : s.lineAt x y (pa / 512) ≠ none ∨ s.memOk) (mask v : Nat) (poison : Bool) (a : Nat) :
    (s.homeMerge x y pa mask v poison).homeSector x y a =
      if a / 128 = pa / 128 then mergeBytes (s.homeSector x y pa) v mask 128 % 2 ^ 1024 else s.homeSector x y a := by
  unfold State.homeSector
  cases held : s.lineData x y (pa / 512) with
  | some d =>
    obtain ⟨data, mem⟩ := homeMerge_line held mask v poison
    rw [data]
    by_cases line : a / 512 = pa / 512
    · rw [if_pos line, line, held]
      dsimp only
      rw [fieldAt_mergedData (by omega)]
      by_cases sector : a / 128 = pa / 128
      · rw [if_pos sector, if_pos (by rw [sector])]
      · rw [if_neg sector, if_neg (by omega)]
    · rw [if_neg line, if_neg (by omega), State.hbmSector, mem]
      rfl
  | none =>
    have ok : s.memOk := present.resolve_left (fun here => here ((lineAt_eq_none _).2 held))
    obtain ⟨data, mem⟩ := homeMerge_hbm held mask v poison
    rw [data]
    by_cases sector : a / 128 = pa / 128
    · rw [if_pos sector, show a / 512 = pa / 512 by omega, held]
      dsimp only
      rw [State.hbmSector, mem, sector, memLE_memPutLE _ _ _ ok]
    · rw [if_neg sector]
      split
      · rfl
      · rw [State.hbmSector, State.hbmSector, mem]
        exact memLE_congr fun b low high => memByte_memPutLE_other _ ok (by omega)

/-- What is written at the home is read back there, whether its slice or HBM holds it. -/
theorem homeRead_homeWrite {pa n : Nat} (present : s.lineAt x y (pa / 512) ≠ none ∨ s.memOk) (pos : 0 < n) (fits : pa % 128 + n ≤ 128) (v : Nat)
    (poison : Bool) : ((s.homeWrite x y pa n v poison).homeRead x y pa n).1 = v % 2 ^ (8 * n) := by
  rw [homeRead_bytes, State.homeWrite, homeSector_homeMerge present, if_pos rfl, bits_merged_inside pos fits]

/-- A write at the home leaves the other bytes alone. -/
theorem homeRead_homeWrite_other {pa n a m : Nat} (present : s.lineAt x y (pa / 512) ≠ none ∨ s.memOk) (fitsA : a % 128 + m ≤ 128) (pos : 0 < m)
    (apart : a + m ≤ pa ∨ pa + n ≤ a) (v : Nat) (poison : Bool) :
    ((s.homeWrite x y pa n v poison).homeRead x y a m).1 = (s.homeRead x y a m).1 := by
  rw [homeRead_bytes, homeRead_bytes, State.homeWrite, homeSector_homeMerge present]
  by_cases sector : a / 128 = pa / 128
  · have same : s.homeSector x y pa = s.homeSector x y a := by
      rw [State.homeSector, State.homeSector, sector, show a / 512 = pa / 512 by omega]
    rw [if_pos sector, bits_merged_outside pos fitsA (by omega), same]
  · rw [if_neg sector]

end

end Sys2Proof.Machine
end

section
/-! SUPPORT. The way of a request through its translating slice and its home: admission, page walk, the access there, the fill that it waits for. -/

namespace Sys2Proof.Machine

section
variable {s : State} {id x y pa : Nat} {r : Req}

/-! What an access at a home leaves of the partitions and of the requests on their way. -/

@[simp] theorem State.modLine_partitions (line : Nat) (f : SliceLine → SliceLine) : (s.modLine x y line f).partitions = s.partitions := rfl

@[simp] theorem State.putSector_partitions (q v : Nat) (poison : Bool) (check : Option (BitVec 32)) : (s.putSector q v poison check).partitions = s.partitions := rfl

@[simp] theorem State.putSector_net (q v : Nat) (poison : Bool) (check : Option (BitVec 32)) : (s.putSector q v poison check).net = s.net := rfl

theorem State.writeOut_net_partitions (l : SliceLine) : (s.writeOut l).net = s.net ∧ (s.writeOut l).partitions = s.partitions := by
  unfold State.writeOut
  generalize ([0, 1, 2, 3] : List Nat) = is
  induction is generalizing s with
  | nil => exact ⟨rfl, rfl⟩
  | cons i is ih =>
    rw [List.foldl_cons]
    split
    · exact ih (s := s.putSector _ _ _ _)
    · exact ih

/-- A fill changes no request on its way and no partition. -/
theorem sliceFill_net_partitions (vf : BitVec 4) : (s.sliceFill x y pa vf).1.net = s.net ∧ (s.sliceFill x y pa vf).1.partitions = s.partitions := by
  simp only [State.sliceFill]
  split
  · split
    · split <;> exact ⟨rfl, rfl⟩
    · exact s.writeOut_net_partitions _
  · split
    · exact ⟨rfl, rfl⟩
    · split
      · exact ⟨rfl, rfl⟩
      · exact State.writeOut_net_partitions (s := s.fresh) _

theorem hbmChecked_partitions (q : Nat) : (s.hbmChecked q).partitions = s.partitions := by
  unfold State.hbmChecked
  split
  · rfl
  · dsimp only
    split <;> rfl

theorem checkedAt_partitions : (s.checkedAt x y pa).partitions = s.partitions := by
  simp only [State.checkedAt]
  split
  · exact hbmChecked_partitions _
  · split
    · rfl
    · split <;> rfl

theorem homeMerge_partitions (mask v : Nat) (poison : Bool) : (s.homeMerge x y pa mask v poison).partitions = s.partitions := by
  unfold State.homeMerge
  extract_lets i full t q
  have checked : t.partitions = s.partitions := by
    simp only [t]
    split
    · rfl
    · exact checkedAt_partitions
  split <;> exact checked

theorem part_of_partitions {t : State} (e : t.partitions = s.partitions) (vf : BitVec 4) : t.part vf = s.part vf := by
  rw [State.part, e]
  rfl

theorem reqWatch_of_partitions {t : State} (e : t.partitions = s.partitions) (q : Req) : t.reqWatch q = s.reqWatch q := by
  simp only [State.reqWatch, part_of_partitions e]

/-! Admission at a translating slice. -/

theorem admitReq_denied {l : Leaf} (may : l.permits r.vf (r.kind.need l.cacheable) = false) : s.admitReq r x y l = s.refuse r 0x06 0 false (siteSlice x y) :=
  if_pos may

theorem admitReq_waits {l : Leaf} (may : l.permits r.vf (r.kind.need l.cacheable) = true) (wait : s.mustWait r x y l = true) :
    s.admitReq r x y l = s.keepLeaf r.id l := by
  simp only [State.admitReq, may, wait, Bool.true_eq_false, if_true, if_false]

theorem admitReq_forwards {l : Leaf} (may : l.permits r.vf (r.kind.need l.cacheable) = true) (ready : s.mustWait r x y l = false)
    (noFill : r.kind.isFill = false) : s.admitReq r x y l = s.forward { r with notice := r.noticed } x y l := by
  simp only [State.admitReq, may, ready, noFill, Bool.true_eq_false, Bool.false_eq_true, false_and, if_false]

/-- Only a translating slice that is the home may have to wait. -/
theorem mustWait_elsewhere {l : Leaf} (away : s.homeSlice r.vf l (l.phys r.ea.toNat) ≠ some (x, y)) : s.mustWait r x y l = false := by
  simp only [State.mustWait, beq_eq_false_iff_ne.2 away, Bool.false_and]

theorem forward_outside {l : Leaf} (outside : s.homeSlice r.vf l (l.phys r.ea.toNat) = none) : s.forward r x y l = s.refuse r 0x04 0 false (siteSlice x y) := by
  simp only [State.forward, outside]
  rfl

theorem forward_here {l : Leaf} (here : s.homeSlice r.vf l (l.phys r.ea.toNat) = some (x, y)) : s.forward r x y l = s.acceptHome r x y (l.phys r.ea.toNat) := by
  simp only [State.forward, here, if_true]

theorem forward_away {l : Leaf} {home : Nat × Nat} (there : s.homeSlice r.vf l (l.phys r.ea.toNat) = some home) (away : home ≠ (x, y)) :
    s.forward r x y l = s.stageTo r (.toHome home.1 home.2 (l.phys r.ea.toNat)) := by
  simp only [State.forward, there, away, if_false]
  rfl

theorem noFill_of_posted (posted : r.kind.posted = true) : r.kind.isFill = false := by
  cases kind : r.kind <;> simp_all [ReqKind.posted, ReqKind.isFill]

theorem Req.awaited.isFill (hw : r.awaited) : r.kind.isFill = false := by
  obtain ⟨n, dst, kind⟩ | ⟨op, n, b, d, kind⟩ := hw <;> rw [kind] <;> rfl

/-- What becomes of a request that a translating slice admits with a leaf, by its right, by its home and by whether it must wait. -/
theorem becomes_admitted {i : Instr} {t : State} {l : Leaf} {a b : Nat} (e : exec i s = .next (t.admitReq r a b l))
    (slice : t.homeSlice r.vf l (l.phys r.ea.toNat) = s.homeSlice r.vf l (l.phys r.ea.toNat)) (wait : t.mustWait r a b l = s.mustWait r a b l) :
    let may := l.permits r.vf (r.kind.need l.cacheable)
    let noticed := { r with notice := r.noticed }
    let waits := r.awaited ∧ ∃ c h, r.src = .hart c h
    let refuses := fun (t : State) (r : Req) (cause : BitVec 8) (site : Nat) =>
      t.moveReq { r with stage := .rejected cause, notice := true, info := 0, site := site, cls := .response }
    (∀ home, s.homeSlice r.vf l (l.phys r.ea.toNat) = some home → may = true → r.kind.isFill = false → home ≠ (a, b) →
      Becomes i s (t.stageTo noticed (.toHome home.1 home.2 (l.phys r.ea.toNat)))) ∧
    (s.homeSlice r.vf l (l.phys r.ea.toNat) = some (a, b) → may = true → r.kind.isFill = false →
      (s.mustWait r a b l = false → Becomes i s (t.acceptHome noticed a b (l.phys r.ea.toNat))) ∧
      (s.mustWait r a b l = true → Becomes i s (t.keepLeaf r.id l))) ∧
    (s.homeSlice r.vf l (l.phys r.ea.toNat) = none → may = true → r.kind.posted = true →
      Becomes i s (t.answer noticed (siteSlice a b) (.rejected 0x04))) ∧
    (may = false → r.kind.posted = true → Becomes i s (t.answer r (siteSlice a b) (.rejected 0x06))) ∧
    (may = false → waits → Becomes i s (refuses t r 0x06 (siteSlice a b))) ∧
    (s.homeSlice r.vf l (l.phys r.ea.toNat) = none → may = true → waits → s.mustWait r a b l = false →
      Becomes i s (refuses t noticed 0x04 (siteSlice a b))) := by
  intro may noticed waits refuses
  rw [← slice, ← wait]
  refine ⟨fun home there right noFill away => ?_, fun here right noFill => ⟨fun ready => ?_, fun must => ?_⟩, fun outside right posted => ?_,
    fun denied posted => ?_, fun denied hw => ?_, fun outside right hw ready => ?_⟩
  · have ready : t.mustWait r a b l = false := mustWait_elsewhere (fun here => away (Option.some.inj (there.symm.trans here)))
    exact e.trans (congrArg _ ((admitReq_forwards right ready noFill).trans (forward_away (r := noticed) there away)))
  · exact e.trans (congrArg _ ((admitReq_forwards right ready noFill).trans (forward_here (r := noticed) here)))
  · exact e.trans (congrArg _ (admitReq_waits right must))
  · have ready : t.mustWait r a b l = false := mustWait_elsewhere (by rw [outside]; nofun)
    refine e.trans (congrArg _ ((admitReq_forwards right ready (noFill_of_posted posted)).trans ?_))
    exact (forward_outside (r := noticed) outside).trans (refuse_posted (r := noticed) posted ..)
  · exact e.trans (congrArg _ ((admitReq_denied denied).trans (refuse_posted posted ..)))
  · obtain ⟨hw, c, h, src⟩ := hw
    exact e.trans (congrArg _ ((admitReq_denied denied).trans (refuse_awaited_far hw src ..)))
  · obtain ⟨hw, c, h, src⟩ := hw
    refine e.trans (congrArg _ ((admitReq_forwards right ready hw.isFill).trans ?_))
    exact (forward_outside (r := noticed) outside).trans (refuse_awaited_far (r := noticed) hw src ..)

/-- The leaf for a request at a translating slice: its own, or the cached one. -/
theorem leaf_or (a b : Nat) : (if r.leaf = none then s.cachedLeaf a b r.vf r.ea.toNat else r.leaf) = r.leaf.or (s.cachedLeaf a b r.vf r.ea.toNat) := by
  cases r.leaf <;> rfl

section
variable (hn : s.reqNext id = some r) (sent : r.stage = .sent) (translated : r.translated = true)
include hn sent translated

theorem admission_outside (none : s.translatingSlice r.vf r.ea.toNat = none) : exec (.globalAdmission id) s = .next (s.refuse r 0x04 0 true r.ownSite) := by
  show execGlobalAdmission id s = _
  simp only [execGlobalAdmission, hn, sent, translated, and_self, if_true, none]
  rfl

theorem admission_misses {a b : Nat} (slice : s.translatingSlice r.vf r.ea.toNat = some (a, b))
    (leaf : r.leaf.or (s.cachedLeaf a b r.vf r.ea.toNat) = none) : exec (.globalAdmission id) s = .next (s.stageTo r (.walking a b)) := by
  show execGlobalAdmission id s = _
  simp only [execGlobalAdmission, hn, sent, translated, and_self, if_true, slice, leaf]

theorem admission_admits {a b : Nat} (slice : s.translatingSlice r.vf r.ea.toNat = some (a, b)) {l : Leaf}
    (leaf : r.leaf.or (s.cachedLeaf a b r.vf r.ea.toNat) = some l) : exec (.globalAdmission id) s = .next (s.admitReq r a b l) := by
  show execGlobalAdmission id s = _
  simp only [execGlobalAdmission, hn, sent, translated, and_self, if_true, slice, leaf]

end

/-! A request that waits for a walk. -/

theorem walking_admits (hn : s.reqNext id = some r) (walking : r.stage = .walking x y) {l : Leaf}
    (leaf : r.leaf.or (s.cachedLeaf x y r.vf r.ea.toNat) = some l) : exec (.globalAdmission id) s = .next (s.admitReq r x y l) := by
  show execGlobalAdmission id s = _
  simp [execGlobalAdmission, hn, walking, leaf]

theorem walking_waits (hn : s.reqNext id = some r) (walking : r.stage = .walking x y)
    (leaf : r.leaf.or (s.cachedLeaf x y r.vf r.ea.toNat) = none) : exec (.globalAdmission id) s = .next s := by
  show execGlobalAdmission id s = _
  simp only [execGlobalAdmission, hn, walking, leaf]
  simp

theorem pageWalk_known (found : s.reqAt id = some r) (walking : r.stage = .walking x y) (leaf : r.leaf.or (s.cachedLeaf x y r.vf r.ea.toNat) ≠ none)
    (bad : BitVec 2) : exec (.pageWalk id bad) s = .next s := by
  have known : (r.leaf.isSome || (s.cachedLeaf x y r.vf r.ea.toNat).isSome) = true := by
    rw [← Option.isSome_or, Option.isSome_iff_ne_none.2 leaf]
  show execPageWalk id bad s = _
  simp only [execPageWalk, found, walking, known, if_true]

section
variable (found : s.reqAt id = some r) (walking : r.stage = .walking x y) (leaf : r.leaf.or (s.cachedLeaf x y r.vf r.ea.toNat) = none)
  (alone : s.merged r = [r])
include found walking leaf alone

theorem pageWalk_leaf {bad : BitVec 2} {l : Leaf} (walk : s.walk r.vf r.ea.toNat bad = .ok l) :
    exec (.pageWalk id bad) s = .next ((s.cacheLeaf ⟨x, y, r.vf, r.ea.toNat / 2 ^ 16, l⟩).admitReq r x y l) := by
  have unknown : (r.leaf.isSome || (s.cachedLeaf x y r.vf r.ea.toNat).isSome) = false := by
    rw [← Option.isSome_or, leaf]
    rfl
  show execPageWalk id bad s = _
  simp only [execPageWalk, found, walking, unknown, walk, alone, Bool.false_eq_true, if_false, List.foldl_cons, List.foldl_nil]

theorem pageWalk_fails {bad : BitVec 2} {f : WalkFail} (walk : s.walk r.vf r.ea.toNat bad = .error f) :
    exec (.pageWalk id bad) s = .next (State.refuse (match f with
      | .unreadable pa => s.logBeline (.tableError pa)
      | .invalid => s) r 0x05 0 false (siteSlice x y)) := by
  have unknown : (r.leaf.isSome || (s.cachedLeaf x y r.vf r.ea.toNat).isSome) = false := by
    rw [← Option.isSome_or, leaf]
    rfl
  show execPageWalk id bad s = _
  simp only [execPageWalk, found, walking, unknown, walk, alone, Bool.false_eq_true, if_false, List.foldl_cons, List.foldl_nil]
  cases f <;> rfl

end

/-- A leaf for which the translation cache of the slice has room. -/
theorem cacheLeaf_room {e : TransEntry} (room : (s.trans.filter (fun t => t.x == e.x && t.y == e.y)).length < 512) :
    s.cacheLeaf e = { s with trans := s.trans ++ [e] } := if_pos room

/-! At the home. -/

/-- The request as its home performs it: whether its sector was present stays as it was first found. -/
def Req.found (r : Req) (present : Bool) : Req := { r with hit := some (r.hit.getD present) }

theorem acceptHome_present (present : s.sliceHit x y pa r.vf = true) (idle : s.fillWaiters x y pa = []) :
    s.acceptHome r x y pa = s.performHome (r.found true) x y pa := by
  simp only [State.acceptHome, present, idle, List.isEmpty_nil, Bool.and_self, if_true]
  rfl

theorem acceptHome_absent (absent : s.sliceHit x y pa r.vf = false ∨ s.fillWaiters x y pa ≠ []) :
    s.acceptHome r x y pa = s.moveReq { r with stage := .atFill x y pa, hit := some false } := by
  refine if_neg fun both => ?_
  rw [Bool.and_eq_true, List.isEmpty_iff] at both
  exact absent.elim (fun none => by simp [both.1] at none) (fun waits => waits both.2)

theorem postedAhead_unposted (unposted : r.kind.posted = false) : s.postedAhead r x y pa = false := by
  rw [State.postedAhead, unposted, Bool.false_and]

/-- A request that has reached its home, and that no posted one is ahead of, is accepted by the event for its kind. -/
theorem arriveHome_accepts (hn : s.reqNext id = some r) (stage : r.stage = .toHome x y pa) {back : Bool} (kind : r.kind.isWriteBack = back)
    (first : r.kind.posted = true → s.postedAhead r x y pa = false) : s.arriveHome id back = .next (s.acceptHome r x y pa) := by
  have free : s.postedAhead r x y pa = false := by
    cases posted : r.kind.posted with
    | true => exact first posted
    | false => exact postedAhead_unposted posted
  simp only [State.arriveHome, hn, stage, kind, free, Bool.not_false, decide_true, Bool.and_self, if_true]

theorem arriveHome_behind (hn : s.reqNext id = some r) (stage : r.stage = .toHome x y pa) (behind : s.postedAhead r x y pa = true) (back : Bool) :
    s.arriveHome id back = .next s := by
  simp only [State.arriveHome, hn, stage, behind, Bool.not_true, Bool.and_false, Bool.false_eq_true, if_false]

theorem performHome_load {n : Nat} {dst : LoadDst} (kind : r.kind = .load n dst) : s.performHome r x y pa =
    (s.checkedAt x y pa).answer r (siteSlice x y) (.reply (BitVec.ofNat 1024 ((s.checkedAt x y pa).homeRead x y pa n).1)
      ((s.checkedAt x y pa).homeRead x y pa n).2 0 (s.reqWatch r)) := by
  simp only [State.performHome, kind, State.served, ReqKind.size]

theorem performHome_store {n : Nat} {v : BitVec 128} {rel : Bool} (kind : r.kind = .store n v rel) (noDoorbell : (s.part r.vf).doorbell ≠ some r.ea.toNat) :
    s.performHome r x y pa = (s.homeWrite x y pa n v.toNat).answer r (siteSlice x y) (.acknowledged (s.reqWatch r)) := by
  have quiet : ¬(n = 8 ∧ ((s.homeWrite x y pa n v.toNat).part r.vf).doorbell = some r.ea.toNat) := by
    have same : (s.homeWrite x y pa n v.toNat).partitions = s.partitions := homeMerge_partitions ..
    rw [part_of_partitions same]
    exact fun both => noDoorbell both.2
  simp only [State.performHome, kind, ReqKind.size, State.doorbell, quiet, if_false]

theorem performHome_amo {op : BitVec 4} {n : Nat} {b : Word} {d : BitVec 5} (kind : r.kind = .amo op n b d)
    (clean : ((s.checkedAt x y pa).homeRead x y pa n).2 = false) :
    let c := s.checkedAt x y pa
    let old := (c.homeRead x y pa n).1
    let new := amoNew op n old (b.toNat % 2 ^ (8 * n))
    s.performHome r x y pa = (c.homeWrite x y pa n new.val).answer r (siteSlice x y) (.reply (BitVec.ofNat 1024 old) false new.fl (s.reqWatch r)) := by
  simp only [State.performHome, kind, State.atomicHome, ReqKind.size, ReqKind.atomic, clean, Bool.false_eq_true, if_false]

theorem performHome_writeBack {data : BitVec 1024} {dirty : BitVec 128} {p : Bool} (kind : r.kind = .writeBack data dirty p) :
    s.performHome r x y pa = (s.homeMerge x y pa dirty.toNat data.toNat p).answer r (siteSlice x y) (.acknowledged none) := by
  simp only [State.performHome, kind]

/-! A sector that its slice has fetched. -/

/-- A request that waits alone for a sector, and is no write, is the one that the fill performs. -/
theorem exec_sectorFillReturn (hr : s.reqAt id = some r) (stage : r.stage = .atFill x y pa) (alone : s.fillWaiters x y pa = [r])
    (reads : r.kind.writesHome = false) :
    exec (.sectorFillReturn id) s = .next ((s.sliceFill x y pa r.vf).1.performFilled x y { r with ownVictim := (s.sliceFill x y pa r.vf).2 }) := by
  show execSectorFillReturn id s = _
  simp only [execSectorFillReturn, hr, stage, State.fillReturn, alone, List.filter_cons, List.filter_nil, reads, Bool.not_false, Bool.false_eq_true,
    if_true, if_false, List.foldl_cons, List.foldl_nil]

theorem performFilled_performs (stage : r.stage = .atFill x y pa) (noFill : r.kind.isFill = false) :
    s.performFilled x y r = s.performHome (r.found false) x y pa := by
  simp only [State.performFilled, stage, noFill, Bool.false_and, Bool.false_eq_true, if_false]
  rfl

theorem performFilled_behind (stage : r.stage = .atFill x y pa) (fill : r.kind.isFill = true) (behind : s.net.any r.after = true) :
    s.performFilled x y r = s.stageTo r (.toHome x y pa) := by
  simp only [State.performFilled, stage, fill, behind, Bool.and_self, if_true]

theorem reads_of_isFill (fill : r.kind.isFill = true) : r.kind.writesHome = false := by
  cases kind : r.kind <;> simp_all [ReqKind.writesHome, ReqKind.isFill]

end

/-- Settles O43: an admission or a walk hands the request to `admitReq`, whose cases `becomes_admitted` gives; at the home `acceptHome` performs it or
leaves it to the fill, and what the slice then holds is read back a byte at a time. -/
theorem homeAccesses : Obligations.HomeAccesses := by
  unfold Obligations.HomeAccesses
  refine ⟨fun s x y pa n v vf poison held pos fits => ?bytes, fun s id x y pa r => ?requests⟩
  case bytes =>
    have present : s.lineAt x y (pa / 512) ≠ none ∨ s.memOk := held.imp (fun hit none => by simp [State.sliceHit, none] at hit) And.right
    exact ⟨homeRead_homeWrite present pos fits v poison, fun a m fitsA posA apart => homeRead_homeWrite_other present fitsA posA apart v poison⟩
  case requests =>
    intro va page noticed waits refuses admitted w hit here leaf
    have leaf_eq (a b : Nat) : leaf a b = r.leaf.or (s.cachedLeaf a b r.vf va) := leaf_or a b
    refine ⟨fun hn sent translated => ⟨?outside, fun a b slice => ⟨?misses, ?admits⟩⟩, fun hn walking => ⟨?walkAdmits, ?walkWaits⟩, ?known,
      fun bad found walking unknown alone => ⟨?walked, ?invalid, fun posted => ⟨?invalidPosted, ?unreadable⟩⟩,
      fun hn stage first => ⟨fun present idle => ⟨?load, ?store, ?amo, ?writeBack⟩, ?fill⟩, ?behind, ?filled, ?refilled⟩
    case outside => exact fun none posted => (admission_outside hn sent translated none).trans (congrArg _ (refuse_posted posted ..))
    case misses => exact fun none => admission_misses hn sent translated slice ((leaf_eq a b).symm.trans none)
    case admits => exact fun l some => becomes_admitted (admission_admits hn sent translated slice ((leaf_eq a b).symm.trans some)) rfl rfl
    case walkAdmits => exact fun l some => becomes_admitted (walking_admits hn walking ((leaf_eq x y).symm.trans some)) rfl rfl
    case walkWaits => exact fun none => walking_waits hn walking ((leaf_eq x y).symm.trans none)
    case known => exact fun bad found walking some => pageWalk_known found walking (leaf_eq x y ▸ some) bad
    case walked =>
      intro l walk room
      have e := pageWalk_leaf found walking ((leaf_eq x y).symm.trans unknown) alone walk
      rw [cacheLeaf_room room] at e
      exact becomes_admitted e rfl rfl
    case invalid =>
      rintro ⟨hw, c, h, src⟩ walk
      exact (pageWalk_fails found walking ((leaf_eq x y).symm.trans unknown) alone walk).trans (congrArg _ (refuse_awaited_far hw src ..))
    case invalidPosted => exact fun walk =>
      (pageWalk_fails found walking ((leaf_eq x y).symm.trans unknown) alone walk).trans (congrArg _ (refuse_posted posted ..))
    case unreadable => exact fun a walk =>
      (pageWalk_fails found walking ((leaf_eq x y).symm.trans unknown) alone walk).trans (congrArg _ (refuse_posted posted ..))
    case load =>
      intro n dst kind
      exact (arriveHome_accepts hn stage (by rw [kind]; rfl) first).trans
        (congrArg _ ((acceptHome_present present idle).trans (performHome_load (r := r.found true) kind)))
    case store =>
      intro n v rel kind noDoorbell
      exact (arriveHome_accepts hn stage (by rw [kind]; rfl) first).trans
        (congrArg _ ((acceptHome_present present idle).trans (performHome_store (r := r.found true) kind noDoorbell)))
    case amo =>
      intro op n b d kind clean
      exact (arriveHome_accepts hn stage (by rw [kind]; rfl) first).trans
        (congrArg _ ((acceptHome_present present idle).trans (performHome_amo (r := r.found true) kind clean)))
    case writeBack =>
      intro data dirty p kind
      exact (arriveHome_accepts hn stage (by rw [kind]; rfl) first).trans
        (congrArg _ ((acceptHome_present present idle).trans (performHome_writeBack (r := r.found true) kind)))
    case fill => exact fun absent noBack => (arriveHome_accepts hn stage noBack first).trans (congrArg _ (acceptHome_absent absent))
    case behind => exact fun hn stage _ behind => arriveHome_behind hn stage behind false
    case filled =>
      intro hr stage alone n dst kind f c v
      have partitions : f.1.partitions = s.partitions := (sliceFill_net_partitions r.vf).2
      refine (exec_sectorFillReturn hr stage alone (by rw [kind]; rfl)).trans (congrArg _ ?_)
      let q : Req := { r with ownVictim := f.2 }
      have qkind : q.kind = .load n dst := kind
      have performed := (performFilled_performs (s := f.1) (r := q) stage (by rw [qkind]; rfl)).trans (performHome_load (r := q.found false) qkind)
      rw [performed, reqWatch_of_partitions partitions]
      rfl
    case refilled =>
      intro hr stage alone fill behind f
      refine (exec_sectorFillReturn hr stage alone (reads_of_isFill fill)).trans (congrArg _ (performFilled_behind stage fill ?_))
      rw [(sliceFill_net_partitions r.vf).1]
      exact behind

end Sys2Proof.Machine
end

section
/-! SUPPORT. Sash requests (19 R387 to R395), the estimate of a hart's launch (20 R405 to R408), and the words that the spec writes out. -/

namespace Sys2Proof.Machine

/-- Settles O56: each word is decoded as it stands. -/
theorem decodedWords : Obligations.DecodedWords := by
  unfold Obligations.DecodedWords
  decide

/-! Sash requests. -/

/-- A Sash instruction whose checks pass sends its request and stays outstanding (19 R387, R388). -/
theorem asks_sash {i : Instr} {s : State} {d : BitVec 5} {l : BitVec 4} {checks : List (Option Trap)} {op : SashOp} {handle : Word} (w : s.writable d)
    (pass : checks.findSome? id = none) (e : exec i s = .next (s.sash d l checks op handle)) :
    Asks i s (s.reqOf .request (.sash op handle d) 0) [d] l.toNat false := by
  refine ⟨_, e, ?_⟩
  rw [State.sash, boundCheck_writable w, guarded_none, guarded_pass pass]
  exact asked_issueLong ..

theorem storageCheck_aligned {s : State} {a : Word} (h : (s.resolve a).toNat % 4096 = 0) : [s.storageCheck a].findSome? id = none := by
  simp [State.storageCheck, h]

theorem traps_sash_storage {i : Instr} {s : State} {d : BitVec 5} {l : BitVec 4} {a : Word} {op : SashOp} {handle : Word} (w : s.writable d)
    (r : s.trapReady) (h : (s.resolve a).toNat % 4096 ≠ 0) (e : exec i s = .next (s.sash d l [s.storageCheck a] op handle)) :
    Traps i s 0x03 (s.resolve a) 0 := by
  refine traps_of_raise (t := ⟨0x03, s.resolve a, 0⟩) r (e.trans ?_)
  rw [State.sash, boundCheck_writable w, guarded_none, State.storageCheck, if_pos h, guarded_some]
  rfl

theorem scratchCheck_pass {s : State} {a : Word} (h : s.addrCheck a 128 1 true = none) : [s.sashScratch a].findSome? id = none := by
  simp [State.sashScratch, h]

/-- Settles O35: the checks of each Sash instruction are its bound destination and at most one address. -/
theorem sashRequests : Obligations.SashRequests := by
  unfold Obligations.SashRequests
  intro s d a b l w asks unit scratch ea off
  exact ⟨fun h => asks_sash w (storageCheck_aligned h) rfl, fun h => asks_sash w (scratchCheck_pass h) rfl,
    fun h => asks_sash w (scratchCheck_pass h) rfl, asks_sash w rfl rfl, asks_sash w rfl rfl, asks_sash w rfl rfl, asks_sash w rfl rfl,
    asks_sash w rfl rfl, fun h => asks_sash w (storageCheck_aligned h) rfl, asks_sash (.inl rfl) rfl rfl,
    fun r h => traps_sash_storage w r h rfl, fun r h => traps_sash_storage w r h rfl⟩

/-! The estimate of the executing hart's launch. -/

theorem wrote_writeRun (s : State) (ws : List (BitVec 5 × Word)) : Wrote s (s.writeRun ws) ws (s.hart.pc + 4) 0 := by
  refine wrote_mapHart ?_
  have pc : (s.hart.writeAll ws).pc = s.hart.pc := (writeAll_rest s.hart ws).2.1
  have h := hartWrote_retireTo s.hart ws (ws.map (fun w => .g w.1)) (s.hart.pc + 4) 0
  rw [← pc] at h
  exact pc ▸ h

section
variable {s : State} {ds : List (BitVec 5)} {g : GroupRef} {x : Launch}

theorem myLaunch_found (group : s.hart.group = some g) (found : s.launches.find? (fun y => y.id == g.launch) = some x) : s.myLaunch = some x := by
  rw [State.myLaunch, group]
  exact found

theorem onEst_absent (w : ∀ r ∈ ds, s.writable r) (launch : s.myLaunch = some x) (none : x.est = none) (k : State → Estimate → State) :
    s.onEst ds k = s.raise (estimateTrap 1) := by
  rw [State.onEst, guarded_dests w, launch, Option.bind_some, none]

theorem onEst_present (w : ∀ r ∈ ds, s.writable r) (launch : s.myLaunch = some x) {e : Estimate} (some : x.est = some e) (k : State → Estimate → State) :
    s.onEst ds k = k s e := by
  rw [State.onEst, guarded_dests w, launch, Option.bind_some, some]

theorem traps_estimate {i : Instr} {n : Nat} (r : s.trapReady) (e : exec i s = .next (s.raise (estimateTrap n))) : Traps i s 0x1B 0 (BitVec.ofNat 64 n) :=
  traps_of_raise r e

/-- The state in which the estimate has become e and the hart has the position pos open. -/
def State.withEst (s : State) (g : GroupRef) (e : Estimate) (pos : Option Nat) : State :=
  (s.modLaunch g.launch (fun l => { l with est := some e })).mapHart (fun h => { h with openPos := pos })

theorem setEst_withEst (group : s.hart.group = some g) (e : Estimate) (pos : Option Nat) :
    (s.setEst e).mapHart (fun h => { h with openPos := pos }) = s.withEst g e pos := by
  rw [State.setEst, group, State.withEst]

theorem withEst_pc (e : Estimate) (pos : Option Nat) : (s.withEst g e pos).hart.pc = s.hart.pc := by
  rw [State.withEst, State.hart_mapHart]
  rfl

theorem wrote_withEst (group : s.hart.group = some g) (e : Estimate) (pos : Option Nat) (ws : List (BitVec 5 × Word)) :
    Wrote (s.withEst g e pos) (((s.setEst e).mapHart (fun h => { h with openPos := pos })).writeRun ws) ws (s.hart.pc + 4) 0 := by
  rw [setEst_withEst group, ← withEst_pc (g := g) e pos]
  exact wrote_writeRun ..

end

theorem stopped_iff {e : Estimate} : e.stopped = true ↔ e.status ≠ .running := bne_iff_ne

theorem cancelled_iff {e : Estimate} {p : Nat} : e.cancelled p = true ↔ e.status ≠ .running ∧ e.rounds ≤ p / 2 ^ e.lw := by
  rw [Estimate.cancelled, Bool.and_eq_true, stopped_iff, decide_eq_true_eq]
  rfl

/-- Settles O36: each instruction runs on the estimate that `onEst` finds, and its branches are the cases of the statement. -/
theorem peepholeResults : Obligations.PeepholeResults := by
  unfold Obligations.PeepholeResults
  intro s d a b l g x e w0 w1 w2 w3 group found T with_ out
  have launch : s.myLaunch = some x := myLaunch_found group found
  have wEnext : ∀ r ∈ [d, d + 1], s.writable r := List.forall_mem_cons.2 ⟨w0, List.forall_mem_singleton.2 w1⟩
  have wEacc : ∀ r ∈ [d], s.writable r := List.forall_mem_singleton.2 w0
  have wEstat : ∀ r ∈ [d, d + 1, d + 2, d + 3], s.writable r := List.forall_mem_cons.2 ⟨w0, List.forall_mem_cons.2 ⟨w1, List.forall_mem_cons.2 ⟨w2, List.forall_mem_singleton.2 w3⟩⟩⟩
  refine ⟨fun absent => ⟨?_, ?_, ?_⟩, fun est => ⟨?opened, fun closed => ⟨?handsNone, ?hands, ?waits⟩, ⟨?other, fun mine => ⟨?gone, ?stays⟩⟩, ?estat⟩⟩
  · exact fun r => traps_estimate r (congrArg Host.Outcome.next (onEst_absent wEnext launch absent _))
  · exact fun r => traps_estimate r (congrArg Host.Outcome.next (onEst_absent wEacc launch absent _))
  · exact fun r => traps_estimate r (congrArg Host.Outcome.next (onEst_absent wEstat launch absent _))
  case opened =>
    intro opened r
    refine traps_estimate (n := 2) r (congrArg Host.Outcome.next ((onEst_present wEnext launch est _).trans (if_pos (Option.isSome_iff_ne_none.2 opened))))
  case handsNone =>
    intro ended
    refine ⟨_, congrArg Host.Outcome.next ((onEst_present wEnext launch est _).trans ?_), wrote_writeRun s _⟩
    rw [closed, if_neg (by simp), if_pos (ended.imp_left stopped_iff.2)]
    rfl
  case hands =>
    intro more near
    refine ⟨_, congrArg Host.Outcome.next ((onEst_present wEnext launch est _).trans ?_), wrote_withEst group _ _ _⟩
    have may : e.mayHand = true := decide_eq_true near
    rw [closed, if_neg (by simp), if_neg (fun h => more (h.imp_left stopped_iff.1)), if_neg (by simp [may])]
  case waits =>
    intro more far
    refine congrArg Host.Outcome.next ((onEst_present wEnext launch est _).trans ?_)
    have mayNot : e.mayHand = false := decide_eq_false (Nat.not_lt.2 far)
    rw [closed, if_neg (by simp), if_neg (fun h => more (h.imp_left stopped_iff.1)), if_pos mayNot]
    rfl
  case other => exact fun other r => traps_estimate (n := 3) r (congrArg Host.Outcome.next ((onEst_present wEacc launch est _).trans (if_pos other)))
  case gone =>
    intro gone
    refine ⟨_, congrArg Host.Outcome.next ((onEst_present wEacc launch est _).trans ?_), wrote_withEst group _ _ _⟩
    simp only [mine, ne_eq, not_true_eq_false, if_false, cancelled_iff.2 gone, if_true]
    rfl
  case stays =>
    intro stays
    have may : e.cancelled (s.rg a).toNat = false := Bool.eq_false_iff.2 (fun h => stays (cancelled_iff.1 h))
    refine ⟨_, congrArg Host.Outcome.next ((onEst_present wEacc launch est _).trans ?_), wrote_withEst group _ _ _⟩
    simp only [mine, ne_eq, not_true_eq_false, if_false, may, Bool.false_eq_true]
    rfl
  case estat => exact ⟨_, congrArg Host.Outcome.next (onEst_present wEstat launch est _), wrote_writeRun s _⟩

end Sys2Proof.Machine
end

section
/-! SUPPORT. LAUNCH (18 R364 to R366, R372). -/

namespace Sys2Proof.Machine

/-! Submitting a record. -/

/-- A field below bit 512 of a record is not changed by keeping 512 bits. -/
theorem bits_ofNat_record {hi lo : Nat} (h : hi < 512) (r : Nat) : bits (BitVec.ofNat 512 r).toNat hi lo = bits r hi lo := by
  refine Nat.eq_of_testBit_eq fun i => ?_
  simp only [bits, BitVec.toNat_ofNat, Nat.testBit_mod_two_pow, Nat.testBit_shiftRight, ← Bool.and_assoc]
  congr 1
  rw [← Bool.decide_and, decide_eq_decide]
  omega

section
variable {s : State} {vf : BitVec 4} {r : Nat} {spec : Word} {src : Submitter} {image : Word} {after : List Nat}

theorem submit_full (full : 64 ≤ ((s.part vf).queue (BitVec.ofNat 3 (bits r 82 80))).length) :
    s.submit vf (BitVec.ofNat 512 r) spec src image after = (s, 0) := by
  unfold State.submit
  rw [bits_ofNat_record (by decide)]
  exact if_pos full

theorem submit_room (room : ((s.part vf).queue (BitVec.ofNat 3 (bits r 82 80))).length < 64) :
    s.submit vf (BitVec.ofNat 512 r) spec src image after =
      (let q : BitVec 3 := BitVec.ofNat 3 (bits r 82 80)
       let id := vf.toNat * 2 ^ 28 + (s.part vf).serial % (2 ^ 28 - 1) + 1
       let new : Launch := { id := id, vf := vf, record := BitVec.ofNat 512 r, spec := spec, submitter := src, image := image,
                             order := s.order, after := after }
       ({ s.modPart vf (fun p =>
            { p with queues := p.queues.set q.toNat (p.queue q ++ [id]) q.isLt, serial := p.serial + 1, sinceCheckpoint := p.sinceCheckpoint ++ [new] }) with
          launches := s.launches.filter (fun x => x.id != id) ++ [new], order := s.order + 1 }, id)) := by
  unfold State.submit
  rw [bits_ofNat_record (by decide)]
  exact if_neg (Nat.not_le.2 room)

end

theorem launchSpecBad_false {v : Word} (h62 : bit v.toNat 62 = false) (hmid : bits v.toNat 57 48 = 0) (hlow : bits v.toNat 5 0 = 0) :
    launchSpecBad v = false := by
  simp [launchSpecBad, h62, hmid, hlow]

/-- LAUNCH of a record that has been read and neither waits nor is poisoned: its checks, and then its submission (R372). -/
theorem exec_launch_read {s u : State} {d a b : BitVec 5} {r : Nat} (quiet : s.hart.outst = []) (w : s.writable d)
    (read : s.recordAt (s.resolve (s.rg a)) = .ok (u, r, false)) (still : s.recordWaits (s.resolve (s.rg a)) = false) :
    exec (.launch d a b) s = .next (u.guarded
      [(s.recordFault s.cvf r false).map (fun f => launchTrap (s.resolve (s.rg a)) f.1 f.2), if launchSpecBad (s.rg b) then some (launchTrap 0 6 0) else none]
      (fun t => t.launchNow d r (s.rg b))) := by
  show Host.Outcome.next (s.quietly _) = _
  rw [quietly_of_outst_nil quiet, guarded_bound w, read]
  simp only [still, Bool.false_eq_true, if_false]

/-- A record read from own scratch leaves the machine as it is. -/
theorem recordAt_own {s : State} {ea : Word} {off : Nat} (own : s.classify ea 64 64 false = .ok (.own off))
    (inside : (ea.msb && (addrMod ea != 2047 || bits ea.toNat 51 33 != s.cc.corxy.toNat % 2 ^ 19 || inWindow ea)) = false) :
    s.recordAt ea = .ok (s, s.cc.sread off 64, s.cc.spoisoned off 64) := by
  rw [State.recordAt, inside, own]
  rfl

/-- Settles O37: the record is read, the checks give the trap, and the submission the answer. -/
theorem launchResults : Obligations.LaunchResults := by
  unfold Obligations.LaunchResults
  intro s u d a b r quiet w ea vf p q id spec new read still
  have run := exec_launch_read (b := b) quiet w read still
  refine ⟨fun reason byte bad ready => ?invalid, fun valid h62 hmid hlow => ?submitted, fun off => recordAt_own⟩
  case invalid =>
    rw [run, bad, Option.map_some, guarded_some, raise_ready ready]
    simp only [enter_trap]
    rfl
  case submitted =>
    rw [valid, Option.map_none, guarded_none, show launchSpecBad (s.rg b) = false from launchSpecBad_false h62 hmid hlow, guarded_pass rfl] at run
    refine ⟨fun full => ⟨_, run, ?_⟩, fun room => ⟨_, run, ?_⟩⟩
    · rw [State.launchNow, submit_full (vf := u.cvf) full]
      exact wrote_writeRetire u d 0 0 4
    · rw [State.launchNow, submit_room (vf := u.cvf) room]
      exact wrote_writeRetire _ d _ 0 4

end Sys2Proof.Machine
end

section
/-! SUPPORT. What a fatal fault of a launch leaves unchanged (18 R374), and TRIG, EXIT, DSYNC and YIELD (18 R370, R374 to R376). -/

namespace Sys2Proof.Machine

/-! A launch that fails. -/

/-- The hart of a launch that stops at its next boundary. -/
def Hart.stopLaunch (h : Hart) (id : Nat) : Hart :=
  match h.group with
  | some g => if g.launch = id ∧ h.exited = false then { h with stopping := true } else h
  | none => h

theorem Core.hart_stopLaunch (k : Core) (id : Nat) (h : BitVec 2) : (k.stopLaunch id).hart h = (k.hart h).stopLaunch id := by
  simp only [Core.stopLaunch, Core.hart, Vector.get_eq_getElem, getElem_vmap]
  rfl

theorem stopLaunch_exited {h : Hart} (x : h.exited = true) (id : Nat) : h.stopLaunch id = h := by
  unfold Hart.stopLaunch
  split
  · exact if_neg (by simp [x])
  · rfl

theorem stopLaunch_absent (id : Nat) : ({} : Core).stopLaunch id = {} := by
  have same : ({} : Core).harts = vmap (fun h => h.stopLaunch id) ({} : Core).harts := by
    ext i hi : 1
    rw [getElem_vmap]
    have fresh : ({} : Core).harts[i] = {} := Vector.getElem_replicate hi
    rw [fresh]
    rfl
  exact congrArg (fun hs => { ({} : Core) with harts := hs }) same.symm

theorem core_mapCores {s t : State} {f : Core → Core} (e : t.cores = s.cores.map (fun x => (x.1, f x.2))) (absent : f {} = {}) (c : Nat) :
    t.core c = f (s.core c) := by
  simp only [State.core, e, mapGet, mapFind_mapValues (fun _ => f)]
  cases mapFind s.cores c with
  | none => exact absent.symm
  | some k => rfl

theorem core_failLaunch (s : State) (id g : Nat) (cause : BitVec 8) (finfo : BitVec 32) (c : Nat) :
    (s.failLaunch id g cause finfo).core c = (s.core c).stopLaunch id :=
  core_mapCores (f := fun k => k.stopLaunch id) rfl (stopLaunch_absent id) c

theorem hart_failLaunch (s : State) (id g : Nat) (cause : BitVec 8) (finfo : BitVec 32) :
    (s.failLaunch id g cause finfo).hart = s.hart.stopLaunch id := by
  have e : (s.failLaunch id g cause finfo).hart = ((s.failLaunch id g cause finfo).core s.cur.core).hart s.cur.hart := rfl
  rw [e, core_failLaunch, Core.hart_stopLaunch]
  rfl

/-- A launch after a fatal fault of its group g: the first failure stays, and a completed launch is now a failed one. -/
def Launch.failed (l : Launch) (g : Nat) (cause : BitVec 8) (finfo : BitVec 32) : Launch :=
  { l with failure := if l.failure.isNone then some (cause, finfo, BitVec.ofNat 32 g) else l.failure,
           status := if l.status = .completed then .failed else l.status,
           placed := l.groupsTotal, state := if l.state = .queued then .running else l.state }

/-- A launch that has a failed predecessor. -/
def Launch.warned (l : Launch) : Launch := { l with predf := true }

theorem launches_failLaunch (s : State) (id g : Nat) (cause : BitVec 8) (finfo : BitVec 32) : (s.failLaunch id g cause finfo).launches =
    updWhere (fun l => l.preds.contains id && l.state == .running) Launch.warned (updWhere (fun l => l.id == id) (fun l => l.failed g cause finfo) s.launches) :=
  rfl

theorem find?_failLaunch {s : State} {id g : Nat} {cause : BitVec 8} {finfo : BitVec 32} {x : Launch}
    (found : s.launches.find? (fun l => l.id == id) = some x) :
    ∃ y, (s.failLaunch id g cause finfo).launches.find? (fun l => l.id == id) = some y ∧
      y.failure = (x.failed g cause finfo).failure ∧ y.status = (x.failed g cause finfo).status := by
  have here : (x.id == id) = true := List.find?_some (p := fun l : Launch => l.id == id) found
  rw [launches_failLaunch, find?_updWhere (fun _ => by rfl), find?_updWhere (fun _ => by rfl), found, Option.map_some, Option.map_some, if_pos here]
  exact ⟨_, rfl, by split <;> rfl, by split <;> rfl⟩

theorem failure_failed {x : Launch} (sound : x.failure = none) (g : Nat) (cause : BitVec 8) (finfo : BitVec 32) :
    (x.failed g cause finfo).failure = some (cause, finfo, BitVec.ofNat 32 g) := by
  simp [Launch.failed, sound]

theorem status_failed {x : Launch} (done : x.status = .completed) (g : Nat) (cause : BitVec 8) (finfo : BitVec 32) :
    (x.failed g cause finfo).status = .failed := by
  simp [Launch.failed, done]

/-! The group of the executing hart. -/

section
variable {s : State} {g : GroupRef}

theorem onGroup_mine (group : s.hart.group = some g) (f : GroupRef → GroupSt → GroupSt) : s.onGroup f = s.modGroup g (f g) := by
  rw [State.onGroup, group]

theorem enginesDone_iff (s : State) : s.enginesDone = true ↔
    s.cc.engineDone s.issuerNo .matrix = true ∧ s.cc.engineDone s.issuerNo .copy = true ∧ s.cc.engineDone s.issuerNo .exponent = true := by
  simp [State.enginesDone]

theorem quiet_iff {h : Hart} : h.quiet = true ↔ h.outst = [] := List.isEmpty_iff

theorem orsZero_iff {h : Hart} : h.orsZero = true ↔ h.orsLocal = 0 ∧ h.orsFab = 0 := by
  simp [Hart.orsZero]

/-- TRIG runs where the hart's accesses and engine commands have ended. -/
theorem exec_trig_waits (h : ¬(s.hart.released = true ∧ s.enginesDone = true)) : exec .trig s = .next s :=
  congrArg Host.Outcome.next (if_neg (by rwa [Bool.and_eq_true]))

theorem exec_trig_runs (released : s.hart.released = true) (done : s.enginesDone = true) (group : s.hart.group = some g) :
    exec .trig s = .next ((s.modGroup g (fun x => { x with triggered := x.triggered ||| (1#4 <<< g.index) })).mapHart (fun h => { h with triggered := true })).retire := by
  refine congrArg Host.Outcome.next ((if_pos (by rw [released, done]; rfl)).trans ?_)
  rw [onGroup_mine group]

/-- EXIT runs where nothing is outstanding, the hart's commands have ended, and no Casement run of its own goes on. -/
theorem exec_exit_waits {a : BitVec 5}
    (h : s.hart.outst ≠ [] ∨ s.enginesDone = false ∨ (s.cc.cas.state = .running ∧ s.cc.cas.starter = s.cur.hart)) : exec (.exit a) s = .next s := by
  refine congrArg Host.Outcome.next (if_neg fun runs => ?_)
  simp only [Bool.and_eq_true, Bool.not_eq_true', Bool.and_eq_false_iff, beq_eq_false_iff_ne, quiet_iff] at runs
  obtain ⟨⟨quiet, done⟩, other⟩ := runs
  rcases h with busy | busy | ⟨state, starter⟩
  · exact busy quiet
  · rw [busy] at done; exact Bool.false_ne_true done
  · exact other.elim (· state) (· starter)

/-- The machine after the exit of the executing hart, before any failure. -/
def State.exited (s : State) : State := s.exitHart.mapCore Core.freeSlots

theorem exec_exit_runs {a : BitVec 5} (quiet : s.hart.outst = []) (done : s.enginesDone = true)
    (other : ¬(s.cc.cas.state = .running ∧ s.cc.cas.starter = s.cur.hart)) (closed : s.hart.openPos = none) :
    exec (.exit a) s = .next (match s.exitFault (s.rg a) with
      | some (cause, info) => s.exited.fatal s.cur.core s.cur.hart cause info
      | none => s.exited) := by
  refine congrArg Host.Outcome.next ((if_pos ?_).trans ?_)
  · rw [quiet_iff.2 quiet, done, Bool.and_self, Bool.true_and, Bool.not_eq_true', Bool.and_eq_false_iff]
    simpa only [beq_eq_false_iff_ne, ← not_and_or] using other
  · have same : s.closeOpen = s := by rw [State.closeOpen, closed]
    rw [same]
    rfl

theorem exitFault_none (sound : ∀ e : Engine, (s.cc.issuer s.issuerNo e).faulted = false) (closed : s.hart.openPos = none) : s.exitFault 0 = none := by
  simp [State.exitFault, sound, closed]

theorem exitFault_code {code : Word} (h : code ≠ 0) : s.exitFault code = some (0, code.setWidth 32) := if_pos h

theorem hart_exited (s : State) : s.exited.hart = { ((s.hart.count 2 1).stepDone) with exited := true, block := none } := by
  have keeps : s.exited.hart = s.exitHart.hart := by
    rw [State.exited, State.hart, State.cc_mapCore]
    rfl
  rw [keeps, State.exitHart, State.hart_mapHart]
  unfold State.onGroup
  split <;> rfl

theorem launches_exited (group : s.hart.group = some g) : s.exited.launches = (s.modGroup g (fun x =>
    { x with exited := x.exited ||| (1#4 <<< g.index),
             after := x.after ++ (s.net.filter (fun r => r.src == .hart s.cur.core s.cur.hart && r.kind.posted)).map (fun r => r.id) })).launches := by
  rw [State.exited, State.exitHart, onGroup_mine group]
  rfl

theorem find?_exited {x : Launch} (group : s.hart.group = some g) (found : s.launches.find? (fun l => l.id == g.launch) = some x) :
    ∃ y, s.exited.launches.find? (fun l => l.id == g.launch) = some y ∧ y.failure = x.failure ∧ y.status = x.status := by
  rw [launches_exited group, State.modGroup, State.modLaunch, find?_updWhere (fun _ => by rfl), found, Option.map_some]
  exact ⟨_, rfl, by split <;> rfl, by split <;> rfl⟩

theorem mem_exited (s : State) : s.exited.mem = s.mem := by
  rw [State.exited, State.exitHart, State.onGroup]
  split <;> rfl

/-- What the exit leaves of the hart. -/
structure Hart.ExitOf (h t : Hart) : Prop where
  exited : t.exited = true
  unblocked : t.block = none
  pc : t.pc = h.pc
  regs : ∀ r, t.rg r = h.rg r

theorem exitOf_exited (s : State) : s.hart.ExitOf s.exited.hart := by
  rw [hart_exited]
  obtain ⟨c, o, e⟩ := count_eq s.hart 2 1
  rw [e]
  exact ⟨rfl, rfl, rfl, fun _ => rfl⟩

theorem fatal_exited (group : s.hart.group = some g) (cause : BitVec 8) (finfo : BitVec 32) :
    s.exited.fatal s.cur.core s.cur.hart cause finfo = s.exited.failLaunch g.launch g.group cause finfo := by
  have same : (s.exited.hartOf s.cur.core s.cur.hart).group = some g := by
    have e : s.exited.hartOf s.cur.core s.cur.hart = s.exited.hart := by
      rw [State.exited, State.exitHart, State.onGroup]
      split <;> rfl
    obtain ⟨c, o, counted⟩ := count_eq s.hart 2 1
    rw [e, hart_exited, counted]
    exact group
  rw [State.fatal, same]

/-! Synchronisation of a domain. -/

section
variable {v : BitVec 3}

/-- DSYNC with nothing outstanding: its two checks, its arrival, and its wait (R375). -/
theorem exec_dsync_quiet (quiet : s.hart.outst = []) (v : BitVec 3) :
    let w := s.hart.dmemb
    let n := v.toNat
    exec (.dsync v) s = .next (s.guarded
      [if bit w.toNat (n - 1) then none else some ⟨0x1C, 0, 8⟩, if bits w.toNat 15 13 ≠ 0 ∧ bits w.toNat 15 13 ≠ n then some ⟨0x1C, 0, 9⟩ else none]
      (fun t =>
        if bits w.toNat 15 13 = 0 then if t.hart.orsZero then (t.mapHart (fun h => { h with dmemb := dmSet w n (t.myPhase n) })).blockOn .dsync else t
        else if t.myPhase n = bit w.toNat 12 then t.blockOn .dsync
        else (t.mapHart (fun h => { h with dmemb := dmSet w 0 (bit w.toNat 12) })).retire)) :=
  congrArg Host.Outcome.next (quietly_of_outst_nil quiet _)

/-- DSYNC of a member that has not arrived. -/
theorem exec_dsync_arrives (quiet : s.hart.outst = []) (member : bit s.hart.dmemb.toNat (v.toNat - 1) = true) (level : bits s.hart.dmemb.toNat 15 13 = 0) :
    exec (.dsync v) s = .next (if s.hart.orsZero then
      (s.mapHart (fun h => { h with dmemb := dmSet s.hart.dmemb v.toNat (s.myPhase v.toNat) })).blockOn .dsync else s) := by
  rw [exec_dsync_quiet quiet, if_pos member, guarded_none, if_neg (fun h => h.1 level), guarded_none, guarded_nil, if_pos level]

/-- DSYNC of a member that has arrived at this level. -/
theorem exec_dsync_arrived (quiet : s.hart.outst = []) (member : bit s.hart.dmemb.toNat (v.toNat - 1) = true)
    (level : bits s.hart.dmemb.toNat 15 13 = v.toNat) (pos : v.toNat ≠ 0) :
    exec (.dsync v) s = .next (if s.myPhase v.toNat = bit s.hart.dmemb.toNat 12 then s.blockOn .dsync
      else (s.mapHart (fun h => { h with dmemb := dmSet s.hart.dmemb 0 (bit s.hart.dmemb.toNat 12) })).retire) := by
  rw [exec_dsync_quiet quiet, if_pos member, guarded_none, if_neg (fun h => h.2 level), guarded_none, guarded_nil, if_neg (level ▸ pos)]

theorem exec_dsync_noMember (quiet : s.hart.outst = []) (outside : bit s.hart.dmemb.toNat (v.toNat - 1) = false) :
    exec (.dsync v) s = .next (s.raise ⟨0x1C, 0, 8⟩) := by
  rw [exec_dsync_quiet quiet, if_neg (Bool.not_eq_true _ ▸ outside), guarded_some]

theorem exec_dsync_otherLevel (quiet : s.hart.outst = []) (member : bit s.hart.dmemb.toNat (v.toNat - 1) = true)
    (arrived : bits s.hart.dmemb.toNat 15 13 ≠ 0) (other : bits s.hart.dmemb.toNat 15 13 ≠ v.toNat) : exec (.dsync v) s = .next (s.raise ⟨0x1C, 0, 9⟩) := by
  rw [exec_dsync_quiet quiet, if_pos member, guarded_none, if_pos ⟨arrived, other⟩, guarded_some]

end

theorem exec_yield_quiet (quiet : s.hart.outst = []) :
    exec .yield s = .next (if s.cc.marked && s.hart.block != some .yield then s.blockOn .yield else s.retire) :=
  congrArg Host.Outcome.next (quietly_of_outst_nil quiet _)

end

/-- Settles O38: what each of the four waits for, and what it does once it runs. -/
theorem groupInstructions : Obligations.GroupInstructions := by
  unfold Obligations.GroupInstructions
  refine ⟨fun s a v busy => ⟨?_, exec_exit_waits (.inl busy), ?_, ?_⟩, ?_⟩
  · exact exec_trig_waits (fun h => busy (released_iff.1 h.1).1)
  · exact congrArg Host.Outcome.next (quietly_of_outst_ne_nil busy _)
  · exact congrArg Host.Outcome.next (quietly_of_outst_ne_nil busy _)
  intro s a v g quiet grouped idle still group w n
  have notDone (h : ¬idle) : ¬s.enginesDone = true := mt (enginesDone_iff s).1 h
  refine ⟨?trig, ?trigAccess, ?engines, ?ownRun, ?exit, ?dsync, ?dsyncTraps, ?yield, ?yieldMarked⟩
  case trig =>
    exact fun free done => ⟨_, exec_trig_runs (released_iff.2 ⟨quiet, free⟩) ((enginesDone_iff s).2 done) grouped, wrote_mapHart_retire _ rfl⟩
  case trigAccess => exact fun busy => exec_trig_waits (fun h => busy (released_iff.1 h.1).2)
  case engines =>
    exact fun busy => ⟨exec_trig_waits (fun h => notDone busy h.2), exec_exit_waits (.inr (.inl (Bool.eq_false_iff.2 (notDone busy))))⟩
  case ownRun => exact fun state starter => exec_exit_waits (.inr (.inr ⟨state, starter⟩))
  case exit =>
    intro done other sound closed
    have runs := exec_exit_runs (a := a) quiet ((enginesDone_iff s).2 done) other closed
    by_cases code : s.rg a = 0
    · rw [code, exitFault_none sound closed] at runs
      obtain ⟨exited, unblocked, pc, regs⟩ := exitOf_exited s
      exact ⟨_, runs, exited, unblocked, pc, regs, mem_exited s, fun _ => launches_exited grouped, fun h => absurd code h⟩
    · rw [exitFault_code code] at runs
      simp only [fatal_exited grouped] at runs
      obtain ⟨exited, unblocked, pc, regs⟩ := exitOf_exited s
      refine ⟨_, runs, ?_⟩
      rw [hart_failLaunch, stopLaunch_exited exited]
      refine ⟨exited, unblocked, pc, regs, (State.failLaunch_mem ..).trans (mem_exited s), fun h => absurd h code, fun _ x found fresh => ?_⟩
      obtain ⟨y, foundExited, failure, status⟩ := find?_exited grouped found
      obtain ⟨z, foundFailed, recorded, ended⟩ := find?_failLaunch (g := g.group) (cause := 0) (finfo := (s.rg a).setWidth 32) foundExited
      exact ⟨z, foundFailed, recorded.trans (failure_failed (failure.trans fresh) ..), fun done => ended.trans (status_failed (status.trans done) ..)⟩
  case dsync =>
    intro pos member
    refine ⟨fun level busy => ?_, fun level free => ?_, fun level nonzero same => ?_, fun level nonzero flipped => ⟨_, ?_, wrote_mapHart_retire s rfl⟩⟩
    · rw [exec_dsync_arrives quiet member level, if_neg (mt orsZero_iff.1 busy)]
    · rw [exec_dsync_arrives quiet member level, if_pos (orsZero_iff.2 free), State.blockOn, State.mapHart_mapHart]
      rfl
    · exact (exec_dsync_arrived quiet member level nonzero).trans (congrArg Host.Outcome.next (if_pos same))
    · exact (exec_dsync_arrived quiet member level nonzero).trans (congrArg Host.Outcome.next (if_neg flipped))
  case dsyncTraps =>
    exact fun ready pos => ⟨fun outside => traps_of_raise ready (exec_dsync_noMember quiet outside),
      fun member arrived other => traps_of_raise ready (exec_dsync_otherLevel quiet member arrived other)⟩
  case yield =>
    intro unmarked
    refine ⟨_, (exec_yield_quiet quiet).trans ?_, wrote_retire s 4⟩
    rw [unmarked]
    rfl
  case yieldMarked =>
    intro marked fresh
    refine (exec_yield_quiet quiet).trans ?_
    rw [marked, Bool.true_and, if_pos (bne_iff_ne.2 fresh)]
    rfl

end Sys2Proof.Machine
end

section
/-! SUPPORT. A rollback whose messages let a request for a checkpoint in (21 R415, R417). -/

namespace Sys2Proof.Machine

/-- A store of CKSEQ + 1 to the doorbell page at 0x10000, which waits for the fill of its sector. -/
def waitingDoorbell : Req :=
  { id := 3, src := .hart 5 1, cls := .request, kind := .store 8 1 false, ea := 0x10000, vf := 0, launch := 7, off := 60, prog := true,
    stage := .atFill 0 0 0x40010000 }

/-- A queued launch, whose submitter wants its completion record at 0x10040, in the sector of the doorbell page. -/
def queuedBesideDoorbell : Launch :=
  { id := 8, vf := 0, record := 0, spec := 0x10040, submitter := .hart 0 5 1 ⟨7, 0, 1⟩, image := 0, order := 1 }

/-- Partition 0 has never had a checkpoint and is rolled back for partition 1; no core of it is left. Its table maps a page of 1 GiB to 0x40000000. -/
def rolledBackBesideDoorbell : State :=
  { State.reset.modPart 0 (fun p =>
      { p with valid := true, resident := true, remap := 0x8000000018018000, ptroot := 0x200000, doorbell := some 0x10000, switchTo := some 1,
               rolledBack := true }) with
    mem := memPutLE [] 0x200000 8 0x40000033, net := [waitingDoorbell], launches := [queuedBesideDoorbell], nextId := 4 }

/-- The record of the cancelled launch is written behind the store that waits for its sector, and the store is a request. -/
theorem rolledBackBesideDoorbell_requested : ((rolledBackBesideDoorbell.rollback 0).part 0).requested = some 1 := by decide +kernel

theorem exec_switchDeadline_rollback : exec (.switchDeadline 0) rolledBackBesideDoorbell = .next (rolledBackBesideDoorbell.rollback 0) :=
  congrArg Host.Outcome.next (by decide +kernel)

/-- Refutes O50: its clause on the end of a rollback (21 R415) says that no request for a checkpoint is left. Where CKSEQ is 0 the rollback cancels the
partition's launches, which writes their completion records; such a write fills its sector, and the stores that wait for the fill are performed
with it (17 R362), a store to the doorbell page among them (R417). The statement has no premise that none waits. -/
theorem not_switchesAndCheckpoints : ¬ Obligations.SwitchesAndCheckpoints := by
  unfold Obligations.SwitchesAndCheckpoints
  intro h
  obtain ⟨-, -, deadline, -, -⟩ := h rolledBackBesideDoorbell 0 1 ⟨0, [], [], Vector.replicate 8 [], 0, [], []⟩ 0
  obtain ⟨-, -, -, rolls⟩ := deadline (by decide +kernel)
  obtain ⟨t, ms, ran, -, -, -, dropped, -⟩ := rolls (by decide +kernel) (by decide +kernel)
  rw [exec_switchDeadline_rollback] at ran
  injection ran with ran
  rw [← ran, rolledBackBesideDoorbell_requested] at dropped
  exact absurd dropped (Option.some_ne_none 1)

end Sys2Proof.Machine
end

section
/-! SUPPORT. Beline's management: which partitions lie together (21 R411, R412), what changes only while a partition is evicted (15 R336), and which
firmware is taken (21 R428, R429). -/

namespace Sys2Proof.Machine

/-! Every partition. -/

theorem mem_partitions_iff (s : State) (p : Partition) : p ∈ s.partitions.toList ↔ ∃ j : BitVec 4, s.part j = p := by
  rw [Vector.mem_toList_iff, Vector.mem_iff_getElem]
  constructor
  · rintro ⟨i, inside, rfl⟩
    refine ⟨BitVec.ofNat 4 i, ?_⟩
    simp [State.part, Vector.get_eq_getElem, Nat.mod_eq_of_lt inside]
  · rintro ⟨j, rfl⟩
    exact ⟨j.toNat, j.isLt, rfl⟩

theorem all_partitions_iff (s : State) (f : Partition → Bool) : s.partitions.toList.all f = true ↔ ∀ j : BitVec 4, f (s.part j) = true := by
  simp only [List.all_eq_true, mem_partitions_iff, forall_exists_index, forall_apply_eq_imp_iff]

theorem any_partitions_iff (s : State) (f : Partition → Bool) : s.partitions.toList.any f = true ↔ ∃ j : BitVec 4, f (s.part j) = true := by
  simp only [List.any_eq_true, mem_partitions_iff, exists_exists_eq_and]

theorem liveCores_nil_iff (s : State) (vf : BitVec 4) : s.liveCores vf = [] ↔ s.cores.filter (fun e => e.2.vf == some vf) = [] :=
  List.map_eq_nil_iff

theorem onWay_iff (s : State) (vf : BitVec 4) : s.net.any (fun r => r.vf == vf) = true ↔ ∃ r ∈ s.net, r.vf = vf := by
  simp

theorem inGrid_iff (x0 y0 wm1 hm1 : Nat) : inGrid x0 y0 wm1 hm1 = true ↔ x0 + wm1 ≤ 255 ∧ y0 + hm1 ≤ 99 := by
  simp [inGrid]

theorem deadlineOk_iff (us : BitVec 24) : deadlineOk us = true ↔ 100 ≤ us.toNat ∧ us.toNat ≤ 1000000 := by
  simp [deadlineOk]

theorem spslotOk_iff (n : Nat) : spslotOk n = true ↔ n ≤ 16 ∨ n = 31 := by
  simp [spslotOk]

/-! Creating a partition. -/

/-- The rectangle of a partition lies in the grid, and no other overlaps it without coinciding (21 R412). -/
theorem rectOk_iff (s : State) (p : Partition) : s.rectOk p = true ↔
    (p.px0.toNat + p.wm1.toNat ≤ 255 ∧ p.py0.toNat + p.hm1.toNat ≤ 99) ∧
      ∀ j : BitVec 4, (s.part j).valid = true → p.sameRect (s.part j) = true ∨ p.apart (s.part j) = true := by
  simp only [State.rectOk, Bool.and_eq_true, inGrid_iff, all_partitions_iff, Bool.or_eq_true, Bool.not_eq_true', or_assoc, ← Bool.not_eq_true,
    imp_iff_not_or]

/-- A rectangle that another overlaps without coinciding is refused. -/
theorem rectOk_overlapped {s : State} {p : Partition} {j : BitVec 4} (valid : (s.part j).valid = true) (other : p.sameRect (s.part j) = false)
    (overlapping : p.apart (s.part j) = false) : s.rectOk p = false := by
  rw [← Bool.not_eq_true, rectOk_iff]
  rintro ⟨-, lies⟩
  have := lies j valid
  simp [other, overlapping] at this

theorem exec_partitionCreate_refused {s : State} {ps : PartitionSpec}
    (bad : s.booted = false ∨ (s.part ps.vf).valid = true ∨ s.rectOk (partitionOf ps) = false ∨ deadlineOk ps.deadline = false) :
    exec (.partitionCreate ps) s = .next s := by
  refine congrArg Host.Outcome.next (if_pos ?_)
  rcases bad with h | h | h | h
  · exact .inl h
  · exact .inr (.inl h)
  · exact .inr (.inr (.inl h))
  · exact .inr (.inr (.inr (.inl h)))

section
variable {s : State} {ps : PartitionSpec} (booted : s.booted = true) (fresh : (s.part ps.vf).valid = false) (rect : s.rectOk (partitionOf ps) = true)
  (deadline : deadlineOk ps.deadline = true) (mask : ps.mask0.msb = true) (masked : groupMaskOk ps.mask0 = true) (bell : doorbellOk ps = true)
include booted fresh rect deadline mask masked bell

/-- A partition that is created is resident where no resident one has its rectangle. -/
theorem exec_partitionCreate_made : exec (.partitionCreate ps) s = .next
    (let free := !(s.partitions.toList.any (fun r => r.valid && r.resident && r.sameRect (partitionOf ps)))
     ((s.mapDoorbell ps).setPart ps.vf { partitionOf ps with resident := free, remap := if free then (partitionOf ps).entry else 0 }).tellHost
       (.doorbellAt ps.vf ps.doorbell)) := by
  refine congrArg Host.Outcome.next (if_neg ?_)
  simp [booted, fresh, rect, deadline, mask, masked, bell]

theorem exec_partitionCreate_resident (alone : ∀ j : BitVec 4, (s.part j).valid = true → (s.part j).resident = true → (s.part j).sameRect (partitionOf ps) = false) :
    exec (.partitionCreate ps) s = .next (((s.mapDoorbell ps).setPart ps.vf { partitionOf ps with resident := true, remap := (partitionOf ps).entry }).tellHost
      (.doorbellAt ps.vf ps.doorbell)) := by
  have free : s.partitions.toList.any (fun r => r.valid && r.resident && r.sameRect (partitionOf ps)) = false := by
    rw [← Bool.not_eq_true, any_partitions_iff]
    rintro ⟨j, taken⟩
    simp only [Bool.and_eq_true] at taken
    exact Bool.false_ne_true ((alone j taken.1.1 taken.1.2).symm.trans taken.2)
  rw [exec_partitionCreate_made booted fresh rect deadline mask masked bell, free]
  rfl

theorem exec_partitionCreate_waiting {j : BitVec 4} (valid : (s.part j).valid = true) (resident : (s.part j).resident = true)
    (same : (s.part j).sameRect (partitionOf ps) = true) :
    exec (.partitionCreate ps) s = .next (((s.mapDoorbell ps).setPart ps.vf (partitionOf ps)).tellHost (.doorbellAt ps.vf ps.doorbell)) := by
  have taken : s.partitions.toList.any (fun r => r.valid && r.resident && r.sameRect (partitionOf ps)) = true :=
    (any_partitions_iff ..).2 ⟨j, by simp [valid, resident, same]⟩
  rw [exec_partitionCreate_made booted fresh rect deadline mask masked bell, taken]
  rfl

end

/-! Destroying a partition. -/

theorem exec_partitionDestroy_refused {s : State} {vf : BitVec 4} (bad : s.liveCores vf ≠ [] ∨ ∃ r ∈ s.net, r.vf = vf) :
    exec (.partitionDestroy vf) s = .next s :=
  congrArg Host.Outcome.next (if_pos (.inr (bad.imp_right (onWay_iff s vf).2)))

theorem exec_partitionDestroy_gone {s : State} {vf : BitVec 4} (valid : (s.part vf).valid = true) (left : s.liveCores vf = []) (none : ∀ r ∈ s.net, r.vf ≠ vf) :
    exec (.partitionDestroy vf) s = .next
      { s.setPart vf {} with launches := s.launches.filter (fun l => l.vf != vf), trans := s.trans.filter (fun e => e.vf != vf) } := by
  refine congrArg Host.Outcome.next (if_neg ?_)
  rintro (h | h | h)
  · exact Bool.false_ne_true (h.symm.trans valid)
  · exact h left
  · obtain ⟨r, member, mine⟩ := (onWay_iff s vf).1 h
    exact none r member mine

/-! Configuration. -/

theorem whileEvicted_live {s : State} {vf : BitVec 4} (live : s.liveCores vf ≠ []) (f : State → State) : s.whileEvicted vf f = s :=
  if_neg (fun h => live h.2)

theorem whileEvicted_left {s : State} {vf : BitVec 4} (valid : (s.part vf).valid = true) (left : s.liveCores vf = []) (f : State → State) :
    s.whileEvicted vf f = f { s with trans := s.trans.filter (fun e => e.vf != vf) } := if_pos ⟨valid, left⟩

theorem ofPart_valid {s : State} {vf : BitVec 4} (valid : (s.part vf).valid = true) (f : Partition → Partition) : s.ofPart vf f = s.modPart vf f :=
  if_pos valid

/-- A table of a partition with a context on a core stays as it is (15 R336). -/
theorem exec_configWrite_live {s : State} {vf : BitVec 4} (live : s.liveCores vf ≠ []) (k : BitVec 3) (v : Word) (pa : Nat) :
    exec (.belineConfigWrite (.remap vf v)) s = .next s ∧ exec (.belineConfigWrite (.ptroot vf v)) s = .next s ∧
      exec (.belineConfigWrite (.groupMask vf k v)) s = .next s ∧ exec (.belineConfigWrite (.pageEntry vf pa v)) s = .next s := by
  refine ⟨congrArg Host.Outcome.next (whileEvicted_live live _), congrArg Host.Outcome.next (whileEvicted_live live _),
    congrArg Host.Outcome.next ?_, congrArg Host.Outcome.next ?_⟩
  · exact (congrArg (fun t => ite _ t s) (whileEvicted_live live _)).trans (ite_self s)
  · exact (congrArg (fun t => ite _ t s) (whileEvicted_live live _)).trans (ite_self s)

/-! Firmware. -/

theorem imageGood_iff (i : FirmwareImage) : imageGood i = true ↔ sha512 (bytesOfLE 32 i.publicKey.toNat) = Config.bootKeyHash ∧
    ed25519Valid i.publicKey (bytesOfLE 64 (sha512 (bytesOfLE 4 i.version.toNat ++ i.code)).toNat) i.signature = true ∧
      Config.antiRollback ≤ i.version.toNat := by
  rw [imageGood, Bool.and_eq_true, Bool.and_eq_true, decide_eq_true_eq, decide_eq_true_eq, and_assoc]
  rfl

section
variable {s : State} {i : FirmwareImage}

theorem exec_boot_again (booted : s.booted = true) : exec (.boot i) s = .next s := congrArg Host.Outcome.next (if_pos booted)

theorem exec_boot_first (unbooted : s.booted = false) :
    exec (.boot i) s = .next (if imageGood i then s.takeFirmware i else s.logBeline .rejectedBoot) := by
  refine congrArg Host.Outcome.next (if_neg ?_)
  rw [unbooted]
  exact Bool.false_ne_true

theorem exec_firmwareUpdate_early (unbooted : s.booted = false) : exec (.firmwareUpdate i) s = .next s :=
  congrArg Host.Outcome.next (if_pos unbooted)

theorem exec_firmwareUpdate_booted (booted : s.booted = true) :
    exec (.firmwareUpdate i) s = .next (if imageGood i then s.takeFirmware i else s.logBeline .rejectedUpdate) := by
  refine congrArg Host.Outcome.next (if_neg ?_)
  rw [booted]
  exact Bool.noConfusion

end

/-- Settles O51: each step's guard is the statement's premise, and its effect the statement's state. -/
theorem management : Obligations.Management := by
  unfold Obligations.Management
  intro s ps vf k n v us i e x y pa m regions nonce c new entry bounds fits others create w live evicted digest good loaded
  have leftIff : s.liveCores vf = [] ↔ live = [] := liveCores_nil_iff s vf
  refine ⟨?refused, ?created, ?destroyed, ?kept, ?tablesLive, fun valid => ⟨fun left => ⟨?remap, ?ptroot, ?mask, ?page⟩, ?deadline, ?vector, ?list, ?peer,
    ?endpoint, ?budget⟩, ?fabric, ?sleep, fun hx hy => ⟨?cluster, ?clusterBad, ?readCluster⟩, ?restoreWay, ?unbooted, ?booted⟩
  case refused =>
    rintro (unbooted | taken | outside | outside | ⟨j, valid, other, overlapping⟩)
    · exact exec_partitionCreate_refused (.inl unbooted)
    · exact exec_partitionCreate_refused (.inr (.inl taken))
    · exact exec_partitionCreate_refused (.inr (.inr (.inr (Bool.eq_false_iff.2 (mt (deadlineOk_iff _).1 outside)))))
    · exact exec_partitionCreate_refused (.inr (.inr (.inl (Bool.eq_false_iff.2 (fun h => outside ((rectOk_iff ..).1 h).1)))))
    · exact exec_partitionCreate_refused (.inr (.inr (.inl (rectOk_overlapped valid other overlapping))))
  case created =>
    intro booted fresh inTime inside apart mask masked bell
    have rect : s.rectOk (partitionOf ps) = true := (rectOk_iff ..).2 ⟨inside, apart⟩
    have deadline : deadlineOk ps.deadline = true := (deadlineOk_iff _).2 inTime
    refine ⟨fun alone => exec_partitionCreate_resident booted fresh rect deadline mask masked bell alone, ?_⟩
    rintro ⟨j, valid, resident, same⟩
    exact exec_partitionCreate_waiting booted fresh rect deadline mask masked bell valid resident same
  case destroyed => exact fun valid left none => exec_partitionDestroy_gone valid (leftIff.2 left) none
  case kept => exact fun bad => exec_partitionDestroy_refused (bad.imp_left (mt leftIff.1))
  case tablesLive => exact fun busy => exec_configWrite_live (mt leftIff.1 busy) k v pa
  case remap => exact congrArg Host.Outcome.next (whileEvicted_left valid (leftIff.2 left) _)
  case ptroot => exact congrArg Host.Outcome.next (whileEvicted_left valid (leftIff.2 left) _)
  case mask =>
    intro masked first
    refine congrArg Host.Outcome.next ((if_pos ?_).trans (whileEvicted_left valid (leftIff.2 left) _))
    simpa [masked] using first
  case page => exact fun aligned inside => congrArg Host.Outcome.next ((if_pos ⟨aligned, inside⟩).trans (whileEvicted_left valid (leftIff.2 left) _))
  case deadline =>
    exact fun low high => congrArg Host.Outcome.next ((if_pos ((deadlineOk_iff us).2 ⟨low, high⟩)).trans (ofPart_valid valid _))
  case vector => exact congrArg Host.Outcome.next (ofPart_valid valid _)
  case list => exact congrArg Host.Outcome.next (ofPart_valid valid _)
  case peer =>
    intro named
    refine congrArg Host.Outcome.next ((ofPart_valid valid _).trans ?_)
    simp only [named, if_false]
  case endpoint => exact congrArg Host.Outcome.next (ofPart_valid valid _)
  case budget => exact congrArg Host.Outcome.next (ofPart_valid valid _)
  case fabric => exact rfl
  case sleep => exact fun named => congrArg Host.Outcome.next (if_neg named)
  case cluster => exact fun named => congrArg Host.Outcome.next (if_pos ⟨hx, hy, (spslotOk_iff _).2 named⟩)
  case clusterBad => exact fun unnamed => congrArg Host.Outcome.next (if_neg (fun h => unnamed ((spslotOk_iff _).1 h.2.2)))
  case readCluster => exact congrArg Host.Outcome.next (if_pos ⟨hx, hy⟩)
  case restoreWay => exact rfl
  case unbooted =>
    intro unbooted
    refine ⟨fun h => ?_, fun h => ?_, exec_firmwareUpdate_early unbooted, congrArg Host.Outcome.next (if_neg (by rw [unbooted]; exact Bool.false_ne_true))⟩
    · exact (exec_boot_first unbooted).trans (congrArg Host.Outcome.next (if_pos ((imageGood_iff i).2 h)))
    · exact (exec_boot_first unbooted).trans (congrArg Host.Outcome.next (if_neg (mt (imageGood_iff i).1 h)))
  case booted =>
    intro booted
    refine ⟨fun h => ?_, fun h => ?_, exec_boot_again booted, congrArg Host.Outcome.next (if_pos booted)⟩
    · exact (exec_firmwareUpdate_booted booted).trans (congrArg Host.Outcome.next (if_pos ((imageGood_iff i).2 h)))
    · exact (exec_firmwareUpdate_booted booted).trans (congrArg Host.Outcome.next (if_neg (mt (imageGood_iff i).1 h)))

end Sys2Proof.Machine
end

section
/-! SUPPORT. A core that becomes free (18 R374, R379; 13 R306; 15 R326), and what the end of a group changes. -/

namespace Sys2Proof.Machine

/-! No replacement waits for the core. -/

theorem moveColumns_none {s : State} {die : Nat} (none : (s.die die).colNext = none) : s.moveColumns die = s := by
  refine if_neg ?_
  rw [none]
  exact Bool.noConfusion

theorem replace_none {s : State} {c : Nat} (h : s.noReplacement c) : s.replace c = s := by
  obtain ⟨staying, columns⟩ := h
  have kept : s.retireCore c = s := by
    refine if_neg (fun leaves => ?_)
    rw [staying] at leaves
    exact Bool.false_ne_true leaves.2.1
  rw [State.replace, kept]
  generalize dies : s.dies.map (·.1) = ds
  have each : ∀ d ∈ ds, (s.die d).colNext = none := by
    intro d member
    rw [← dies, List.mem_map] at member
    obtain ⟨e, member, rfl⟩ := member
    exact columns e member
  clear dies
  induction ds with
  | nil => rfl
  | cons d ds ih =>
    rw [List.foldl_cons, moveColumns_none (each d List.mem_cons_self)]
    exact ih (fun d' member => each d' (List.mem_cons_of_mem _ member))

/-! Write-backs that a core sends count for its launch, and change no launch otherwise. -/

/-- A launch but for its count of what has been sent. -/
def Launch.unsent (l : Launch) : Launch := { l with sentCount := 0 }

theorem updWhere_map_unsent {p : Launch → Bool} {f : Launch → Launch} (same : ∀ l, (f l).unsent = l.unsent) (ls : List Launch) :
    (updWhere p f ls).map Launch.unsent = ls.map Launch.unsent := by
  rw [updWhere, List.map_map]
  refine List.map_congr_left fun l _ => ?_
  rw [Function.comp_apply]
  split
  · exact same l
  · rfl

theorem sendBacks_unsent (s : State) (c : Nat) (xs : List Sector) : (s.sendBacks c xs).launches.map Launch.unsent = s.launches.map Launch.unsent := by
  unfold State.sendBacks
  induction xs generalizing s with
  | nil => rfl
  | cons x xs ih =>
    rw [List.foldl_cons]
    split
    · exact ih s
    · exact (ih _).trans (updWhere_map_unsent (fun _ => by rfl) _)

/-- Lists of launches that agree but for the counts find launches that agree but for the counts. -/
theorem find?_of_unsent {ls ms : List Launch} (same : ms.map Launch.unsent = ls.map Launch.unsent) {id : Nat} {l : Launch}
    (found : ls.find? (fun x => x.id == id) = some l) : ∃ y, ms.find? (fun x => x.id == id) = some y ∧ y.unsent = l.unsent := by
  have key (xs : List Launch) : (xs.map Launch.unsent).find? (fun x => x.id == id) = (xs.find? (fun x => x.id == id)).map Launch.unsent := List.find?_map ..
  have e := (key ms).symm.trans ((congrArg _ same).trans (key ls))
  rw [found] at e
  obtain ⟨y, found, eq⟩ := Option.map_eq_some_iff.1 e
  exact ⟨y, found, eq⟩

/-! The harts of a group are released. -/

theorem hart_releaseHarts_foldl (hs : List (BitVec 2)) (k : Core) (h : BitVec 2) :
    ((hs.foldl (fun k h =>
      { k.setHart h {} with
        issuers := k.issuers.set h.toNat (Vector.replicate 3 {}) (Nat.lt_of_lt_of_le h.isLt (by decide)),
        products := k.products.set h.toNat [] (Nat.lt_of_lt_of_le h.isLt (by decide)) }) k).hart h) = if h ∈ hs then {} else k.hart h := by
  induction hs generalizing k with
  | nil => rfl
  | cons i hs ih =>
    rw [List.foldl_cons, ih]
    by_cases same : h = i
    · subst same
      rw [if_pos List.mem_cons_self]
      exact (congrArg (ite _ _) (Core.hart_setHart_same k h {})).trans (ite_self _)
    · simp only [List.mem_cons, same, false_or]
      exact congrArg (ite _ _) (Core.hart_setHart_other k {} same)

theorem hart_releaseHarts (k : Core) (hs : List (BitVec 2)) (h : BitVec 2) : (k.releaseHarts hs).hart h = if h ∈ hs then {} else k.hart h :=
  hart_releaseHarts_foldl hs _ h

theorem discardMessages_eq (s : State) (launch group : Nat) :
    ∃ net log, s.discardMessages launch group = { s with net := net, belineLog := log } := by
  unfold State.discardMessages
  extract_lets lost
  generalize s.net.filter lost = rs
  induction rs generalizing s with
  | nil => exact ⟨s.net, s.belineLog, rfl⟩
  | cons r rs ih =>
    obtain ⟨net, log, e⟩ := ih ((s.dropReq r.id).logBeline (.messageDiscarded r.launch))
    exact ⟨net, log, e⟩

theorem Core.hart_reset (h : BitVec 2) : ({} : Core).hart h = {} := by
  rw [Core.hart, Vector.get_eq_getElem]
  exact Vector.getElem_replicate _

/-! What remains of a core after the end of a group on it. -/

/-- A core that hosts no group is free again: its dirty bytes go home, and nothing replaces it. -/
theorem freeCore_free {s : State} {c : Nat} (unhosted : hartNos.any (fun h => ((s.core c).hart h).hosts) = false) (stays : s.noReplacement c) :
    s.freeCore c = (s.flush c (fun _ => true) true).setCore c {} := by
  obtain ⟨net, next, launches, e⟩ := sendBacks_eq s c ((s.core c).cache.filter (fun _ => true))
  have same : ((s.flush c (fun _ => true) true).setCore c {}).noReplacement c := by
    simp only [State.flush, e]
    exact stays
  rw [State.freeCore, unhosted, replace_none same]
  rfl

theorem freeCore_hosted {s : State} {c : Nat} (hosted : hartNos.any (fun h => ((s.core c).hart h).hosts) = true) : s.freeCore c = s := if_pos hosted

/-- What the release of a core that may host another group leaves. -/
structure Freed (s t : State) (c : Nat) : Prop where
  mem : t.mem = s.mem
  others : ∀ d, d ≠ c → t.core d = s.core d
  launches : t.launches.map Launch.unsent = s.launches.map Launch.unsent
  harts : ∀ h, ((s.core c).hart h).group = none → ((t.core c).hart h).group = none
  free : (∀ h, ((s.core c).hart h).group = none) → (t.core c).vf = none

theorem freed_freeCore {s : State} {c : Nat} (stays : s.noReplacement c) : Freed s (s.freeCore c) c := by
  cases hosted : hartNos.any (fun h => ((s.core c).hart h).hosts) with
  | true =>
    rw [freeCore_hosted hosted]
    refine ⟨rfl, fun _ _ => rfl, rfl, fun _ h => h, fun none => ?_⟩
    simp [Hart.hosts, none] at hosted
  | false =>
    rw [freeCore_free hosted stays]
    refine ⟨?_, fun d other => ?_, ?_, fun h _ => ?_, fun _ => ?_⟩
    · rw [State.setCore_mem, State.flush_mem]
    · obtain ⟨net, next, launches, e⟩ := sendBacks_eq s c ((s.core c).cache.filter (fun _ => true))
      rw [State.core_setCore_other _ _ other, State.flush, e, State.core_modCore_other _ _ other]
      rfl
    · exact sendBacks_unsent s c _
    · rw [State.core_setCore_same, Core.hart_reset]
    · rw [State.core_setCore_same]

/-- GROUP_END of a group on a core whose harts rest (R374). -/
theorem exec_groupEnd_core {s : State} {id group c : Nat} {k : Core} (found : s.cores.find? (fun e => !(e.2.hartsOf id group).isEmpty) = some (c, k)) :
    exec (.groupEnd id group) s = .next
      (if (k.hartsOf id group).all (fun h => (k.hart h).atRest) && s.enginesRest c (k.hartsOf id group) then
        ((((s.closeGroup id group k).discardMessages id group).setCore c (k.releaseHarts (k.hartsOf id group))).orphan c (k.hartsOf id group)).freeCore c
      else s) := by
  refine congrArg Host.Outcome.next ?_
  rw [found]

/-- The module before a core may become free: the group is closed, and its harts are released. -/
structure GroupClosed (s t : State) (id group c : Nat) (k : Core) : Prop where
  mem : t.mem = s.mem
  here : t.core c = k.releaseHarts (k.hartsOf id group)
  others : ∀ d, d ≠ c → t.core d = s.core d
  launches : t.launches = (s.closeGroup id group k).launches
  stays : s.noReplacement c → t.noReplacement c

theorem groupClosed (s : State) (id group c : Nat) (k : Core) : GroupClosed s
    ((((s.closeGroup id group k).discardMessages id group).setCore c (k.releaseHarts (k.hartsOf id group))).orphan c (k.hartsOf id group)) id group c k := by
  obtain ⟨net, log, e⟩ := discardMessages_eq (s.closeGroup id group k) id group
  rw [e]
  exact ⟨rfl, State.core_setCore_same .., fun d other => State.core_setCore_other _ _ other, rfl, fun h => h⟩

/-- What the end of a group does to its harts, to its core and to its launch. -/
theorem groupEnd_core {s : State} {id group c : Nat} {k : Core} {l : Launch} (found : s.cores.find? (fun e => !(e.2.hartsOf id group).isEmpty) = some (c, k))
    (launch : s.launches.find? (fun x => x.id == id) = some l) (stays : s.noReplacement c)
    (rest : ((k.hartsOf id group).all (fun h => (k.hart h).atRest) && s.enginesRest c (k.hartsOf id group)) = true) :
    ∃ t y, exec (.groupEnd id group) s = .next t ∧ t.mem = s.mem ∧ (∀ h ∈ k.hartsOf id group, ((t.core c).hart h).group = none) ∧
      (∀ d, d ≠ c → t.core d = s.core d) ∧
      t.launches.find? (fun x => x.id == id) = some y ∧ y.groups = l.groups.map (fun g => if g.num = group then { g with ended := true } else g) ∧
      ((∀ h, h ∉ k.hartsOf id group → (k.hart h).group = none) → (t.core c).vf = none) := by
  have closed := groupClosed s id group c k
  have freed := freed_freeCore (closed.stays stays)
  have left (h : BitVec 2) : (k.releaseHarts (k.hartsOf id group)).hart h = if h ∈ k.hartsOf id group then {} else k.hart h := hart_releaseHarts ..
  have here : (s.closeGroup id group k).launches.find? (fun x => x.id == id) = _ := find?_updWhere (fun _ => by rfl) _
  rw [launch, Option.map_some, if_pos (List.find?_some (p := fun x : Launch => x.id == id) launch)] at here
  obtain ⟨y, kept, same⟩ := find?_of_unsent (freed.launches.trans (congrArg _ closed.launches)) here
  refine ⟨_, y, (exec_groupEnd_core found).trans (congrArg Host.Outcome.next (if_pos rest)), freed.mem.trans closed.mem, fun h member => freed.harts h ?_,
    fun d other => (freed.others d other).trans (closed.others d other), kept, ?_, fun alone => freed.free (fun h => ?_)⟩
  · rw [closed.here, left, if_pos member]
  · have groups : y.groups = (y.unsent).groups := rfl
    rw [groups, same]
    exact List.map_congr_left fun g _ => by simp
  · rw [closed.here, left]
    split
    · rfl
    · exact alone h ‹_›

end Sys2Proof.Machine
end

section
/-! SUPPORT. What the accesses at the homes of sectors leave of the launches and their queues, so that the completion record and the message of a
launch that ends (18 R373) change no launch. -/

namespace Sys2Proof.Machine

/-- From s to t no launch and no queue has changed. -/
structure SameLaunches (s t : State) : Prop where
  launches : t.launches = s.launches
  queues : ∀ vf, (t.part vf).queues = (s.part vf).queues

theorem SameLaunches.refl (s : State) : SameLaunches s s := ⟨rfl, fun _ => rfl⟩

theorem SameLaunches.trans {s t u : State} (a : SameLaunches s t) (b : SameLaunches t u) : SameLaunches s u :=
  ⟨b.launches.trans a.launches, fun vf => (b.queues vf).trans (a.queues vf)⟩

/-- Neither the launches nor the partitions have changed. -/
theorem SameLaunches.of_eq {s t : State} (launches : t.launches = s.launches) (partitions : t.partitions = s.partitions) : SameLaunches s t :=
  ⟨launches, fun vf => by rw [part_of_partitions partitions]⟩

theorem SameLaunches.foldl {α : Type} {f : State → α → State} (each : ∀ s a, SameLaunches s (f s a)) (as : List α) (s : State) : SameLaunches s (as.foldl f s) := by
  induction as generalizing s with
  | nil => exact .refl s
  | cons a as ih => exact (each s a).trans (ih _)

section
variable {s : State} {x y pa : Nat} {r : Req}

theorem sameLaunches_writeOut (s : State) (l : SliceLine) : SameLaunches s (s.writeOut l) := by
  refine SameLaunches.foldl (fun s i => ?_) _ s
  split
  · exact .of_eq rfl rfl
  · exact .refl s

theorem sameLaunches_evictLine (s : State) (l : SliceLine) : SameLaunches s (s.evictLine l) := by
  have out := sameLaunches_writeOut s l
  exact ⟨out.launches, out.queues⟩

theorem sameLaunches_sliceFill (vf : BitVec 4) : SameLaunches s (s.sliceFill x y pa vf).1 := by
  simp only [State.sliceFill]
  split
  · split
    · split
      · exact .refl s
      · exact .of_eq rfl rfl
    · exact (sameLaunches_evictLine s _).trans (.of_eq rfl rfl)
  · split
    · exact .of_eq rfl rfl
    · split
      · exact .refl s
      · have fresh : SameLaunches s s.fresh := .of_eq rfl rfl
        exact fresh.trans ((sameLaunches_evictLine s.fresh _).trans (.of_eq rfl rfl))

theorem sameLaunches_hbmChecked (q : Nat) : SameLaunches s (s.hbmChecked q) := by
  unfold State.hbmChecked
  split
  · exact .refl s
  · dsimp only
    split <;> exact .of_eq rfl rfl

theorem sameLaunches_checkedAt : SameLaunches s (s.checkedAt x y pa) := by
  simp only [State.checkedAt]
  split
  · exact sameLaunches_hbmChecked _
  · split
    · exact .refl s
    · split <;> exact .of_eq rfl rfl

theorem sameLaunches_homeMerge (mask v : Nat) (poison : Bool) : SameLaunches s (s.homeMerge x y pa mask v poison) := by
  unfold State.homeMerge
  extract_lets i full t q
  have checked : SameLaunches s t := by
    simp only [t]
    split
    · exact .refl s
    · exact sameLaunches_checkedAt
  split <;> exact checked.trans (.of_eq rfl rfl)

theorem sameLaunches_homeWrite (n v : Nat) (poison : Bool) : SameLaunches s (s.homeWrite x y pa n v poison) := sameLaunches_homeMerge ..

theorem sameLaunches_answer (r : Req) (site : Nat) (g : Stage) : SameLaunches s (s.answer r site g) := .of_eq rfl rfl

/-- A store to the doorbell page may request a checkpoint, which is no launch. -/
theorem sameLaunches_doorbell (vf : BitVec 4) (a n v : Nat) : SameLaunches s (s.doorbell vf a n v) := by
  unfold State.doorbell
  extract_lets p
  split
  · split
    · refine ⟨rfl, fun w => ?_⟩
      rw [part_modPart]
      split
      · subst_vars; rfl
      · rfl
    · exact .of_eq rfl rfl
  · exact .refl s

theorem sameLaunches_served (n : Nat) (w : Option (BitVec 2 × Word)) : SameLaunches s (s.served r x y pa n w) :=
  sameLaunches_checkedAt.trans (sameLaunches_answer ..)

theorem sameLaunches_atomicHome (w : Option (BitVec 2 × Word)) : SameLaunches s (s.atomicHome r x y pa w) := by
  unfold State.atomicHome
  extract_lets n t v a
  have checked : SameLaunches s t := sameLaunches_checkedAt
  split
  · exact checked.trans (sameLaunches_answer ..)
  · refine checked.trans (SameLaunches.trans ?_ (sameLaunches_answer ..))
    split
    · exact sameLaunches_homeWrite ..
    · exact .refl t

theorem sameLaunches_performHome : SameLaunches s (s.performHome r x y pa) := by
  unfold State.performHome
  extract_lets w n ack
  cases r.kind with
  | load _ _ | velem _ | eread _ | fillLoad _ _ | fillStore _ _ | vfill _ _ => exact sameLaunches_served ..
  | store _ _ _ => exact ((sameLaunches_homeWrite ..).trans (sameLaunches_doorbell ..)).trans (sameLaunches_answer ..)
  | granule _ _ _ => exact (sameLaunches_homeMerge ..).trans (sameLaunches_answer ..)
  | ewrite _ _ _ => exact (sameLaunches_homeWrite ..).trans (sameLaunches_answer ..)
  | amo _ _ _ _ | cas _ _ _ _ => exact sameLaunches_atomicHome ..
  | writeBack _ _ _ => exact (sameLaunches_homeMerge ..).trans (sameLaunches_answer ..)
  | acq _ =>
    dsimp only
    split <;> exact .of_eq rfl rfl
  | rel e =>
    dsimp only
    split
    · exact sameLaunches_answer ..
    · exact (sameLaunches_homeWrite ..).trans (sameLaunches_answer ..)
  | prefetch global _ =>
    cases global with
    | true => exact sameLaunches_served ..
    | false => exact .of_eq rfl rfl
  | barr _ | message _ | push _ | sash _ _ _ => exact .of_eq rfl rfl

theorem sameLaunches_performFilled : SameLaunches s (s.performFilled x y r) := by
  unfold State.performFilled
  split
  · split
    · exact .of_eq rfl rfl
    · exact sameLaunches_performHome
  · exact .refl s

theorem sameLaunches_fillReturn {f : State → State} (f_same : ∀ t, SameLaunches t (f t)) (vf : BitVec 4) : SameLaunches s (s.fillReturn x y pa vf f) := by
  unfold State.fillReturn
  extract_lets g rs t
  have before : SameLaunches g.1 t := (SameLaunches.foldl (fun _ _ => sameLaunches_performFilled) _ _).trans (f_same _)
  exact ((sameLaunches_sliceFill vf).trans before).trans (SameLaunches.foldl (fun _ _ => sameLaunches_performFilled) _ _)

theorem sameLaunches_atSector {f : State → State} (f_same : ∀ t, SameLaunches t (f t)) (vf : BitVec 4) : SameLaunches s (s.atSector x y pa vf f) := by
  unfold State.atSector
  split
  · exact f_same s
  · exact sameLaunches_fillReturn f_same vf

theorem sameLaunches_walked (vf : BitVec 4) (va : Nat) : SameLaunches s (s.walked vf va) := by
  unfold State.walked
  split
  · exact .of_eq rfl rfl
  · exact .refl s

theorem sameLaunches_onHomeWrite {other : State} {f : State → Nat → Nat → Nat → State} (other_same : SameLaunches s other)
    (f_same : ∀ t x y pa, SameLaunches t (f t x y pa)) (vf : BitVec 4) (va : Nat) (n : Need) : SameLaunches s (s.onHomeWrite vf va n other f) := by
  unfold State.onHomeWrite
  split
  · exact other_same.trans (sameLaunches_walked vf va)
  · exact sameLaunches_atSector (fun t => f_same t _ _ _) vf

/-- The completion record and the message of a launch change no launch. -/
theorem sameLaunches_tellHart (l : Launch) (v : Nat) (h : BitVec 2) (g : GroupRef) : SameLaunches s (s.tellHart l v h g) := by
  unfold State.tellHart
  extract_lets a t
  have recorded : SameLaunches s t := by
    simp only [t]
    split
    · exact .refl s
    · have logged : SameLaunches s (s.logBeline (.recordFailed l.id)) := .of_eq rfl rfl
      exact sameLaunches_onHomeWrite logged (fun _ _ _ _ => sameLaunches_homeWrite ..) ..
  split
  · exact recorded
  · split
    · exact recorded.trans (.of_eq rfl rfl)
    · exact recorded.trans (.of_eq rfl rfl)

end

/-! The end of a launch. -/

/-- A launch that has ended. -/
def Launch.ending (l : Launch) : Launch := { l with state := .ended }

/-- The launches at the end of one: it has ended, and its dependants know of its failure (R367). -/
def State.withEnd (s : State) (l : Launch) : State :=
  if l.status = .completed then s.modLaunch l.id Launch.ending else (s.modLaunch l.id Launch.ending).tellDependants l.id

theorem endLaunch_eq {s : State} {l : Launch} (found : s.launchOf l.id = some l) : s.endLaunch l.id = match l.submitter with
    | .hart _ v h g => (s.withEnd l).tellHart l v h g
    | .host e key offset => if key = 0 then s.withEnd l else
        { s.withEnd l with hostOut := (s.withEnd l).hostOut ++ [.completion e key offset (BitVec.ofNat 512 l.completion)] } := by
  rw [State.endLaunch, found]
  rfl

/-- The end of a launch changes no launch but itself and its dependants, and no queue. -/
theorem sameLaunches_endLaunch {s : State} {l : Launch} (found : s.launchOf l.id = some l) : SameLaunches (s.withEnd l) (s.endLaunch l.id) := by
  rw [endLaunch_eq found]
  split
  · exact sameLaunches_tellHart ..
  · split
    · exact .refl _
    · exact .of_eq rfl rfl

end Sys2Proof.Machine
end

section
/-! SUPPORT. The merge of a round (20 R401, R402), the flip of a phase (18 R375), and the sweep (R367, R377). -/

namespace Sys2Proof.Machine

/-! Merging and testing an estimate. -/

theorem welford_count (vs : List Nat) (c mu m2 : Nat) : (welford vs (c, mu, m2)).1 = c + vs.length := by
  induction vs generalizing c mu m2 with
  | nil => rfl
  | cons v vs ih =>
    rw [List.length_cons, welford, ih]
    omega

/-- What a merge takes along: the design of the estimate, and what has been handed out. -/
structure Estimate.SameRun (e t : Estimate) : Prop where
  n : t.n = e.n
  lw : t.lw = e.lw
  minr : t.minr = e.minr
  tau : t.tau = e.tau
  z : t.z = e.z
  next : t.next = e.next
  opened : t.opened = e.opened

theorem sameRun_merge (e : Estimate) : e.SameRun e.merge := by
  unfold Estimate.merge
  split
  dsimp only
  split <;> exact ⟨rfl, rfl, rfl, rfl, rfl, rfl, rfl⟩

theorem merge_rounds (e : Estimate) : e.merge.rounds = e.rounds + 1 := by
  unfold Estimate.merge
  split
  dsimp only
  split <;> rfl

theorem merge_status_hw (e : Estimate) : e.merge.status = e.status ∧ e.merge.hw = e.hw := by
  unfold Estimate.merge
  split
  dsimp only
  split <;> exact ⟨rfl, rfl⟩

theorem merge_count (e : Estimate) : e.merge.count = e.count + (e.roundValues e.rounds).length := by
  have counted := welford_count (e.roundValues e.rounds) 0 0 0
  unfold Estimate.merge
  split
  next c mu m2 eq =>
    rw [eq] at counted
    dsimp only at counted ⊢
    split <;> dsimp only <;> omega

theorem merge_first {e : Estimate} (first : e.count = 0) :
    e.merge.mean = BitVec.ofNat 64 (welford (e.roundValues e.rounds) (0, 0, 0)).2.1 ∧
      e.merge.m2 = BitVec.ofNat 64 (welford (e.roundValues e.rounds) (0, 0, 0)).2.2 := by
  unfold Estimate.merge
  split
  next c mu m2 eq =>
    rw [eq]
    dsimp only
    rw [if_pos first]
    exact ⟨rfl, rfl⟩

/-- The half width that the stopping test looks at. -/
def Estimate.halfWidth (e : Estimate) : Nat :=
  fmul64 e.z.toNat (f64.sqrt .rne (fdiv64 (fdiv64 e.m2.toNat (fcount64 (e.count - 1))) (fcount64 e.count))).val

/-- The first half of the stopping test: enough rounds and items give a half width, which may be small enough. -/
def Estimate.judged (e : Estimate) : Estimate :=
  if e.minr ≤ e.rounds ∧ 2 ≤ e.count then
    { e with hw := BitVec.ofNat 64 e.halfWidth, status := if (f64.le e.halfWidth e.tau.toNat).val then .converged else e.status }
  else e

theorem test_eq (e : Estimate) : e.test =
    if e.judged.status = .running ∧ e.judged.n ≤ e.judged.rounds * 2 ^ e.judged.lw then { e.judged with status := .exhausted } else e.judged := rfl

/-- What the stopping test leaves. -/
structure Estimate.SameSums (e t : Estimate) : Prop where
  rounds : t.rounds = e.rounds
  count : t.count = e.count
  mean : t.mean = e.mean
  m2 : t.m2 = e.m2

theorem same_judged (e : Estimate) : e.SameSums e.judged ∧ e.SameRun e.judged := by
  unfold Estimate.judged
  split <;> exact ⟨⟨rfl, rfl, rfl, rfl⟩, ⟨rfl, rfl, rfl, rfl, rfl, rfl, rfl⟩⟩

theorem same_test (e : Estimate) : e.SameSums e.test ∧ e.SameRun e.test := by
  obtain ⟨⟨rounds, count, mean, m2⟩, ⟨n, lw, minr, tau, z, next, opened⟩⟩ := same_judged e
  rw [test_eq]
  split <;> exact ⟨⟨rounds, count, mean, m2⟩, ⟨n, lw, minr, tau, z, next, opened⟩⟩

/-- The test changes the judgement only where it says that the estimate goes on. -/
theorem test_converged_iff (e : Estimate) : e.test.status = .converged ↔ e.judged.status = .converged := by
  rw [test_eq]
  split
  next h => simp [h.1]
  next => rfl

theorem test_hw (e : Estimate) : e.test.hw = e.judged.hw := by
  rw [test_eq]
  split <;> rfl

section
variable {e : Estimate} (running : e.status = .running)
include running

theorem judged_status : e.judged.status = .converged ∨ e.judged.status = .running := by
  unfold Estimate.judged
  split
  · dsimp only
    split
    · exact .inl rfl
    · exact .inr running
  · exact .inr running

theorem test_early (early : e.rounds < e.minr ∨ e.count < 2) : e.test.status ≠ .converged ∧ e.test.hw = e.hw := by
  have unjudged : e.judged = e := if_neg (by omega)
  rw [ne_eq, test_converged_iff e, test_hw e, unjudged, running]
  exact ⟨EstStatus.noConfusion, rfl⟩

theorem test_judged (rounds : e.minr ≤ e.rounds) (count : 2 ≤ e.count) :
    e.test.hw = BitVec.ofNat 64 e.halfWidth ∧ (e.test.status = .converged ↔ (f64.le e.halfWidth e.tau.toNat).val = true) := by
  have judged : e.judged =
      { e with hw := BitVec.ofNat 64 e.halfWidth, status := if (f64.le e.halfWidth e.tau.toNat).val then .converged else e.status } := if_pos ⟨rounds, count⟩
  rw [test_converged_iff e, test_hw e, judged]
  refine ⟨rfl, ?_⟩
  dsimp only
  split
  next small => simp [small]
  next large => simp [large, running]

theorem test_exhausted_iff (goesOn : e.test.status ≠ .converged) : e.test.status = .exhausted ↔ e.n ≤ e.rounds * 2 ^ e.lw := by
  have stays : e.judged.status = .running := (judged_status running).resolve_left (fun h => goesOn ((test_converged_iff e).2 h))
  obtain ⟨sums, run⟩ := same_judged e
  rw [test_eq, run.n, sums.rounds, run.lw]
  by_cases all : e.n ≤ e.rounds * 2 ^ e.lw
  · rw [if_pos ⟨stays, all⟩]
    exact iff_of_true rfl all
  · rw [if_neg (fun h => all h.2), stays]
    exact iff_of_false EstStatus.noConfusion all

end

/-! Harts that wait run on. -/

theorem Hart.unblock_eq (h : Hart) (id : Nat) (b : Block) : h.unblock id b =
    { h with block := if (h.group.map (fun g => g.launch)) = some id ∧ h.block = some b then none else h.block } := by
  unfold Hart.unblock
  split
  next g eq =>
    have mine : h.group.map (fun g => g.launch) = some id ↔ g.launch = id := by rw [eq, Option.map_some, Option.some.injEq]
    simp only [mine]
    split <;> rfl
  next eq =>
    have away : ¬(h.group.map (fun g => g.launch) = some id ∧ h.block = some b) := fun c => by simp [eq] at c
    rw [if_neg away]

theorem Core.hart_unblock (k : Core) (id : Nat) (b : Block) (h : BitVec 2) : (k.unblock id b).hart h = (k.hart h).unblock id b := by
  simp only [Core.unblock, Core.hart, Vector.get_eq_getElem, getElem_vmap]

/-! ROUND_MERGE and DOMAIN_PHASE_FLIP. -/

section
variable {s : State} {id : Nat} {l : Launch} (found : s.launches.find? (fun x => x.id == id) = some l)
include found

theorem find?_modLaunch {f : Launch → Launch} (same : ∀ x, (f x).id = x.id) : (s.modLaunch id f).launches.find? (fun x => x.id == id) = some (f l) := by
  rw [State.modLaunch, find?_updWhere (fun x => by rw [same]), found, Option.map_some, if_pos (List.find?_some (p := fun x : Launch => x.id == id) found)]

theorem exec_roundMerge_found {e : Estimate} (est : l.est = some e) : exec (.roundMerge id) s = .next
    (if l.state = .running ∧ l.status = .completed ∧ e.stopped = false ∧ e.complete e.rounds = true then
      (s.modLaunch id (fun l => { l with est := some e.merge.test })).unblock id .enext
    else s) := by
  refine congrArg Host.Outcome.next ?_
  have launch : s.launchOf id = some l := found
  rw [launch]
  dsimp only
  rw [est]

theorem exec_flip_found {n : BitVec 3} {domain : Nat} :
    exec (.domainPhaseFlip id n domain) s = .next
      (if s.domainSize l n.toNat domain ≠ 0 ∧ s.domainArrivals l n.toNat domain (l.phase (domainKey n.toNat domain)) = s.domainSize l n.toNat domain then
        (s.modLaunch id (fun x =>
          { x with phases := mapSet x.phases (domainKey n.toNat domain) (b2n (!l.phase (domainKey n.toNat domain))),
                   stood := x.stood.filter (fun a => a.1 != domainKey n.toNat domain) })).unblock id .dsync
      else s) := by
  refine congrArg Host.Outcome.next ?_
  have launch : s.launchOf id = some l := found
  rw [launch]

end

theorem phase_mapSet (l : Launch) (key : Nat) (b : Bool) (stood : List (Nat × Bool)) :
    ({ l with phases := mapSet l.phases key (b2n b), stood := stood } : Launch).phase key = b := by
  rw [Launch.phase, mapGet_mapSet_same]
  cases b <;> rfl

/-! The sweep. -/

section
variable {s : State} {l m : Launch}

theorem launchOf_alone (alone : s.launches = [l]) : s.launchOf l.id = some l := by
  rw [State.launchOf, alone, List.find?_cons_of_pos (by simp)]

theorem launchOf_first (both : s.launches = [l, m]) : s.launchOf l.id = some l := by
  rw [State.launchOf, both, List.find?_cons_of_pos (by simp)]

theorem launchOf_second (both : s.launches = [l, m]) (differ : l.id ≠ m.id) : s.launchOf m.id = some m := by
  rw [State.launchOf, both, List.find?_cons_of_neg (by simpa using differ), List.find?_cons_of_pos (by simp)]

theorem drained_iff (l : Launch) : l.drained = true ↔
    l.state = .running ∧ l.groupsTotal ≤ l.placed ∧ (∀ g ∈ l.groups, g.ended = true) ∧ (l.status = .failed ∨ ∀ e, l.est = some e → e.status ≠ .running) := by
  simp only [Launch.drained, Bool.and_eq_true, Bool.or_eq_true, beq_iff_eq, decide_eq_true_eq, List.all_eq_true, and_assoc]
  cases l.est with
  | none => simp
  | some e => simp [Estimate.stopped]

theorem sweepOne_undrained (found : s.launchOf l.id = some l) (busy : l.drained = false) : s.sweepOne l.id = s := by
  rw [State.sweepOne, found]
  exact if_pos busy

theorem sweepOne_drained (found : s.launchOf l.id = some l) (drained : l.drained = true) : s.sweepOne l.id =
    if l.sentCount ≠ l.recvCount then s.modLaunch l.id (fun x => { x with agreed := 0 })
    else if l.agreed = 0 then s.modLaunch l.id (fun x => { x with agreed := 1 })
    else s.endLaunch l.id := by
  rw [State.sweepOne, found]
  refine if_neg ?_
  rw [drained]
  exact Bool.noConfusion

theorem cancelOne_started (found : s.launchOf l.id = some l) (started : l.state ≠ .queued) : s.cancelOne l.id = s := by
  rw [State.cancelOne, found]
  exact if_neg (fun h => started h.1)

theorem exec_sweep_alone (alone : s.launches = [l]) : exec .sweep s = .next ((s.sweepOne l.id).cancelOne l.id) := by
  show Host.Outcome.next (((s.launches.map Launch.id).foldl State.cancelOne ((s.launches.map Launch.id).foldl State.sweepOne s))) = _
  rw [alone]
  rfl

theorem exec_sweep_both (both : s.launches = [l, m]) :
    exec .sweep s = .next ((((s.sweepOne l.id).sweepOne m.id).cancelOne l.id).cancelOne m.id) := by
  show Host.Outcome.next (((s.launches.map Launch.id).foldl State.cancelOne ((s.launches.map Launch.id).foldl State.sweepOne s))) = _
  rw [both]
  rfl

theorem modLaunch_alone (alone : s.launches = [l]) (f : Launch → Launch) : s.modLaunch l.id f = { s with launches := [f l] } := by
  rw [State.modLaunch, alone, updWhere, List.map_singleton, if_pos (by simp)]

/-- The launch that ends alone has no dependant to tell. -/
theorem withEnd_alone (alone : s.launches = [l]) : s.withEnd l = { s with launches := [l.ending] } := by
  unfold State.withEnd
  rw [modLaunch_alone alone]
  split
  · rfl
  · rw [State.tellDependants]
    dsimp only
    rw [updWhere, List.map_singleton, if_neg (by simp [Launch.ending])]

/-- A sweep of a launch that stays started changes what `sweepOne` changes. -/
theorem exec_sweep_started {t : State} {y : Launch} (alone : s.launches = [l]) (swept : s.sweepOne l.id = t) (left : t.launches = [y]) (same : y.id = l.id)
    (started : y.state ≠ .queued) : exec .sweep s = .next t := by
  rw [exec_sweep_alone alone, swept, ← same, cancelOne_started (launchOf_alone left) started]

/-! A launch that never starts. -/

/-- A launch with its status. -/
def Launch.judged (l : Launch) (st : Status) : Launch := { l with status := st }

/-- The module in which a launch has left its queue with a status. -/
def State.unqueued (s : State) (l : Launch) (st : Status) : State :=
  (s.modPart l.vf (fun p => { p with queues := vmap (fun q => q.filter (· != l.id)) p.queues })).modLaunch l.id (fun x => x.judged st)

theorem dismiss_eq (s : State) (l : Launch) (st : Status) : s.dismiss l st = (s.unqueued l st).endLaunch l.id := rfl

/-- The launch of an identifier that is dismissed ends with its status. -/
theorem sameLaunches_dismiss (found : s.launchOf l.id = some l) (st : Status) :
    SameLaunches ((s.unqueued l st).withEnd (l.judged st)) (s.dismiss l st) := by
  rw [dismiss_eq]
  refine sameLaunches_endLaunch (l := l.judged st) ?_
  exact find?_modLaunch (f := fun x => x.judged st) found (fun _ => rfl)

theorem queue_unqueued (l : Launch) (st : Status) (q : BitVec 3) :
    ((s.unqueued l st).part l.vf).queue q = ((s.part l.vf).queue q).filter (· != l.id) := by
  have part : (s.unqueued l st).part l.vf = { s.part l.vf with queues := vmap (fun q => q.filter (· != l.id)) (s.part l.vf).queues } := by
    have same : (s.unqueued l st).part l.vf =
        (s.modPart l.vf (fun p => { p with queues := vmap (fun q => q.filter (· != l.id)) p.queues })).part l.vf := rfl
    rw [same, part_modPart, if_pos rfl]
  rw [part, Partition.queue, Partition.queue, Vector.get_eq_getElem, getElem_vmap, Vector.get_eq_getElem]

theorem part_withEnd (l : Launch) (vf : BitVec 4) : (s.withEnd l).part vf = s.part vf := by
  unfold State.withEnd
  split <;> rfl

/-- A dismissed launch is in no queue of its partition. -/
theorem not_mem_queue_dismiss (found : s.launchOf l.id = some l) (st : Status) (q : BitVec 3) : l.id ∉ ((s.dismiss l st).part l.vf).queue q := by
  have same : ((s.dismiss l st).part l.vf).queue q = ((s.unqueued l st).part l.vf).queue q := by
    rw [Partition.queue, (sameLaunches_dismiss found st).queues, part_withEnd, ← Partition.queue]
  rw [same, queue_unqueued]
  simp

end

/-- A waiting head of a failed predecessor is cancelled (R367). -/
theorem sweep_cancels {s : State} {l m : Launch} {q : BitVec 3} {a : Nat} (both : s.launches = [l, m]) (ended : l.state = .ended) (failed : l.status ≠ .completed)
    (queued : m.state = .queued) (unplaced : m.placed = 0) (differ : l.id ≠ m.id) (head : ((s.part m.vf).queue q).head? = some m.id) (pred : l.id ∈ m.preds)
    (age : (s.part m.vf).age (l.id % 2 ^ 28) = some a) (tracked : a < 1024) : exec .sweep s = .next (s.dismiss m .cancelled) := by
  have first := launchOf_first both
  have second := launchOf_second both differ
  have idle (x : Launch) (found : s.launchOf x.id = some x) (other : x.state ≠ .running) : s.sweepOne x.id = s :=
    sweepOne_undrained found (Bool.eq_false_iff.2 (fun h => other ((drained_iff x).1 h).1))
  have heads : queueNos.any (fun q => ((s.part m.vf).queue q).head? == some m.id) = true := by
    refine List.any_eq_true.2 ⟨q, ?_, by rw [head]; exact beq_self_eq_true _⟩
    have every : ∀ q : BitVec 3, q ∈ queueNos := by decide
    exact every q
  have failing : m.preds.any (s.predFailed m.vf) = true := by
    refine List.any_eq_true.2 ⟨l.id, pred, ?_⟩
    rw [State.predFailed, age, first]
    simp [trackedIds, tracked, ended, failed]
  rw [exec_sweep_both both, idle l first (by rw [ended]; decide), idle m second (by rw [queued]; decide), cancelOne_started first (by rw [ended]; decide),
    State.cancelOne, second]
  exact congrArg Host.Outcome.next (if_pos ⟨queued, unplaced, heads, failing⟩)

/-- Of two launches the second is dismissed: it has ended with its status, and the first, which had ended, is as it was. -/
theorem launches_dismiss_second {s : State} {l m : Launch} (both : s.launches = [l, m]) (ended : l.state = .ended) (differ : l.id ≠ m.id) (st : Status) :
    (s.dismiss m st).launches = [l, (m.judged st).ending] := by
  have judged : (s.unqueued m st).launches = [l, m.judged st] := by
    have same : (s.unqueued m st).launches = updWhere (fun x => x.id == m.id) (fun x => x.judged st) s.launches := rfl
    rw [same, both]
    simp [updWhere, differ]
  have ending : ((s.unqueued m st).modLaunch m.id Launch.ending).launches = [l, (m.judged st).ending] := by
    rw [State.modLaunch, judged]
    simp [updWhere, differ, Launch.judged]
  refine (sameLaunches_dismiss (launchOf_second both differ) st).launches.trans ?_
  unfold State.withEnd
  split
  · exact ending
  · refine Eq.trans (congrArg (updWhere _ _) ending) ?_
    simp [updWhere, ended, Launch.ending]

/-- Settles O48: the end of a group, the flip of a phase, the sweep and the merge, each by the branch that the statement's premises choose. -/
theorem endsAndMerges : Obligations.EndsAndMerges := by
  unfold Obligations.EndsAndMerges
  intro s l id group level domain c k n
  refine ⟨fun found => ?groupEnd, fun found levelEq => ?flip, fun alone running placed => ?sweep, ?cancel, ?failedMerge, ?merge⟩
  case groupEnd =>
    intro hs rest
    exact ⟨fun busy => (exec_groupEnd_core found).trans (congrArg Host.Outcome.next (if_neg (ne_true_of_eq_false busy))),
      fun free here launch stays => groupEnd_core found launch stays free⟩
  case flip =>
    subst levelEq
    intro key size there flip
    have run := exec_flip_found found (n := n) (domain := domain)
    refine ⟨fun waits => run.trans (congrArg Host.Outcome.next (if_neg (fun h => waits.elim h.1 (fun h' => h' h.2)))), fun nonzero all => ?_⟩
    refine ⟨_, _, run.trans (congrArg Host.Outcome.next (if_pos ⟨nonzero, all⟩)), rfl, rfl, find?_modLaunch found (fun _ => by rfl), ?_, fun e member => ?_⟩
    · exact phase_mapSet ..
    · refine ⟨(e.1, e.2.unblock id .dsync), List.mem_map_of_mem member, rfl, fun h => ?_⟩
      rw [Core.hart_unblock, Hart.unblock_eq]
  case sweep =>
    have found := launchOf_alone alone
    refine ⟨fun ⟨g, member, goesOn⟩ => ?_, fun ended final => ?_⟩
    · have busy : l.drained = false := Bool.eq_false_iff.2 (fun h => Bool.false_ne_true (goesOn.symm.trans (((drained_iff l).1 h).2.2.1 g member)))
      exact exec_sweep_started alone (sweepOne_undrained found busy) alone rfl (by rw [running]; decide)
    · have drained := sweepOne_drained found ((drained_iff l).2 ⟨running, placed, ended, final⟩)
      refine ⟨fun differ => ?_, fun agree first => ?_, fun agree again e key offset host => ?_⟩
      · rw [if_pos differ, modLaunch_alone alone] at drained
        exact exec_sweep_started alone drained rfl rfl (by rw [running]; decide)
      · rw [if_neg (not_not.2 agree), if_pos first, modLaunch_alone alone] at drained
        exact exec_sweep_started alone drained rfl rfl (by rw [running]; decide)
      · rw [if_neg (not_not.2 agree), if_neg again, endLaunch_eq found, host, withEnd_alone alone] at drained
        refine exec_sweep_started alone drained (y := l.ending) ?_ rfl LaunchState.noConfusion
        split <;> rfl
  case cancel =>
    rintro m q both ended failed queued unplaced differ head pred ⟨a, age, tracked⟩
    exact ⟨_, _, sweep_cancels both ended failed queued unplaced differ head pred age tracked, launches_dismiss_second both ended differ _, rfl, rfl,
      not_mem_queue_dismiss (launchOf_second both differ) _ q⟩
  case failedMerge =>
    exact fun e found est running failed => (exec_roundMerge_found found est).trans (congrArg Host.Outcome.next (if_neg (fun h => failed h.2.1)))
  case merge =>
    intro e found est running completed goesOn vs
    have run := exec_roundMerge_found found est
    refine ⟨fun open_ => run.trans (congrArg Host.Outcome.next (if_neg (fun h => Bool.false_ne_true (open_.symm.trans h.2.2.2)))), fun complete => ?_⟩
    have goes : e.stopped = false := Bool.eq_false_iff.2 (fun h => stopped_iff.1 h goesOn)
    have merging : e.merge.status = .running := (merge_status_hw e).1.trans goesOn
    obtain ⟨sums, same⟩ := same_test e.merge
    have kept := sameRun_merge e
    have rounds : e.merge.test.rounds = e.rounds + 1 := sums.rounds.trans (merge_rounds e)
    refine ⟨_, _, e.merge.test, run.trans (congrArg Host.Outcome.next (if_pos ⟨running, completed, goes, complete⟩)), rfl,
      find?_modLaunch found (fun _ => by rfl), rfl, rounds, sums.count.trans (merge_count e), same.next.trans kept.next, same.opened.trans kept.opened,
      fun first => ?_, fun early => ?_, fun enough items => ?_, fun goesOn => ?_⟩
    · exact ⟨sums.mean.trans (merge_first first).1, sums.m2.trans (merge_first first).2⟩
    · rw [sums.rounds, sums.count, ← kept.minr] at early
      exact (test_early merging early).imp_right (fun h => h.trans (merge_status_hw e).2)
    · rw [sums.rounds, ← kept.minr] at enough
      rw [sums.count] at items
      have judged := test_judged merging enough items
      rw [Estimate.halfWidth, kept.z, kept.tau] at judged
      rw [sums.m2, sums.count]
      exact judged
    · rw [← kept.n, ← kept.lw, sums.rounds]
      exact test_exhausted_iff merging goesOn

end Sys2Proof.Machine
end

section
/-! SUPPORT. Eviction, saving and resuming of a context (18 R378, R379; 06 R162; 21 R422). -/

namespace Sys2Proof.Machine

/-! Counting up to a save. -/

theorem accrueOne_same (h : Hart) (f k : Nat) (hk : k < 4) : ∃ cnt ovf, h.accrueOne f k hk = { h with cnt := cnt, ovf := ovf } := by
  unfold Hart.accrueOne
  split
  · exact ⟨_, _, rfl⟩
  · exact ⟨_, _, rfl⟩

theorem block_accrued (h : Hart) (f : Nat → Nat) : (h.accrued f).block = h.block := by
  have one (x : Hart) (n k : Nat) (hk : k < 4) : (x.accrueOne n k hk).block = x.block := by
    obtain ⟨cnt, ovf, e⟩ := accrueOne_same x n k hk
    rw [e]
  simp only [Hart.accrued, one]

/-- From s to t only the harts of core c have changed, and the free choices taken. -/
structure OnlyHarts (s t : State) (c : Nat) : Prop where
  net : t.net = s.net
  mem : t.mem = s.mem
  partitions : t.partitions = s.partitions
  clusters : t.clusters = s.clusters
  dies : t.dies = s.dies
  core : t.core c = { s.core c with harts := (t.core c).harts }

theorem OnlyHarts.trans {s t u : State} {c : Nat} (a : OnlyHarts s t c) (b : OnlyHarts t u c) : OnlyHarts s u c :=
  ⟨b.net.trans a.net, b.mem.trans a.mem, b.partitions.trans a.partitions, b.clusters.trans a.clusters, b.dies.trans a.dies, b.core.trans (by rw [a.core])⟩

theorem onlyHarts_accrueAt (s : State) (c : Nat) (h : BitVec 2) : OnlyHarts s (s.accrueAt c h) c := by
  refine ⟨rfl, rfl, rfl, rfl, rfl, ?_⟩
  rw [State.accrueAt, State.modHart, State.core_modCore_same]
  rfl

theorem hart_accrueAt_same (s : State) (c : Nat) (h : BitVec 2) : ∃ f, ((s.accrueAt c h).core c).hart h = ((s.core c).hart h).accrued f := by
  refine ⟨fun k => Config.freeCycles (4 * s.freeCtr + k), ?_⟩
  rw [State.accrueAt, State.modHart, State.core_modCore_same]
  exact Core.hart_setHart_same ..

theorem hart_accrueAt_other (s : State) (c : Nat) {h i : BitVec 2} (differ : i ≠ h) : ((s.accrueAt c h).core c).hart i = (s.core c).hart i := by
  rw [State.accrueAt, State.modHart, State.core_modCore_same]
  exact Core.hart_setHart_other _ _ differ

/-- Counting up some harts of a core, each once. -/
theorem accrue_harts (c : Nat) (hs : List (BitVec 2)) (nodup : hs.Nodup) (s : State) :
    OnlyHarts s (hs.foldl (fun s h => s.accrueAt c h) s) c ∧
      ∃ f : BitVec 2 → Nat → Nat, ∀ i, ((hs.foldl (fun s h => s.accrueAt c h) s).core c).hart i =
        if i ∈ hs then ((s.core c).hart i).accrued (f i) else (s.core c).hart i := by
  induction hs generalizing s with
  | nil => exact ⟨⟨rfl, rfl, rfl, rfl, rfl, rfl⟩, fun _ _ => 0, fun i => (if_neg List.not_mem_nil).symm⟩
  | cons h hs ih =>
    obtain ⟨fresh, nodup⟩ := List.nodup_cons.1 nodup
    obtain ⟨only, f, rest⟩ := ih nodup (s.accrueAt c h)
    obtain ⟨g, first⟩ := hart_accrueAt_same s c h
    refine ⟨(onlyHarts_accrueAt s c h).trans only, fun i => if i = h then g else f i, fun i => (rest i).trans ?_⟩
    by_cases same : i = h
    · subst same
      rw [if_neg fresh, if_pos List.mem_cons_self, first]
      simp only [if_true]
    · simp only [List.mem_cons, same, false_or, if_false, hart_accrueAt_other s c same]

/-- Counting up a core. -/
theorem accrueCore_harts (s : State) (c : Nat) : OnlyHarts s (s.accrueCore c) c ∧
    ∃ f : BitVec 2 → Nat → Nat, ∀ i, ((s.accrueCore c).core c).hart i = ((s.core c).hart i).accrued (f i) := by
  obtain ⟨only, f, each⟩ := accrue_harts c hartNos (by decide) s
  have every : ∀ i : BitVec 2, i ∈ hartNos := by decide
  exact ⟨only, f, fun i => (each i).trans (if_pos (every i))⟩

/-! What a save withdraws. -/

/-- A block whose request a save withdraws, so that its instruction runs again. -/
def Block.withdrawn : Block → Bool
  | .acq _ | .vload _ _ _ _ => true
  | _ => false

theorem withdrawReqs_none {s : State} {c : Nat} (none : ∀ h b, (s.hartOf c h).block = some b → b.withdrawn = false) :
    s.withdrawReqs c = { s with net := s.net.filter (fun r => !r.unawaited c) } := by
  unfold State.withdrawReqs
  rw [List.foldl_fixed']
  intro h
  split
  next eq => exact absurd (none h _ eq) Bool.noConfusion
  next eq => exact absurd (none h _ eq) Bool.noConfusion
  next => rfl

/-! The events of an eviction. -/

section
variable {s : State} {c : Nat} {vf : BitVec 4} (mine : (s.core c).vf = some vf)
include mine

theorem exec_eviction_marked (marked : (s.core c).marked = true) (idle : (s.core c).draining = false) (sound : (s.part vf).rolledBack = false) :
    exec (.eviction c) s = .next (if s.allBlocked c then s.modCore c (fun k => { k with draining := true }) else s) := by
  show Host.Outcome.next (ite _ _ _) = _
  rw [mine, Option.getD_some, Option.isSome_some, marked, idle, sound]
  simp only [Bool.true_and, Bool.not_false]

theorem exec_contextSave_mine (draining : (s.core c).draining = true) (sound : (s.part vf).rolledBack = false) :
    exec (.contextSave c) s = .next (if s.drained c = false then s
      else if (s.core c).anyDirty (fun _ => true) then s.flush c (fun _ => true) false
      else if s.backsPending c || !s.postedDone c then s
      else
        let s := (s.accrueCore c).withdrawReqs c
        ((s.modPart vf (fun p => { p with saved := p.saved ++ [(s.core c).toSave] })).setCore c {}).replace c) := by
  refine congrArg Host.Outcome.next ?_
  rw [mine]
  dsimp only
  rw [draining, sound]
  simp only [Bool.true_eq_false, Bool.false_eq_true, false_or]

end

theorem anyDirty_iff (k : Core) : k.anyDirty (fun _ => true) = true ↔ ∃ y ∈ k.cache, y.dirty ≠ 0 := by
  simp [Core.anyDirty]

/-- The write-backs of a flush that keeps the sectors: they are clean, and the rest of the core and the partitions are as before. -/
theorem flush_keeps (s : State) (c : Nat) (vf : BitVec 4) :
    let t := s.flush c (fun _ => true) false
    t.mem = s.mem ∧ t.part vf = s.part vf ∧
      t.core c = { s.core c with cache := updWhere (fun _ => true) (fun x => { x with dirty := 0 }) (s.core c).cache } := by
  obtain ⟨net, next, launches, e⟩ := sendBacks_eq s c ((s.core c).cache.filter (fun _ => true))
  refine ⟨State.flush_mem .., ?_, ?_⟩
  · rw [State.flush, e]
    rfl
  · rw [State.flush, e, State.core_modCore_same]
    rfl

theorem not_withdrawn {b : Block} (noAcq : ∀ id, b ≠ .acq id) (noLoad : ∀ eb d base es, b ≠ .vload eb d base es) : b.withdrawn = false := by
  unfold Block.withdrawn
  split
  · exact absurd rfl (noAcq _)
  · exact absurd rfl (noLoad _ _ _ _)
  · rfl

/-- The module in which a context has joined the save area and its core is free. -/
def State.withSaved (s : State) (vf : BitVec 4) (c : Nat) (x : Saved) : State := (s.modPart vf (fun p => { p with saved := p.saved ++ [x] })).setCore c {}

theorem part_withSaved (s : State) (vf : BitVec 4) (c : Nat) (x : Saved) : ((s.withSaved vf c x).part vf).saved = (s.part vf).saved ++ [x] := by
  have same : (s.withSaved vf c x).part vf = (s.modPart vf (fun p => { p with saved := p.saved ++ [x] })).part vf := rfl
  rw [same, part_modPart, if_pos rfl]

theorem noReplacement_congr {s t : State} {c : Nat} (clusters : t.clusters = s.clusters) (dies : t.dies = s.dies) (stays : s.noReplacement c) : t.noReplacement c := by
  simp only [State.noReplacement, State.cluster, State.die, clusters, dies]
  exact stays

section
variable {s : State} {c : Nat} {vf : BitVec 4} (mine : (s.core c).vf = some vf) (draining : (s.core c).draining = true)
  (sound : (s.part vf).rolledBack = false) (drained : s.drained c = true) (clean : ∀ y ∈ (s.core c).cache, y.dirty = 0)
include mine draining sound drained clean

theorem exec_contextSave_saved (home : s.backsPending c = false) (posted : s.postedDone c = true) : exec (.contextSave c) s = .next
    ((((s.accrueCore c).withdrawReqs c).withSaved vf c (((s.accrueCore c).withdrawReqs c).core c).toSave).replace c) := by
  have unflushed : ¬(s.core c).anyDirty (fun _ => true) = true :=
    fun h => by obtain ⟨y, member, dirty⟩ := (anyDirty_iff _).1 h; exact dirty (clean y member)
  refine (exec_contextSave_mine mine draining sound).trans (congrArg Host.Outcome.next ?_)
  rw [if_neg (ne_false_of_eq_true drained), if_neg unflushed, home, posted]
  exact if_neg Bool.false_ne_true

end

/-- What the module is like when a context is about to join the save area. -/
structure ReadyToSave (s u : State) (c : Nat) : Prop where
  net : u.net = s.net.filter (fun r => !r.unawaited c)
  mem : u.mem = s.mem
  partitions : u.partitions = s.partitions
  clusters : u.clusters = s.clusters
  dies : u.dies = s.dies
  core : u.core c = { s.core c with harts := (u.core c).harts }
  counted : ∃ f : BitVec 2 → Nat → Nat, ∀ h, (u.core c).hart h = ((s.core c).hart h).accrued (f h)

theorem readyToSave_of_counted {s v : State} {c : Nat} (only : OnlyHarts s v c)
    (counted : ∃ f : BitVec 2 → Nat → Nat, ∀ h, (v.core c).hart h = ((s.core c).hart h).accrued (f h)) :
    ReadyToSave s { v with net := v.net.filter (fun r => !r.unawaited c) } c :=
  ⟨congrArg (List.filter (fun r => !r.unawaited c)) only.net, only.mem, only.partitions, only.clusters, only.dies, only.core, counted⟩

section
variable {s : State} {c : Nat} (blocks : ∀ h b, ((s.core c).hart h).block = some b → b.withdrawn = false)
include blocks

theorem blocks_accrueCore (h : BitVec 2) (b : Block) (eq : ((s.accrueCore c).hartOf c h).block = some b) : b.withdrawn = false := by
  obtain ⟨-, f, counted⟩ := accrueCore_harts s c
  rw [State.hartOf, counted, block_accrued] at eq
  exact blocks h b eq

theorem readyToSave : ReadyToSave s ((s.accrueCore c).withdrawReqs c) c := by
  obtain ⟨only, counted⟩ := accrueCore_harts s c
  rw [withdrawReqs_none (blocks_accrueCore blocks)]
  exact readyToSave_of_counted only counted

end

/-- The save itself: the counters count up, the context joins the save area, and the core is free. -/
theorem contextSave_saves {s : State} {c : Nat} {vf : BitVec 4} (mine : (s.core c).vf = some vf) (draining : (s.core c).draining = true)
    (sound : (s.part vf).rolledBack = false) (drained : s.drained c = true) (clean : ∀ y ∈ (s.core c).cache, y.dirty = 0) (home : s.backsPending c = false)
    (posted : s.postedDone c = true) (stays : s.noReplacement c) (blocks : ∀ h b, ((s.core c).hart h).block = some b → b.withdrawn = false) :
    ∃ (t : State) (k : Core), exec (.contextSave c) s = .next t ∧ t.core c = {} ∧ (t.part vf).saved = (s.part vf).saved ++ [k.toSave] ∧ t.mem = s.mem ∧
      t.net = s.net.filter (fun r => !r.unawaited c) ∧ (∃ f : BitVec 2 → Nat → Nat, ∀ h, k.hart h = ((s.core c).hart h).accrued (f h)) ∧
      k = { s.core c with harts := k.harts } := by
  have run := exec_contextSave_saved mine draining sound drained clean home posted
  have ready := readyToSave blocks
  generalize (s.accrueCore c).withdrawReqs c = u at run ready
  rw [replace_none (noReplacement_congr (s := s) (t := u.withSaved vf c (u.core c).toSave) ready.clusters ready.dies stays)] at run
  have saved : (u.part vf).saved = (s.part vf).saved := congrArg Partition.saved (part_of_partitions ready.partitions vf)
  exact ⟨_, u.core c, run, State.core_setCore_same .., (part_withSaved ..).trans (congrArg (· ++ [(u.core c).toSave]) saved), ready.mem, ready.net,
    ready.counted, ready.core⟩

/-! Resuming. -/

theorem rearm_idle {s : State} {c : Nat} {h : BitVec 2} (free : (s.hartOf c h).block = none) (none : (s.hartOf c h).arrPend = 0) : s.rearm c h = s := by
  have noPass : s.mayPass c h = false := by simp [State.mayPass, none]
  have pass : execArrivalPass c h s = .next s := congrArg Host.Outcome.next (if_neg (ne_true_of_eq_false noPass))
  unfold State.rearm
  rw [pass]
  dsimp only [outState]
  rw [free]

/-- A core none of whose harts waits or has an arrival is not changed when its harts are woken. -/
theorem rearm_all_idle {s : State} {c : Nat} (idle : ∀ h, (s.hartOf c h).block = none ∧ (s.hartOf c h).arrPend = 0) :
    hartNos.foldl (fun t h => t.rearm c h) s = s :=
  List.foldl_fixed' (fun h => rearm_idle (idle h).1 (idle h).2) _

/-- The saved core, with the pending COUNTER_OVF of its harts held (21 R422). -/
def Saved.waking (x : Saved) : Core := { x.core with harts := vmap Hart.resumed x.core.harts }

theorem hart_waking (x : Saved) (h : BitVec 2) : x.waking.hart h = (x.core.hart h).resumed := by
  simp only [Saved.waking, Core.hart, Vector.get_eq_getElem, getElem_vmap]

theorem tokens_drainOverflow (k : Core) (ms kept : List Msg) : (drainOverflow k ms kept).tokens = k.tokens := by
  induction ms generalizing k kept with
  | nil => rfl
  | cons m ms ih =>
    rw [drainOverflow]
    split
    · exact ih k _
    · exact ih _ _

theorem promoteHold_none {k : Core} (none : k.hold = []) : k.promoteHold = { k with hold := [] } := by
  rw [Core.promoteHold, none]
  rfl

theorem giveTokens_none {k : Core} (none : k.tokens = []) : k.giveTokens = { k with tokens := [] } := by
  rw [Core.giveTokens, none]
  rfl

theorem emptied_eq {k : Core} (noOverflow : k.overflow = []) (noTokens : k.tokens = []) :
    { k with overflow := [], hold := [], tokens := [] } = { k with hold := [] } := by
  cases k
  cases noOverflow
  cases noTokens
  rfl

/-- A context that comes back with one message of its overflow queue written. -/
def Saved.given (x : Saved) (m : Msg) : Core :=
  { x.waking.modHart m.hart (fun h => (h.wm m.reg m.value).setFull m.reg true) with overflow := [], hold := [], tokens := [] }

theorem hart_given_same (x : Saved) (m : Msg) : (x.given m).hart m.hart = ((x.core.hart m.hart).resumed.wm m.reg m.value).setFull m.reg true := by
  rw [← hart_waking]
  exact Core.hart_setHart_same ..

theorem hart_given_other (x : Saved) (m : Msg) {h : BitVec 2} (other : h ≠ m.hart) : (x.given m).hart h = (x.core.hart h).resumed := by
  rw [← hart_waking]
  exact Core.hart_setHart_other _ _ other

/-- A message that is written blocks no hart and leaves no arrival. -/
theorem given_idle {x : Saved} {m : Msg} {h : BitVec 2} (idle : (x.core.hart h).block = none ∧ (x.core.hart h).arrPend = 0) :
    ((x.given m).hart h).block = none ∧ ((x.given m).hart h).arrPend = 0 := by
  by_cases same : h = m.hart
  · subst same
    rw [hart_given_same]
    exact idle
  · rw [hart_given_other x m same]
    exact idle

section
variable {x : Saved} (noHold : x.hold = []) (noTokens : x.core.tokens = [])
include noHold noTokens

/-- With nothing in the hold and nothing of its engines waiting, a context is delivered its overflow queue alone. -/
theorem restored_overflow : x.restored = { drainOverflow x.waking x.core.overflow [] with hold := [], tokens := [] } := by
  have left : { drainOverflow x.waking x.core.overflow [] with hold := [] }.tokens = [] := (tokens_drainOverflow ..).trans noTokens
  show ({ drainOverflow x.waking x.core.overflow [] with hold := x.hold }.promoteHold).giveTokens = _
  rw [noHold, promoteHold_none rfl, giveTokens_none left]

theorem restored_empty (noOverflow : x.core.overflow = []) : x.restored = { x.waking with hold := [] } := by
  rw [restored_overflow noHold noTokens, noOverflow]
  exact emptied_eq (k := x.waking) noOverflow noTokens

/-- A message of the overflow queue for an empty register that no binding reads is written there. -/
theorem restored_one {m : Msg} (one : x.core.overflow = [m]) (idle : (x.core.hart m.hart).arrPend = 0) (empty : (x.core.hart m.hart).isFull m.reg = false)
    (unread : ∀ n, ((x.core.hart m.hart).slot n).valid = true → ((x.core.hart m.hart).slot n).sources.contains (.m m.reg) = false) :
    x.restored = x.given m := by
  have free : (x.waking.hart m.hart).taken m.reg = false := by
    have idle : ((x.core.hart m.hart).resumed).arrPend = 0 := idle
    have empty : ((x.core.hart m.hart).resumed).isFull m.reg = false := empty
    rw [hart_waking, Hart.taken, idle, empty]
    simp [bit]
  have still : ¬(x.waking.hart m.hart).changesSource m.reg m.value := by
    rw [hart_waking]
    rintro ⟨-, n, valid, reads⟩
    exact Bool.false_ne_true ((unread n valid).symm.trans reads)
  rw [restored_overflow noHold noTokens, one, drainOverflow]
  simp only [List.any_nil, free, Bool.or_self, Bool.false_eq_true, if_false, drainOverflow]
  rw [Core.modHart, arrive_writes still]
  rfl

end

section
variable {s : State} {vf : BitVec 4} {slot c : Nat} {x : Saved} (saved : (s.part vf).saved[slot]? = some x) (resident : (s.part vf).resident = true)
  (noRequest : (s.part vf).requested = none) (noSwitch : (s.part vf).switchTo = none)
  (place : s.physCore vf x.core.vx.toNat x.core.vy.toNat x.core.vc.toNat = some c)
include saved resident noRequest noSwitch place

/-- RESUME of a saved context that the partition may take back (R379). -/
theorem exec_resume_saved : exec (.resume vf slot) s = .next
    (if (s.core c).vf.isSome ∨ s.usable c = false ∨ s.outranked vf c (s.corePrio x.core) = true then s
      else hartNos.foldl (fun s h => s.rearm c h) ((s.modPart vf (fun p => { p with saved := p.saved.eraseIdx slot })).setCore c x.restored)) := by
  refine congrArg Host.Outcome.next ?_
  rw [saved]
  dsimp only
  rw [resident, noRequest, noSwitch, if_neg (by simp), place]

theorem exec_resume_kept (h : (s.core c).vf.isSome = true ∨ s.outranked vf c (s.corePrio x.core) = true) : exec (.resume vf slot) s = .next s :=
  (exec_resume_saved saved resident noRequest noSwitch place).trans (congrArg Host.Outcome.next (if_pos (h.imp_right .inr)))

theorem exec_resume_runs (free : (s.core c).vf = none) (usable : s.usable c = true) (first : s.outranked vf c (s.corePrio x.core) = false) :
    exec (.resume vf slot) s = .next
      (hartNos.foldl (fun s h => s.rearm c h) ((s.modPart vf (fun p => { p with saved := p.saved.eraseIdx slot })).setCore c x.restored)) := by
  refine (exec_resume_saved saved resident noRequest noSwitch place).trans (congrArg Host.Outcome.next (if_neg ?_))
  rw [free, usable, first]
  simp

end

/-- A ready head of higher PRIO that needs a core of this kind outranks the saved context (log 45). -/
theorem outranked_of_head {s : State} {vf : BitVec 4} {c prio : Nat} {q : BitVec 3} {l : Launch} (head : s.headOf vf q = some l) (ready : s.ready l = true)
    (higher : prio < l.prio) (needs : l.needs l.placed = none ∨ l.needs l.placed = some (isW c)) : s.outranked vf c prio = true := by
  have every : ∀ q : BitVec 3, q ∈ queueNos := by decide
  refine List.any_eq_true.2 ⟨l, List.mem_filterMap.2 ⟨q, every q, head⟩, ?_⟩
  have takes : l.takes (isW c) = true := by
    rcases needs with h | h <;> simp [Launch.takes, h]
  simp [ready, higher, takes]

/-- Settles O49: the guards of the three events, the save with its counters, and the delivery of what waited. -/
theorem evictionAndResume : Obligations.EvictionAndResume := by
  unfold Obligations.EvictionAndResume
  intro s c slot vf x k p
  refine ⟨fun mine marked idle sound => ⟨?evicts, ?waits⟩, fun mine draining sound => ⟨?busy, ?dirty, ?pending, ?saves⟩,
    fun saved resident noRequest noSwitch place => ⟨?taken, ?outranked, fun free usable first => ?resumes⟩⟩
  case evicts => exact fun all => (exec_eviction_marked mine marked idle sound).trans (congrArg Host.Outcome.next (if_pos all))
  case waits => exact fun some => (exec_eviction_marked mine marked idle sound).trans (congrArg Host.Outcome.next (if_neg (ne_true_of_eq_false some)))
  case busy => exact fun busy => (exec_contextSave_mine mine draining sound).trans (congrArg Host.Outcome.next (if_pos busy))
  case dirty =>
    intro drained dirty
    obtain ⟨mem, part, core⟩ := flush_keeps s c vf
    refine ⟨_, (exec_contextSave_mine mine draining sound).trans (congrArg Host.Outcome.next
      ((if_neg (ne_false_of_eq_true drained)).trans (if_pos ((anyDirty_iff _).2 dirty)))), mem, part, ?_⟩
    rw [core]
    refine ⟨mine, rfl, rfl, draining, fun y member => ?_⟩
    obtain ⟨z, -, rfl⟩ := List.mem_map.1 member
    rfl
  case pending =>
    intro drained clean pending
    have unflushed : ¬k.anyDirty (fun _ => true) = true :=
      fun h => by obtain ⟨y, member, dirty⟩ := (anyDirty_iff _).1 h; exact dirty (clean y member)
    have waits : (s.backsPending c || !s.postedDone c) = true := by
      rcases pending with h | h <;> simp [h]
    exact (exec_contextSave_mine mine draining sound).trans (congrArg Host.Outcome.next
      ((if_neg (ne_false_of_eq_true drained)).trans ((if_neg unflushed).trans (if_pos waits))))
  case saves =>
    intro drained clean home posted stays blocks
    have kept (h : BitVec 2) (b : Block) (eq : (k.hart h).block = some b) : b.withdrawn = false :=
      not_withdrawn (fun id e => (blocks h id 0 0 0 []).1 (eq.trans (congrArg some e))) (fun eb d base es e => (blocks h 0 eb d base es).2 (eq.trans (congrArg some e)))
    obtain ⟨t, m, run, here, joined, mem, net, counted, core⟩ := contextSave_saves mine draining sound drained clean home posted stays kept
    refine ⟨t, m.toSave, run, here, joined, mem, net, counted, ?_⟩
    rw [core]
    exact ⟨rfl, rfl, rfl, rfl, rfl, rfl, rfl, rfl, rfl, rfl⟩
  case taken =>
    exact fun taken => exec_resume_kept saved resident noRequest noSwitch place (.inl (Option.isSome_iff_ne_none.2 taken))
  case outranked =>
    exact fun q l head ready higher needs =>
      exec_resume_kept saved resident noRequest noSwitch place (.inr (outranked_of_head head ready higher needs))
  case resumes =>
    intro harts t idle
    have run := exec_resume_runs saved resident noRequest noSwitch place free usable first
    refine ⟨run, fun noOverflow noHold quiet => ?_, fun m one noHold quiet empty unread => ?_⟩
    · obtain ⟨noTokens, still⟩ := quiet
      rw [restored_empty noHold noTokens noOverflow, rearm_all_idle (fun h => ?_)] at run
      · have same : harts = vmap Hart.resumed x.core.harts := (vmap_eq ..).symm
        rw [same]
        exact run
      · rw [State.hartOf, State.core_setCore_same]
        exact (hart_waking x h).symm ▸ still h
    · obtain ⟨noTokens, still⟩ := quiet
      rw [restored_one noHold noTokens one (still m.hart).2 empty unread, rearm_all_idle (fun h => ?_)] at run
      · refine ⟨_, run, ?_, ?_⟩
        · have part : (t.setCore c (x.given m)).part vf = t.part vf := rfl
          rw [part, part_modPart, if_pos rfl]
        · rw [State.core_setCore_same, hart_given_same]
          refine ⟨rfl, ?_, (Hart.isFull_setFull ..).trans (if_pos rfl)⟩
          exact (Hart.rm_wm ..).trans (if_pos rfl)
      · rw [State.hartOf, State.core_setCore_same]
        exact given_idle (still h)

end Sys2Proof.Machine
end

section
/-! SUPPORT. Submissions of hosts (23 R443), and which core is freed for a ready head (18 R378). -/

namespace Sys2Proof.Machine

/-! A host's submission. -/

section
variable {s : State} {vf : BitVec 4} {endpoint : Nat} {send : HostSend}

theorem exec_hostSubmission_stranger (h : (s.part vf).valid = false ∨ endpoint ∉ (s.part vf).endpoints) :
    exec (.hostSubmission vf endpoint send) s = .next (s.tellHost (.transportError endpoint 0x06)) := by
  refine congrArg Host.Outcome.next (if_pos (h.imp_right fun out => ?_))
  rwa [← Bool.not_eq_true, List.contains_iff_mem]

section
variable (valid : (s.part vf).valid = true) (registered : endpoint ∈ (s.part vf).endpoints)
include valid registered

theorem known_endpoint : ¬((s.part vf).valid = false ∨ (s.part vf).endpoints.contains endpoint = false) := by
  rintro (h | h)
  · exact Bool.false_ne_true (h.symm.trans valid)
  · exact Bool.false_ne_true (h.symm.trans (List.contains_iff_mem.2 registered))

theorem exec_hostSubmission_unsupported (h : send.delivery ≠ .rud ∨ send.bytes.length ≠ 80) :
    exec (.hostSubmission vf endpoint send) s = .next (s.tellHost (.transportError endpoint 0x04)) :=
  congrArg Host.Outcome.next ((if_neg (known_endpoint valid registered)).trans (if_pos h))

variable (supported : send.delivery = .rud) (size : send.bytes.length = 80)
include supported size

theorem exec_hostSubmission_invalid {f : Nat × Nat} (fault : s.recordFault vf (leOfBytes send.bytes % 2 ^ 512) true = some f) :
    exec (.hostSubmission vf endpoint send) s = .next (s.tellHost (.answer endpoint (answerBytes 0 f.1))) := by
  refine congrArg Host.Outcome.next ((if_neg (known_endpoint valid registered)).trans ((if_neg (by simp [supported, size])).trans ?_))
  rw [fault]

theorem exec_hostSubmission_valid (sound : s.recordFault vf (leOfBytes send.bytes % 2 ^ 512) true = none) :
    let n := leOfBytes send.bytes
    let r := n % 2 ^ 512
    let t := s.submit vf (BitVec.ofNat 512 r) 0 (.host endpoint (BitVec.ofNat 64 (bits n 575 512)) (BitVec.ofNat 64 (bits n 639 576)))
      (BitVec.ofNat 64 (bits r 255 192)) []
    exec (.hostSubmission vf endpoint send) s = .next (t.1.tellHost (.answer endpoint (answerBytes t.2 (if t.2 = 0 then 16 else 0)))) := by
  refine congrArg Host.Outcome.next ((if_neg (known_endpoint valid registered)).trans ((if_neg (by simp [supported, size])).trans ?_))
  rw [sound]

end
end

/-! The core that is freed. -/

/-- A core that may be freed for a launch: of a kind that it lacks, and of lower PRIO. -/
def State.frees (s : State) (l : Launch) (e : Nat × Core) : Bool :=
  e.2.vf == some l.vf && e.2.hostsPart l.vf && !e.2.marked && decide (s.corePrio e.2 < l.prio) && s.lacksCore l (isW e.1)

theorem frees_iff (s : State) (l : Launch) (e : Nat × Core) : s.frees l e = true ↔
    e.2.vf = some l.vf ∧ e.2.hostsPart l.vf = true ∧ e.2.marked = false ∧ s.corePrio e.2 < l.prio ∧ s.lacksCore l (isW e.1) = true := by
  simp only [State.frees, Bool.and_eq_true, beq_iff_eq, Bool.not_eq_true', decide_eq_true_eq, and_assoc]

/-- The better of two cores to free: the lower PRIO, then the more recently placed. -/
def State.better (s : State) (best : Option (Nat × Nat × Nat)) (e : Nat × Core) : Option (Nat × Nat × Nat) :=
  let at_ := ((s.launchOf e.2.launch).map Launch.placedAt).getD 0
  match best with
  | none => some (e.1, s.corePrio e.2, at_)
  | some b => if s.corePrio e.2 < b.2.1 ∨ (s.corePrio e.2 = b.2.1 ∧ b.2.2 < at_) then some (e.1, s.corePrio e.2, at_) else best

theorem victimCore_eq (s : State) (l : Launch) : s.victimCore l = (((s.cores.filter (s.frees l)).foldl s.better none).map (·.1)) := rfl

/-- A core of a list with its PRIO, no greater than any other of the list. -/
structure State.Least (s : State) (es : List (Nat × Core)) (b : Nat × Nat × Nat) : Prop where
  mem : ∃ e ∈ es, b.1 = e.1 ∧ b.2.1 = s.corePrio e.2
  least : ∀ d ∈ es, b.2.1 ≤ s.corePrio d.2

theorem better_least {s : State} {es : List (Nat × Core)} {b : Nat × Nat × Nat} (old : s.Least es b) (e : Nat × Core) :
    ∃ b', s.better (some b) e = some b' ∧ s.Least (es ++ [e]) b' := by
  obtain ⟨⟨d, member, no, prio⟩, least⟩ := old
  unfold State.better
  extract_lets at_
  dsimp only
  split
  next lower =>
    refine ⟨_, rfl, ⟨e, by simp, rfl, rfl⟩, fun d member => ?_⟩
    rcases List.mem_append.1 member with member | member
    · have := least d member
      dsimp only
      omega
    · rw [List.mem_singleton.1 member]
  next higher =>
    refine ⟨b, rfl, ⟨d, List.mem_append_left _ member, no, prio⟩, fun d member => ?_⟩
    rcases List.mem_append.1 member with member | member
    · exact least d member
    · rw [List.mem_singleton.1 member]
      omega

theorem foldl_better_least {s : State} (ds : List (Nat × Core)) {es : List (Nat × Core)} {b : Nat × Nat × Nat} (old : s.Least es b) :
    ∃ b', ds.foldl s.better (some b) = some b' ∧ s.Least (es ++ ds) b' := by
  induction ds generalizing es b with
  | nil => exact ⟨b, rfl, by rwa [List.append_nil]⟩
  | cons d ds ih =>
    obtain ⟨b', step, least⟩ := better_least old d
    obtain ⟨b'', rest, least⟩ := ih least
    exact ⟨b'', by rw [List.foldl_cons, step, rest], by rwa [List.append_assoc] at least⟩

theorem victimCore_none {s : State} {l : Launch} (none : ∀ e ∈ s.cores, ¬s.frees l e = true) : s.victimCore l = .none := by
  rw [victimCore_eq, List.filter_eq_nil_iff.2 none]
  rfl

/-- Where a core may be freed, one of the lowest PRIO is. -/
theorem victimCore_some {s : State} {l : Launch} (some : ∃ e ∈ s.cores, s.frees l e = true) :
    ∃ e ∈ s.cores, s.frees l e = true ∧ (∀ d ∈ s.cores, s.frees l d = true → s.corePrio e.2 ≤ s.corePrio d.2) ∧ s.victimCore l = .some e.1 := by
  obtain ⟨e, member, frees⟩ := some
  have nonempty : s.cores.filter (s.frees l) ≠ [] := List.ne_nil_of_mem (List.mem_filter.2 ⟨member, frees⟩)
  obtain ⟨d, ds, cons⟩ := List.exists_cons_of_ne_nil nonempty
  have first : s.Least [d] (d.1, s.corePrio d.2, ((s.launchOf d.2.launch).map Launch.placedAt).getD 0) :=
    ⟨⟨d, List.mem_singleton_self d, rfl, rfl⟩, fun x member => by rw [List.mem_singleton.1 member]⟩
  obtain ⟨b, found, ⟨x, inside, no, prio⟩, least⟩ := foldl_better_least ds first
  rw [List.singleton_append, ← cons] at inside least
  obtain ⟨inside, may⟩ := List.mem_filter.1 inside
  refine ⟨x, inside, may, fun y member frees => ?_, ?_⟩
  · rw [← prio]
    exact least y (List.mem_filter.2 ⟨member, frees⟩)
  · rw [victimCore_eq, cons, List.foldl_cons, ← no]
    exact congrArg (Option.map (·.1)) found

end Sys2Proof.Machine
end

section
/-! SUPPORT. The placement of groups on a core (18 R366 to R369; 02 R67). -/

namespace Sys2Proof.Machine

/-! How many groups a core takes. -/

theorem needs_outside {l : Launch} (outside : l.fclass = 0) (n m : Nat) : l.needs n = l.needs m := by
  simp [Launch.needs, outside]

theorem share_min {l : Launch} {w : Bool} (all : ∀ n, l.needs n = none ∨ l.needs n = some w) (n k : Nat) : l.share w n k = min k (l.groupsTotal - n) := by
  induction k generalizing n with
  | zero => simp [Launch.share]
  | succ k ih =>
    rw [Launch.share, ih]
    by_cases more : n < l.groupsTotal
    · rw [if_pos ⟨more, all n⟩]
      omega
    · rw [if_neg (fun h => more h.1)]
      omega

/-! The first core that qualifies. -/

theorem qualifies_needs {s : State} {l : Launch} {need : Option Bool} {e : Nat × Nat} (h : s.qualifies l need e = true) : need = none ∨ need = some (isW e.2) := by
  simp only [State.qualifies, Bool.and_eq_true, Bool.or_eq_true, Option.isNone_iff_eq_none, beq_iff_eq] at h
  obtain ⟨⟨-, kind⟩, -⟩ := h
  exact kind

theorem nextCore_needs {s : State} {l : Launch} {e : Nat × Nat} (next : s.nextCore l = some e) : l.needs l.placed = none ∨ l.needs l.placed = some (isW e.2) :=
  qualifies_needs (List.find?_some next)

/-! The harts of a new core. -/

theorem hart_setHarts (x : Nat → Hart) (k : Core) {m : Nat} (few : m ≤ 4) (h : BitVec 2) :
    ((List.range m).foldl (fun c i => c.setHart (BitVec.ofNat 2 i) (x i)) k).hart h = if h.toNat < m then x h.toNat else k.hart h := by
  induction m with
  | zero => rfl
  | succ m ih =>
    rw [List.range_succ, List.foldl_append, List.foldl_cons, List.foldl_nil]
    by_cases last : h = BitVec.ofNat 2 m
    · have no : h.toNat = m := by rw [last, BitVec.toNat_ofNat, Nat.mod_eq_of_lt (by omega)]
      rw [← last, Core.hart_setHart_same, no, if_pos (Nat.lt_succ_self m)]
    · have no : h.toNat ≠ m := fun e => last (by rw [← e, BitVec.ofNat_toNat, BitVec.setWidth_eq])
      rw [Core.hart_setHart_other _ _ last, ih (by omega)]
      have same : h.toNat < m + 1 ↔ h.toNat < m := by omega
      simp only [same]

theorem hart_newCore {l : Launch} {p : Partition} {v n k : Nat} {img : List Byte × List Byte} (few : k * l.hartsPer ≤ 4) {h : BitVec 2}
    (inside : h.toNat < k * l.hartsPer) : (l.newCore p v n k img).hart h = l.startHart p (n + h.toNat / l.hartsPer) (h.toNat % l.hartsPer) :=
  (hart_setHarts (fun i => l.startHart p (n + i / l.hartsPer) (i % l.hartsPer)) _ few h).trans (if_pos inside)

theorem vcore_newCore (l : Launch) (p : Partition) (v n k : Nat) (img : List Byte × List Byte) :
    (l.newCore p v n k img).vcore = v % (256 * 128 * 16) := by
  obtain ⟨m, hs, e⟩ := newCore_eq l p v n k img
  rw [e]
  simp only [Core.vcore, vcoreNo, vcX, vcY, vcC, BitVec.toNat_ofNat]
  omega

/-- The general registers at the start of a group (R369). -/
theorem startHart_registers (l : Launch) (p : Partition) (n i : Nat) (r : BitVec 5) : (l.startHart p n i).rg r =
    if r = 1 then l.arg else if r = 2 then BitVec.ofNat 64 n else if r = 3 then BitVec.ofNat 64 i else if r = 28 then 0xFFFFFFFFFF000000 else 0 := by
  by_cases h1 : r = 1
  · subst h1; rfl
  by_cases h2 : r = 2
  · subst h2; rfl
  by_cases h3 : r = 3
  · subst h3; rfl
  by_cases h28 : r = 28
  · subst h28; rfl
  rw [startHart_rg l p n i h1 h2 h3 h28, if_neg h1, if_neg h2, if_neg h3, if_neg h28]

/-! Placing on that core. -/

/-- A launch with k more groups on virtual core v, placed as the n-th. -/
def Launch.withGroups (l : Launch) (v k n : Nat) : Launch :=
  { l with placed := l.placed + k,
           groups := l.groups ++ (List.range k).map (fun i => { num := l.placed + i, vcore := v, base := i * l.hartsPer, harts := l.hartsPer }),
           state := .running, placedAt := n }

theorem dequeue_found {s : State} {l x : Launch} (found : s.launchOf l.id = some x) (total : x.groupsTotal = l.groupsTotal) : s.dequeue l =
    if x.placed = l.groupsTotal then
      s.modPart l.vf (fun p => { p with queues := vmap (fun q => q.filter (· != l.id)) p.queues, rotDie := (p.rotDie + 1) % 40 })
    else s := by
  rw [State.dequeue, found]
  dsimp only
  rw [total]

/-- What the placement of groups on a core leaves and makes. -/
structure Placed (s t : State) (l : Launch) (v c k : Nat) (img : List Byte × List Byte) : Prop where
  mem : t.mem = s.mem
  measured : t.measured = s.measured ++ [sha512 (s.imageBytes l)]
  launch : ∃ y, t.launches.find? (fun x => x.id == l.id) = some y ∧ y.state = .running ∧ y.placed = l.placed + k ∧
    y.groups = l.groups ++ (List.range k).map (fun i => { num := l.placed + i, vcore := v, base := i * l.hartsPer, harts := l.hartsPer })
  queues : ∀ j, (t.part l.vf).queue j =
    if l.placed + k = l.groupsTotal then ((s.part l.vf).queue j).filter (fun x => x != l.id) else (s.part l.vf).queue j
  core : t.core c = l.newCore (s.part l.vf) v l.placed k img

section
variable {s : State} {l : Launch} {v c : Nat} {img : List Byte × List Byte} (found : s.launchOf l.id = some l)
include found

/-- The module in which the groups of a launch have been placed on core c, before the launch leaves its queue. -/
theorem dequeue_placed (k : Nat) :
    let u : State := { s with order := s.order + 1, measured := s.measured ++ [sha512 (s.imageBytes l)] }
    let gs := (List.range k).map (fun q => ({ num := l.placed + q, vcore := v, base := q * l.hartsPer, harts := l.hartsPer } : GroupSt))
    Placed s (((u.setCore c (l.newCore (s.part l.vf) v l.placed k img)).modLaunch l.id (fun x =>
      { x with placed := x.placed + k, groups := x.groups ++ gs, state := .running, placedAt := u.order })).dequeue l) l v c k img := by
  intro u gs
  generalize eq : (u.setCore c (l.newCore (s.part l.vf) v l.placed k img)).modLaunch l.id (fun x =>
      { x with placed := x.placed + k, groups := x.groups ++ gs, state := .running, placedAt := u.order }) = w
  have here : w.launchOf l.id = some { l with placed := l.placed + k, groups := l.groups ++ gs, state := .running, placedAt := u.order } := by
    rw [← eq]
    exact find?_modLaunch (s := u.setCore c _) found (fun _ => by rfl)
  have core : w.core c = l.newCore (s.part l.vf) v l.placed k img := by
    rw [← eq]
    exact State.core_setCore_same ..
  have part : w.part l.vf = s.part l.vf := by rw [← eq]; rfl
  have mem : w.mem = s.mem := by rw [← eq]; rfl
  have measured : w.measured = s.measured ++ [sha512 (s.imageBytes l)] := by rw [← eq]; rfl
  clear eq
  rw [dequeue_found here rfl]
  by_cases all : l.placed + k = l.groupsTotal
  · rw [if_pos all]
    refine ⟨mem, measured, ⟨_, here, rfl, rfl, rfl⟩, fun j => ?_, core⟩
    rw [part_modPart, if_pos rfl, part, if_pos all, Partition.queue, Partition.queue, Vector.get_eq_getElem, getElem_vmap, Vector.get_eq_getElem]
  · rw [if_neg all]
    refine ⟨mem, measured, ⟨_, here, rfl, rfl, rfl⟩, fun j => ?_, core⟩
    rw [part, if_neg all]

/-- A launch whose groups need one kind of core is placed on the first core that qualifies, as many of its groups as that takes (R368). -/
theorem placed_placeLaunch (next : s.nextCore l = some (v, c)) (single : l.dlev = 0) (outside : l.fclass = 0) :
    Placed s (s.placeLaunch l img) l v c (min (4 / l.hartsPer) (l.groupsTotal - l.placed)) img := by
  have all (n : Nat) : l.needs n = none ∨ l.needs n = some (isW c) := by
    rw [needs_outside outside n l.placed]
    exact nextCore_needs next
  have placed := dequeue_placed (img := img) (v := v) (c := c) found (l.share (isW c) l.placed (4 / l.hartsPer))
  rw [share_min all] at placed
  have run : s.placeLaunch l img = ((State.placeOn { s with order := s.order + 1, measured := s.measured ++ [sha512 (s.imageBytes l)] } l (v, c) img).1).dequeue l := by
    have next : State.nextCore { s with order := s.order + 1, measured := s.measured ++ [sha512 (s.imageBytes l)] } l = some (v, c) := next
    rw [State.placeLaunch, if_pos single, next]
    rfl
  rw [run, State.placeOn]
  dsimp only
  rw [share_min all]
  exact placed

end

/-! The first groups of a launch without an estimate. -/

theorem find?_updWhere_on {α : Type} {p q : α → Bool} {f : α → α} (same : ∀ e, p e = true → q (f e) = q e) (l : List α) :
    (updWhere p f l).find? q = (l.find? q).map (fun e => if p e then f e else e) := by
  induction l with
  | nil => rfl
  | cons e l ih =>
    have kept : q (if p e then f e else e) = q e := by
      split
      · exact same e ‹_›
      · rfl
    rw [updWhere, List.map_cons, List.find?_cons, List.find?_cons, kept]
    cases q e
    · exact ih
    · rfl

section
variable {s : State} {l m : Launch} (found : s.launchOf l.id = some l) (id : m.id = l.id)
include found id

/-- The launches after one has been replaced. -/
theorem launchOf_replaced (n : Nat) : (s.modLaunch l.id (fun _ => m)).launchOf n = if n = l.id then some m else s.launchOf n := by
  rw [State.modLaunch, State.launchOf]
  dsimp only
  rw [find?_updWhere_on (fun e h => by rw [id, ← eq_of_beq h])]
  split
  next same =>
    subst same
    have here : s.launches.find? (fun x => x.id == l.id) = some l := found
    rw [here, Option.map_some, if_pos (beq_self_eq_true _)]
  next other =>
    rw [← State.launchOf]
    cases eq : s.launchOf n with
    | none => rfl
    | some e =>
      have no : e.id = n := eq_of_beq (List.find?_some (p := fun x : Launch => x.id == n) eq)
      rw [Option.map_some, if_neg (by rw [no]; simpa using other)]

/-- A launch that keeps its record is placed where it would have been. -/
theorem nextCore_replaced (vf : m.vf = l.vf) (record : m.record = l.record) (placed : m.placed = l.placed) :
    (s.modLaunch l.id (fun _ => m)).nextCore m = s.nextCore l := by
  have prio (k : Core) : (s.modLaunch l.id (fun _ => m)).corePrio k = s.corePrio k := by
    rw [State.corePrio, State.corePrio, launchOf_replaced found id]
    split
    next same =>
      rw [same, found, Option.map_some, Option.map_some, Launch.prio, Launch.r, record]
      rfl
    next => rfl
  have needs : m.needs m.placed = l.needs l.placed := by
    rw [placed]
    unfold Launch.needs Launch.fclass Launch.outg Launch.kind Launch.r
    rw [record]
  have qualifies : (s.modLaunch l.id (fun _ => m)).qualifies m (m.needs m.placed) = s.qualifies l (l.needs l.placed) := by
    funext e
    rw [needs]
    simp only [State.qualifies, prio, vf, Launch.prio, Launch.r, record]
    rfl
  rw [State.nextCore, qualifies, vf, Launch.startDie, Launch.pdie, Launch.r, record]
  rfl

end

theorem physBytes_launches (s : State) (ls : List Launch) (pa n : Nat) : State.physBytes { s with launches := ls } pa n = s.physBytes pa n := by
  induction n generalizing pa with
  | zero => rfl
  | succ n ih => exact congrArg₂ List.cons rfl (ih _)

theorem vaBytes_launches (s : State) (ls : List Launch) (vf : BitVec 4) (va n : Nat) : State.vaBytes { s with launches := ls } vf va n = s.vaBytes vf va n := by
  induction n generalizing va with
  | zero => rfl
  | succ n ih =>
    have same : State.translate { s with launches := ls } vf va ⟨true, false⟩ = s.translate vf va ⟨true, false⟩ := rfl
    simp only [State.vaBytes, same, ih, physBytes_launches]

theorem imageBytes_replaced (s : State) {l m : Launch} (vf : m.vf = l.vf) (image : m.image = l.image) :
    (s.modLaunch l.id (fun _ => m)).imageBytes m = s.imageBytes l := by
  simp only [State.imageBytes, State.modLaunch, vaBytes_launches, vf, image]

/-- Reading an image changes nothing but Beline's log. -/
theorem vaWalked_eq (s : State) (vf : BitVec 4) (va n : Nat) : ∃ log, s.vaWalked vf va n = { s with belineLog := log } := by
  induction n generalizing va with
  | zero => exact ⟨s.belineLog, rfl⟩
  | succ n ih =>
    rw [State.vaWalked]
    split
    · unfold State.walked
      split
      · exact ⟨_, rfl⟩
      · exact ⟨s.belineLog, rfl⟩
    · exact ih _

theorem imageWalked_eq (s : State) (l : Launch) : ∃ log, s.imageWalked l = { s with belineLog := log } := by
  unfold State.imageWalked
  dsimp only
  split
  · exact vaWalked_eq ..
  · split
    · exact ⟨s.belineLog, rfl⟩
    · exact vaWalked_eq ..

/-- The launch without an estimate whose first groups are placed (20 R398). -/
def Launch.unestimated (l : Launch) : Launch := { l with est := none }

section
variable {s : State} {l : Launch} {v c : Nat} {img : List Byte × List Byte} (found : s.launchOf l.id = some l)
include found

/-- The groups of a launch that has started, or has no estimate, are placed as the record says. -/
theorem placed_startLaunch (next : s.nextCore l = some (v, c)) (single : l.dlev = 0) (outside : l.fclass = 0) (plain : l.placed ≠ 0 ∨ l.pparam = 0) :
    Placed s (s.startLaunch l img) l v c (min (4 / l.hartsPer) (l.groupsTotal - l.placed)) img := by
  by_cases started : l.placed ≠ 0
  · rw [State.startLaunch, if_pos started]
    exact placed_placeLaunch found next single outside
  · have none : s.loadEstimate l = .ok .none := if_pos (plain.resolve_left started)
    have run : s.startLaunch l img = (s.modLaunch l.id (fun _ => l.unestimated)).placeLaunch l.unestimated img := by
      rw [State.startLaunch, if_neg started, none]
      rfl
    have here : (s.modLaunch l.id (fun _ => l.unestimated)).launchOf l.unestimated.id = some l.unestimated :=
      (launchOf_replaced (m := l.unestimated) found rfl l.id).trans (if_pos rfl)
    have next : (s.modLaunch l.id (fun _ => l.unestimated)).nextCore l.unestimated = some (v, c) :=
      (nextCore_replaced (m := l.unestimated) found rfl rfl rfl rfl).trans next
    obtain ⟨mem, measured, launch, queues, core⟩ := placed_placeLaunch (img := img) here next single outside
    rw [imageBytes_replaced s (l := l) (m := l.unestimated) rfl rfl] at measured
    rw [run]
    exact ⟨mem, measured, launch, queues, core⟩

end

/-! GROUP_PLACEMENT of a ready head. -/

section
variable {s : State} {vf : BitVec 4} {q : BitVec 3} {l : Launch} (head : s.headOf vf q = some l)
include head

theorem launchOf_head : s.launchOf l.id = some l := by
  obtain ⟨n, -, found⟩ := Option.bind_eq_some_iff.1 head
  have same : l.id = n := eq_of_beq (List.find?_some (p := fun x : Launch => x.id == n) found)
  rw [same]
  exact found

variable (ready : s.ready l = true) (resident : (s.part vf).resident = true) (noRequest : (s.part vf).requested = none) (noSwitch : (s.part vf).switchTo = none)
include ready resident noRequest noSwitch

theorem exec_groupPlacement_ready : exec (.groupPlacement vf q) s = .next
    (if l.dlev ≠ 0 ∧ s.fits l = false then s.dismiss l .refused
      else if s.placeable l = false then s.markFor l
      else if (s.chosen vf).map Launch.id ≠ some l.id then s
      else match s.loadImage l with
        | .error o => (s.imageWalked l).failLaunch l.id 0 0x1C (BitVec.ofNat 32 o)
        | .ok img => s.startLaunch l img) := by
  refine congrArg Host.Outcome.next ?_
  rw [head]
  dsimp only
  rw [ready, resident, noRequest, noSwitch, if_neg (by simp)]
  rfl

end

/-- A refused launch has ended with its status (R368). -/
theorem find?_dismiss {s : State} {l : Launch} (found : s.launchOf l.id = some l) (st : Status) :
    ∃ y, (s.dismiss l st).launches.find? (fun x => x.id == l.id) = some y ∧ y.status = st ∧ y.state = .ended := by
  have judged : (s.unqueued l st).launches.find? (fun x => x.id == l.id) = some (l.judged st) :=
    find?_modLaunch (f := fun x => x.judged st) found (fun _ => rfl)
  have ending : ((s.unqueued l st).modLaunch (l.judged st).id Launch.ending).launches.find? (fun x => x.id == l.id) = some (l.judged st).ending :=
    find?_modLaunch judged (fun _ => rfl)
  rw [(sameLaunches_dismiss found st).launches, State.withEnd]
  split
  · exact ⟨_, ending, rfl, rfl⟩
  · rw [State.tellDependants]
    dsimp only
    rw [find?_updWhere (fun _ => by rfl), ending, Option.map_some]
    refine ⟨_, rfl, ?_, ?_⟩
    · split <;> rfl
    · split <;> rfl

/-- A launch whose image is bad fails (R369). -/
theorem image_fails {s : State} {l : Launch} (found : s.launchOf l.id = some l) (o c : Nat) :
    let t := (s.imageWalked l).failLaunch l.id 0 0x1C (BitVec.ofNat 32 o)
    t.core c = (s.core c).stopLaunch l.id ∧ ∃ y, t.launches.find? (fun x => x.id == l.id) = some y ∧ (l.status = .completed → y.status = .failed) ∧
      (l.failure = none → y.failure = some (0x1C, BitVec.ofNat 32 o, 0)) := by
  obtain ⟨log, e⟩ := imageWalked_eq s l
  rw [e]
  refine ⟨core_failLaunch .., ?_⟩
  obtain ⟨y, here, failure, status⟩ := find?_failLaunch (s := { s with belineLog := log }) (g := 0) (cause := 0x1C) (finfo := BitVec.ofNat 32 o) found
  exact ⟨y, here, fun done => status.trans (status_failed done ..), fun sound => failure.trans (failure_failed sound ..)⟩

/-- Settles O47: a submission by its checks, and the placement of a ready head by the branch that the statement's premises choose. -/
theorem submissionAndPlacement : Obligations.SubmissionAndPlacement := by
  unfold Obligations.SubmissionAndPlacement
  refine ⟨fun s vf endpoint send => ?submission, fun s vf q => ⟨_, rfl⟩, fun s vf q l => ?placement⟩
  case submission =>
    intro p n r told answer
    refine ⟨⟨_, rfl⟩, exec_hostSubmission_stranger, fun valid registered => ⟨exec_hostSubmission_unsupported valid registered,
      fun supported size => ⟨fun reason byte fault => exec_hostSubmission_invalid valid registered supported size fault, fun sound => ?_⟩⟩⟩
    have run := exec_hostSubmission_valid valid registered supported size sound
    intro j id new
    refine ⟨fun full => run.trans ?_, fun room => run.trans ?_⟩
    · rw [submit_full full]
      rfl
    · rw [submit_room room, if_neg (Nat.succ_ne_zero _)]
      rfl
  case placement =>
    intro p head ready mine resident noRequest noSwitch place
    subst mine
    have found := launchOf_head head
    have run := exec_groupPlacement_ready head ready resident noRequest noSwitch
    refine ⟨fun spans large => ?refused, fun fitting unplaceable => ?marks, fun fitting placeable other => ?waits, fun chosen single v c next => ?placed⟩
    case refused =>
      rw [if_pos ⟨spans, large⟩] at run
      obtain ⟨y, here, status, state⟩ := find?_dismiss found .refused
      exact ⟨_, y, run, here, status, state⟩
    case marks =>
      have fits : ¬(l.dlev ≠ 0 ∧ s.fits l = false) := fun h => fitting.elim h.1 (fun f => Bool.false_ne_true (h.2.symm.trans f))
      rw [if_neg fits, if_pos unplaceable, State.markFor] at run
      intro frees
      have may (e : Nat × Core) : frees e ↔ s.frees l e = true := (frees_iff s l e).symm
      refine ⟨fun none => ?_, fun some => ?_⟩
      · rw [run, victimCore_none (fun e member => (may e).not.1 (none e member))]
      · obtain ⟨e, member, free, least, victim⟩ := victimCore_some (some.imp fun e h => h.imp_right (may e).1)
        refine ⟨e, member, (may e).2 free, fun d inside h => least d inside ((may d).1 h), ?_⟩
        rw [run, victim]
    case waits =>
      have fits : ¬(l.dlev ≠ 0 ∧ s.fits l = false) := fun h => fitting.elim h.1 (fun f => Bool.false_ne_true (h.2.symm.trans f))
      rw [if_neg fits, if_neg (ne_false_of_eq_true placeable), if_pos other] at run
      exact run
    case placed =>
      have placeable : s.placeable l = true := by rw [State.placeable, if_pos single, next]; rfl
      rw [if_neg (fun h => h.1 single), if_neg (ne_false_of_eq_true placeable), chosen, if_neg (fun h => h rfl)] at run
      refine ⟨fun o bad => ?_, fun img good plain outside => ?_⟩
      · rw [bad] at run
        obtain ⟨core, y, here, status, failure⟩ := image_fails found o c
        exact ⟨_, y, run, core, here, status, failure⟩
      · intro k
        have run : exec place s = .next (s.startLaunch l img) := by rw [run, good]
        obtain ⟨mem, measured, ⟨y, here, state, placed, groups⟩, queues, core⟩ := placed_startLaunch (img := img) found next single outside plain
        have few : k * l.hartsPer ≤ 4 := (Nat.mul_le_mul_right _ (Nat.min_le_left ..)).trans (Nat.div_mul_le_self ..)
        obtain ⟨m, hs, fields⟩ := newCore_eq l (s.part l.vf) v l.placed k img
        refine ⟨_, y, run, mem, measured, here, state, placed, groups, ?_, ?_, ?_, ?_, ?_, fun h inside => ?_⟩
        · exact queues
        · rw [core, fields]
        · rw [core, vcore_newCore]
        · rw [core, fields, BitVec.toNat_ofNat]
        · rw [core, fields]
        · rw [core, hart_newCore few inside]
          exact ⟨rfl, rfl, rfl, rfl, startHart_registers l _ _ _⟩

end Sys2Proof.Machine
end

section
/-! SUPPORT. Requests of other modules (23 R438 to R441; 13 R448), and RMA operations of hosts (23 R435, R442). -/

namespace Sys2Proof.Machine

/-! Requests of other modules. -/

theorem fabricUnsupported_iff (r : FabricReq) : fabricUnsupported r = false ↔ r.delivery = .rud ∧ ∀ n, r.kind ≠ .atomic n := by
  unfold fabricUnsupported
  cases r.kind <;> simp

theorem peerAdmits_iff (entry : Word) (vf : BitVec 4) (load : Bool) : peerAdmits entry vf load = true ↔
    entry.msb = true ∧ bits entry.toNat 55 52 = vf.toNat ∧ (if load = true then bit entry.toNat 61 else bit entry.toNat 62) = true := by
  rw [peerAdmits, Bool.and_eq_true, Bool.and_eq_true, beq_iff_eq, and_assoc]

/-- The module in which a Transport error has gone to another module. -/
def State.toFabric (s : State) (module : BitVec 11) (cause : BitVec 8) : State := { s with fabricOut := s.fabricOut ++ [.error module cause] }

section
variable {s : State} {r : FabricReq}

theorem exec_fabricRequest_unsupported (h : fabricUnsupported r = true) : exec (.fabricRequest r) s = .next (s.toFabric r.module 0x04) :=
  congrArg Host.Outcome.next (if_pos h)

section
variable (supported : fabricUnsupported r = false)
include supported

theorem exec_fabricRequest_stranger
    (h : (s.part r.rvf).valid = false ∨ peerAdmits (mapGet (s.part r.rvf).peers r.module.toNat 0) r.senderVf (isFabricLoad r.kind) = false) :
    exec (.fabricRequest r) s = .next (s.toFabric r.module 0x06) :=
  congrArg Host.Outcome.next ((if_neg (ne_true_of_eq_false supported)).trans (if_pos h))

variable (valid : (s.part r.rvf).valid = true)
  (admitted : peerAdmits (mapGet (s.part r.rvf).peers r.module.toNat 0) r.senderVf (isFabricLoad r.kind) = true)
include valid admitted

/-- A request that its peer entry admits: the remap entry, the target's groups, and then the form are checked (13 R448). -/
theorem exec_fabricRequest_admitted : exec (.fabricRequest r) s = .next
    (if s.placed r.rvf (asOwn r.addr) = false then s.toFabric r.module 0x04
      else if s.hostsTarget r.rvf (asOwn r.addr) = false then s.toFabric r.module 0x06
      else if fabricForm r.kind (asOwn r.addr) = false then s.toFabric r.module 0x04
      else s.send { id := 0, src := .fabric r.module, cls := (fabricShape r.kind).1, kind := (fabricShape r.kind).2.1, ea := asOwn r.addr, vf := r.rvf,
                    launch := 0, off := 0, prog := false, stage := .sent }) := by
  refine congrArg Host.Outcome.next ((if_neg (ne_true_of_eq_false supported)).trans (if_neg ?_))
  rw [valid, admitted]
  simp

variable (placed : s.placed r.rvf (asOwn r.addr) = true) (hosted : s.hostsTarget r.rvf (asOwn r.addr) = true)
include placed hosted

theorem exec_fabricRequest_misformed (h : fabricForm r.kind (asOwn r.addr) = false) : exec (.fabricRequest r) s = .next (s.toFabric r.module 0x04) :=
  (exec_fabricRequest_admitted supported valid admitted).trans (congrArg Host.Outcome.next
    ((if_neg (ne_false_of_eq_true placed)).trans ((if_neg (ne_false_of_eq_true hosted)).trans (if_pos h))))

theorem exec_fabricRequest_goes (h : fabricForm r.kind (asOwn r.addr) = true) : exec (.fabricRequest r) s = .next
    (s.send { id := 0, src := .fabric r.module, cls := (fabricShape r.kind).1, kind := (fabricShape r.kind).2.1, ea := asOwn r.addr, vf := r.rvf,
              launch := 0, off := 0, prog := false, stage := .sent }) :=
  (exec_fabricRequest_admitted supported valid admitted).trans (congrArg Host.Outcome.next
    ((if_neg (ne_false_of_eq_true placed)).trans ((if_neg (ne_false_of_eq_true hosted)).trans (if_neg (ne_false_of_eq_true h)))))

end
end

/-! Forms of requests. -/

theorem fabricForm_misplaced {k : FabricKind} {a : Word} (h : formOk a (fabricShape k).2.2.1 (fabricShape k).2.2.2 = false) : fabricForm k a = false := by
  simp [fabricForm, h]

theorem fabricForm_masked (data : BitVec 128) (mask : BitVec 16) (a : Word) :
    fabricForm (.masked data mask) a = (formOk a 16 false && a.toNat % 16 == 0) := rfl

theorem fabricForm_message (v : Word) (a : Word) : fabricForm (.message v) a = formOk a 8 true := Bool.and_true _

theorem fabricForm_load {n : Nat} (pos : 1 ≤ n) (small : n ≤ 16) (a : Word) : fabricForm (.load n) a = formOk a n false := by
  have nonzero : n ≠ 0 := by omega
  simp [fabricForm, fabricShape, nonzero, small]

theorem fabricForm_store {bs : List Byte} (pos : 1 ≤ bs.length) (small : bs.length ≤ 16) (rel : Bool) (a : Word) :
    fabricForm (.store bs rel) a = formOk a bs.length false := by
  have nonzero : bs.length ≠ 0 := by omega
  simp [fabricForm, fabricShape, nonzero, small]

/-! RMA operations of hosts. -/

section
variable {s : State} {o : HostOp} {n : Nat}

theorem hostRefusal_stranger (h : ¬((s.part (keyVf o.key)).valid = true ∧ o.endpoint ∈ (s.part (keyVf o.key)).endpoints)) : s.hostRefusal o n = some 0x06 := by
  refine if_pos ?_
  rw [← List.contains_iff_mem] at h
  simpa [or_iff_not_and_not] using h

variable (mine : (s.part (keyVf o.key)).valid = true ∧ o.endpoint ∈ (s.part (keyVf o.key)).endpoints)
include mine

theorem hostRefusal_mine : s.hostRefusal o n =
    if o.atomic = true ∨ o.delivery ≠ .rud ∨ bits o.key.toNat 58 0 ≠ 0 ∨ 2 ^ 20 < n then some 0x04 else none := by
  refine if_neg ?_
  rw [mine.1, List.contains_iff_mem.2 mine.2]
  simp

theorem hostRefusal_unsupported (h : o.atomic = true ∨ o.delivery ≠ .rud ∨ bits o.key.toNat 58 0 ≠ 0) : s.hostRefusal o n = some 0x04 := by
  rw [hostRefusal_mine mine]
  refine if_pos ?_
  rcases h with h | h | h
  · exact .inl h
  · exact .inr (.inl h)
  · exact .inr (.inr (.inl h))

theorem hostRefusal_long (h : 2 ^ 20 < n) : s.hostRefusal o n = some 0x04 := by
  rw [hostRefusal_mine mine]
  exact if_pos (.inr (.inr (.inr h)))

theorem hostRefusal_none (plain : o.atomic = false) (rud : o.delivery = .rud) (key : bits o.key.toNat 58 0 = 0) (short : n ≤ 2 ^ 20) :
    s.hostRefusal o n = none := by
  rw [hostRefusal_mine mine]
  refine if_neg ?_
  rintro (h | h | h | h)
  · exact Bool.false_ne_true (plain.symm.trans h)
  · exact h rud
  · exact h key
  · omega

end

section
variable {s : State} {o : HostOp} {data : List Byte} {len : Nat}

theorem exec_hostWrite_refused {cause : BitVec 8} (h : s.hostRefusal o data.length = some cause) :
    exec (.hostRmaWrite o data) s = .next (s.tellHost (.transportError o.endpoint cause)) := by
  refine congrArg Host.Outcome.next ?_
  rw [h]

theorem exec_hostRead_refused {cause : BitVec 8} (h : s.hostRefusal o len = some cause) :
    exec (.hostRmaRead o len) s = .next (s.tellHost (.transportError o.endpoint cause)) := by
  refine congrArg Host.Outcome.next ?_
  rw [h]

theorem exec_hostWrite_taken (free : s.hostRefusal o data.length = none) : exec (.hostRmaWrite o data) s = .next
    (if s.hostHeld o data.length then s
      else if keyOwn o.key then s.hostPut o data
      else match s.piecesFault (keyVf o.key) ⟨false, true⟩ (piecesOf o.addr.toNat data.length) with
        | some cause => (s.piecesWalked (keyVf o.key) ⟨false, true⟩ (piecesOf o.addr.toNat data.length)).tellHost (.transportError o.endpoint cause)
        | none => ((s.writePieces (keyVf o.key) (piecesOf o.addr.toNat data.length) data).doorbell (keyVf o.key) o.addr.toNat data.length
            (leOfBytes data)).tellHost (.done o.endpoint)) := by
  refine congrArg Host.Outcome.next ?_
  rw [free] <;> rfl

theorem exec_hostRead_taken (free : s.hostRefusal o len = none) : exec (.hostRmaRead o len) s = .next
    (if s.hostHeld o len then s
      else if keyOwn o.key then
        match s.hostSpot (keyVf o.key) o.addr len false with
        | .error cause => s.tellHost (.transportError o.endpoint cause)
        | .ok (p, off) =>
          if (s.spotCore (keyVf o.key) p).spoisoned off len then s.tellHost (.transportError o.endpoint 0x07)
          else s.tellHost (.readData o.endpoint (bytesOfLE len ((s.spotCore (keyVf o.key) p).sread off len)))
      else match s.piecesFault (keyVf o.key) ⟨true, false⟩ (piecesOf o.addr.toNat len) with
        | some cause => (s.piecesWalked (keyVf o.key) ⟨true, false⟩ (piecesOf o.addr.toNat len)).tellHost (.transportError o.endpoint cause)
        | none =>
          let q := s.readPieces (keyVf o.key) (piecesOf o.addr.toNat len)
          if q.2.2 then q.1.tellHost (.transportError o.endpoint 0x07) else q.1.tellHost (.readData o.endpoint q.2.1)) := by
  refine congrArg Host.Outcome.next ?_
  rw [free] <;> rfl

/-! An operation that is held for a WAYSET (08 R187), which only one under a key of partitioned addresses can be. -/

theorem hostHeld_global (key : keyOwn o.key = false) : s.hostHeld o n = false := by
  rw [State.hostHeld, key, Bool.false_and]

theorem exec_hostWrite_held (free : s.hostRefusal o data.length = none) (held : s.hostHeld o data.length = true) : exec (.hostRmaWrite o data) s = .next s :=
  (exec_hostWrite_taken free).trans (congrArg Host.Outcome.next (if_pos held))

theorem exec_hostRead_held (free : s.hostRefusal o len = none) (held : s.hostHeld o len = true) : exec (.hostRmaRead o len) s = .next s :=
  (exec_hostRead_taken free).trans (congrArg Host.Outcome.next (if_pos held))

/-! A partitioned target. -/

section
variable (key : keyOwn o.key = true)
include key

theorem exec_hostWrite_own (free : s.hostRefusal o data.length = none) (loose : s.hostHeld o data.length = false) :
    exec (.hostRmaWrite o data) s = .next (s.hostPut o data) := by
  rw [exec_hostWrite_taken free, if_neg (ne_true_of_eq_false loose), if_pos key]

theorem exec_hostRead_own {p : Spot} {off : Nat} (free : s.hostRefusal o len = none) (loose : s.hostHeld o len = false)
    (spot : s.hostSpot (keyVf o.key) o.addr len false = .ok (p, off)) : exec (.hostRmaRead o len) s = .next
      (if (s.spotCore (keyVf o.key) p).spoisoned off len = true then s.tellHost (.transportError o.endpoint 0x07)
        else s.tellHost (.readData o.endpoint (bytesOfLE len ((s.spotCore (keyVf o.key) p).sread off len)))) := by
  rw [exec_hostRead_taken free, if_neg (ne_true_of_eq_false loose), if_pos key, spot]

end

theorem hostPut_scratch_refused {cause : BitVec 8} (window : namesWindow o.addr = false)
    (spot : s.hostSpot (keyVf o.key) o.addr data.length true = .error cause) : s.hostPut o data = s.tellHost (.transportError o.endpoint cause) := by
  simp only [State.hostPut, window, spot, Bool.false_eq_true, if_false]

theorem hostPut_scratch {p : Spot} {off : Nat} (window : namesWindow o.addr = false)
    (spot : s.hostSpot (keyVf o.key) o.addr data.length true = .ok (p, off)) : s.hostPut o data =
      (s.putSpot (keyVf o.key) p ((s.spotCore (keyVf o.key) p).swrite off data.length (leOfBytes data))).tellHost (.done o.endpoint) := by
  simp only [State.hostPut, window, spot, Bool.false_eq_true, if_false]

section
variable (window : namesWindow o.addr = true) (names : s.namesHere o.addr = true) (placed : s.placed (keyVf o.key) o.addr = true)
include window names placed

/-- A message to a hart of this module: its target is checked before its size and its form (13 R448). -/
theorem hostPut_window : s.hostPut o data =
    if s.hostsTarget (keyVf o.key) o.addr = false then s.tellHost (.transportError o.endpoint 0x06)
    else if data.length = 8 ∧ formOk o.addr 8 true = true then
      s.send { id := 0, src := .host o.endpoint, cls := .message, kind := .message (BitVec.ofNat 64 (leOfBytes data)), ea := asOwn o.addr,
               vf := keyVf o.key, launch := 0, off := 0, prog := false, stage := .sent }
    else s.tellHost (.transportError o.endpoint 0x04) := by
  refine (if_pos window).trans (if_neg ?_)
  rw [names, placed]
  simp

theorem hostPut_window_unhosted (hosted : s.hostsTarget (keyVf o.key) o.addr = false) : s.hostPut o data = s.tellHost (.transportError o.endpoint 0x06) := by
  rw [hostPut_window window names placed, if_pos hosted]

theorem hostPut_window_size (hosted : s.hostsTarget (keyVf o.key) o.addr = true) (size : data.length ≠ 8) :
    s.hostPut o data = s.tellHost (.transportError o.endpoint 0x04) := by
  rw [hostPut_window window names placed, if_neg (ne_false_of_eq_true hosted), if_neg (fun both => size both.1)]

theorem hostPut_message (hosted : s.hostsTarget (keyVf o.key) o.addr = true) (size : data.length = 8) (form : formOk o.addr 8 true = true) :
    s.hostPut o data = s.send { id := 0, src := .host o.endpoint, cls := .message, kind := .message (BitVec.ofNat 64 (leOfBytes data)), ea := asOwn o.addr,
                                vf := keyVf o.key, launch := 0, off := 0, prog := false, stage := .sent } := by
  rw [hostPut_window window names placed, if_neg (ne_false_of_eq_true hosted), if_pos ⟨size, form⟩]

end

/-! Global memory: a target of any number of sectors whose translation fails. -/

section
variable {cause : BitVec 8} (key : keyOwn o.key = false)
include key

theorem exec_hostWrite_fault (free : s.hostRefusal o data.length = none)
    (fault : s.piecesFault (keyVf o.key) ⟨false, true⟩ (piecesOf o.addr.toNat data.length) = some cause) : exec (.hostRmaWrite o data) s = .next
      ((s.piecesWalked (keyVf o.key) ⟨false, true⟩ (piecesOf o.addr.toNat data.length)).tellHost (.transportError o.endpoint cause)) := by
  rw [exec_hostWrite_taken free, hostHeld_global key, if_neg Bool.false_ne_true, key, if_neg Bool.false_ne_true, fault]

theorem exec_hostRead_fault (free : s.hostRefusal o len = none)
    (fault : s.piecesFault (keyVf o.key) ⟨true, false⟩ (piecesOf o.addr.toNat len) = some cause) : exec (.hostRmaRead o len) s = .next
      ((s.piecesWalked (keyVf o.key) ⟨true, false⟩ (piecesOf o.addr.toNat len)).tellHost (.transportError o.endpoint cause)) := by
  rw [exec_hostRead_taken free, hostHeld_global key, if_neg Bool.false_ne_true, key, if_neg Bool.false_ne_true, fault]

end

end

/-! Global memory: a target within one sector. -/

theorem piecesOf_single {a n : Nat} (pos : 1 ≤ n) (fits : a % 128 + n ≤ 128) : piecesOf a n = [(a, n)] := by
  have same : (a + n - 1) / 128 - a / 128 + 1 = 0 + 1 := by omega
  have first : max a (128 * (a / 128)) = a := by omega
  have last : min (a + n) (128 * (a / 128) + 128) - a = n := by omega
  rw [piecesOf, if_neg (by omega), same]
  simp only [upFrom, List.map_cons, List.map_nil, first, last]

section
variable {s : State} {vf : BitVec 4} {need : Need} {a n x y pa : Nat}

theorem piecesFault_single {cause : BitVec 8} (refused : s.homeOf vf a need = .error cause) : s.piecesFault vf need [(a, n)] = some cause := by
  simp only [State.piecesFault, List.findSome?_cons, refused]

theorem piecesWalked_single {cause : BitVec 8} (refused : s.homeOf vf a need = .error cause) : s.piecesWalked vf need [(a, n)] = s.walked vf a := by
  simp only [State.piecesWalked, List.find?_cons, refused]

theorem piecesFault_single_none (home : s.homeOf vf a need = .ok (x, y, pa)) : s.piecesFault vf need [(a, n)] = none := by
  simp only [State.piecesFault, List.findSome?_cons, home, List.findSome?_nil]

/-- The module once the slice (x, y) has fetched the sector of pa, where it lacked it (13 R309). -/
def State.sectorPresent (s : State) (vf : BitVec 4) (x y pa : Nat) : State := if s.sliceHit x y pa vf = true then s else (s.sliceFill x y pa vf).1

theorem sectorPresent_partitions : (s.sectorPresent vf x y pa).partitions = s.partitions := by
  unfold State.sectorPresent
  split
  · rfl
  · exact (sliceFill_net_partitions vf).2

/-- Where no request waits for the fill, an access of Beline is made as soon as the sector is present. -/
theorem atSector_alone (alone : s.fillWaiters x y pa = []) (f : State → State) : s.atSector x y pa vf f = f (s.sectorPresent vf x y pa) := by
  simp only [State.atSector, State.sectorPresent, State.fillReturn, alone, List.isEmpty_nil, Bool.and_true, List.filter_nil, List.foldl_nil]
  split <;> rfl

theorem writePieces_single {data : List Byte} (home : s.homeOf vf a ⟨false, true⟩ = .ok (x, y, pa)) (alone : s.fillWaiters x y pa = []) :
    s.writePieces vf [(a, data.length)] data = (s.sectorPresent vf x y pa).homeWrite x y pa data.length (leOfBytes data) := by
  simp only [State.writePieces, State.onHomeWrite, home, atSector_alone alone, List.take_length]

theorem readPieces_single (home : s.homeOf vf a ⟨true, false⟩ = .ok (x, y, pa)) (alone : s.fillWaiters x y pa = []) : s.readPieces vf [(a, n)] =
    let c := (s.sectorPresent vf x y pa).checkedAt x y pa
    (c, bytesOfLE n (c.homeRead x y pa n).1, (c.homeRead x y pa n).2) := by
  simp only [State.readPieces, State.onHome, home, atSector_alone alone, List.append_nil, Bool.or_false]

theorem doorbell_elsewhere {v : Nat} (other : (s.part vf).doorbell ≠ some a) : s.doorbell vf a n v = s :=
  if_neg (fun both => other both.2)

end

section
variable {s : State} {o : HostOp} {data : List Byte} {len x y pa : Nat} {cause : BitVec 8} (key : keyOwn o.key = false)
include key

theorem exec_hostWrite_sector_fault (free : s.hostRefusal o data.length = none) (pos : 1 ≤ data.length) (fits : o.addr.toNat % 128 + data.length ≤ 128)
    (err : s.homeOf (keyVf o.key) o.addr.toNat ⟨false, true⟩ = .error cause) : exec (.hostRmaWrite o data) s = .next
      ((s.walked (keyVf o.key) o.addr.toNat).tellHost (.transportError o.endpoint cause)) := by
  have single := exec_hostWrite_fault (cause := cause) key free
  rw [piecesOf_single pos fits, piecesWalked_single err] at single
  exact single (piecesFault_single err)

theorem exec_hostRead_sector_fault (free : s.hostRefusal o len = none) (pos : 1 ≤ len) (fits : o.addr.toNat % 128 + len ≤ 128)
    (err : s.homeOf (keyVf o.key) o.addr.toNat ⟨true, false⟩ = .error cause) : exec (.hostRmaRead o len) s = .next
      ((s.walked (keyVf o.key) o.addr.toNat).tellHost (.transportError o.endpoint cause)) := by
  have single := exec_hostRead_fault (cause := cause) key free
  rw [piecesOf_single pos fits, piecesWalked_single err] at single
  exact single (piecesFault_single err)

theorem exec_hostWrite_sector (free : s.hostRefusal o data.length = none) (pos : 1 ≤ data.length) (fits : o.addr.toNat % 128 + data.length ≤ 128)
    (other : (s.part (keyVf o.key)).doorbell ≠ some o.addr.toNat) (home : s.homeOf (keyVf o.key) o.addr.toNat ⟨false, true⟩ = .ok (x, y, pa))
    (alone : s.fillWaiters x y pa = []) : exec (.hostRmaWrite o data) s = .next
      (((s.sectorPresent (keyVf o.key) x y pa).homeWrite x y pa data.length (leOfBytes data)).tellHost (.done o.endpoint)) := by
  have same : ((s.sectorPresent (keyVf o.key) x y pa).homeWrite x y pa data.length (leOfBytes data)).partitions = s.partitions :=
    (homeMerge_partitions ..).trans sectorPresent_partitions
  rw [exec_hostWrite_taken free, hostHeld_global key, if_neg Bool.false_ne_true, key, if_neg Bool.false_ne_true, piecesOf_single pos fits,
    piecesFault_single_none home, writePieces_single home alone, doorbell_elsewhere (by rwa [part_of_partitions same])]

theorem exec_hostRead_sector (free : s.hostRefusal o len = none) (pos : 1 ≤ len) (fits : o.addr.toNat % 128 + len ≤ 128)
    (home : s.homeOf (keyVf o.key) o.addr.toNat ⟨true, false⟩ = .ok (x, y, pa)) (alone : s.fillWaiters x y pa = []) :
    let c := (s.sectorPresent (keyVf o.key) x y pa).checkedAt x y pa
    let v := c.homeRead x y pa len
    exec (.hostRmaRead o len) s = .next
      (if v.2 = true then c.tellHost (.transportError o.endpoint 0x07) else c.tellHost (.readData o.endpoint (bytesOfLE len v.1))) := by
  intro c v
  rw [exec_hostRead_taken free, hostHeld_global key, if_neg Bool.false_ne_true, key, if_neg Bool.false_ne_true, piecesOf_single pos fits,
    piecesFault_single_none home, readPieces_single home alone]

end

/-! The obligation. -/

/-- A request of another module that its peer entry admits and whose target hosts a group of the partition goes on with the form of its kind. -/
theorem exec_fabricRequest_forms {s : State} {r : FabricReq} {own : Word}
    (accepted : fabricForm r.kind own = true → exec (.fabricRequest r) s = .next
      (s.send { id := 0, src := .fabric r.module, cls := (fabricShape r.kind).1, kind := (fabricShape r.kind).2.1, ea := own, vf := r.rvf,
                launch := 0, off := 0, prog := false, stage := .sent }))
    (refused : fabricForm r.kind own = false → exec (.fabricRequest r) s = .next (s.toFabric r.module 0x04)) :
    let goes := fun (cls : Machine.Class) (kind : ReqKind) =>
      let q : Req := { id := s.nextId, src := .fabric r.module, cls := cls, kind := kind, ea := own, vf := r.rvf, launch := 0, off := 0, prog := false,
                       stage := .sent }
      { s with nextId := s.nextId + 1, net := s.net ++ [q] }
    (formOk own (fabricShape r.kind).2.2.1 (fabricShape r.kind).2.2.2 = false → Becomes (.fabricRequest r) s (s.toFabric r.module 0x04)) ∧
    (∀ data mask, r.kind = .masked data mask →
      (own.toNat % 16 = 0 → formOk own 16 false = true → Becomes (.fabricRequest r) s (goes .posted (.granule data mask 1))) ∧
      (own.toNat % 16 ≠ 0 → Becomes (.fabricRequest r) s (s.toFabric r.module 0x04))) ∧
    (∀ n, r.kind = .load n → 1 ≤ n → n ≤ 16 → formOk own n false = true → Becomes (.fabricRequest r) s (goes .request (.load n (.one 0 n false)))) ∧
    (∀ bs rel, r.kind = .store bs rel → 1 ≤ bs.length → bs.length ≤ 16 → formOk own bs.length false = true →
      Becomes (.fabricRequest r) s (goes .posted (.store bs.length (BitVec.ofNat 128 (leOfBytes bs)) rel))) ∧
    (∀ v, r.kind = .message v → formOk own 8 true = true → Becomes (.fabricRequest r) s (goes .message (.message v))) := by
  refine ⟨fun form => refused (fabricForm_misplaced form), fun data mask kind => ⟨fun aligned form => ?_, fun misaligned => ?_⟩,
    fun n kind pos small form => ?_, fun bs rel kind pos small form => ?_, fun v kind form => ?_⟩
  · rw [kind, fabricForm_masked, form, aligned] at accepted
    exact accepted rfl
  · refine refused ?_
    rw [kind, fabricForm_masked, beq_false_of_ne misaligned, Bool.and_false]
  · rw [kind, fabricForm_load pos small] at accepted
    exact accepted form
  · rw [kind, fabricForm_store pos small] at accepted
    exact accepted form
  · rw [kind, fabricForm_message] at accepted
    exact accepted form

/-- Settles O54: each clause is the case of `exec` above that its premises choose. -/
theorem outsideRequests : Obligations.OutsideRequests := by
  unfold Obligations.OutsideRequests
  intro s r o data len at_ off cause p entry isLoad admits own fab error goes vf told refused mine write read supported
  have supported_iff : fabricUnsupported r = false ↔ supported := fabricUnsupported_iff r
  have admits_iff : peerAdmits entry r.senderVf (isFabricLoad r.kind) = true ↔ admits := peerAdmits_iff entry r.senderVf (isFabricLoad r.kind)
  refine ⟨fun no => ?_, fun yes no => ?_, fun yes valid adm => ?_, fun no => ⟨?_, ?_⟩, fun yes no => ⟨?_, ?_⟩, fun yes plain rud key => ?_⟩
  · exact exec_fabricRequest_unsupported (eq_true_of_ne_false (mt supported_iff.1 no))
  · exact exec_fabricRequest_stranger (supported_iff.2 yes) (no.imp_right fun no => eq_false_of_ne_true (mt admits_iff.1 no))
  · have sup := supported_iff.2 yes
    have admitted := admits_iff.2 adm
    refine ⟨fun misplaced => ?_, fun placed unhosted => ?_, fun placed hosted => ?_⟩
    · exact (exec_fabricRequest_admitted sup valid admitted).trans (congrArg Host.Outcome.next (if_pos misplaced))
    · exact (exec_fabricRequest_admitted sup valid admitted).trans
        (congrArg Host.Outcome.next ((if_neg (ne_false_of_eq_true placed)).trans (if_pos unhosted)))
    · exact exec_fabricRequest_forms (exec_fabricRequest_goes sup valid admitted placed hosted)
        (exec_fabricRequest_misformed sup valid admitted placed hosted)
  · exact exec_hostWrite_refused (hostRefusal_stranger no)
  · exact exec_hostRead_refused (hostRefusal_stranger no)
  · exact exec_hostWrite_refused (hostRefusal_unsupported yes no)
  · exact exec_hostRead_refused (hostRefusal_unsupported yes no)
  · have free : ∀ n, n ≤ 2 ^ 20 → s.hostRefusal o n = none := fun n short => hostRefusal_none yes plain rud key short
    refine ⟨fun long => exec_hostWrite_refused (hostRefusal_long yes long), fun long => exec_hostRead_refused (hostRefusal_long yes long),
      fun short held => exec_hostWrite_held (free _ short) held, fun short held => exec_hostRead_held (free _ short) held,
      fun own writeLoose readLoose => ?_, fun global => ?_⟩
    · have put : data.length ≤ 2 ^ 20 → ∀ {t}, s.hostPut o data = t → Becomes write s t := fun short t same =>
        (exec_hostWrite_own own (free _ short) writeLoose).trans (congrArg Host.Outcome.next same)
      refine ⟨fun short window => ⟨fun x spot => ?_, fun spot => ?_⟩, fun window short names placed => ⟨fun hosted => ?_, fun hosted size => ?_⟩,
        fun size window form names placed hosted => ?_, fun short spot => ?_⟩
      · exact put short (hostPut_scratch_refused window spot)
      · exact put short (hostPut_scratch window spot)
      · exact put short (hostPut_window_unhosted window names placed hosted)
      · exact put short (hostPut_window_size window names placed hosted size)
      · exact put (by omega) (hostPut_message window names placed hosted size form)
      · exact exec_hostRead_own own (free _ short) readLoose spot
    · intro a need here fails
      refine ⟨fun short fault => exec_hostWrite_fault global (free _ short) fault, fun short fault => exec_hostRead_fault global (free _ short) fault,
        fun pos fits other => ⟨fun err => ?_, fun x y pa home alone => ?_⟩, fun pos fits => ⟨fun err => ?_, fun x y pa home alone => ?_⟩⟩
      · exact exec_hostWrite_sector_fault global (free _ (by omega)) pos fits err
      · exact exec_hostWrite_sector global (free _ (by omega)) pos fits other home alone
      · exact exec_hostRead_sector_fault global (free _ (by omega)) pos fits err
      · exact exec_hostRead_sector global (free _ (by omega)) pos fits home alone

end Sys2Proof.Machine
end
